-- ==== Sys2Proof/Word.lean ====
section
/-! DEFINITION. The words of the machine and the names of its registers: registers are 64 bits,
vector registers 512 bits, lines 128 bytes (spec/00_scope.md R1, spec/10_isa_vector.md R216). -/

namespace Sys2Proof

abbrev Byte := BitVec 8
abbrev Word := BitVec 64
/-- A vector register (R216). -/
abbrev Vec := BitVec 512
/-- The 128 bytes of a line, byte 0 in bits [7:0] (R1, R4). -/
abbrev Line := BitVec 1024
/-- One bit for each byte of a line. -/
abbrev ByteMask := BitVec 128
/-- The number of an x or v register. -/
abbrev RegNo := BitVec 5

/-- A source field with its t bit: t = 0 stalls and t = 1 traps on an empty register (R131). -/
structure Src where
  r : RegNo
  t : Bool
  deriving DecidableEq, Repr

/-- The widths of R134. -/
inductive Width where
  | w8 | w16 | w32 | w64
  deriving DecidableEq, Repr

def Width.bits : Width → Nat
  | .w8 => 8 | .w16 => 16 | .w32 => 32 | .w64 => 64

def Width.bytes : Width → Nat
  | .w8 => 1 | .w16 => 2 | .w32 => 4 | .w64 => 8

/-- A size code of R134: a width and a signedness. -/
structure Size where
  w : Width
  signed : Bool
  deriving DecidableEq, Repr

/-- The rounding codes of R94. -/
inductive Round where
  | dyn | rne | rtz | rdn | rup | sr
  deriving DecidableEq, Repr

/-- The element types of R135. -/
inductive Elem where
  | s8 | n8 | s16 | n16 | s32 | n32 | s64 | n64 | f64 | f32 | bf16 | f16
  | e5m2 | e4m3 | e3m2 | e2m3 | e2m1 | t8 | t6 | s4
  deriving DecidableEq, Repr

/-- The narrow code N of R135. -/
inductive Narrow where
  | e5m2 | e4m3 | e3m2 | e2m3 | e2m1 | t8 | t6 | s8
  deriving DecidableEq, Repr

/-- Scalar float types (R139). -/
inductive FTy where
  | f32 | f64
  deriving DecidableEq, Repr

/-- Vector float types (R144). -/
inductive VTy where
  | f32 | f64 | bf16 | f16
  deriving DecidableEq, Repr

/-- The types of FCVT (R139) and of the atomics (R142). -/
inductive NumTy where
  | s32 | n32 | s64 | n64 | f32 | f64
  deriving DecidableEq, Repr

/-- The operations of the atomics (R142). -/
inductive AtomOp where
  | add | and | or | xor | min | max | swap
  deriving DecidableEq, Repr

/-- Conditions of CMPI (R138). -/
inductive Cond where
  | eq | ne | lt | le | gt | ge
  deriving DecidableEq, Repr

/-- Conditions of BRC (R140). -/
inductive BrCond where
  | eq | ne | lt | ge | lo | hs
  deriving DecidableEq, Repr

/-- Conditions of the float VCMP (R145). -/
inductive VCond where
  | eq | ne | lt | le
  deriving DecidableEq, Repr

/-- The state registers of R138. -/
inductive StateReg where
  | wid | core | clus | die | slot | ptc | ptcskew | fflags | frm | age
  deriving DecidableEq, Repr

/-- The modes of an SRAM bank (R35). -/
inductive BankMode where
  | cache | scratch | fifo
  deriving DecidableEq, Repr

/-- The source types of ACCCVT (R148). -/
inductive AccTy where
  | f32 | s32 | s64
  deriving DecidableEq, Repr

/-- An access of a host processor (R70 HOST, R84): its physical address, width and data, and the host link that the host
directs it over, for device memory (R358; log 22). -/
inductive HostOp where
  | load (pa : BitVec 52) (w : Width) (link : BitVec 1)
  | store (pa : BitVec 52) (w : Width) (v : Word) (link : BitVec 1)
  | rmw (op : AtomOp) (ty : NumTy) (pa : BitVec 52) (v : Word) (link : BitVec 1)
  deriving DecidableEq, Repr

/-- Which entry a full TLB gives up at its three levels (R327; log 17). -/
structure Victims where
  core : Nat
  clus : Nat
  die : Nat
  deriving DecidableEq, Repr

/-- A firmware image (R366): its stages, public key, signature, version and the configuration key's
hash that it carries. -/
structure Image where
  stages : List (List Byte)
  key : List Byte
  signature : List Byte
  version : Nat
  configKeyHash : BitVec 256
  deriving DecidableEq, Repr

/-- A configuration record (R368): minimum version, sequence number, register defaults, key and
signature. -/
structure ConfigRecord where
  bytes : List Byte
  minVersion : Nat
  sequence : Nat
  key : List Byte
  signature : List Byte
  deriving DecidableEq, Repr

/-- The registers of R369 whose write changes the generation. -/
inductive CgReg where
  | cgmem | cgctl | cgrate
  deriving DecidableEq, Repr

/-- The resources that R385 charges correctable errors to. -/
inductive Resource where
  | hbmRow | l2Row | sramRow | dieLane | tuzelLane | hostLane
  deriving DecidableEq, Repr

/-- Where an uncorrectable error strikes (R62, R384 kind 17). -/
inductive ErrorPlace where
  | hbm | l2 (die : BitVec 3) | clusterSram (clus : Nat) | link (die : BitVec 3)
  deriving DecidableEq, Repr

/-- The registers whose write has no behaviour of its own (R315, R321, R326, R337, R345, R353, R382,
R385, R388). `f` is a function 0-512, `die` a die. -/
inductive PlainReg where
  | qbase (f : Nat) | qctl (f : Nat) | crbase (f : Nat) | maxprio (f : Nat)
  | ageq | quant | pdelta | tdir | tdirn
  | ptroot (f : Nat) | trapvec (f : Nat) | trapcfg (f : Nat) | vfEnable (f : Nat)
  | frbase (die : Nat) | frctl (die : Nat) | fflbase (die : Nat) | fflctl (die : Nat)
  | fflput (die : Nat) | migdst (die : Nat)
  | sflbase (die : Nat) | sflctl (die : Nat)
  | erbase | erctl | erhead | erstat | cecfg | pwrcfg
  /-- the governed registers that are read-only (R365) -/
  | frtail (die : Nat) | fflget (die : Nat) | migst (die : Nat) | sflcnt (die : Nat) | ertail | erdrop | pwrst
  deriving DecidableEq, Repr

/-- A register as a write reaches it: through the BAR of a function, 0 for the PF (R315, R381). -/
structure BarReg where
  fn : Nat
  reg : PlainReg
  deriving DecidableEq, Repr

/-- The registers that the outside reads besides (R5, R315, R321, R326, R337, R353, R363, R369, R378). A write-only
register reads 0. -/
inductive OtherReg where
  | qtail (f : Nat) | qhead (f : Nat) | tlbinv (f : Nat) | rinv (f : Nat) | tlbst (f : Nat)
  | frhead (die : Nat) | fres (die : Nat) | migcmd (die : Nat) | sfladd (die : Nat)
  | own | lease | claim | claimst (channel : Nat) | part (k : Nat)
  | cgmem | cgctl | cgrate | cgst
  deriving DecidableEq, Repr

end Sys2Proof
end

