-- ==== Sys2Proof/Syntax.lean ====
section
/-! DEFINITION. The instructions and the indivisible events of the machine: one constructor for each
row of the opcode table (spec/06_encoding.md, spec/95_what_each_step_holds.md). An event's operands
name the unit that acts and carry what the outside world supplies (log 1). -/

namespace Sys2Proof

/-- The instructions of R136 to R149 and the events of R70 and the chapters. -/
inductive Instr where
  /-- ADD (R152). -/
  | add (z : Size) (d : RegNo) (a b : Src)
  /-- ADDS (R152). -/
  | adds (z : Size) (d : RegNo) (a b : Src)
  /-- SUB (R152). -/
  | sub (z : Size) (d : RegNo) (a b : Src)
  /-- MUL (R152). -/
  | mul (z : Size) (d : RegNo) (a b : Src)
  /-- MULH (R152). -/
  | mulh (z : Size) (d : RegNo) (a b : Src)
  /-- DIV (R153). -/
  | div (z : Size) (d : RegNo) (a b : Src)
  /-- REM (R153). -/
  | rem (z : Size) (d : RegNo) (a b : Src)
  /-- NEG (R152). -/
  | neg (z : Size) (d : RegNo) (a : Src)
  /-- AND (R152). -/
  | and (z : Size) (d : RegNo) (a b : Src)
  /-- ANDN (R152). -/
  | andn (z : Size) (d : RegNo) (a b : Src)
  /-- OR (R152). -/
  | or (z : Size) (d : RegNo) (a b : Src)
  /-- XOR (R152). -/
  | xor (z : Size) (d : RegNo) (a b : Src)
  /-- SHL (R154). -/
  | shl (z : Size) (d : RegNo) (a b : Src)
  /-- SHR (R154). -/
  | shr (z : Size) (d : RegNo) (a b : Src)
  /-- ROT (R154). -/
  | rot (z : Size) (d : RegNo) (a b : Src)
  /-- CLZ (R155). -/
  | clz (z : Size) (d : RegNo) (a : Src)
  /-- CTZ (R155). -/
  | ctz (z : Size) (d : RegNo) (a : Src)
  /-- POPC (R155). -/
  | popc (z : Size) (d : RegNo) (a : Src)
  /-- BREV (R155). -/
  | brev (z : Size) (d : RegNo) (a : Src)
  /-- MIN (R152). -/
  | min (z : Size) (d : RegNo) (a b : Src)
  /-- MAX (R152). -/
  | max (z : Size) (d : RegNo) (a b : Src)
  /-- SEL (R152). -/
  | sel (z : Size) (d : RegNo) (a b : Src)
  /-- MOV (R152). -/
  | mov (z : Size) (d : RegNo) (a : Src)
  /-- CMP_EQ (R152). -/
  | cmpEq (z : Size) (d : RegNo) (a b : Src)
  /-- CMP_NE (R152). -/
  | cmpNe (z : Size) (d : RegNo) (a b : Src)
  /-- CMP_LT (R152). -/
  | cmpLt (z : Size) (d : RegNo) (a b : Src)
  /-- CMP_LE (R152). -/
  | cmpLe (z : Size) (d : RegNo) (a b : Src)
  /-- CMP_GT (R152). -/
  | cmpGt (z : Size) (d : RegNo) (a b : Src)
  /-- CMP_GE (R152). -/
  | cmpGe (z : Size) (d : RegNo) (a b : Src)
  /-- ADDI (R156). -/
  | addi (d : RegNo) (a : Src) (e : BitVec 15)
  /-- ANDI (R156). -/
  | andi (d : RegNo) (a : Src) (e : BitVec 15)
  /-- ORI (R156). -/
  | ori (d : RegNo) (a : Src) (e : BitVec 15)
  /-- XORI (R156). -/
  | xori (d : RegNo) (a : Src) (e : BitVec 15)
  /-- SHLI (R156). -/
  | shli (d : RegNo) (a : Src) (n : BitVec 6)
  /-- SHRI_N64 (R156). -/
  | shriN64 (d : RegNo) (a : Src) (n : BitVec 6)
  /-- SHRI_S64 (R156). -/
  | shriS64 (d : RegNo) (a : Src) (n : BitVec 6)
  /-- CMPI (R156). -/
  | cmpi (c : Cond) (unsigned : Bool) (d : RegNo) (a : Src) (e : BitVec 11)
  /-- EXTR (R156). -/
  | extr (signed : Bool) (d : RegNo) (a : Src) (lsb wm1 : BitVec 6)
  /-- INSR (R156). -/
  | insr (d : RegNo) (a : Src) (lsb wm1 : BitVec 6)
  /-- WIDF (R158). -/
  | widf (d : RegNo) (k : BitVec 3)
  /-- RDS (R159). -/
  | rds (d : RegNo) (r : StateReg)
  /-- WRS (R159). -/
  | wrs (r : StateReg) (a : Src)
  /-- LI (R157). -/
  | li (d : RegNo) (lit : BitVec 32)
  /-- LIH (R157). -/
  | lih (d : RegNo) (lit : BitVec 32)
  /-- LEA (R157). -/
  | lea (d : RegNo) (lit : BitVec 32)
  /-- FADD (R163). -/
  | fadd (p : FTy) (rnd : Round) (d : RegNo) (a b : Src)
  /-- FSUB (R163). -/
  | fsub (p : FTy) (rnd : Round) (d : RegNo) (a b : Src)
  /-- FMUL (R163). -/
  | fmul (p : FTy) (rnd : Round) (d : RegNo) (a b : Src)
  /-- FDIV (R163). -/
  | fdiv (p : FTy) (rnd : Round) (d : RegNo) (a b : Src)
  /-- FSQRT (R163). -/
  | fsqrt (p : FTy) (rnd : Round) (d : RegNo) (a : Src)
  /-- FFMA (R163). -/
  | ffma (p : FTy) (rnd : Round) (d : RegNo) (a b : Src)
  /-- FMIN (R164). -/
  | fmin (p : FTy) (d : RegNo) (a b : Src)
  /-- FMAX (R164). -/
  | fmax (p : FTy) (d : RegNo) (a b : Src)
  /-- FCMP_EQ (R164). -/
  | fcmpEq (p : FTy) (d : RegNo) (a b : Src)
  /-- FCMP_LT (R164). -/
  | fcmpLt (p : FTy) (d : RegNo) (a b : Src)
  /-- FCMP_LE (R164). -/
  | fcmpLe (p : FTy) (d : RegNo) (a b : Src)
  /-- FCMP_UN (R164). -/
  | fcmpUn (p : FTy) (d : RegNo) (a b : Src)
  /-- FCLASS (R165). -/
  | fclass (p : FTy) (d : RegNo) (a : Src)
  /-- FCVT (R166). -/
  | fcvt (src dst : NumTy) (rnd : Round) (sat : Bool) (d : RegNo) (a : Src)
  /-- BR (R167). -/
  | br (j : BitVec 26)
  /-- CALL (R169). -/
  | call (j : BitVec 26)
  /-- BRC (R167). -/
  | brc (c : BrCond) (a b : RegNo) (j : BitVec 12)
  /-- LOOPN (R168). -/
  | loopn (a : RegNo) (j : BitVec 12)
  /-- BRI (R167). -/
  | bri (a : Src)
  /-- CALLI (R169). -/
  | calli (a : Src)
  /-- RET (R167). -/
  | ret (a : Src)
  /-- VIF (R171). -/
  | vif (k : BitVec 3)
  /-- VELSE (R171). -/
  | velse
  /-- VEND (R171). -/
  | vend
  /-- NOP (R167). -/
  | nop
  /-- LD (R176). -/
  | ld (z : Size) (d : RegNo) (a : Src) (off : BitVec 12)
  /-- ST (R176). -/
  | st (z : Size) (src : RegNo) (a : Src) (off : BitVec 12)
  /-- LDG (R177). -/
  | ldg (z : Size) (d : RegNo) (a : Src) (off : BitVec 12)
  /-- STS (R177). -/
  | sts (z : Size) (src : RegNo) (a : Src) (off : BitVec 12)
  /-- LDP (R178). -/
  | ldp (z : Size) (d : RegNo) (k : BitVec 3) (a : Src) (off : BitVec 9)
  /-- LDV (R176). -/
  | ldv (v : RegNo) (a : Src) (off : BitVec 12)
  /-- STV (R176). -/
  | stv (v : RegNo) (a : Src) (off : BitVec 12)
  /-- PF (R179). -/
  | pf (a : Src) (off : BitVec 12)
  /-- FLUSH (R179). -/
  | flush (a : Src) (off : BitVec 12)
  /-- INVL (R179). -/
  | invl (a : Src) (off : BitVec 12)
  /-- FENCE_ACQ (R79). -/
  | fenceAcq (a : Src) (off : BitVec 12)
  /-- FENCE_REL (R79). -/
  | fenceRel (a : Src) (off : BitVec 12)
  /-- FENCE_FULL (R79). -/
  | fenceFull (a : Src) (off : BitVec 12)
  /-- MODE (R39). -/
  | mode (bank : BitVec 5) (m : BankMode)
  /-- AMO (R182). -/
  | amo (op : AtomOp) (ty : NumTy) (d : RegNo) (a b : Src)
  /-- CAS (R183). -/
  | cas (ty : NumTy) (d : RegNo) (a b : Src)
  /-- FAMO (R184). -/
  | famo (op : AtomOp) (ty : NumTy) (d : RegNo) (a b : Src)
  /-- RED (R182). -/
  | red (op : AtomOp) (ty : NumTy) (a b : Src)
  /-- FRED_ADD (R185). -/
  | fredAdd (a b : Src)
  /-- FRED_MINMAX (R184). -/
  | fredMinmax (op : AtomOp) (ty : NumTy) (a b : Src)
  /-- VRED (R185). -/
  | vred (ty : NumTy) (a b : Src)
  /-- GET (R188). -/
  | get (z : Size) (d : RegNo) (a : Src)
  /-- PUT (R188). -/
  | put (z : Size) (a b : Src)
  /-- PUTF (R189). -/
  | putf (z : Size) (a b : Src)
  /-- DLG (R191). -/
  | dlg (d : RegNo) (a b : Src)
  /-- DLGN (R191). -/
  | dlgn (a b : Src)
  /-- DRET (R192). -/
  | dret (b : Src)
  /-- SPAWN (R201). -/
  | spawn (a : Src) (lit : BitVec 32)
  /-- SYNC (R203). -/
  | sync (a : Src)
  /-- RETIRE (R19). -/
  | retire
  /-- PUBF (R200). -/
  | pubf (a : Src)
  /-- PUBT (R199). -/
  | pubt (a : Src)
  /-- BIND (R207). -/
  | bind (k : BitVec 4) (a : Src)
  /-- UNBIND (R207). -/
  | unbind (k : BitVec 4)
  /-- JCTR (R198). -/
  | jctr (d : RegNo) (a : Src)
  /-- BAR (R209). -/
  | bar (a : Src)
  /-- BARI (R208). -/
  | bari (a b : Src)
  /-- BARQ (R210). -/
  | barq (d : RegNo) (a : Src)
  /-- DONATE (R214). -/
  | donate (a b : Src)
  /-- TREC (R213). -/
  | trec (d : RegNo) (a b : Src)
  /-- TENQ (R213). -/
  | tenq (a b : Src)
  /-- MSG (R211). -/
  | msg (a : Src) (payload : RegNo) (type : BitVec 8)
  /-- MSGV (R211). -/
  | msgv (a : Src) (payload : RegNo) (type : BitVec 8)
  /-- FPUSH (R215). -/
  | fpush (bank : BitVec 5) (b : Src)
  /-- FPOP (R215). -/
  | fpop (d : RegNo) (bank : BitVec 5)
  /-- VADD (R221). -/
  | vadd (p : VTy) (d : RegNo) (a b : Src) (m : BitVec 3)
  /-- VSUB (R221). -/
  | vsub (p : VTy) (d : RegNo) (a b : Src) (m : BitVec 3)
  /-- VMUL (R221). -/
  | vmul (p : VTy) (d : RegNo) (a b : Src) (m : BitVec 3)
  /-- VDIV (R221). -/
  | vdiv (p : VTy) (d : RegNo) (a b : Src) (m : BitVec 3)
  /-- VMIN (R221). -/
  | vmin (p : VTy) (d : RegNo) (a b : Src) (m : BitVec 3)
  /-- VMAX (R221). -/
  | vmax (p : VTy) (d : RegNo) (a b : Src) (m : BitVec 3)
  /-- VABS (R221). -/
  | vabs (p : VTy) (d : RegNo) (a : Src) (m : BitVec 3)
  /-- VNEG (R221). -/
  | vneg (p : VTy) (d : RegNo) (a : Src) (m : BitVec 3)
  /-- VSQRT (R221). -/
  | vsqrt (p : VTy) (d : RegNo) (a : Src) (m : BitVec 3)
  /-- VRCP (R222). -/
  | vrcp (p : VTy) (d : RegNo) (a : Src) (m : BitVec 3)
  /-- VRSQ (R222). -/
  | vrsq (p : VTy) (d : RegNo) (a : Src) (m : BitVec 3)
  /-- VEXP2 (R222). -/
  | vexp2 (p : VTy) (d : RegNo) (a : Src) (m : BitVec 3)
  /-- VLOG2 (R222). -/
  | vlog2 (p : VTy) (d : RegNo) (a : Src) (m : BitVec 3)
  /-- VSUM (R223). -/
  | vsum (p : VTy) (d : RegNo) (a : Src) (m : BitVec 3)
  /-- VRMAX (R223). -/
  | vrmax (p : VTy) (d : RegNo) (a : Src) (m : BitVec 3)
  /-- VRMIN (R223). -/
  | vrmin (p : VTy) (d : RegNo) (a : Src) (m : BitVec 3)
  /-- VADD_INT (R224). -/
  | vaddInt (w : Width) (d : RegNo) (a b : Src) (m : BitVec 3)
  /-- VSUB_INT (R224). -/
  | vsubInt (w : Width) (d : RegNo) (a b : Src) (m : BitVec 3)
  /-- VMUL_INT (R224). -/
  | vmulInt (w : Width) (d : RegNo) (a b : Src) (m : BitVec 3)
  /-- VMIN_S (R224). -/
  | vminS (w : Width) (d : RegNo) (a b : Src) (m : BitVec 3)
  /-- VMIN_N (R224). -/
  | vminN (w : Width) (d : RegNo) (a b : Src) (m : BitVec 3)
  /-- VMAX_S (R224). -/
  | vmaxS (w : Width) (d : RegNo) (a b : Src) (m : BitVec 3)
  /-- VMAX_N (R224). -/
  | vmaxN (w : Width) (d : RegNo) (a b : Src) (m : BitVec 3)
  /-- VNEG_INT (R224). -/
  | vnegInt (w : Width) (d : RegNo) (a : Src) (m : BitVec 3)
  /-- VSHL (R224). -/
  | vshl (w : Width) (d : RegNo) (a b : Src) (m : BitVec 3)
  /-- VSHR_S (R224). -/
  | vshrS (w : Width) (d : RegNo) (a b : Src) (m : BitVec 3)
  /-- VSHR_N (R224). -/
  | vshrN (w : Width) (d : RegNo) (a b : Src) (m : BitVec 3)
  /-- VSUM_INT (R223). -/
  | vsumInt (w : Width) (d : RegNo) (a : Src) (m : BitVec 3)
  /-- VIMAD (R224). -/
  | vimad (w : Width) (d : RegNo) (a b : Src) (m : BitVec 3)
  /-- VCMP_EQ_INT (R225). -/
  | vcmpEqInt (w : Width) (k : BitVec 3) (a b : Src) (m : BitVec 3)
  /-- VCMP_LT_S (R225). -/
  | vcmpLtS (w : Width) (k : BitVec 3) (a b : Src) (m : BitVec 3)
  /-- VCMP_LT_N (R225). -/
  | vcmpLtN (w : Width) (k : BitVec 3) (a b : Src) (m : BitVec 3)
  /-- VAND (R226). -/
  | vand (d : RegNo) (a b : Src) (m : BitVec 3)
  /-- VOR (R226). -/
  | vor (d : RegNo) (a b : Src) (m : BitVec 3)
  /-- VXOR (R226). -/
  | vxor (d : RegNo) (a b : Src) (m : BitVec 3)
  /-- VNOT (R226). -/
  | vnot (d : RegNo) (a : Src) (m : BitVec 3)
  /-- VSEL (R226). -/
  | vsel (d : RegNo) (a b : Src) (m : BitVec 3)
  /-- VMOV (R226). -/
  | vmov (d : RegNo) (a : Src) (m : BitVec 3)
  /-- MAND (R227). -/
  | mand (k i j : BitVec 3)
  /-- MOR (R227). -/
  | mor (k i j : BitVec 3)
  /-- MXOR (R227). -/
  | mxor (k i j : BitVec 3)
  /-- MNOT (R227). -/
  | mnot (k i : BitVec 3)
  /-- MPOP (R227). -/
  | mpop (d : RegNo) (i : BitVec 3)
  /-- MFIRST (R227). -/
  | mfirst (d : RegNo) (i : BitVec 3)
  /-- MSET (R227). -/
  | mset (k : BitVec 3) (a : Src)
  /-- MMOVX (R227). -/
  | mmovx (d : RegNo) (i : BitVec 3)
  /-- VCMP (R225). -/
  | vcmp (p : VTy) (c : VCond) (k : BitVec 3) (a b : Src) (m : BitVec 3)
  /-- VPERM (R228). -/
  | vperm (w : Width) (d : RegNo) (a b : Src) (m : BitVec 3)
  /-- VSHUF (R228). -/
  | vshuf (w : Width) (d : RegNo) (a b : Src) (m : BitVec 3)
  /-- VBCAST (R228). -/
  | vbcast (w : Width) (d : RegNo) (a : Src) (m : BitVec 3)
  /-- VIOTA (R228). -/
  | viota (w : Width) (d : RegNo) (m : BitVec 3)
  /-- VCMPR (R228). -/
  | vcmpr (w : Width) (d : RegNo) (a : Src) (m : BitVec 3)
  /-- VEXPD (R228). -/
  | vexpd (w : Width) (d : RegNo) (a : Src) (m : BitVec 3)
  /-- VINS (R228). -/
  | vins (w : Width) (d : RegNo) (a b : Src) (m : BitVec 3)
  /-- VEXT (R228). -/
  | vext (w : Width) (d : RegNo) (a b : Src)
  /-- VCVT (R229). -/
  | vcvt (src dst : Elem) (sat : Bool) (d : RegNo) (a : Src) (m : BitVec 3)
  /-- VSCALE (R230). -/
  | vscale (n : Narrow) (e4m3 : Bool) (d : RegNo) (a : Src) (m : BitVec 3)
  /-- VQNT (R231). -/
  | vqnt (n : Narrow) (d : RegNo) (a b : Src) (m : BitVec 3)
  /-- VDQNT (R231). -/
  | vdqnt (n : Narrow) (d : RegNo) (a b : Src) (m : BitVec 3)
  /-- VFMA_F32_F64 (R232). -/
  | vfmaF32F64 (wide : Bool) (d a b c : RegNo) (m : BitVec 2) (rnd : Round)
  /-- VFMA_BF16_F16 (R232). -/
  | vfmaBf16F16 (wide : Bool) (d a b c : RegNo) (m : BitVec 2) (rnd : Round)
  /-- VFMS_F32_F64 (R232). -/
  | vfmsF32F64 (wide : Bool) (d a b c : RegNo) (m : BitVec 2) (rnd : Round)
  /-- VFMS_BF16_F16 (R232). -/
  | vfmsBf16F16 (wide : Bool) (d a b c : RegNo) (m : BitVec 2) (rnd : Round)
  /-- MMA (R237). -/
  | mma (fa fb : BitVec 5) (a b : Src)
  /-- MMAT (R242). -/
  | mmat (fa fb : BitVec 5) (a b : Src)
  /-- MFMT (R236). -/
  | mfmt (a b : Src)
  /-- ACCZ (R246). -/
  | accz (a b : Src)
  /-- ACCRD (R247). -/
  | accrd (d : RegNo) (a : Src)
  /-- MSTAT (R249). -/
  | mstat (d : RegNo) (a : Src)
  /-- ACCCVT (R248). -/
  | acccvt (src : AccTy) (dst : Elem) (sat : Bool) (rnd : Round) (a b : Src)
  /-- CPY (R254). -/
  | cpy (d : RegNo) (a b : Src) (e : RegNo)
  /-- CSTG (R257). -/
  | cstg (a : Src)
  /-- CRING (R253). -/
  | cring (a b : Src)
  /-- NMG (R258). -/
  | nmg (a b : Src) (e : RegNo)
  /-- NMR (R258). -/
  | nmr (a b : Src) (e : RegNo)
  /-- NMC (R258). -/
  | nmc (a b : Src) (e : RegNo)
  /-- DPOST (R260). -/
  | dpost (e : RegNo)
  /-- XSEND (R261). -/
  | xsend (a : Src) (e : RegNo)
  /-- XARM (R262). -/
  | xarm (a : Src)
  /-- XSTAT (R263). -/
  | xstat (d : RegNo) (a : Src)
  /-- ROUTE (R264). -/
  | route (d : RegNo) (a b : Src)
  /-- ICFG (R266). -/
  | icfg (a : Src)
  /-- TRAP (R268). -/
  | trap (e : BitVec 10)
  /-- RTE (R273). -/
  | rte
  /-- HALT (R268). -/
  | halt
  /-- BRK (R268). -/
  | brk (e : BitVec 10)
  /-- RQRD (R273). -/
  | rqrd (d : RegNo) (q : BitVec 4) (w : BitVec 6)
  /-- RQWR (R273). -/
  | rqwr (a : Src) (q : BitVec 4) (w : BitVec 6)
  /-- RQDEL (R273). -/
  | rqdel (q : BitVec 4)
  /-- TLBI (R274). -/
  | tlbi (a : Src)
  /-- REGI (R274). -/
  | regi (a : Src)
  /-- ILLEGAL_INSTRUCTION (R150). -/
  | illegalInstruction (w : BitVec 32)
  /-- MESSAGE_ARRIVAL (R11). -/
  | messageArrival (i : Nat)
  /-- ACTIVATION (R12). -/
  | activation (slot : Nat)
  /-- SEED_ACTIVATION (R32). -/
  | seedActivation (slot launch : Nat) (wid : Word)
  /-- PICK_WORK (R20). -/
  | pickWork (slot : Nat)
  /-- DEQUE_SPILL (R18). -/
  | dequeSpill (core : Nat)
  /-- DEQUE_REFILL (R18). -/
  | dequeRefill (core : Nat)
  /-- STEAL_BACKOFF_EXPIRY (R25). -/
  | stealBackoffExpiry (core : Nat)
  /-- STEAL_PROBE (R26). -/
  | stealProbe (core : Nat)
  /-- STEAL_MOVE (R27). -/
  | stealMove (core : Nat)
  /-- JOIN_DECREMENT (R21). -/
  | joinDecrement (i : Nat)
  /-- PARK_MOVE (R204). -/
  | parkMove (i : Nat)
  /-- BARRIER_ARRIVAL (R209). -/
  | barrierArrival (i : Nat)
  /-- DLG_REPLY (R192). -/
  | dlgReply (i : Nat)
  /-- DONATION_INTAKE (R322). -/
  | donationIntake (sender : BitVec 3) (task : BitVec 128)
  /-- DONATION_WAIT_EXPIRY (R322). -/
  | donationWaitExpiry (i : Nat)
  /-- DRAIN (R70). -/
  | drain (core h : Nat)
  /-- FILL (R70). -/
  | fill (clus line : Nat)
  /-- EVICT (R70). -/
  | evict (core line : Nat)
  /-- HOP (R70). -/
  | hop (link : Nat)
  /-- INGRESS (R70). -/
  | ingress (link h : Nat)
  /-- BIACK (R70). -/
  | biack (line p : Nat)
  /-- HOSTW (R70). -/
  | hostw (p : Nat)
  /-- HOST (R70). -/
  | host (op : HostOp)
  /-- ENG (R80). -/
  | eng (e i : Nat)
  /-- EDGE (R70). -/
  | edge (slot : Nat)
  /-- MODE_COMPLETE (R40). -/
  | modeComplete (clus bank : Nat)
  /-- TRANSLATION_WALK_DONE (R175). -/
  | translationWalkDone (slot seq : Nat) (victim : Victims)
  /-- SCHEDULE_ENTRY_START (R257). -/
  | scheduleEntryStart (clus : Nat)
  /-- NEAR_MEMORY_EXEC (R64). -/
  | nearMemoryExec (e : Nat)
  /-- MATRIX_REQUEST_SERVE (R241). -/
  | matrixRequestServe (clus : Nat)
  /-- COALESCING_EMIT (R244). -/
  | coalescingEmit (core : Nat)
  /-- CENTROID_POST (R370). -/
  | centroidPost (i : Nat)
  /-- ROUND_DEADLINE_EXPIRY (R370). -/
  | roundDeadlineExpiry
  /-- CALENDAR_ARRIVAL (R374). -/
  | calendarArrival (die : Nat)
  /-- PHASE_START (R259). -/
  | phaseStart (die : Nat)
  /-- PHASE_END (R261). -/
  | phaseEnd (die : Nat)
  /-- INGRESS_ROW (R267). -/
  | ingressRow (die endpoint : Nat)
  /-- EXCHANGE_LINK_FAILURE (R261). -/
  | exchangeLinkFailure (die endpoint bytes : Nat)
  /-- HEARTBEAT_TIMER (R376). -/
  | heartbeatTimer
  /-- CENTROID_TAKEOVER (R376). -/
  | centroidTakeover (pkg : BitVec 3) (iod : Bool)
  /-- GENERATION_CHANGE (R377). -/
  | generationChange (die : Nat) (gen : BitVec 32)
  /-- GNOMON_EXCHANGE (R375). -/
  | gnomonExchange (die : Nat) (t1 t2 t3 t4 : Word) (pkgSkew grpSkew : BitVec 16)
  /-- QTAIL_DOORBELL (R315). -/
  | qtailDoorbell (f : Nat) (tail : BitVec 32)
  /-- LAUNCH_ENTRY_TAKE (R315). -/
  | launchEntryTake (f : Nat)
  /-- LAUNCH_COMPLETE (R313). -/
  | launchComplete (launch : Nat)
  /-- LAUNCH_TIMEOUT (R313). -/
  | launchTimeout (launch : Nat)
  /-- CLUSTER_GRANT (R318). -/
  | clusterGrant (clus : Nat)
  /-- AGEING_STEP (R318). -/
  | ageingStep (launch : Nat)
  /-- QUANTUM_EXPIRY (R318). -/
  | quantumExpiry (clus : Nat)
  /-- PREEMPT (R319). -/
  | preempt (launch : Nat)
  /-- CLUSTER_SAVE (R356). -/
  | clusterSave (clus : Nat)
  /-- CLUSTER_RESTORE (R356). -/
  | clusterRestore (clus : Nat)
  /-- CLUSTER_LAUNCH_START (R317). -/
  | clusterLaunchStart (clus : Nat)
  /-- TASK_ACTIVATION (R321). -/
  | taskActivation (slot : Nat)
  /-- TLBINV (R326). -/
  | tlbinv (f : Nat) (value : Word)
  /-- RINV (R326). -/
  | rinv (f : Nat) (value : Word)
  /-- SHOOTDOWN_ACK (R328). -/
  | shootdownAck (i die : Nat)
  /-- MIG_WALK_RETRY (R328). -/
  | migWalkRetry (slot seq : Nat)
  /-- MIG_TIMEOUT (R328). -/
  | migTimeout (slot seq : Nat)
  /-- PAGE_FAULT (R334). -/
  | pageFault (die : Nat)
  /-- FRES_RETRY (R336). -/
  | fresRetry (die : Nat) (record : BitVec 12) (who : BitVec 16)
  /-- FRES_KILL (R336). -/
  | fresKill (die : Nat) (record : BitVec 12) (who : BitVec 16)
  /-- MIGCMD (R339). -/
  | migcmd (die : Nat) (value : Word) (who : BitVec 16)
  /-- MIGRATION_COMPLETE (R339). -/
  | migrationComplete (die : Nat)
  /-- TRAP_TAKE (R344). -/
  | trapTake (slot : Nat)
  /-- STAGING_FILL (R351). -/
  | stagingFill (core : Nat)
  /-- CONTEXT_SWAP (R351). -/
  | contextSwap (core : Nat)
  /-- CONTEXT_SPILL (R351). -/
  | contextSpill (core : Nat)
  /-- SFLADD (R353). -/
  | sfladd (die : Nat) (value : Word) (who : BitVec 16)
  /-- HOST_SNOOP (R359). -/
  | hostSnoop (line p : Nat)
  /-- BISNP_TIMEOUT (R361). -/
  | bisnpTimeout (p : Nat)
  /-- HOST_LINK_DOWN (R361). -/
  | hostLinkDown (p : Nat)
  /-- DIE_POWER_GATE (R362). -/
  | diePowerGate (die : Nat)
  /-- DIE_WARM_RESET (R362). -/
  | dieWarmReset (die : Nat)
  /-- DIE_FATAL_RESET (R362). -/
  | dieFatalReset (die : Nat)
  /-- LINKWAKE_MAX_EXPIRY (R362). -/
  | linkwakeMaxExpiry (link : Nat)
  /-- DIEDEAD_TMO_EXPIRY (R362). -/
  | diedeadTmoExpiry (die : Nat)
  /-- CLAIM (R364). -/
  | claim (value : Word) (channel : Nat)
  /-- LEASE_EXPIRY (R364). -/
  | leaseExpiry
  /-- SECURE_BOOT (R366). -/
  | secureBoot
  /-- RECOVERY_IMAGE_WRITE (R366). -/
  | recoveryImageWrite (slotB : Bool) (image : Image)
  /-- ATTESTATION_REPORT (R367). -/
  | attestationReport (nonce : BitVec 256)
  /-- CONFIG_RECORD_REPLACE (R368). -/
  | configRecordReplace (record : ConfigRecord) (who : BitVec 16)
  /-- CG_CONFIG_WRITE (R369). -/
  | cgConfigWrite (reg : CgReg) (value : Word) (who : BitVec 16)
  /-- PART_WRITE (R379). -/
  | partWrite (k : BitVec 6) (value : Word) (who : BitVec 16)
  /-- PARTITION_CHANGE (R379). -/
  | partitionChange (k : BitVec 6)
  /-- CORRECTABLE_ERROR (R385). -/
  | correctableError (kind : Resource) (die address : Nat)
  /-- ROW_REMAP (R386). -/
  | rowRemap (i : Nat)
  /-- LANE_RETIRE (R387). -/
  | laneRetire (link : Nat)
  /-- LINK_DOWN (R387). -/
  | linkDown (link : Nat)
  /-- UNCORRECTABLE_ERROR (R62). -/
  | uncorrectableError (place : ErrorPlace) (line : Nat)
  /-- GOVERNOR_TICK (R388). -/
  | governorTick (power : BitVec 12) (temp : BitVec 10)
  /-- REGISTER_WRITE (R365). -/
  | registerWrite (reg : BarReg) (value : Word) (who : BitVec 16)
  /-- FABRIC_PORT_ATOMIC (R55). -/
  | fabricPortAtomic (port : Nat)
  /-- DIE_LINK_TRAINED (R362). -/
  | dieLinkTrained (link : Nat)
  /-- HOST_LINK_WARM_RESET (R361). -/
  | hostLinkWarmReset (p : Nat)
  /-- FAULT_RING_HEAD_WRITE (R334). -/
  | faultRingHeadWrite (die : Nat) (value : Word) (who : BitVec 16)
  /-- FAULT_UNIT_ENABLE (R337). -/
  | faultUnitEnable (die : Nat) (value : Word) (who : BitVec 16)
  /-- SAVE_FRAME_STACK_ENABLE (R354). -/
  | saveFrameStackEnable (die : Nat) (value : Word) (who : BitVec 16)
  deriving DecidableEq, Repr

end Sys2Proof
end

