-- ==== Sys2Proof/WellFormed.lean ====
section
/-! DEFINITION. Which instructions the encodings of spec/06_encoding.md admit (R134 to R149): every
combination these checks refuse is an illegal word (R150). -/

namespace Sys2Proof

def NumTy.isFloat : NumTy → Bool
  | .f32 | .f64 => true
  | _ => false

def NumTy.bits : NumTy → Nat
  | .s32 | .n32 | .f32 => 32
  | .s64 | .n64 | .f64 => 64

def NumTy.bytes : NumTy → Nat
  | .s32 | .n32 | .f32 => 4
  | .s64 | .n64 | .f64 => 8

def NumTy.signed : NumTy → Bool
  | .n32 | .n64 => false
  | _ => true

/-- AMO and RED (R142): integer types, the unsigned codes only with MIN and MAX. -/
def amoLegal (op : AtomOp) (ty : NumTy) : Bool :=
  !ty.isFloat && (ty.signed || op == .min || op == .max)

/-- FAMO (R142): ADD, MIN, MAX and SWAP on float types. -/
def famoLegal (op : AtomOp) (ty : NumTy) : Bool :=
  ty.isFloat && (op == .add || op == .min || op == .max || op == .swap)

/-- A bank number is 0 to 23 (R141, R143, R148). -/
def bankLegal (b : BitVec 5) : Bool := b.toNat < 24

/-- What the encodings admit beyond the types of the operands. -/
def Instr.wf : Instr → Bool
  | .add z .. | .sub z .. | .mul z .. | .neg z .. | .and z .. | .andn z .. | .or z .. | .xor z ..
  | .shl z .. | .rot z .. | .clz z .. | .ctz z .. | .popc z .. | .brev z .. | .sel z .. | .mov z ..
  | .cmpEq z .. | .cmpNe z .. | .st z .. | .sts z .. | .put z .. | .putf z .. => z.signed
  | .extr _ _ _ lsb wm1 | .insr _ _ lsb wm1 => lsb.toNat + wm1.toNat + 1 ≤ 64
  | .widf _ k => k.toNat ≤ 5
  | .fcvt src dst .. => (src.isFloat || dst.isFloat) && src != dst
  | .mode bank _ => bankLegal bank
  | .amo op ty .. => amoLegal op ty
  | .red op ty .. => amoLegal op ty && op != .swap
  | .cas ty .. => ty == .s32 || ty == .s64
  | .famo op ty .. => famoLegal op ty
  | .fredMinmax op ty .. => ty.isFloat && (op == .min || op == .max)
  | .vred ty .. => ty == .s32 || ty == .s64 || ty == .f32
  | .msg _ _ ty | .msgv _ _ ty => 0x10 ≤ ty.toNat
  | .fpush bank _ | .fpop _ bank => bankLegal bank
  | .vcvt src dst .. => src != dst
  | .mma fa fb .. | .mmat fa fb .. => bankLegal fa && bankLegal fb
  | .dpost e => e.toNat % 2 == 0
  | .rqrd _ _ w | .rqwr _ _ w => w.toNat < 16
  | _ => true

end Sys2Proof
end

