-- ==== Sys2Proof/Decode.lean ====
section
/-! DEFINITION. Decoding and encoding of instruction words (spec/06_encoding.md R127 to R150). The
decoder is total on words and names why it refuses; the encoder is written from the same tables. -/

namespace Sys2Proof

/-- Why a word is no instruction (R150). -/
inductive Reject where
  /-- major 0x00 -/
  | majorZero
  /-- a major that R136 reserves, the header's major included -/
  | reservedMajor
  /-- an unassigned func, cond, sz or sub-field value -/
  | unassigned
  /-- a nonzero reserved field or unused t bit -/
  | reservedField
  /-- an illegal code or combination -/
  | illegalCombination
  /-- an L-format instruction whose literal lies beyond the block (R130) -/
  | literalMissing
  deriving DecidableEq, Repr

/-! Codes. -/

def Width.code : Width → BitVec 2
  | .w8 => 0 | .w16 => 1 | .w32 => 2 | .w64 => 3

def Width.ofCode (c : BitVec 2) : Width :=
  match c.toNat with
  | 0 => .w8 | 1 => .w16 | 2 => .w32 | _ => .w64

/-- The size code (R134). -/
def Size.code (z : Size) : BitVec 3 := z.w.code ++ BitVec.ofBool z.signed

def Size.ofCode (c : BitVec 3) : Size := ⟨Width.ofCode (c.extractLsb' 1 2), c.extractLsb' 0 1 == 1#1⟩

def Round.code : Round → BitVec 3
  | .dyn => 0
  | .rne => 1
  | .rtz => 2
  | .rdn => 3
  | .rup => 4
  | .sr => 5

def Round.ofCode (c : BitVec 3) : Option Round :=
  match c.toNat with
  | 0 => some .dyn
  | 1 => some .rne
  | 2 => some .rtz
  | 3 => some .rdn
  | 4 => some .rup
  | 5 => some .sr
  | _ => none

def Elem.code : Elem → BitVec 5
  | .s8 => 0
  | .n8 => 1
  | .s16 => 2
  | .n16 => 3
  | .s32 => 4
  | .n32 => 5
  | .s64 => 6
  | .n64 => 7
  | .f64 => 8
  | .f32 => 9
  | .bf16 => 10
  | .f16 => 11
  | .e5m2 => 12
  | .e4m3 => 13
  | .e3m2 => 14
  | .e2m3 => 15
  | .e2m1 => 16
  | .t8 => 17
  | .t6 => 18
  | .s4 => 19

def Elem.ofCode (c : BitVec 5) : Option Elem :=
  match c.toNat with
  | 0 => some .s8
  | 1 => some .n8
  | 2 => some .s16
  | 3 => some .n16
  | 4 => some .s32
  | 5 => some .n32
  | 6 => some .s64
  | 7 => some .n64
  | 8 => some .f64
  | 9 => some .f32
  | 10 => some .bf16
  | 11 => some .f16
  | 12 => some .e5m2
  | 13 => some .e4m3
  | 14 => some .e3m2
  | 15 => some .e2m3
  | 16 => some .e2m1
  | 17 => some .t8
  | 18 => some .t6
  | 19 => some .s4
  | _ => none

def Narrow.code : Narrow → BitVec 3
  | .e5m2 => 0
  | .e4m3 => 1
  | .e3m2 => 2
  | .e2m3 => 3
  | .e2m1 => 4
  | .t8 => 5
  | .t6 => 6
  | .s8 => 7

def Narrow.ofCode (c : BitVec 3) : Option Narrow :=
  match c.toNat with
  | 0 => some .e5m2
  | 1 => some .e4m3
  | 2 => some .e3m2
  | 3 => some .e2m3
  | 4 => some .e2m1
  | 5 => some .t8
  | 6 => some .t6
  | 7 => some .s8
  | _ => none

def FTy.code : FTy → BitVec 1
  | .f32 => 0
  | .f64 => 1

def FTy.ofCode (c : BitVec 1) : Option FTy :=
  match c.toNat with
  | 0 => some .f32
  | 1 => some .f64
  | _ => none

def VTy.code : VTy → BitVec 2
  | .f32 => 0
  | .f64 => 1
  | .bf16 => 2
  | .f16 => 3

def VTy.ofCode (c : BitVec 2) : Option VTy :=
  match c.toNat with
  | 0 => some .f32
  | 1 => some .f64
  | 2 => some .bf16
  | 3 => some .f16
  | _ => none

def NumTy.code : NumTy → BitVec 3
  | .s32 => 0
  | .n32 => 1
  | .s64 => 2
  | .n64 => 3
  | .f32 => 4
  | .f64 => 5

def NumTy.ofCode (c : BitVec 3) : Option NumTy :=
  match c.toNat with
  | 0 => some .s32
  | 1 => some .n32
  | 2 => some .s64
  | 3 => some .n64
  | 4 => some .f32
  | 5 => some .f64
  | _ => none

def AtomOp.code : AtomOp → BitVec 3
  | .add => 0
  | .and => 1
  | .or => 2
  | .xor => 3
  | .min => 4
  | .max => 5
  | .swap => 6

def AtomOp.ofCode (c : BitVec 3) : Option AtomOp :=
  match c.toNat with
  | 0 => some .add
  | 1 => some .and
  | 2 => some .or
  | 3 => some .xor
  | 4 => some .min
  | 5 => some .max
  | 6 => some .swap
  | _ => none

def Cond.code : Cond → BitVec 3
  | .eq => 0
  | .ne => 1
  | .lt => 2
  | .le => 3
  | .gt => 4
  | .ge => 5

def Cond.ofCode (c : BitVec 3) : Option Cond :=
  match c.toNat with
  | 0 => some .eq
  | 1 => some .ne
  | 2 => some .lt
  | 3 => some .le
  | 4 => some .gt
  | 5 => some .ge
  | _ => none

def BrCond.code : BrCond → BitVec 4
  | .eq => 0
  | .ne => 1
  | .lt => 2
  | .ge => 3
  | .lo => 4
  | .hs => 5

def BrCond.ofCode (c : BitVec 4) : Option BrCond :=
  match c.toNat with
  | 0 => some .eq
  | 1 => some .ne
  | 2 => some .lt
  | 3 => some .ge
  | 4 => some .lo
  | 5 => some .hs
  | _ => none

def VCond.code : VCond → BitVec 2
  | .eq => 0
  | .ne => 1
  | .lt => 2
  | .le => 3

def VCond.ofCode (c : BitVec 2) : Option VCond :=
  match c.toNat with
  | 0 => some .eq
  | 1 => some .ne
  | 2 => some .lt
  | 3 => some .le
  | _ => none

def StateReg.code : StateReg → BitVec 5
  | .wid => 0
  | .core => 1
  | .clus => 2
  | .die => 3
  | .slot => 4
  | .ptc => 5
  | .ptcskew => 6
  | .fflags => 7
  | .frm => 8
  | .age => 9

def StateReg.ofCode (c : BitVec 5) : Option StateReg :=
  match c.toNat with
  | 0 => some .wid
  | 1 => some .core
  | 2 => some .clus
  | 3 => some .die
  | 4 => some .slot
  | 5 => some .ptc
  | 6 => some .ptcskew
  | 7 => some .fflags
  | 8 => some .frm
  | 9 => some .age
  | _ => none

def BankMode.code : BankMode → BitVec 2
  | .cache => 0
  | .scratch => 1
  | .fifo => 2

def BankMode.ofCode (c : BitVec 2) : Option BankMode :=
  match c.toNat with
  | 0 => some .cache
  | 1 => some .scratch
  | 2 => some .fifo
  | _ => none

def AccTy.code : AccTy → BitVec 5
  | .f32 => 0
  | .s32 => 1
  | .s64 => 2

def AccTy.ofCode (c : BitVec 5) : Option AccTy :=
  match c.toNat with
  | 0 => some .f32
  | 1 => some .s32
  | 2 => some .s64
  | _ => none

/-! The formats of R132. `Format.A.of` reads the fields of a word and `Format.A.word` lays them out below a
major opcode; `W` is the VF format. -/

/-- The major opcode (R127). -/
def major (w : BitVec 32) : BitVec 6 := w.extractLsb' 26 6

structure Format.A where
  d : BitVec 5
  a : BitVec 5
  ta : BitVec 1
  b : BitVec 5
  tb : BitVec 1
  func : BitVec 9
  deriving DecidableEq, Repr

def Format.A.of (w : BitVec 32) : Format.A :=
  ⟨w.extractLsb' 21 5, w.extractLsb' 16 5, w.extractLsb' 15 1, w.extractLsb' 10 5, w.extractLsb' 9 1, w.extractLsb' 0 9⟩

def Format.A.word (o : BitVec 6) (f : Format.A) : BitVec 32 :=
  o ++ f.d ++ f.a ++ f.ta ++ f.b ++ f.tb ++ f.func

structure Format.I where
  d : BitVec 5
  a : BitVec 5
  ta : BitVec 1
  imm : BitVec 15
  deriving DecidableEq, Repr

def Format.I.of (w : BitVec 32) : Format.I :=
  ⟨w.extractLsb' 21 5, w.extractLsb' 16 5, w.extractLsb' 15 1, w.extractLsb' 0 15⟩

def Format.I.word (o : BitVec 6) (f : Format.I) : BitVec 32 :=
  o ++ f.d ++ f.a ++ f.ta ++ f.imm

structure Format.M where
  d : BitVec 5
  a : BitVec 5
  ta : BitVec 1
  sz : BitVec 3
  off : BitVec 12
  deriving DecidableEq, Repr

def Format.M.of (w : BitVec 32) : Format.M :=
  ⟨w.extractLsb' 21 5, w.extractLsb' 16 5, w.extractLsb' 15 1, w.extractLsb' 12 3, w.extractLsb' 0 12⟩

def Format.M.word (o : BitVec 6) (f : Format.M) : BitVec 32 :=
  o ++ f.d ++ f.a ++ f.ta ++ f.sz ++ f.off

structure Format.B where
  cond : BitVec 4
  a : BitVec 5
  b : BitVec 5
  disp : BitVec 12
  deriving DecidableEq, Repr

def Format.B.of (w : BitVec 32) : Format.B :=
  ⟨w.extractLsb' 22 4, w.extractLsb' 17 5, w.extractLsb' 12 5, w.extractLsb' 0 12⟩

def Format.B.word (o : BitVec 6) (f : Format.B) : BitVec 32 :=
  o ++ f.cond ++ f.a ++ f.b ++ f.disp

structure Format.J where
  disp : BitVec 26
  deriving DecidableEq, Repr

def Format.J.of (w : BitVec 32) : Format.J :=
  ⟨w.extractLsb' 0 26⟩

def Format.J.word (o : BitVec 6) (f : Format.J) : BitVec 32 :=
  o ++ f.disp

structure Format.V where
  d : BitVec 5
  a : BitVec 5
  ta : BitVec 1
  b : BitVec 5
  tb : BitVec 1
  m : BitVec 3
  func : BitVec 6
  deriving DecidableEq, Repr

def Format.V.of (w : BitVec 32) : Format.V :=
  ⟨w.extractLsb' 21 5, w.extractLsb' 16 5, w.extractLsb' 15 1, w.extractLsb' 10 5, w.extractLsb' 9 1, w.extractLsb' 6 3, w.extractLsb' 0 6⟩

def Format.V.word (o : BitVec 6) (f : Format.V) : BitVec 32 :=
  o ++ f.d ++ f.a ++ f.ta ++ f.b ++ f.tb ++ f.m ++ f.func

structure Format.W where
  d : BitVec 5
  a : BitVec 5
  b : BitVec 5
  c : BitVec 5
  w : BitVec 1
  m : BitVec 2
  r : BitVec 3
  deriving DecidableEq, Repr

def Format.W.of (w : BitVec 32) : Format.W :=
  ⟨w.extractLsb' 21 5, w.extractLsb' 16 5, w.extractLsb' 11 5, w.extractLsb' 6 5, w.extractLsb' 5 1, w.extractLsb' 3 2, w.extractLsb' 0 3⟩

def Format.W.word (o : BitVec 6) (f : Format.W) : BitVec 32 :=
  o ++ f.d ++ f.a ++ f.b ++ f.c ++ f.w ++ f.m ++ f.r

structure Format.X where
  d : BitVec 5
  a : BitVec 5
  ta : BitVec 1
  b : BitVec 5
  tb : BitVec 1
  e : BitVec 5
  func : BitVec 4
  deriving DecidableEq, Repr

def Format.X.of (w : BitVec 32) : Format.X :=
  ⟨w.extractLsb' 21 5, w.extractLsb' 16 5, w.extractLsb' 15 1, w.extractLsb' 10 5, w.extractLsb' 9 1, w.extractLsb' 4 5, w.extractLsb' 0 4⟩

def Format.X.word (o : BitVec 6) (f : Format.X) : BitVec 32 :=
  o ++ f.d ++ f.a ++ f.ta ++ f.b ++ f.tb ++ f.e ++ f.func

structure Format.S where
  d : BitVec 5
  a : BitVec 5
  ta : BitVec 1
  func : BitVec 5
  imm : BitVec 10
  deriving DecidableEq, Repr

def Format.S.of (w : BitVec 32) : Format.S :=
  ⟨w.extractLsb' 21 5, w.extractLsb' 16 5, w.extractLsb' 15 1, w.extractLsb' 10 5, w.extractLsb' 0 10⟩

def Format.S.word (o : BitVec 6) (f : Format.S) : BitVec 32 :=
  o ++ f.d ++ f.a ++ f.ta ++ f.func ++ f.imm

structure Format.L where
  d : BitVec 5
  a : BitVec 5
  ta : BitVec 1
  func : BitVec 15
  deriving DecidableEq, Repr

def Format.L.of (w : BitVec 32) : Format.L :=
  ⟨w.extractLsb' 21 5, w.extractLsb' 16 5, w.extractLsb' 15 1, w.extractLsb' 0 15⟩

def Format.L.word (o : BitVec 6) (f : Format.L) : BitVec 32 :=
  o ++ f.d ++ f.a ++ f.ta ++ f.func

/-- A source field with its t bit. -/
def src (r : RegNo) (t : BitVec 1) : Src := ⟨r, t == 1#1⟩

def Src.tb (s : Src) : BitVec 1 := BitVec.ofBool s.t

/-- The instruction if the fields it does not use are zero (R132). -/
def need (c : Bool) (i : Instr) : Except Reject Instr := if c then .ok i else .error .reservedField

/-- What comes next where the fields that an instruction does not use are zero; the word alone decides this, before its
literal is fetched (R132, R150). -/
def must (c : Bool) (k : Except Reject Instr) : Except Reject Instr := if c then k else .error .reservedField

/-- A code that may be illegal (R150). -/
def code {α : Type} (c : Option α) (k : α → Except Reject Instr) : Except Reject Instr :=
  match c with
  | some v => k v
  | none => .error .illegalCombination

/-- Major 0x01 (R137). -/
def decInt (f : Format.A) : Except Reject Instr :=
  let z := Size.ofCode (f.func.extractLsb' 6 3)
  match (f.func.extractLsb' 0 6).toNat with
  | 0 => .ok (.add z f.d (src f.a f.ta) (src f.b f.tb))
  | 1 => .ok (.adds z f.d (src f.a f.ta) (src f.b f.tb))
  | 2 => .ok (.sub z f.d (src f.a f.ta) (src f.b f.tb))
  | 3 => .ok (.mul z f.d (src f.a f.ta) (src f.b f.tb))
  | 4 => .ok (.mulh z f.d (src f.a f.ta) (src f.b f.tb))
  | 5 => .ok (.div z f.d (src f.a f.ta) (src f.b f.tb))
  | 6 => .ok (.rem z f.d (src f.a f.ta) (src f.b f.tb))
  | 7 => need (f.b == 0 && f.tb == 0) (.neg z f.d (src f.a f.ta))
  | 8 => .ok (.and z f.d (src f.a f.ta) (src f.b f.tb))
  | 9 => .ok (.andn z f.d (src f.a f.ta) (src f.b f.tb))
  | 10 => .ok (.or z f.d (src f.a f.ta) (src f.b f.tb))
  | 11 => .ok (.xor z f.d (src f.a f.ta) (src f.b f.tb))
  | 12 => .ok (.shl z f.d (src f.a f.ta) (src f.b f.tb))
  | 13 => .ok (.shr z f.d (src f.a f.ta) (src f.b f.tb))
  | 14 => .ok (.rot z f.d (src f.a f.ta) (src f.b f.tb))
  | 15 => need (f.b == 0 && f.tb == 0) (.clz z f.d (src f.a f.ta))
  | 16 => need (f.b == 0 && f.tb == 0) (.ctz z f.d (src f.a f.ta))
  | 17 => need (f.b == 0 && f.tb == 0) (.popc z f.d (src f.a f.ta))
  | 18 => need (f.b == 0 && f.tb == 0) (.brev z f.d (src f.a f.ta))
  | 19 => .ok (.min z f.d (src f.a f.ta) (src f.b f.tb))
  | 20 => .ok (.max z f.d (src f.a f.ta) (src f.b f.tb))
  | 21 => .ok (.sel z f.d (src f.a f.ta) (src f.b f.tb))
  | 22 => need (f.b == 0 && f.tb == 0) (.mov z f.d (src f.a f.ta))
  | 23 => .ok (.cmpEq z f.d (src f.a f.ta) (src f.b f.tb))
  | 24 => .ok (.cmpNe z f.d (src f.a f.ta) (src f.b f.tb))
  | 25 => .ok (.cmpLt z f.d (src f.a f.ta) (src f.b f.tb))
  | 26 => .ok (.cmpLe z f.d (src f.a f.ta) (src f.b f.tb))
  | 27 => .ok (.cmpGt z f.d (src f.a f.ta) (src f.b f.tb))
  | 28 => .ok (.cmpGe z f.d (src f.a f.ta) (src f.b f.tb))
  | _ => .error .unassigned

/-- Major 0x06 (R138). -/
def decShift (f : Format.I) : Except Reject Instr :=
  let n := f.imm.extractLsb' 0 6
  if f.imm.extractLsb' 8 7 != 0 then .error .reservedField
  else match (f.imm.extractLsb' 6 2).toNat with
  | 0 => .ok (.shli f.d (src f.a f.ta) n)
  | 1 => .ok (.shriN64 f.d (src f.a f.ta) n)
  | 2 => .ok (.shriS64 f.d (src f.a f.ta) n)
  | _ => .error .unassigned

/-- Major 0x07 (R138). -/
def decCmpi (f : Format.I) : Except Reject Instr :=
  code (Cond.ofCode (f.imm.extractLsb' 12 3)) fun c =>
    .ok (.cmpi c (f.imm.extractLsb' 11 1 == 1#1) f.d (src f.a f.ta) (f.imm.extractLsb' 0 11))

/-- Major 0x08 (R138). -/
def decField (f : Format.I) : Except Reject Instr :=
  let l := f.imm.extractLsb' 0 6
  let w := f.imm.extractLsb' 6 6
  if f.imm.extractLsb' 12 1 != 0 then .error .reservedField
  else if f.imm.extractLsb' 14 1 == 0 then .ok (.extr (f.imm.extractLsb' 13 1 == 1#1) f.d (src f.a f.ta) l w)
  else need (f.imm.extractLsb' 13 1 == 0) (.insr f.d (src f.a f.ta) l w)

/-- Major 0x09 (R138). -/
def decWidf (f : Format.I) : Except Reject Instr :=
  need (f.a == 0 && f.ta == 0 && f.imm.extractLsb' 3 12 == 0) (.widf f.d (f.imm.extractLsb' 0 3))

/-- Major 0x0A (R138). -/
def decRds (f : Format.I) : Except Reject Instr :=
  code (StateReg.ofCode (f.imm.extractLsb' 0 5)) fun r =>
    need (f.a == 0 && f.ta == 0 && f.imm.extractLsb' 5 10 == 0) (.rds f.d r)

/-- Major 0x0B (R138). -/
def decWrs (f : Format.I) : Except Reject Instr :=
  code (StateReg.ofCode (f.imm.extractLsb' 0 5)) fun r =>
    need (f.d == 0 && f.imm.extractLsb' 5 10 == 0) (.wrs r (src f.a f.ta))

/-- The literal word of an L-format instruction (R130). -/
def lits (lit : Option (BitVec 32)) (k : BitVec 32 → Except Reject Instr) : Except Reject Instr :=
  match lit with
  | some l => k l
  | none => .error .literalMissing

/-- Major 0x0C (R139). -/
def decLit (f : Format.L) (lit : Option (BitVec 32)) : Except Reject Instr :=
  match f.func.toNat with
  | 0 => must (f.a == 0 && f.ta == 0) (lits lit fun l => .ok (.li f.d l))
  | 1 => must (f.a == 0 && f.ta == 0) (lits lit fun l => .ok (.lih f.d l))
  | 2 => must (f.a == 0 && f.ta == 0) (lits lit fun l => .ok (.lea f.d l))
  | _ => .error .unassigned

/-- Major 0x0D (R139). -/
def decFloat (f : Format.A) : Except Reject Instr :=
  code (FTy.ofCode (f.func.extractLsb' 8 1)) fun p =>
  code (Round.ofCode (f.func.extractLsb' 5 3)) fun r =>
  let z := f.func.extractLsb' 5 3 == 0
  match (f.func.extractLsb' 0 5).toNat with
  | 0 => .ok (.fadd p r f.d (src f.a f.ta) (src f.b f.tb))
  | 1 => .ok (.fsub p r f.d (src f.a f.ta) (src f.b f.tb))
  | 2 => .ok (.fmul p r f.d (src f.a f.ta) (src f.b f.tb))
  | 3 => .ok (.fdiv p r f.d (src f.a f.ta) (src f.b f.tb))
  | 4 => need (f.b == 0 && f.tb == 0) (.fsqrt p r f.d (src f.a f.ta))
  | 5 => .ok (.ffma p r f.d (src f.a f.ta) (src f.b f.tb))
  | 6 => need z (.fmin p f.d (src f.a f.ta) (src f.b f.tb))
  | 7 => need z (.fmax p f.d (src f.a f.ta) (src f.b f.tb))
  | 8 => need z (.fcmpEq p f.d (src f.a f.ta) (src f.b f.tb))
  | 9 => need z (.fcmpLt p f.d (src f.a f.ta) (src f.b f.tb))
  | 10 => need z (.fcmpLe p f.d (src f.a f.ta) (src f.b f.tb))
  | 11 => need z (.fcmpUn p f.d (src f.a f.ta) (src f.b f.tb))
  | 12 => need (z && f.b == 0 && f.tb == 0) (.fclass p f.d (src f.a f.ta))
  | _ => .error .unassigned

/-- Major 0x0E (R139). -/
def decFcvt (f : Format.A) : Except Reject Instr :=
  code (NumTy.ofCode (f.func.extractLsb' 3 3)) fun s =>
  code (NumTy.ofCode (f.func.extractLsb' 0 3)) fun t =>
  code (Round.ofCode (f.func.extractLsb' 6 3)) fun r =>
    need (f.b.extractLsb' 1 4 == 0 && f.tb == 0)
      (.fcvt s t r (f.b.extractLsb' 0 1 == 1#1) f.d (src f.a f.ta))

/-- Major 0x12 (R140). -/
def decBrc (f : Format.B) : Except Reject Instr :=
  code (BrCond.ofCode f.cond) fun c => .ok (.brc c f.a f.b f.disp)

/-- Major 0x13 (R140). -/
def decLoopn (f : Format.B) : Except Reject Instr :=
  need (f.cond == 0 && f.b == 0) (.loopn f.a f.disp)

/-- Major 0x14 (R140). -/
def decBri (f : Format.A) : Except Reject Instr :=
  match f.func.toNat with
  | 0 => need (f.d == 0 && f.b == 0 && f.tb == 0) (.bri (src f.a f.ta))
  | 1 => need (f.d == 0 && f.b == 0 && f.tb == 0) (.calli (src f.a f.ta))
  | 2 => need (f.d == 0 && f.b == 0 && f.tb == 0) (.ret (src f.a f.ta))
  | _ => .error .unassigned

/-- Major 0x15 (R140). -/
def decRegion (f : Format.A) : Except Reject Instr :=
  let z := f.d == 0 && f.a == 0 && f.ta == 0 && f.tb == 0
  match f.func.toNat with
  | 0 => need (z && f.b.extractLsb' 3 2 == 0) (.vif (f.b.extractLsb' 0 3))
  | 1 => need (z && f.b == 0) .velse
  | 2 => need (z && f.b == 0) .vend
  | _ => .error .unassigned

/-- Major 0x16 (R136). -/
def decNop (f : Format.J) : Except Reject Instr :=
  need (f.disp == 0) .nop

/-- Majors 0x18 to 0x1B (R141). -/
def decLd (f : Format.M) : Except Reject Instr :=
  .ok (.ld (Size.ofCode f.sz) f.d (src f.a f.ta) f.off)

/-- Majors 0x18 to 0x1B (R141). -/
def decSt (f : Format.M) : Except Reject Instr :=
  .ok (.st (Size.ofCode f.sz) f.d (src f.a f.ta) f.off)

/-- Majors 0x18 to 0x1B (R141). -/
def decLdg (f : Format.M) : Except Reject Instr :=
  .ok (.ldg (Size.ofCode f.sz) f.d (src f.a f.ta) f.off)

/-- Majors 0x18 to 0x1B (R141). -/
def decSts (f : Format.M) : Except Reject Instr :=
  .ok (.sts (Size.ofCode f.sz) f.d (src f.a f.ta) f.off)

/-- Major 0x1C (R141). -/
def decLdp (f : Format.M) : Except Reject Instr :=
  .ok (.ldp (Size.ofCode f.sz) f.d (f.off.extractLsb' 9 3) (src f.a f.ta) (f.off.extractLsb' 0 9))

/-- Major 0x1D (R141). -/
def decLine (f : Format.M) : Except Reject Instr :=
  match f.sz.toNat with
  | 0 => .ok (.ldv f.d (src f.a f.ta) f.off)
  | 1 => .ok (.stv f.d (src f.a f.ta) f.off)
  | 2 => need (f.d == 0) (.pf (src f.a f.ta) f.off)
  | 3 => need (f.d == 0) (.flush (src f.a f.ta) f.off)
  | 4 => need (f.d == 0) (.invl (src f.a f.ta) f.off)
  | 5 =>
    match f.d.toNat with
    | 1 => .ok (.fenceAcq (src f.a f.ta) f.off)
    | 2 => .ok (.fenceRel (src f.a f.ta) f.off)
    | 3 => .ok (.fenceFull (src f.a f.ta) f.off)
    | _ => .error .unassigned
  | 6 => code (BankMode.ofCode (f.off.extractLsb' 0 2)) fun m =>
      need (f.a == 0 && f.ta == 0 && f.off.extractLsb' 2 10 == 0) (.mode f.d m)
  | _ => .error .unassigned

/-- Major 0x1E (R142). -/
def decAtom (f : Format.A) : Except Reject Instr :=
  code (AtomOp.ofCode (f.func.extractLsb' 3 3)) fun o =>
  code (NumTy.ofCode (f.func.extractLsb' 0 3)) fun t =>
  match (f.func.extractLsb' 6 3).toNat with
  | 0 => .ok (.amo o t f.d (src f.a f.ta) (src f.b f.tb))
  | 1 => need (o == .add) (.cas t f.d (src f.a f.ta) (src f.b f.tb))
  | 2 => .ok (.famo o t f.d (src f.a f.ta) (src f.b f.tb))
  | 3 => need (f.d == 0) (.red o t (src f.a f.ta) (src f.b f.tb))
  | 4 =>
    if o == .add then
      (if t == .f32 then need (f.d == 0) (.fredAdd (src f.a f.ta) (src f.b f.tb)) else .error .illegalCombination)
    else need (f.d == 0) (.fredMinmax o t (src f.a f.ta) (src f.b f.tb))
  | 5 => need (o == .add && f.d == 0) (.vred t (src f.a f.ta) (src f.b f.tb))
  | _ => .error .unassigned

/-- Major 0x1F (R142). -/
def decRemote (f : Format.A) : Except Reject Instr :=
  let z := Size.ofCode (f.func.extractLsb' 0 3)
  let n := f.func.extractLsb' 0 3 == 0
  if f.func.extractLsb' 3 2 != 0 then .error .reservedField
  else match (f.func.extractLsb' 5 4).toNat with
  | 0 => need (f.b == 0 && f.tb == 0) (.get z f.d (src f.a f.ta))
  | 1 => need (f.d == 0) (.put z (src f.a f.ta) (src f.b f.tb))
  | 2 => need (f.d == 0) (.putf z (src f.a f.ta) (src f.b f.tb))
  | 3 => need n (.dlg f.d (src f.a f.ta) (src f.b f.tb))
  | 4 => need (n && f.d == 0) (.dlgn (src f.a f.ta) (src f.b f.tb))
  | 5 => need (n && f.d == 0 && f.a == 0 && f.ta == 0) (.dret (src f.b f.tb))
  | _ => .error .unassigned

/-- Major 0x20 (R143). -/
def decSpawn (f : Format.L) (lit : Option (BitVec 32)) : Except Reject Instr :=
  if f.func != 0 then .error .unassigned
  else must (f.d == 0) (lits lit fun l => .ok (.spawn (src f.a f.ta) l))

/-- Major 0x21 (R143). -/
def decTask (f : Format.A) : Except Reject Instr :=
  match f.func.toNat with
  | 0 => need (f.d == 0 && f.b == 0 && f.tb == 0) (.sync (src f.a f.ta))
  | 1 => need (f.d == 0 && f.a == 0 && f.ta == 0 && f.b == 0 && f.tb == 0) .retire
  | 2 => need (f.d == 0 && f.b == 0 && f.tb == 0) (.pubf (src f.a f.ta))
  | 3 => need (f.d == 0 && f.b == 0 && f.tb == 0) (.pubt (src f.a f.ta))
  | 4 => need (f.d.extractLsb' 4 1 == 0 && f.b == 0 && f.tb == 0) (.bind (f.d.extractLsb' 0 4) (src f.a f.ta))
  | 5 => need (f.d.extractLsb' 4 1 == 0 && f.a == 0 && f.ta == 0 && f.b == 0 && f.tb == 0) (.unbind (f.d.extractLsb' 0 4))
  | 6 => need (f.b == 0 && f.tb == 0) (.jctr f.d (src f.a f.ta))
  | 7 => need (f.d == 0 && f.b == 0 && f.tb == 0) (.bar (src f.a f.ta))
  | 8 => need (f.d == 0) (.bari (src f.a f.ta) (src f.b f.tb))
  | 9 => need (f.b == 0 && f.tb == 0) (.barq f.d (src f.a f.ta))
  | 10 => need (f.d == 0) (.donate (src f.a f.ta) (src f.b f.tb))
  | 11 => .ok (.trec f.d (src f.a f.ta) (src f.b f.tb))
  | 12 => need (f.d == 0) (.tenq (src f.a f.ta) (src f.b f.tb))
  | _ => .error .unassigned

/-- Majors 0x22 and 0x23 (R143). -/
def decMsg (f : Format.I) : Except Reject Instr :=
  need (f.imm.extractLsb' 8 7 == 0) (.msg (src f.a f.ta) f.d (f.imm.extractLsb' 0 8))

/-- Majors 0x22 and 0x23 (R143). -/
def decMsgv (f : Format.I) : Except Reject Instr :=
  need (f.imm.extractLsb' 8 7 == 0) (.msgv (src f.a f.ta) f.d (f.imm.extractLsb' 0 8))

/-- Major 0x24 (R143). -/
def decFifo (f : Format.A) : Except Reject Instr :=
  match f.func.toNat with
  | 0 => need (f.a == 0 && f.ta == 0) (.fpush f.d (src f.b f.tb))
  | 1 => need (f.ta == 0 && f.b == 0 && f.tb == 0) (.fpop f.d f.a)
  | _ => .error .unassigned

/-- Major 0x28 (R144). -/
def decVfloat (f : Format.V) : Except Reject Instr :=
  code (VTy.ofCode (f.func.extractLsb' 4 2)) fun p =>
  match (f.func.extractLsb' 0 4).toNat with
  | 0 => .ok (.vadd p f.d (src f.a f.ta) (src f.b f.tb) f.m)
  | 1 => .ok (.vsub p f.d (src f.a f.ta) (src f.b f.tb) f.m)
  | 2 => .ok (.vmul p f.d (src f.a f.ta) (src f.b f.tb) f.m)
  | 3 => .ok (.vdiv p f.d (src f.a f.ta) (src f.b f.tb) f.m)
  | 4 => .ok (.vmin p f.d (src f.a f.ta) (src f.b f.tb) f.m)
  | 5 => .ok (.vmax p f.d (src f.a f.ta) (src f.b f.tb) f.m)
  | 6 => need (f.b == 0 && f.tb == 0) (.vabs p f.d (src f.a f.ta) f.m)
  | 7 => need (f.b == 0 && f.tb == 0) (.vneg p f.d (src f.a f.ta) f.m)
  | 8 => need (f.b == 0 && f.tb == 0) (.vsqrt p f.d (src f.a f.ta) f.m)
  | 9 => need (f.b == 0 && f.tb == 0) (.vrcp p f.d (src f.a f.ta) f.m)
  | 10 => need (f.b == 0 && f.tb == 0) (.vrsq p f.d (src f.a f.ta) f.m)
  | 11 => need (f.b == 0 && f.tb == 0) (.vexp2 p f.d (src f.a f.ta) f.m)
  | 12 => need (f.b == 0 && f.tb == 0) (.vlog2 p f.d (src f.a f.ta) f.m)
  | 13 => need (f.b == 0 && f.tb == 0) (.vsum p f.d (src f.a f.ta) f.m)
  | 14 => need (f.b == 0 && f.tb == 0) (.vrmax p f.d (src f.a f.ta) f.m)
  | 15 => need (f.b == 0 && f.tb == 0) (.vrmin p f.d (src f.a f.ta) f.m)
  | _ => .error .unassigned

/-- Major 0x29 (R144). -/
def decVint (f : Format.V) : Except Reject Instr :=
  let w := Width.ofCode (f.func.extractLsb' 4 2)
  match (f.func.extractLsb' 0 4).toNat with
  | 0 => .ok (.vaddInt w f.d (src f.a f.ta) (src f.b f.tb) f.m)
  | 1 => .ok (.vsubInt w f.d (src f.a f.ta) (src f.b f.tb) f.m)
  | 2 => .ok (.vmulInt w f.d (src f.a f.ta) (src f.b f.tb) f.m)
  | 3 => .ok (.vminS w f.d (src f.a f.ta) (src f.b f.tb) f.m)
  | 4 => .ok (.vminN w f.d (src f.a f.ta) (src f.b f.tb) f.m)
  | 5 => .ok (.vmaxS w f.d (src f.a f.ta) (src f.b f.tb) f.m)
  | 6 => .ok (.vmaxN w f.d (src f.a f.ta) (src f.b f.tb) f.m)
  | 7 => need (f.b == 0 && f.tb == 0) (.vnegInt w f.d (src f.a f.ta) f.m)
  | 8 => .ok (.vshl w f.d (src f.a f.ta) (src f.b f.tb) f.m)
  | 9 => .ok (.vshrS w f.d (src f.a f.ta) (src f.b f.tb) f.m)
  | 10 => .ok (.vshrN w f.d (src f.a f.ta) (src f.b f.tb) f.m)
  | 11 => need (f.b == 0 && f.tb == 0) (.vsumInt w f.d (src f.a f.ta) f.m)
  | 12 => .ok (.vimad w f.d (src f.a f.ta) (src f.b f.tb) f.m)
  | 13 => need (f.d.extractLsb' 3 2 == 0) (.vcmpEqInt w (f.d.extractLsb' 0 3) (src f.a f.ta) (src f.b f.tb) f.m)
  | 14 => need (f.d.extractLsb' 3 2 == 0) (.vcmpLtS w (f.d.extractLsb' 0 3) (src f.a f.ta) (src f.b f.tb) f.m)
  | 15 => need (f.d.extractLsb' 3 2 == 0) (.vcmpLtN w (f.d.extractLsb' 0 3) (src f.a f.ta) (src f.b f.tb) f.m)
  | _ => .error .unassigned

/-- Major 0x2A with func[5] = 0 (R145). -/
def decVbits (f : Format.V) : Except Reject Instr :=
  match (f.func.extractLsb' 0 5).toNat with
  | 0 => .ok (.vand f.d (src f.a f.ta) (src f.b f.tb) f.m)
  | 1 => .ok (.vor f.d (src f.a f.ta) (src f.b f.tb) f.m)
  | 2 => .ok (.vxor f.d (src f.a f.ta) (src f.b f.tb) f.m)
  | 3 => need (f.b == 0 && f.tb == 0) (.vnot f.d (src f.a f.ta) f.m)
  | 4 => .ok (.vsel f.d (src f.a f.ta) (src f.b f.tb) f.m)
  | 5 => need (f.b == 0 && f.tb == 0) (.vmov f.d (src f.a f.ta) f.m)
  | 8 => need (f.d.extractLsb' 3 2 == 0 && f.a.extractLsb' 3 2 == 0 && f.ta == 0 && f.b.extractLsb' 3 2 == 0 && f.tb == 0 && f.m == 0) (.mand (f.d.extractLsb' 0 3) (f.a.extractLsb' 0 3) (f.b.extractLsb' 0 3))
  | 9 => need (f.d.extractLsb' 3 2 == 0 && f.a.extractLsb' 3 2 == 0 && f.ta == 0 && f.b.extractLsb' 3 2 == 0 && f.tb == 0 && f.m == 0) (.mor (f.d.extractLsb' 0 3) (f.a.extractLsb' 0 3) (f.b.extractLsb' 0 3))
  | 10 => need (f.d.extractLsb' 3 2 == 0 && f.a.extractLsb' 3 2 == 0 && f.ta == 0 && f.b.extractLsb' 3 2 == 0 && f.tb == 0 && f.m == 0) (.mxor (f.d.extractLsb' 0 3) (f.a.extractLsb' 0 3) (f.b.extractLsb' 0 3))
  | 11 => need (f.d.extractLsb' 3 2 == 0 && f.a.extractLsb' 3 2 == 0 && f.ta == 0 && f.b == 0 && f.tb == 0 && f.m == 0) (.mnot (f.d.extractLsb' 0 3) (f.a.extractLsb' 0 3))
  | 12 => need (f.a.extractLsb' 3 2 == 0 && f.ta == 0 && f.b == 0 && f.tb == 0 && f.m == 0) (.mpop f.d (f.a.extractLsb' 0 3))
  | 13 => need (f.a.extractLsb' 3 2 == 0 && f.ta == 0 && f.b == 0 && f.tb == 0 && f.m == 0) (.mfirst f.d (f.a.extractLsb' 0 3))
  | 14 => need (f.d.extractLsb' 3 2 == 0 && f.b == 0 && f.tb == 0 && f.m == 0) (.mset (f.d.extractLsb' 0 3) (src f.a f.ta))
  | 15 => need (f.a.extractLsb' 3 2 == 0 && f.ta == 0 && f.b == 0 && f.tb == 0 && f.m == 0) (.mmovx f.d (f.a.extractLsb' 0 3))
  | 6 | 7 => .error .unassigned
  | _ => code (VTy.ofCode (f.func.extractLsb' 2 2)) fun p =>
      code (VCond.ofCode (f.func.extractLsb' 0 2)) fun c =>
        need (f.d.extractLsb' 3 2 == 0) (.vcmp p c (f.d.extractLsb' 0 3) (src f.a f.ta) (src f.b f.tb) f.m)

/-- Major 0x2A with func[5] = 1 (R145). -/
def decVperm (f : Format.V) : Except Reject Instr :=
  let w := Width.ofCode (f.func.extractLsb' 0 2)
  match (f.func.extractLsb' 2 3).toNat with
  | 0 => .ok (.vperm w f.d (src f.a f.ta) (src f.b f.tb) f.m)
  | 1 => .ok (.vshuf w f.d (src f.a f.ta) (src f.b f.tb) f.m)
  | 2 => need (f.b == 0 && f.tb == 0) (.vbcast w f.d (src f.a f.ta) f.m)
  | 3 => need (f.a == 0 && f.ta == 0 && f.b == 0 && f.tb == 0) (.viota w f.d f.m)
  | 4 => need (f.b == 0 && f.tb == 0) (.vcmpr w f.d (src f.a f.ta) f.m)
  | 5 => need (f.b == 0 && f.tb == 0) (.vexpd w f.d (src f.a f.ta) f.m)
  | 6 => .ok (.vins w f.d (src f.a f.ta) (src f.b f.tb) f.m)
  | _ => need (f.m == 0) (.vext w f.d (src f.a f.ta) (src f.b f.tb))

/-- Major 0x2B (R146). -/
def decVcvt (f : Format.V) : Except Reject Instr :=
  if f.func.extractLsb' 5 1 == 0 then
    code (Elem.ofCode f.b) fun s =>
    code (Elem.ofCode (f.func.extractLsb' 0 5)) fun t =>
      .ok (.vcvt s t (f.tb == 1#1) f.d (src f.a f.ta) f.m)
  else code (Narrow.ofCode (f.func.extractLsb' 0 3)) fun n =>
    match (f.func.extractLsb' 3 2).toNat with
    | 0 => need (f.b == 0) (.vscale n (f.tb == 1#1) f.d (src f.a f.ta) f.m)
    | 1 => .ok (.vqnt n f.d (src f.a f.ta) (src f.b f.tb) f.m)
    | 2 => .ok (.vdqnt n f.d (src f.a f.ta) (src f.b f.tb) f.m)
    | _ => .error .unassigned

/-- Majors 0x2C to 0x2F (R147). -/
def decVfmaF (f : Format.W) : Except Reject Instr :=
  code (Round.ofCode f.r) fun r => .ok (.vfmaF32F64 (f.w == 1#1) f.d f.a f.b f.c f.m r)

/-- Majors 0x2C to 0x2F (R147). -/
def decVfmaH (f : Format.W) : Except Reject Instr :=
  code (Round.ofCode f.r) fun r => .ok (.vfmaBf16F16 (f.w == 1#1) f.d f.a f.b f.c f.m r)

/-- Majors 0x2C to 0x2F (R147). -/
def decVfmsF (f : Format.W) : Except Reject Instr :=
  code (Round.ofCode f.r) fun r => .ok (.vfmsF32F64 (f.w == 1#1) f.d f.a f.b f.c f.m r)

/-- Majors 0x2C to 0x2F (R147). -/
def decVfmsH (f : Format.W) : Except Reject Instr :=
  code (Round.ofCode f.r) fun r => .ok (.vfmsBf16F16 (f.w == 1#1) f.d f.a f.b f.c f.m r)

/-- Major 0x30 (R148). -/
def decMma (f : Format.X) : Except Reject Instr :=
  match f.func.toNat with
  | 0 => .ok (.mma f.d f.e (src f.a f.ta) (src f.b f.tb))
  | 1 => .ok (.mmat f.d f.e (src f.a f.ta) (src f.b f.tb))
  | _ => .error .unassigned

/-- Major 0x31 (R148). -/
def decAcc (f : Format.X) : Except Reject Instr :=
  match f.func.toNat with
  | 0 => need (f.d == 0 && f.e == 0) (.mfmt (src f.a f.ta) (src f.b f.tb))
  | 1 => need (f.d == 0 && f.e == 0) (.accz (src f.a f.ta) (src f.b f.tb))
  | 2 => need (f.b == 0 && f.tb == 0 && f.e == 0) (.accrd f.d (src f.a f.ta))
  | 3 => need (f.b == 0 && f.tb == 0 && f.e == 0) (.mstat f.d (src f.a f.ta))
  | _ => .error .unassigned

/-- Major 0x32 (R148). -/
def decAcccvt (f : Format.X) : Except Reject Instr :=
  code (AccTy.ofCode f.d) fun s =>
  code (Elem.ofCode f.e) fun t =>
  code (Round.ofCode (f.func.extractLsb' 0 3)) fun r =>
    .ok (.acccvt s t (f.func.extractLsb' 3 1 == 1#1) r (src f.a f.ta) (src f.b f.tb))

/-- Major 0x34 (R148). -/
def decCopy (f : Format.X) : Except Reject Instr :=
  match f.func.toNat with
  | 0 => .ok (.cpy f.d (src f.a f.ta) (src f.b f.tb) f.e)
  | 1 => need (f.d == 0 && f.b == 0 && f.tb == 0 && f.e == 0) (.cstg (src f.a f.ta))
  | 2 => need (f.d == 0 && f.e == 0) (.cring (src f.a f.ta) (src f.b f.tb))
  | _ => .error .unassigned

/-- Major 0x35 (R148). -/
def decNear (f : Format.X) : Except Reject Instr :=
  match f.func.toNat with
  | 0 => need (f.d == 0) (.nmg (src f.a f.ta) (src f.b f.tb) f.e)
  | 1 => need (f.d == 0) (.nmr (src f.a f.ta) (src f.b f.tb) f.e)
  | 2 => need (f.d == 0) (.nmc (src f.a f.ta) (src f.b f.tb) f.e)
  | _ => .error .unassigned

/-- Major 0x36 (R148). -/
def decXchg (f : Format.X) : Except Reject Instr :=
  match f.func.toNat with
  | 0 => need (f.d == 0 && f.a == 0 && f.ta == 0 && f.b == 0 && f.tb == 0) (.dpost f.e)
  | 1 => need (f.d == 0 && f.b == 0 && f.tb == 0) (.xsend (src f.a f.ta) f.e)
  | 2 => need (f.d == 0 && f.b == 0 && f.tb == 0 && f.e == 0) (.xarm (src f.a f.ta))
  | 3 => need (f.b == 0 && f.tb == 0 && f.e == 0) (.xstat f.d (src f.a f.ta))
  | _ => .error .unassigned

/-- Major 0x37 (R148). -/
def decRoute (f : Format.X) : Except Reject Instr :=
  match f.func.toNat with
  | 0 => need (f.e == 0) (.route f.d (src f.a f.ta) (src f.b f.tb))
  | 1 => need (f.d == 0 && f.b == 0 && f.tb == 0 && f.e == 0) (.icfg (src f.a f.ta))
  | _ => .error .unassigned

/-- Major 0x38 (R149). -/
def decTrap (f : Format.S) : Except Reject Instr :=
  let z := f.d == 0 && f.a == 0 && f.ta == 0
  match f.func.toNat with
  | 0 => need z (.trap f.imm)
  | 1 => need (z && f.imm == 0) .rte
  | 2 => need (z && f.imm == 0) .halt
  | 3 => need z (.brk f.imm)
  | _ => .error .unassigned

/-- Major 0x39 (R149). -/
def decReplay (f : Format.S) : Except Reject Instr :=
  let q := f.imm.extractLsb' 6 4
  let w := f.imm.extractLsb' 0 6
  match f.func.toNat with
  | 0 => need (f.a == 0 && f.ta == 0) (.rqrd f.d q w)
  | 1 => need (f.d == 0) (.rqwr (src f.a f.ta) q w)
  | 2 => need (f.d == 0 && f.a == 0 && f.ta == 0 && w == 0) (.rqdel q)
  | _ => .error .unassigned

/-- Major 0x3A (R149). -/
def decInval (f : Format.S) : Except Reject Instr :=
  match f.func.toNat with
  | 0 => need (f.d == 0 && f.imm == 0) (.tlbi (src f.a f.ta))
  | 1 => need (f.d == 0 && f.imm == 0) (.regi (src f.a f.ta))
  | _ => .error .unassigned

/-- The instruction of a word by the major map (R136), before the checks of `Instr.wf`. `lit` is the next
word of the block, where the block has one (R127). -/
def decodeRaw (w : BitVec 32) (lit : Option (BitVec 32)) : Except Reject Instr :=
  match (major w).toNat with
  | 0 => .error .majorZero
  | 0x1 => decInt (Format.A.of w)
  | 0x2 => let f := Format.I.of w; .ok (.addi f.d (src f.a f.ta) f.imm)
  | 0x3 => let f := Format.I.of w; .ok (.andi f.d (src f.a f.ta) f.imm)
  | 0x4 => let f := Format.I.of w; .ok (.ori f.d (src f.a f.ta) f.imm)
  | 0x5 => let f := Format.I.of w; .ok (.xori f.d (src f.a f.ta) f.imm)
  | 0x6 => decShift (Format.I.of w)
  | 0x7 => decCmpi (Format.I.of w)
  | 0x8 => decField (Format.I.of w)
  | 0x9 => decWidf (Format.I.of w)
  | 0xa => decRds (Format.I.of w)
  | 0xb => decWrs (Format.I.of w)
  | 0xc => decLit (Format.L.of w) lit
  | 0xd => decFloat (Format.A.of w)
  | 0xe => decFcvt (Format.A.of w)
  | 0x10 => .ok (.br (Format.J.of w).disp)
  | 0x11 => .ok (.call (Format.J.of w).disp)
  | 0x12 => decBrc (Format.B.of w)
  | 0x13 => decLoopn (Format.B.of w)
  | 0x14 => decBri (Format.A.of w)
  | 0x15 => decRegion (Format.A.of w)
  | 0x16 => decNop (Format.J.of w)
  | 0x18 => decLd (Format.M.of w)
  | 0x19 => decSt (Format.M.of w)
  | 0x1a => decLdg (Format.M.of w)
  | 0x1b => decSts (Format.M.of w)
  | 0x1c => decLdp (Format.M.of w)
  | 0x1d => decLine (Format.M.of w)
  | 0x1e => decAtom (Format.A.of w)
  | 0x1f => decRemote (Format.A.of w)
  | 0x20 => decSpawn (Format.L.of w) lit
  | 0x21 => decTask (Format.A.of w)
  | 0x22 => decMsg (Format.I.of w)
  | 0x23 => decMsgv (Format.I.of w)
  | 0x24 => decFifo (Format.A.of w)
  | 0x28 => decVfloat (Format.V.of w)
  | 0x29 => decVint (Format.V.of w)
  | 0x2a => if w.extractLsb' 5 1 == 0 then decVbits (Format.V.of w) else decVperm (Format.V.of w)
  | 0x2b => decVcvt (Format.V.of w)
  | 0x2c => decVfmaF (Format.W.of w)
  | 0x2d => decVfmaH (Format.W.of w)
  | 0x2e => decVfmsF (Format.W.of w)
  | 0x2f => decVfmsH (Format.W.of w)
  | 0x30 => decMma (Format.X.of w)
  | 0x31 => decAcc (Format.X.of w)
  | 0x32 => decAcccvt (Format.X.of w)
  | 0x34 => decCopy (Format.X.of w)
  | 0x35 => decNear (Format.X.of w)
  | 0x36 => decXchg (Format.X.of w)
  | 0x37 => decRoute (Format.X.of w)
  | 0x38 => decTrap (Format.S.of w)
  | 0x39 => decReplay (Format.S.of w)
  | 0x3a => decInval (Format.S.of w)
  | _ => .error .reservedMajor

/-- The decoder (R127 to R150): the instruction of a word, or the name of what refuses it. -/
def decode (w : BitVec 32) (lit : Option (BitVec 32)) : Except Reject Instr :=
  match decodeRaw w lit with
  | .ok i => if i.wf then .ok i else .error .illegalCombination
  | .error e => .error e

/-- Whether an instruction takes two words (R127, R132 L). -/
def Instr.isLong : Instr → Bool
  | .li .. | .lih .. | .lea .. | .spawn .. => true
  | _ => false

/-- The decoder on the bytes of a block's words, lowest address first; the result keeps the bytes after the
instruction. -/
def decodeBytes : List Byte → Except Reject (Instr × List Byte)
  | b0 :: b1 :: b2 :: b3 :: rest =>
    let lit := match rest with
      | c0 :: c1 :: c2 :: c3 :: _ => some (c3 ++ c2 ++ c1 ++ c0)
      | _ => none
    match decode (b3 ++ b2 ++ b1 ++ b0) lit with
    | .ok i => .ok (i, if i.isLong then rest.drop 4 else rest)
    | .error e => .error e
  | _ => .error .literalMissing

/-- The words as the host numbers their bits: the first word is the low 32 bits of `w` and the next word its
bits [63:32]; bits above `nbits` are 0. -/
def tableWords (nbits w : Nat) : BitVec 32 × BitVec 32 :=
  let v := w % 2 ^ nbits
  (BitVec.ofNat 32 v, BitVec.ofNat 32 (v / 2 ^ 32))

def decodeTableWord (nbits w : Nat) : Option Instr :=
  match decode (tableWords nbits w).1 (some (tableWords nbits w).2) with
  | .ok i => some i
  | .error _ => none

/-- The words of an instruction: the word, and the literal of an L-format instruction. An event has none. -/
def encode : Instr → Option (BitVec 32 × Option (BitVec 32))
  | .add z d a b => some (Format.A.word 0x1 ⟨d, a.r, a.tb, b.r, b.tb, z.code ++ 0#6⟩, none)
  | .adds z d a b => some (Format.A.word 0x1 ⟨d, a.r, a.tb, b.r, b.tb, z.code ++ 1#6⟩, none)
  | .sub z d a b => some (Format.A.word 0x1 ⟨d, a.r, a.tb, b.r, b.tb, z.code ++ 2#6⟩, none)
  | .mul z d a b => some (Format.A.word 0x1 ⟨d, a.r, a.tb, b.r, b.tb, z.code ++ 3#6⟩, none)
  | .mulh z d a b => some (Format.A.word 0x1 ⟨d, a.r, a.tb, b.r, b.tb, z.code ++ 4#6⟩, none)
  | .div z d a b => some (Format.A.word 0x1 ⟨d, a.r, a.tb, b.r, b.tb, z.code ++ 5#6⟩, none)
  | .rem z d a b => some (Format.A.word 0x1 ⟨d, a.r, a.tb, b.r, b.tb, z.code ++ 6#6⟩, none)
  | .neg z d a => some (Format.A.word 0x1 ⟨d, a.r, a.tb, 0, 0, z.code ++ 7#6⟩, none)
  | .and z d a b => some (Format.A.word 0x1 ⟨d, a.r, a.tb, b.r, b.tb, z.code ++ 8#6⟩, none)
  | .andn z d a b => some (Format.A.word 0x1 ⟨d, a.r, a.tb, b.r, b.tb, z.code ++ 9#6⟩, none)
  | .or z d a b => some (Format.A.word 0x1 ⟨d, a.r, a.tb, b.r, b.tb, z.code ++ 10#6⟩, none)
  | .xor z d a b => some (Format.A.word 0x1 ⟨d, a.r, a.tb, b.r, b.tb, z.code ++ 11#6⟩, none)
  | .shl z d a b => some (Format.A.word 0x1 ⟨d, a.r, a.tb, b.r, b.tb, z.code ++ 12#6⟩, none)
  | .shr z d a b => some (Format.A.word 0x1 ⟨d, a.r, a.tb, b.r, b.tb, z.code ++ 13#6⟩, none)
  | .rot z d a b => some (Format.A.word 0x1 ⟨d, a.r, a.tb, b.r, b.tb, z.code ++ 14#6⟩, none)
  | .clz z d a => some (Format.A.word 0x1 ⟨d, a.r, a.tb, 0, 0, z.code ++ 15#6⟩, none)
  | .ctz z d a => some (Format.A.word 0x1 ⟨d, a.r, a.tb, 0, 0, z.code ++ 16#6⟩, none)
  | .popc z d a => some (Format.A.word 0x1 ⟨d, a.r, a.tb, 0, 0, z.code ++ 17#6⟩, none)
  | .brev z d a => some (Format.A.word 0x1 ⟨d, a.r, a.tb, 0, 0, z.code ++ 18#6⟩, none)
  | .min z d a b => some (Format.A.word 0x1 ⟨d, a.r, a.tb, b.r, b.tb, z.code ++ 19#6⟩, none)
  | .max z d a b => some (Format.A.word 0x1 ⟨d, a.r, a.tb, b.r, b.tb, z.code ++ 20#6⟩, none)
  | .sel z d a b => some (Format.A.word 0x1 ⟨d, a.r, a.tb, b.r, b.tb, z.code ++ 21#6⟩, none)
  | .mov z d a => some (Format.A.word 0x1 ⟨d, a.r, a.tb, 0, 0, z.code ++ 22#6⟩, none)
  | .cmpEq z d a b => some (Format.A.word 0x1 ⟨d, a.r, a.tb, b.r, b.tb, z.code ++ 23#6⟩, none)
  | .cmpNe z d a b => some (Format.A.word 0x1 ⟨d, a.r, a.tb, b.r, b.tb, z.code ++ 24#6⟩, none)
  | .cmpLt z d a b => some (Format.A.word 0x1 ⟨d, a.r, a.tb, b.r, b.tb, z.code ++ 25#6⟩, none)
  | .cmpLe z d a b => some (Format.A.word 0x1 ⟨d, a.r, a.tb, b.r, b.tb, z.code ++ 26#6⟩, none)
  | .cmpGt z d a b => some (Format.A.word 0x1 ⟨d, a.r, a.tb, b.r, b.tb, z.code ++ 27#6⟩, none)
  | .cmpGe z d a b => some (Format.A.word 0x1 ⟨d, a.r, a.tb, b.r, b.tb, z.code ++ 28#6⟩, none)
  | .addi d a e => some (Format.I.word 0x2 ⟨d, a.r, a.tb, e⟩, none)
  | .andi d a e => some (Format.I.word 0x3 ⟨d, a.r, a.tb, e⟩, none)
  | .ori d a e => some (Format.I.word 0x4 ⟨d, a.r, a.tb, e⟩, none)
  | .xori d a e => some (Format.I.word 0x5 ⟨d, a.r, a.tb, e⟩, none)
  | .shli d a n => some (Format.I.word 0x6 ⟨d, a.r, a.tb, 0#7 ++ 0#2 ++ n⟩, none)
  | .shriN64 d a n => some (Format.I.word 0x6 ⟨d, a.r, a.tb, 0#7 ++ 1#2 ++ n⟩, none)
  | .shriS64 d a n => some (Format.I.word 0x6 ⟨d, a.r, a.tb, 0#7 ++ 2#2 ++ n⟩, none)
  | .cmpi c u d a e => some (Format.I.word 0x7 ⟨d, a.r, a.tb, c.code ++ BitVec.ofBool u ++ e⟩, none)
  | .extr g d a l w => some (Format.I.word 0x8 ⟨d, a.r, a.tb, 0#1 ++ BitVec.ofBool g ++ 0#1 ++ w ++ l⟩, none)
  | .insr d a l w => some (Format.I.word 0x8 ⟨d, a.r, a.tb, 1#1 ++ 0#1 ++ 0#1 ++ w ++ l⟩, none)
  | .widf d k => some (Format.I.word 0x9 ⟨d, 0, 0, 0#12 ++ k⟩, none)
  | .rds d r => some (Format.I.word 0xa ⟨d, 0, 0, 0#10 ++ r.code⟩, none)
  | .wrs r a => some (Format.I.word 0xb ⟨0, a.r, a.tb, 0#10 ++ r.code⟩, none)
  | .li d l => some (Format.L.word 0xc ⟨d, 0, 0, 0⟩, some l)
  | .lih d l => some (Format.L.word 0xc ⟨d, 0, 0, 1⟩, some l)
  | .lea d l => some (Format.L.word 0xc ⟨d, 0, 0, 2⟩, some l)
  | .fadd p r d a b => some (Format.A.word 0xd ⟨d, a.r, a.tb, b.r, b.tb, p.code ++ r.code ++ 0#5⟩, none)
  | .fsub p r d a b => some (Format.A.word 0xd ⟨d, a.r, a.tb, b.r, b.tb, p.code ++ r.code ++ 1#5⟩, none)
  | .fmul p r d a b => some (Format.A.word 0xd ⟨d, a.r, a.tb, b.r, b.tb, p.code ++ r.code ++ 2#5⟩, none)
  | .fdiv p r d a b => some (Format.A.word 0xd ⟨d, a.r, a.tb, b.r, b.tb, p.code ++ r.code ++ 3#5⟩, none)
  | .fsqrt p r d a => some (Format.A.word 0xd ⟨d, a.r, a.tb, 0, 0, p.code ++ r.code ++ 4#5⟩, none)
  | .ffma p r d a b => some (Format.A.word 0xd ⟨d, a.r, a.tb, b.r, b.tb, p.code ++ r.code ++ 5#5⟩, none)
  | .fmin p d a b => some (Format.A.word 0xd ⟨d, a.r, a.tb, b.r, b.tb, p.code ++ 0#3 ++ 6#5⟩, none)
  | .fmax p d a b => some (Format.A.word 0xd ⟨d, a.r, a.tb, b.r, b.tb, p.code ++ 0#3 ++ 7#5⟩, none)
  | .fcmpEq p d a b => some (Format.A.word 0xd ⟨d, a.r, a.tb, b.r, b.tb, p.code ++ 0#3 ++ 8#5⟩, none)
  | .fcmpLt p d a b => some (Format.A.word 0xd ⟨d, a.r, a.tb, b.r, b.tb, p.code ++ 0#3 ++ 9#5⟩, none)
  | .fcmpLe p d a b => some (Format.A.word 0xd ⟨d, a.r, a.tb, b.r, b.tb, p.code ++ 0#3 ++ 10#5⟩, none)
  | .fcmpUn p d a b => some (Format.A.word 0xd ⟨d, a.r, a.tb, b.r, b.tb, p.code ++ 0#3 ++ 11#5⟩, none)
  | .fclass p d a => some (Format.A.word 0xd ⟨d, a.r, a.tb, 0, 0, p.code ++ 0#3 ++ 12#5⟩, none)
  | .fcvt s t r q d a => some (Format.A.word 0xe ⟨d, a.r, a.tb, 0#4 ++ BitVec.ofBool q, 0, r.code ++ s.code ++ t.code⟩, none)
  | .br j => some (Format.J.word 0x10 ⟨j⟩, none)
  | .call j => some (Format.J.word 0x11 ⟨j⟩, none)
  | .brc c a b j => some (Format.B.word 0x12 ⟨c.code, a, b, j⟩, none)
  | .loopn a j => some (Format.B.word 0x13 ⟨0, a, 0, j⟩, none)
  | .bri a => some (Format.A.word 0x14 ⟨0, a.r, a.tb, 0, 0, 0⟩, none)
  | .calli a => some (Format.A.word 0x14 ⟨0, a.r, a.tb, 0, 0, 1⟩, none)
  | .ret a => some (Format.A.word 0x14 ⟨0, a.r, a.tb, 0, 0, 2⟩, none)
  | .vif k => some (Format.A.word 0x15 ⟨0, 0, 0, 0#2 ++ k, 0, 0⟩, none)
  | .velse => some (Format.A.word 0x15 ⟨0, 0, 0, 0, 0, 1⟩, none)
  | .vend => some (Format.A.word 0x15 ⟨0, 0, 0, 0, 0, 2⟩, none)
  | .nop => some (Format.J.word 0x16 ⟨0⟩, none)
  | .ld z d a o => some (Format.M.word 0x18 ⟨d, a.r, a.tb, z.code, o⟩, none)
  | .st z d a o => some (Format.M.word 0x19 ⟨d, a.r, a.tb, z.code, o⟩, none)
  | .ldg z d a o => some (Format.M.word 0x1a ⟨d, a.r, a.tb, z.code, o⟩, none)
  | .sts z d a o => some (Format.M.word 0x1b ⟨d, a.r, a.tb, z.code, o⟩, none)
  | .ldp z d k a o => some (Format.M.word 0x1c ⟨d, a.r, a.tb, z.code, k ++ o⟩, none)
  | .ldv d a o => some (Format.M.word 0x1d ⟨d, a.r, a.tb, 0, o⟩, none)
  | .stv d a o => some (Format.M.word 0x1d ⟨d, a.r, a.tb, 1, o⟩, none)
  | .pf a o => some (Format.M.word 0x1d ⟨0, a.r, a.tb, 2, o⟩, none)
  | .flush a o => some (Format.M.word 0x1d ⟨0, a.r, a.tb, 3, o⟩, none)
  | .invl a o => some (Format.M.word 0x1d ⟨0, a.r, a.tb, 4, o⟩, none)
  | .fenceAcq a o => some (Format.M.word 0x1d ⟨1, a.r, a.tb, 5, o⟩, none)
  | .fenceRel a o => some (Format.M.word 0x1d ⟨2, a.r, a.tb, 5, o⟩, none)
  | .fenceFull a o => some (Format.M.word 0x1d ⟨3, a.r, a.tb, 5, o⟩, none)
  | .mode k m => some (Format.M.word 0x1d ⟨k, 0, 0, 6, 0#10 ++ m.code⟩, none)
  | .amo o t d a b => some (Format.A.word 0x1e ⟨d, a.r, a.tb, b.r, b.tb, 0#3 ++ o.code ++ t.code⟩, none)
  | .cas t d a b => some (Format.A.word 0x1e ⟨d, a.r, a.tb, b.r, b.tb, 1#3 ++ 0#3 ++ t.code⟩, none)
  | .famo o t d a b => some (Format.A.word 0x1e ⟨d, a.r, a.tb, b.r, b.tb, 2#3 ++ o.code ++ t.code⟩, none)
  | .red o t a b => some (Format.A.word 0x1e ⟨0, a.r, a.tb, b.r, b.tb, 3#3 ++ o.code ++ t.code⟩, none)
  | .fredAdd a b => some (Format.A.word 0x1e ⟨0, a.r, a.tb, b.r, b.tb, 4#3 ++ 0#3 ++ 4#3⟩, none)
  | .fredMinmax o t a b => some (Format.A.word 0x1e ⟨0, a.r, a.tb, b.r, b.tb, 4#3 ++ o.code ++ t.code⟩, none)
  | .vred t a b => some (Format.A.word 0x1e ⟨0, a.r, a.tb, b.r, b.tb, 5#3 ++ 0#3 ++ t.code⟩, none)
  | .get z d a => some (Format.A.word 0x1f ⟨d, a.r, a.tb, 0, 0, 0#4 ++ 0#2 ++ z.code⟩, none)
  | .put z a b => some (Format.A.word 0x1f ⟨0, a.r, a.tb, b.r, b.tb, 1#4 ++ 0#2 ++ z.code⟩, none)
  | .putf z a b => some (Format.A.word 0x1f ⟨0, a.r, a.tb, b.r, b.tb, 2#4 ++ 0#2 ++ z.code⟩, none)
  | .dlg d a b => some (Format.A.word 0x1f ⟨d, a.r, a.tb, b.r, b.tb, 3#4 ++ 0#2 ++ 0#3⟩, none)
  | .dlgn a b => some (Format.A.word 0x1f ⟨0, a.r, a.tb, b.r, b.tb, 4#4 ++ 0#2 ++ 0#3⟩, none)
  | .dret b => some (Format.A.word 0x1f ⟨0, 0, 0, b.r, b.tb, 5#4 ++ 0#2 ++ 0#3⟩, none)
  | .spawn a l => some (Format.L.word 0x20 ⟨0, a.r, a.tb, 0⟩, some l)
  | .sync a => some (Format.A.word 0x21 ⟨0, a.r, a.tb, 0, 0, 0⟩, none)
  | .pubf a => some (Format.A.word 0x21 ⟨0, a.r, a.tb, 0, 0, 2⟩, none)
  | .pubt a => some (Format.A.word 0x21 ⟨0, a.r, a.tb, 0, 0, 3⟩, none)
  | .bar a => some (Format.A.word 0x21 ⟨0, a.r, a.tb, 0, 0, 7⟩, none)
  | .retire => some (Format.A.word 0x21 ⟨0, 0, 0, 0, 0, 1⟩, none)
  | .bind k a => some (Format.A.word 0x21 ⟨0#1 ++ k, a.r, a.tb, 0, 0, 4⟩, none)
  | .unbind k => some (Format.A.word 0x21 ⟨0#1 ++ k, 0, 0, 0, 0, 5⟩, none)
  | .jctr d a => some (Format.A.word 0x21 ⟨d, a.r, a.tb, 0, 0, 6⟩, none)
  | .barq d a => some (Format.A.word 0x21 ⟨d, a.r, a.tb, 0, 0, 9⟩, none)
  | .bari a b => some (Format.A.word 0x21 ⟨0, a.r, a.tb, b.r, b.tb, 8⟩, none)
  | .donate a b => some (Format.A.word 0x21 ⟨0, a.r, a.tb, b.r, b.tb, 10⟩, none)
  | .tenq a b => some (Format.A.word 0x21 ⟨0, a.r, a.tb, b.r, b.tb, 12⟩, none)
  | .trec d a b => some (Format.A.word 0x21 ⟨d, a.r, a.tb, b.r, b.tb, 11⟩, none)
  | .msg a d t => some (Format.I.word 0x22 ⟨d, a.r, a.tb, 0#7 ++ t⟩, none)
  | .msgv a d t => some (Format.I.word 0x23 ⟨d, a.r, a.tb, 0#7 ++ t⟩, none)
  | .fpush k b => some (Format.A.word 0x24 ⟨k, 0, 0, b.r, b.tb, 0⟩, none)
  | .fpop d k => some (Format.A.word 0x24 ⟨d, k, 0, 0, 0, 1⟩, none)
  | .vadd p d a b m => some (Format.V.word 0x28 ⟨d, a.r, a.tb, b.r, b.tb, m, p.code ++ 0#4⟩, none)
  | .vsub p d a b m => some (Format.V.word 0x28 ⟨d, a.r, a.tb, b.r, b.tb, m, p.code ++ 1#4⟩, none)
  | .vmul p d a b m => some (Format.V.word 0x28 ⟨d, a.r, a.tb, b.r, b.tb, m, p.code ++ 2#4⟩, none)
  | .vdiv p d a b m => some (Format.V.word 0x28 ⟨d, a.r, a.tb, b.r, b.tb, m, p.code ++ 3#4⟩, none)
  | .vmin p d a b m => some (Format.V.word 0x28 ⟨d, a.r, a.tb, b.r, b.tb, m, p.code ++ 4#4⟩, none)
  | .vmax p d a b m => some (Format.V.word 0x28 ⟨d, a.r, a.tb, b.r, b.tb, m, p.code ++ 5#4⟩, none)
  | .vabs p d a m => some (Format.V.word 0x28 ⟨d, a.r, a.tb, 0, 0, m, p.code ++ 6#4⟩, none)
  | .vneg p d a m => some (Format.V.word 0x28 ⟨d, a.r, a.tb, 0, 0, m, p.code ++ 7#4⟩, none)
  | .vsqrt p d a m => some (Format.V.word 0x28 ⟨d, a.r, a.tb, 0, 0, m, p.code ++ 8#4⟩, none)
  | .vrcp p d a m => some (Format.V.word 0x28 ⟨d, a.r, a.tb, 0, 0, m, p.code ++ 9#4⟩, none)
  | .vrsq p d a m => some (Format.V.word 0x28 ⟨d, a.r, a.tb, 0, 0, m, p.code ++ 10#4⟩, none)
  | .vexp2 p d a m => some (Format.V.word 0x28 ⟨d, a.r, a.tb, 0, 0, m, p.code ++ 11#4⟩, none)
  | .vlog2 p d a m => some (Format.V.word 0x28 ⟨d, a.r, a.tb, 0, 0, m, p.code ++ 12#4⟩, none)
  | .vsum p d a m => some (Format.V.word 0x28 ⟨d, a.r, a.tb, 0, 0, m, p.code ++ 13#4⟩, none)
  | .vrmax p d a m => some (Format.V.word 0x28 ⟨d, a.r, a.tb, 0, 0, m, p.code ++ 14#4⟩, none)
  | .vrmin p d a m => some (Format.V.word 0x28 ⟨d, a.r, a.tb, 0, 0, m, p.code ++ 15#4⟩, none)
  | .vaddInt w d a b m => some (Format.V.word 0x29 ⟨d, a.r, a.tb, b.r, b.tb, m, w.code ++ 0#4⟩, none)
  | .vsubInt w d a b m => some (Format.V.word 0x29 ⟨d, a.r, a.tb, b.r, b.tb, m, w.code ++ 1#4⟩, none)
  | .vmulInt w d a b m => some (Format.V.word 0x29 ⟨d, a.r, a.tb, b.r, b.tb, m, w.code ++ 2#4⟩, none)
  | .vminS w d a b m => some (Format.V.word 0x29 ⟨d, a.r, a.tb, b.r, b.tb, m, w.code ++ 3#4⟩, none)
  | .vminN w d a b m => some (Format.V.word 0x29 ⟨d, a.r, a.tb, b.r, b.tb, m, w.code ++ 4#4⟩, none)
  | .vmaxS w d a b m => some (Format.V.word 0x29 ⟨d, a.r, a.tb, b.r, b.tb, m, w.code ++ 5#4⟩, none)
  | .vmaxN w d a b m => some (Format.V.word 0x29 ⟨d, a.r, a.tb, b.r, b.tb, m, w.code ++ 6#4⟩, none)
  | .vnegInt w d a m => some (Format.V.word 0x29 ⟨d, a.r, a.tb, 0, 0, m, w.code ++ 7#4⟩, none)
  | .vshl w d a b m => some (Format.V.word 0x29 ⟨d, a.r, a.tb, b.r, b.tb, m, w.code ++ 8#4⟩, none)
  | .vshrS w d a b m => some (Format.V.word 0x29 ⟨d, a.r, a.tb, b.r, b.tb, m, w.code ++ 9#4⟩, none)
  | .vshrN w d a b m => some (Format.V.word 0x29 ⟨d, a.r, a.tb, b.r, b.tb, m, w.code ++ 10#4⟩, none)
  | .vsumInt w d a m => some (Format.V.word 0x29 ⟨d, a.r, a.tb, 0, 0, m, w.code ++ 11#4⟩, none)
  | .vimad w d a b m => some (Format.V.word 0x29 ⟨d, a.r, a.tb, b.r, b.tb, m, w.code ++ 12#4⟩, none)
  | .vcmpEqInt w k a b m => some (Format.V.word 0x29 ⟨0#2 ++ k, a.r, a.tb, b.r, b.tb, m, w.code ++ 13#4⟩, none)
  | .vcmpLtS w k a b m => some (Format.V.word 0x29 ⟨0#2 ++ k, a.r, a.tb, b.r, b.tb, m, w.code ++ 14#4⟩, none)
  | .vcmpLtN w k a b m => some (Format.V.word 0x29 ⟨0#2 ++ k, a.r, a.tb, b.r, b.tb, m, w.code ++ 15#4⟩, none)
  | .vand d a b m => some (Format.V.word 0x2a ⟨d, a.r, a.tb, b.r, b.tb, m, 0⟩, none)
  | .vor d a b m => some (Format.V.word 0x2a ⟨d, a.r, a.tb, b.r, b.tb, m, 1⟩, none)
  | .vxor d a b m => some (Format.V.word 0x2a ⟨d, a.r, a.tb, b.r, b.tb, m, 2⟩, none)
  | .vsel d a b m => some (Format.V.word 0x2a ⟨d, a.r, a.tb, b.r, b.tb, m, 4⟩, none)
  | .vnot d a m => some (Format.V.word 0x2a ⟨d, a.r, a.tb, 0, 0, m, 3⟩, none)
  | .vmov d a m => some (Format.V.word 0x2a ⟨d, a.r, a.tb, 0, 0, m, 5⟩, none)
  | .mand k i j => some (Format.V.word 0x2a ⟨0#2 ++ k, 0#2 ++ i, 0, 0#2 ++ j, 0, 0, 8⟩, none)
  | .mor k i j => some (Format.V.word 0x2a ⟨0#2 ++ k, 0#2 ++ i, 0, 0#2 ++ j, 0, 0, 9⟩, none)
  | .mxor k i j => some (Format.V.word 0x2a ⟨0#2 ++ k, 0#2 ++ i, 0, 0#2 ++ j, 0, 0, 10⟩, none)
  | .mnot k i => some (Format.V.word 0x2a ⟨0#2 ++ k, 0#2 ++ i, 0, 0, 0, 0, 11⟩, none)
  | .mpop d i => some (Format.V.word 0x2a ⟨d, 0#2 ++ i, 0, 0, 0, 0, 12⟩, none)
  | .mfirst d i => some (Format.V.word 0x2a ⟨d, 0#2 ++ i, 0, 0, 0, 0, 13⟩, none)
  | .mmovx d i => some (Format.V.word 0x2a ⟨d, 0#2 ++ i, 0, 0, 0, 0, 15⟩, none)
  | .mset k a => some (Format.V.word 0x2a ⟨0#2 ++ k, a.r, a.tb, 0, 0, 0, 14⟩, none)
  | .vcmp p c k a b m => some (Format.V.word 0x2a ⟨0#2 ++ k, a.r, a.tb, b.r, b.tb, m, 1#2 ++ p.code ++ c.code⟩, none)
  | .vperm w d a b m => some (Format.V.word 0x2a ⟨d, a.r, a.tb, b.r, b.tb, m, 1#1 ++ 0#3 ++ w.code⟩, none)
  | .vshuf w d a b m => some (Format.V.word 0x2a ⟨d, a.r, a.tb, b.r, b.tb, m, 1#1 ++ 1#3 ++ w.code⟩, none)
  | .vins w d a b m => some (Format.V.word 0x2a ⟨d, a.r, a.tb, b.r, b.tb, m, 1#1 ++ 6#3 ++ w.code⟩, none)
  | .vbcast w d a m => some (Format.V.word 0x2a ⟨d, a.r, a.tb, 0, 0, m, 1#1 ++ 2#3 ++ w.code⟩, none)
  | .vcmpr w d a m => some (Format.V.word 0x2a ⟨d, a.r, a.tb, 0, 0, m, 1#1 ++ 4#3 ++ w.code⟩, none)
  | .vexpd w d a m => some (Format.V.word 0x2a ⟨d, a.r, a.tb, 0, 0, m, 1#1 ++ 5#3 ++ w.code⟩, none)
  | .viota w d m => some (Format.V.word 0x2a ⟨d, 0, 0, 0, 0, m, 1#1 ++ 3#3 ++ w.code⟩, none)
  | .vext w d a b => some (Format.V.word 0x2a ⟨d, a.r, a.tb, b.r, b.tb, 0, 1#1 ++ 7#3 ++ w.code⟩, none)
  | .vcvt s t q d a m => some (Format.V.word 0x2b ⟨d, a.r, a.tb, s.code, BitVec.ofBool q, m, 0#1 ++ t.code⟩, none)
  | .vscale n q d a m => some (Format.V.word 0x2b ⟨d, a.r, a.tb, 0, BitVec.ofBool q, m, 1#1 ++ 0#2 ++ n.code⟩, none)
  | .vqnt n d a b m => some (Format.V.word 0x2b ⟨d, a.r, a.tb, b.r, b.tb, m, 1#1 ++ 1#2 ++ n.code⟩, none)
  | .vdqnt n d a b m => some (Format.V.word 0x2b ⟨d, a.r, a.tb, b.r, b.tb, m, 1#1 ++ 2#2 ++ n.code⟩, none)
  | .vfmaF32F64 w d a b c m r => some (Format.W.word 0x2c ⟨d, a, b, c, BitVec.ofBool w, m, r.code⟩, none)
  | .vfmaBf16F16 w d a b c m r => some (Format.W.word 0x2d ⟨d, a, b, c, BitVec.ofBool w, m, r.code⟩, none)
  | .vfmsF32F64 w d a b c m r => some (Format.W.word 0x2e ⟨d, a, b, c, BitVec.ofBool w, m, r.code⟩, none)
  | .vfmsBf16F16 w d a b c m r => some (Format.W.word 0x2f ⟨d, a, b, c, BitVec.ofBool w, m, r.code⟩, none)
  | .mma p q a b => some (Format.X.word 0x30 ⟨p, a.r, a.tb, b.r, b.tb, q, 0⟩, none)
  | .mmat p q a b => some (Format.X.word 0x30 ⟨p, a.r, a.tb, b.r, b.tb, q, 1⟩, none)
  | .mfmt a b => some (Format.X.word 0x31 ⟨0, a.r, a.tb, b.r, b.tb, 0, 0⟩, none)
  | .accz a b => some (Format.X.word 0x31 ⟨0, a.r, a.tb, b.r, b.tb, 0, 1⟩, none)
  | .accrd d a => some (Format.X.word 0x31 ⟨d, a.r, a.tb, 0, 0, 0, 2⟩, none)
  | .mstat d a => some (Format.X.word 0x31 ⟨d, a.r, a.tb, 0, 0, 0, 3⟩, none)
  | .acccvt s t q r a b => some (Format.X.word 0x32 ⟨s.code, a.r, a.tb, b.r, b.tb, t.code, BitVec.ofBool q ++ r.code⟩, none)
  | .cpy d a b e => some (Format.X.word 0x34 ⟨d, a.r, a.tb, b.r, b.tb, e, 0⟩, none)
  | .cstg a => some (Format.X.word 0x34 ⟨0, a.r, a.tb, 0, 0, 0, 1⟩, none)
  | .cring a b => some (Format.X.word 0x34 ⟨0, a.r, a.tb, b.r, b.tb, 0, 2⟩, none)
  | .nmg a b e => some (Format.X.word 0x35 ⟨0, a.r, a.tb, b.r, b.tb, e, 0⟩, none)
  | .nmr a b e => some (Format.X.word 0x35 ⟨0, a.r, a.tb, b.r, b.tb, e, 1⟩, none)
  | .nmc a b e => some (Format.X.word 0x35 ⟨0, a.r, a.tb, b.r, b.tb, e, 2⟩, none)
  | .dpost e => some (Format.X.word 0x36 ⟨0, 0, 0, 0, 0, e, 0⟩, none)
  | .xsend a e => some (Format.X.word 0x36 ⟨0, a.r, a.tb, 0, 0, e, 1⟩, none)
  | .xarm a => some (Format.X.word 0x36 ⟨0, a.r, a.tb, 0, 0, 0, 2⟩, none)
  | .xstat d a => some (Format.X.word 0x36 ⟨d, a.r, a.tb, 0, 0, 0, 3⟩, none)
  | .route d a b => some (Format.X.word 0x37 ⟨d, a.r, a.tb, b.r, b.tb, 0, 0⟩, none)
  | .icfg a => some (Format.X.word 0x37 ⟨0, a.r, a.tb, 0, 0, 0, 1⟩, none)
  | .trap e => some (Format.S.word 0x38 ⟨0, 0, 0, 0, e⟩, none)
  | .rte => some (Format.S.word 0x38 ⟨0, 0, 0, 1, 0⟩, none)
  | .halt => some (Format.S.word 0x38 ⟨0, 0, 0, 2, 0⟩, none)
  | .brk e => some (Format.S.word 0x38 ⟨0, 0, 0, 3, e⟩, none)
  | .rqrd d q w => some (Format.S.word 0x39 ⟨d, 0, 0, 0, q ++ w⟩, none)
  | .rqwr a q w => some (Format.S.word 0x39 ⟨0, a.r, a.tb, 1, q ++ w⟩, none)
  | .rqdel q => some (Format.S.word 0x39 ⟨0, 0, 0, 2, q ++ 0#6⟩, none)
  | .tlbi a => some (Format.S.word 0x3a ⟨0, a.r, a.tb, 0, 0⟩, none)
  | .regi a => some (Format.S.word 0x3a ⟨0, a.r, a.tb, 1, 0⟩, none)
  | _ => none

end Sys2Proof
end

