-- ==== Sys2Proof/Config.lean ====
section
/-! DEFINITION. What the manual leaves to the device or to the run, as constants without a body: nothing in
Lean can evaluate one, and a statement about one holds for every value of it (log 12, 14, 16). -/

namespace Sys2Proof

/-- Which member of the set that R222 names the device produces: an index, taken modulo the size of the
set, for an operation (VRCP 0, VRSQ 1, VEXP2 2, VLOG2 3), a float type code and an input (log 12). -/
opaque Config.approxPick (op type input : Nat) : Nat

/-- Whether an LMS signature (R366) verifies under a public key over a message (log 14). -/
opaque Config.lmsVerifies (key signature message : List Byte) : Bool

/-- The signature of the device's identity key with a leaf over a message (R367; log 14). -/
opaque Config.lmsSign (leaf : Nat) (message : List Byte) : List Byte

/-- The SHA-256 hash of the firmware public key that the boot ROM holds (R366; log 14). -/
opaque Config.romKeyHash : BitVec 256

/-- The device serial number of an attestation report (R367; log 14). -/
opaque Config.serialNumber : List Byte

/-- The default of a management register that a configuration record holds (R368; log 14): the record's
layout is not given. -/
opaque Config.recordDefault (record : List Byte) (register : Nat) : Word

/-- Which line a full instruction cache gives up, as an index (R1, R300; log 16). -/
opaque Config.icacheVictim (n : Nat) : Nat

/-- The draw of stochastic rounding in a near-memory operation whose mode is %frm.MODE = 5 (R258 names none):
by operation and step (log 27). -/
opaque Config.engineDraw (operation step : Nat) : Nat

/-- The offset of a governed register, as a NOT_OWNER record gives it (R384, kind 15): the manual gives none
(log 29). -/
opaque Config.registerOffset (register : Nat) : Nat

/-- The code of a kind of resource in a CE_LASTING record (R384, kind 18): the manual gives none (log 32). -/
opaque Config.resourceCode (kind : Nat) : Nat

/-- The bank or array of spare rows that a row belongs to (R386), by kind of resource, die and address (log 32). -/
opaque Config.spareGroup (kind die address : Nat) : Nat

/-- The 16 KiB frames that an HBM row covers (R386): the manual gives no size of a row (log 32). -/
opaque Config.rowFrames (address : Nat) : List Nat

/-- The lanes of a die link (R385): the manual gives no number (log 32). -/
opaque Config.dieLinkLanes : Nat

/-- The bytes of a firmware image that its signature covers (R366): the manual gives no layout (log 14). -/
opaque Config.imageBytes (stages : List (List Byte)) (version : Nat) (configKeyHash : BitVec 256) : List Byte

/-- The bytes of a configuration record that its signature and its hash cover (R367, R368): the manual gives no layout
(log 14). -/
opaque Config.recordBytes (contents : List Byte) (minVersion sequence : Nat) : List Byte

/-- Which host link the host's decoder assigns to a line of host or SYSTEM memory (R55, R358; log 22). -/
opaque Config.hostLinkOf (line : Nat) : Bool

/-- Whether a row of HBM (kind 0), of a die's L2 (1) or of cluster SRAM (2) holds a unit: a line by its number, or a line of
SRAM by 4,096 x cluster + line (R386): the manual gives no rows (log 32). -/
opaque Config.rowHolds (kind die address unit : Nat) : Bool

/-- What the bytes of a ring or stack read as that lies at addresses which do not exist (R323), by address and step
(log 3). -/
opaque Config.absentBytes (address step : Nat) : Nat

/-- The core that the activation of a resolved context goes to, taken modulo 65,536 (R336; log 39). -/
opaque Config.resumeCore (context : Nat) : Nat

/-- Firmware's entry of the vector tables for an arriving donation (R10, R322): its code is not in the manual (log 26). -/
opaque Config.firmwareVector : BitVec 128

/-- The core that the arrival of a donation activates, taken modulo 65,536 (R322; log 26). -/
opaque Config.donationCore (n : Nat) : Nat

/-- An entry of the spill table (R195, R206): the manual gives no layout; by entry and step (log 43). -/
opaque Config.spillEntry (entry step : Nat) : Nat

/-- A line of the further save frames of a cluster (R356): the manual gives no layout; by address and step (log 21). -/
opaque Config.clusterLine (address step : Nat) : Line

/-- The Tuzel port over which a die and an endpoint of a peer package reach each other, taken modulo 18 (log 32). -/
opaque Config.tuzelPort (die endpoint : Nat) : Nat

/-- Which line of a full set a die's L2 gives up (R45), as an index (log 37). -/
opaque Config.l2Victim (n : Nat) : Nat

/-- The word of a dependence counter that no template places, by the task record (R213; log 44). -/
opaque Config.depCounter (task : BitVec 128) : BitVec 56

end Sys2Proof
end

