-- ==== Sys2Proof/Machine/Types.lean ====
section
/-! DEFINITION. The parts of the machine's state. Cores are numbered 0-65,535 ((die x 256 + cluster) x 32 +
core), clusters 0-2,047, slots by 8 x core + slot, endpoints and dies as the manual numbers them. Every
docstring names the rule of spec/ that gives the part. -/

namespace Sys2Proof.Machine

/-! Names of modes and kinds. -/

/-- Slot classes (R6, R350). -/
inductive SlotClass where
  | load | arith | epil | server
  deriving DecidableEq, Repr

/-- How a header is entered (R129). -/
inductive EntryWay where
  | branch | continuation | handler
  deriving DecidableEq, Repr

/-- The domains of R49, which are also the reaches of R74. -/
inductive Dom where
  | cluster | die | package | system
  deriving DecidableEq, Repr

/-- The states of a cluster cache line that are not I (R56). -/
inductive LState where
  | s | d | a
  deriving DecidableEq, Repr

/-- The formats of increments (R58). -/
inductive IncFmt where
  | f32 | f32c | s32 | s64
  deriving DecidableEq, Repr

/-- The join link of a strand (R197): the launch's seed counter, or a counter by bits [54:31] of a frame
name. -/
inductive JoinLink where
  | seed
  | counter (c : BitVec 24)
  deriving DecidableEq, Repr

/-- The traps of R268, and a trap's PROTECTION cause where it has one (R270). -/
inductive Trap where
  | illegal | framing | empty | window | alignment | protection (cause : Nat)
  | translation (reason : Nat) (write : Bool) (va : Word) | foreignDie (write : Bool) (va : Word) (pa : Nat)
  | poison | linkLost | software (e : Nat) | breakpoint (e : Nat)
  deriving DecidableEq, Repr

/-! Addresses. -/

/-- A translation (R324, R327): function, virtual page of `2 ^ log` bytes, frame and rights. -/
structure Xlat where
  func : Nat
  va : Nat
  log : Nat
  frame : Nat
  w : Bool
  x : Bool
  deriving DecidableEq, Repr

/-- A resolved address: its physical address, what its range gives (R49, R54, R331), and the log of the size of the page
that was translated. -/
structure Place where
  pa : Nat
  dom : Dom
  acc : Bool
  cmp : Bool
  ro : Bool
  unc : Bool
  cstr : Nat
  log : Nat
  deriving DecidableEq, Repr

/-- A translation walk that is under way (R175, R328): the address it walks for, the right it needs, the
time since which it waits on a migrating entry, and the translations already taken for the instruction. -/
structure Walk where
  va : Word
  write : Bool
  exec : Bool
  busy : Bool
  waiting : Option Word
  got : List Xlat
  deriving DecidableEq, Repr

/-! Items of the ordering machine. -/

/-- Where a performed read or atomic delivers its value. `entry` is the serial of the replay-queue entry
that the fill frees (R272). -/
inductive Sink where
  | discard
  | x (ctx entry : Nat) (d : RegNo) (z : Size)
  | v (ctx entry : Nat) (d : RegNo)
  | gather (id pos : Nat)
  | trec (ctx entry die : Nat) (d : RegNo) (task : BitVec 128) (va : Word)
  | donate (ctx entry : Nat) (pkg : BitVec 3)
  deriving DecidableEq, Repr

/-- What an atomic does at its unit (R182 to R184); `dec` is TREC's decrement (R213). -/
inductive AtomKind where
  | amo (op : AtomOp) (ty : NumTy)
  | cas (ty : NumTy)
  | famo (op : AtomOp) (ty : NumTy) (mode : Round) (draw : BitVec 24)
  | dec
  deriving DecidableEq, Repr

structure AtomReq where
  kind : AtomKind
  b : Word
  c : Word
  returning : Bool
  deriving DecidableEq, Repr

/-- What an item does when it is performed (R68, R70); `poison` is poison that
goes home, with a record that names the unit, or without one (R62, R384). -/
inductive Act where
  | fetch (clus : Nat)
  | read (off len : Nat) (sink : Sink)
  | write (data : Line) (mask : ByteMask) (toHost : Bool)
  | incr (fmt : IncFmt) (data : Line) (mask : ByteMask)
  | incrc (off : Nat) (v : BitVec 32) (comp : Nat)
  | atomic (req : AtomReq) (off : Nat) (sink : Sink)
  | poison (unit : Option Nat)
  deriving DecidableEq, Repr

/-- An item of a posting buffer, remote queue or ingress buffer. `after` holds the serials that must be
performed before it (R61, R72, R189); `va` names it in an error record (R384); `core` issued it; `wb` marks a line
that the cluster cache sends home (R56), and `ctxs` then names the contexts that wrote it (R61). -/
structure Item where
  serial : Nat
  ctx : Nat
  die : Nat
  line : Nat
  act : Act
  after : List Nat
  func : Nat
  va : Word
  core : Nat
  wb : Bool
  ctxs : List Nat
  deriving DecidableEq, Repr

/-- An access that is issued and not yet performed (R75): whose it is and from which slot, whether a release of reach DIE
leaves it out, whether it is an increment (R79), and the translation it issued with (R328). -/
structure Live where
  serial : Nat
  ctx : Nat
  slot : Nat
  clus : Nat
  remote : Bool
  isLoad : Bool
  incr : Bool
  home : Nat
  func : Nat
  va : Word
  deriving DecidableEq, Repr

/-- A SYSTEM atomic on its way to a fabric port (R55). -/
structure PortOp where
  serial : Nat
  ctx : Nat
  pa : Nat
  req : AtomReq
  sink : Sink
  after : List Nat
  deriving DecidableEq, Repr

/-- A read that is put together from several lines or elements: what is done with the bytes (R178, R247,
R248). An ACCCVT holds its mode, the places of its target and the serials of its writes from its issue on. -/
inductive GatherEnd where
  | x (ctx entry : Nat) (d : RegNo) (z : Size) (pwb : Bool)
  | accrd (ctx entry : Nat) (d : RegNo)
  | acccvt (ctx core : Nat) (src : AccTy) (dst : Elem) (sat : Bool) (mode : Round) (target : Word)
      (sram : Option Nat) (spots : List (Nat × Place)) (writes : List Nat)
  deriving DecidableEq, Repr

structure Gather where
  serial : Nat
  left : Nat
  bytes : Tab Nat
  failed : Option Trap
  finish : GatherEnd
  deriving DecidableEq, Repr

/-! Cluster. -/

/-- A line of a cluster cache (R36, R56, R333): its bytes, which of them it holds, which were written, the
increment format of an A line, its domain tag and range flags, and the way. `ctxs` are the contexts that wrote it
and `after` the items of the line that they had queued before (R61, R72); `behind` are the contexts whose increments or
atomics the bytes of its fill do not hold (log 9). -/
structure CLine where
  line : Nat
  st : LState
  data : Line
  valid : ByteMask
  dirty : ByteMask
  fmt : IncFmt
  dom : Dom
  bank : Nat
  va : Word
  ctxs : List Nat
  after : List Nat
  behind : List Nat
  deriving DecidableEq, Repr

structure WaitLoad where
  serial : Nat
  ctx : Nat
  off : Nat
  len : Nat
  sink : Sink
  deriving DecidableEq, Repr

structure WaitAtom where
  serial : Nat
  ctx : Nat
  off : Nat
  req : AtomReq
  sink : Sink
  deriving DecidableEq, Repr

/-- A fetch of a line for a cluster (R68 pending-fetch mark, R70 FILL): the loads and cluster atomics that
wait, and the bytes once it is performed at its home, with the serial number of that moment. What the cluster sends
home after that is not in these bytes: `late` holds the writes and `stale` the increments and atomics with
their contexts, by serial (log 9). -/
structure Fetch where
  line : Nat
  serial : Nat
  ctx : Nat
  place : Place
  va : Word
  func : Nat
  core : Nat
  loads : List WaitLoad
  atoms : List WaitAtom
  got : Option (Nat × Line)
  poisoned : Bool
  late : List (Nat × Line × ByteMask)
  stale : List (Nat × List Nat)
  deriving DecidableEq, Repr

/-- A FIFO bank (R38, R215, R240): its entries, and of each the bytes that are poison (R252). -/
structure Fifo where
  entries : List Line
  bad : List ByteMask
  low : Option Vec
  popHigh : Bool
  readBytes : Nat
  deriving DecidableEq, Repr

/-- A bank mode change in progress (R40) and what it waits for. -/
structure ModeChange where
  bank : Nat
  mode : BankMode
  waits : List Nat
  deriving DecidableEq, Repr

/-- A join counter (R21, R203): its value, whether it is allocated, a reservation, the parked frame. -/
structure JoinCounter where
  value : BitVec 32
  allocated : Bool
  reserved : Bool
  parked : Option Word
  prio : BitVec 8
  deriving DecidableEq, Repr

/-- A frame on a ready queue (R22). -/
structure Ready where
  frame : Word
  prio : BitVec 8
  order : Nat
  deriving DecidableEq, Repr

/-- A range-scoreboard entry (R65, R66): the copy and its intervals, memory by physical address and scratch
by byte offset in the cluster. -/
structure BoardEntry where
  engine : Nat
  srcMem : List (Nat × Nat)
  dstMem : List (Nat × Nat)
  srcScratch : List (Nat × Nat)
  dstScratch : List (Nat × Nat)
  deriving DecidableEq, Repr

/-- A ring binding (R253): base, its translation, CRING image and write index. -/
structure Ring where
  base : Word
  image : Word
  w : BitVec 32
  deriving DecidableEq, Repr

/-- A queued MMA or MMAT (R237, R242) with the translations of its footprint and companions. -/
structure MatReq where
  mmat : Bool
  addr : Word
  dims : Word
  fa : Nat
  fb : Nat
  ctx : Nat
  spots : List (Nat × Place)
  deriving DecidableEq, Repr

/-- The coalescing buffer (R243): open on an address, count, touched elements with their sums, and the slot and
context that issued its last request (R245). -/
structure CoalBuf where
  addr : Word
  slot : Nat
  ctx : Nat
  count : Nat
  sums : Tab Word
  spots : List (Nat × Place)
  deriving DecidableEq, Repr

/-- What a matrix context holds of its operands: the stationary B tile (R242), and the scale sets popped last
for A and for B (R240). -/
structure MatHeld where
  tile : Nat
  scA : List Nat
  scB : List Nat
  deriving DecidableEq, Repr

/-- Synthesis modes (R233, R235). -/
inductive Syn where
  | native | fp32s | fp64s
  deriving DecidableEq, Repr

/-- A matrix format context (R233). -/
structure MatCtx where
  descA : Word
  descB : Word
  syn : Syn
  setter : Option (Nat × Nat)
  bind : Word
  kpos : Nat
  key : Option (Nat × Nat)
  reqs : List MatReq
  buf : Option CoalBuf
  emitting : Option CoalBuf
  counters : Tab (BitVec 32)
  held : MatHeld
  deriving DecidableEq, Repr

/-- A decrement on its way to a counter from cluster `src`, or a released frame whose placement waits for the release of R77
(R19, R22, R204). -/
inductive DecKind where
  | decrement
  | place (frame : Word) (prio : BitVec 8)
  deriving DecidableEq, Repr

structure Dec where
  src : Nat
  launch : Option Nat
  counter : BitVec 24
  kind : DecKind
  waits : List Nat
  deriving DecidableEq, Repr

/-- An ACCCVT that has not written its result: its entry and context, the die and the home slices of its writes, and the
bytes of SRAM that it writes (R37, R47). -/
structure Cvt where
  entry : Nat
  ctx : Nat
  die : Nat
  homes : List Nat
  sram : Option (Nat × Nat)
  deriving DecidableEq, Repr

/-- A parked frame record on its way into its counter's cluster (R204). -/
structure Park where
  frame : Word
  launch : Option Nat
  deriving DecidableEq, Repr

/-- How far the save of a cluster has come (R356): not begun, slots are moved out, lines are sent home; `said` that it
has reported a lack of save frames (R354). -/
inductive SaveStage where
  | off
  | swapping
  | flushing (waits : List Nat) (said : Bool)
  deriving DecidableEq, Repr

/-- `badSram` names the bytes of scratch that are poison, by line (R252). `holder` is the launch that the cluster belongs to and `next` the one that it is saved for (R317 to R319). -/
structure Cluster where
  modes : Tab BankMode
  sram : Tab Line
  badSram : Tab ByteMask
  fifos : Tab Fifo
  lines : List CLine
  fetches : List Fetch
  changing : List ModeChange
  atomCtr : Tab (BitVec 32)
  bankCtr : Tab (BitVec 32)
  counters : Tab JoinCounter
  spilled : Tab JoinCounter
  frames : List (Nat × Nat)
  spillFrames : List (Nat × Nat)
  ready : List Ready
  board : List BoardEntry
  rings : Tab Ring
  sc : BitVec 32
  sched : Nat
  tlb : List Xlat
  mats : Tab MatCtx
  cvts : List Cvt
  served : Nat
  holder : Option Nat
  next : Option Nat
  heldAt : Word
  started : Bool
  save : SaveStage
  deriving DecidableEq, Repr

/-! Core. -/

/-- An activation that waits or travels (R9, R12, R291). `frame` names the record of a continuation, `saved`
the context of a fault resolution or of a handler; `origin` is the context that sent it. -/
structure Activation where
  type : BitVec 8
  sender : Nat
  target : Nat
  wid : Word
  words : List Word
  payload : Vec
  hdr : Word
  prio : BitVec 8
  launch : Option Nat
  frame : Option Word
  saved : Option Nat
  reply : Option (Nat × RegNo × Nat)
  origin : Nat
  order : Nat
  deriving DecidableEq, Repr

/-- A barrier (R208): count, arrivals, episode, registrations as (frame name, core of arrival). -/
structure Barrier where
  count : BitVec 16
  arrived : BitVec 16
  episode : BitVec 32
  waiting : List (Word × Nat)
  deriving DecidableEq, Repr

/-- A stolen entry that is being moved (R27, R204): entry, victim core, what the victim's release waits for, and
the room taken at the thief, as the record's new offset and area and the new line of each tile. While `walks` names entries of
the slot that pushed it whose walks are under way, the release has not begun (R77, R175). -/
structure StealMove where
  entry : BitVec 128
  victim : Nat
  waits : List Nat
  off : Nat
  spill : Bool
  tiles : List (Nat × Nat)
  walks : List Nat
  deriving DecidableEq, Repr

/-- A steal engine (R24, R25). -/
structure StealEngine where
  pos : List Nat
  probed : List Nat
  running : Bool
  empties : Nat
  waiting : Bool
  moving : Option StealMove
  deriving DecidableEq, Repr

/-- A move of a context that waits for the shadow bank (R351, R352): of a saved context into a slot, or with `out` of
the context of a slot whose trap is due; `waits` is the release at the cluster that the context comes from (R82). -/
structure CtxMove where
  slot : Nat
  saved : Nat
  out : Bool
  waits : List Nat
  deriving DecidableEq, Repr

/-! Strand. -/

/-- The phase of a replay-queue entry: a walk is under way, the access is queued, it has faulted, or it
stands in a saved context. -/
inductive Phase where
  | walking (w : Walk)
  | flight
  | faulted (t : Trap)
  | replay
  deriving DecidableEq, Repr

/-- What ACCZ, ACCRD and ACCCVT take of their context at issue besides their operands (R246 to R248): the format
descriptor, the rounding mode, and the binding of a tile target. -/
structure AccCap where
  desc : Word := 0
  mode : Round := .rne
  bind : Word := 0
  deriving DecidableEq, Repr

/-- A replay-queue entry (R271); `sent` is what a delegation request carries besides (R191), and `acc` what an
accumulator instruction took at issue. -/
structure Entry where
  serial : Nat
  iword : BitVec 32
  lit : BitVec 32
  pc : Word
  addr : Word
  opa : Word
  opb : Word
  opd : Word
  vop : Vec
  phase : Phase
  sent : List Word := []
  acc : AccCap := {}
  deriving DecidableEq, Repr

/-- What an edge instruction does once its release or acquire has completed (R77). `hdr` is where control goes
then, or none for the next word. -/
inductive After where
  | advance
  /-- the release is complete: the acquire begins -/
  | thenAcquire (reach : Dom) (hdr : Option Word)
  /-- the release of R78 at a counter's cluster is complete, where nothing new is to be released: the acquire begins -/
  | syncRelease (clus : Nat) (reach : Dom) (hdr : Word)
  /-- the loads are performed: the acquire ends (R76) -/
  | acquire (reach : Dom) (hdr : Option Word)
  | retire
  | pop
  | sync (reg : RegNo) (frame hdr live : Word)
  | halt
  | barArrive (barrier frame hdr : Word)
  | send (a : Activation) (word : BitVec 32) (opa opb : Word)
  | dret (value : Word)
  | tenq (task : BitVec 128)
  /-- `far` tells that the release was one of reach PACKAGE -/
  | trec (d : RegNo) (task : BitVec 128) (far : Bool) (addr opa opb : Word) (word : BitVec 32)
  | shoot (entry : Bool) (image : Word)
  deriving DecidableEq, Repr

/-- An edge begun by a strand and not completed (R72, R75): the serials it waits for, and whether held
writes of the host port count (reach SYSTEM, R73). -/
structure Edge where
  waits : List Nat
  system : Bool
  after : After
  deriving DecidableEq, Repr

/-- An answer that a strand awaits (R8). -/
inductive Await where
  | barrier (hdr : Word)
  | trec
  | donate
  | shootdown
  deriving DecidableEq, Repr

/-- A trap at issue that is still to be taken (R344), with PC, FADDR and IWORD of its frame. -/
structure Latched where
  trap : Trap
  pc : Word
  faddr : Word
  iword : BitVec 32
  deriving DecidableEq, Repr

structure Strand where
  active : Bool
  pc : Word
  hdr : Word
  hword : Word
  way : Option EntryWay
  x : Tab Word
  v : Tab Vec
  m : Tab Word
  n : Tab Word
  emptyX : BitVec 32
  pendX : BitVec 32
  emptyV : BitVec 32
  pendV : BitVec 32
  wid : Word
  fflags : Word
  frm : Word
  enable : Word
  region : List (Word × Word)
  jl : Option JoinLink
  tm : BitVec 16
  lp : Option Word
  cls : SlotClass
  prio : BitVec 8
  type : BitVec 8
  ctx : Nat
  launch : Option Nat
  func : Nat
  queue : List Entry
  edge : Option Edge
  wait : Option Await
  walk : Option Walk
  bound : Option Nat
  caller : Option (Nat × RegNo × Nat)
  p0 : Option (Word × Nat)
  reload : Option Word
  trap : Option Latched
  deriving DecidableEq, Repr

/-- Why a saved context waits (R343, R346, R350, R356). -/
inductive SavedWhy where
  | bound
  | fault
  | preempt
  | cluster
  deriving DecidableEq, Repr

/-- The matrix context that a setter's image carries (R233, R349): descriptor halves, KPOS, stationary key; and
what the unit held for it. -/
structure MatSave where
  descA : Word
  descB : Word
  kpos : Nat
  key : Option (Nat × Nat)
  held : MatHeld
  deriving DecidableEq, Repr

/-- The contents of a shadow bank (R351): an outgoing context to be spilled, with its trap-frame header, or
an incoming one; `said` that the spill has reported a lack of save frames (R354); `acq` is the acquire of a context
that comes from another cluster (R82). -/
structure Shadow where
  slot : Nat
  strand : Strand
  outgoing : Bool
  why : SavedWhy
  header : List Word
  mat : Option MatSave
  said : Bool
  acq : Option Dom
  deriving DecidableEq, Repr

/-- `groups` are in the backing store, and `short` gives the entries of those that do not hold 16 (R205, R356). -/
structure Core where
  vtab : Tab (BitVec 128)
  actq : List Activation
  deque : List (BitVec 128)
  spilling : Bool
  refilling : Option Nat
  groups : Nat
  short : Tab Nat
  barriers : Tab Barrier
  age : BitVec 16
  pass : Tab Nat
  last : Tab Nat
  utlb : List Xlat
  icache : List (Nat × Line)
  regions : Tab (BitVec 128)
  engine : StealEngine
  rstack : List Word
  shadow : Option Shadow
  moves : List CtxMove
  discards : Nat
  deriving DecidableEq, Repr

/-! Die. -/

/-- A TRANSLATION or FOREIGN_DIE fault on its way to the fault unit (R334, R335). -/
structure PageFault where
  kind : Nat
  reason : Nat
  write : Bool
  home : Nat
  func : Nat
  va : Word
  pa : Nat
  ctx : Nat
  deriving DecidableEq, Repr

/-- A pending page of a fault unit (R334): the fault that made it pending, its page and the log of its size, the ring record once
it is written, and the waiting contexts. -/
structure PendingPage where
  fault : PageFault
  page : Nat
  log : Nat
  record : Option (BitVec 12)
  ctxs : List Nat
  deriving DecidableEq, Repr

/-- An access-counter entry (R338). -/
structure AccessCtr where
  func : Nat
  region : Nat
  count : Nat
  sub : List Nat
  deriving DecidableEq, Repr

/-- A migration in progress (R339); `drain` holds what step 4 waits for once it has begun. -/
structure Migration where
  func : Nat
  page : Word
  leafPa : Nat
  leaf : Word
  size : Nat
  old : Nat
  new : Nat
  shoot : Nat
  command : Bool
  drain : Option (List Nat)
  deriving DecidableEq, Repr

/-- The fault-unit registers of R337. -/
structure FaultRegs where
  frbase : Word
  frctl : Word
  frtail : BitVec 32
  frhead : BitVec 32
  lost : Bool
  fflbase : Word
  fflctl : Word
  fflput : BitVec 32
  fflget : BitVec 32
  migdst : Word
  migst : Word
  deriving DecidableEq, Repr

/-- The save-frame stack registers of R353. -/
structure SaveRegs where
  sflbase : Word
  sflctl : Word
  sflcnt : BitVec 32
  deriving DecidableEq, Repr

/-- States of an exchange unit (R259). -/
inductive XState where
  | idle | posted | granted | running
  deriving DecidableEq, Repr

/-- A grant of a calendar (R373), with the duration of its phase (R372). -/
structure Grant where
  phase : Nat
  rx : Bool
  partner : Nat
  lines : Nat
  offset : Nat
  span : Nat
  deriving DecidableEq, Repr

/-- A calendar (R373): generation, round, TS, phase count, the grants of one endpoint, and the end of the
calendar (R372). -/
structure Calendar where
  gen : BitVec 32
  round : BitVec 32
  ts : Word
  phases : Nat
  grants : List Grant
  stop : Word
  deriving DecidableEq, Repr

/-- A line on its way between endpoints: its bytes, whether it is poison, whether its CRC fails (R261, R262). -/
structure XLine where
  data : Line
  poison : Bool
  bad : Bool
  deriving DecidableEq, Repr

/-- A buffer handed over by XSEND (R261, R265): the descriptor, who gave it and when, the translations of its pages,
the bytes sent, which of their lines failed their CRC, what is left of the row that is being sent, and the codes so far. -/
structure Send where
  dest : Nat
  ring : Nat
  core : Nat
  func : Nat
  tag : BitVec 16
  rows : Bool
  rowl : Nat
  bytes : Nat
  buf : Nat
  spots : List (Nat × Place)
  issued : Word
  sent : Nat
  failed : List Nat
  row : List XLine
  codes : List Nat
  lost : Bool
  reported : Bool
  deriving DecidableEq, Repr

/-- What a pair has received in a round (R261, R262, R267): bytes that came, bytes that were written, the lines of a
row that is not yet taken, the copies of it that are left to write once it is being taken, the row taken last, and the codes
so far. -/
structure Receive where
  bytes : Nat
  put : Nat
  lines : List XLine
  copies : Option (List Nat)
  last : List XLine
  codes : List Nat
  lost : Bool
  deriving DecidableEq, Repr

/-- A table or block that a unit holds (R262, R266): its words, and the core, function and launch that loaded it;
`spots` are the translations of an arm table's bases. -/
structure XTable where
  words : List Word
  core : Nat
  func : Nat
  launch : Option Nat
  spots : List (Nat × Place)
  deriving DecidableEq, Repr

/-- A completion record that is still to be written (R252). -/
structure XRecord where
  core : Nat
  ring : Nat
  code : Nat
  kind : Nat
  tag : BitVec 16
  bytes : Nat
  aux : Nat
  aux2 : Nat
  deriving DecidableEq, Repr

/-- An exchange unit and ingress unit (R259 to R267): `known` is the generation that the endpoint has learned
(R377), `phase` and `ended` the phases of its own grants, `sentEnd` the last one whose sending part has ended, `moving` the operation that sends in the running phase,
with the lines that are left of it, `armPins` says that the arm pins its bases until its round ends (R340), and `past`
names the generation and round of the last calendar that ran, with the endpoints to which a grant of it was void (R374). -/
structure Exchange where
  state : XState
  round : BitVec 32
  gen : BitVec 32
  known : BitVec 32
  cal : Option Calendar
  row : List Nat
  phase : Nat
  sentEnd : Nat
  ended : Nat
  voided : List Nat
  moving : Option (Nat × Nat × Nat)
  sends : List Send
  receives : Tab Receive
  arm : Option XTable
  armPins : Bool
  emap : Option XTable
  iw : Word
  dw : Word
  seen : Tab (List Nat)
  seqs : Tab (BitVec 32)
  residual : Nat
  lastResidual : Nat
  accepted : Nat
  dups : BitVec 32
  deferred : BitVec 32
  roundDups : Nat
  roundDeferred : Nat
  records : List XRecord
  layerDone : Bool
  past : Option (BitVec 32 × BitVec 32 × List Nat)
  deriving DecidableEq, Repr

/-- Power states of a die (R362). -/
inductive Power where
  | on | gated | dead
  deriving DecidableEq, Repr

/-- `slew` is the correction of the clock that is left, `frac` the ns since the last one was applied, and `exchanged` the time of
the last exchange (R375). -/
structure Die where
  ptc : Word
  slew : Int
  frac : Nat
  exchanged : Option Word
  pkgSkew : BitVec 16
  grpSkew : BitVec 16
  power : Power
  tlb : List Xlat
  tasks : List (BitVec 128 × Nat × Nat)
  fault : FaultRegs
  pending : List PendingPage
  faultq : List PageFault
  access : List AccessCtr
  mig : List Migration
  save : SaveRegs
  xu : Exchange
  deriving DecidableEq, Repr

/-- A home slice (R46, R58, R62, R73, R360): exception counters, poison discards, held writes, and the host links
that hold lines, each with the time at which a back-invalidation was sent to it. -/
structure Slice where
  ctr : Tab (BitVec 32)
  poisonDiscards : BitVec 32
  held : List Item
  sharers : List (Nat × Nat × Option Word)
  deriving DecidableEq, Repr

/-- States of a die link (R362, R387): `since` is when it began to wake, `slow` that LINKWAKE_MAX has passed. -/
inductive LinkState where
  | up | asleep (since : Option Word) (slow : Bool) | retraining | down
  deriving DecidableEq, Repr

/-- A link by its number: die links are 8 x from + to, the host links 64 and 65, the Tuzel ports 66 to 83 (log 32).
`lost` counts the lanes that were retired (R387). -/
structure Link where
  queue : List Item
  state : LinkState
  lost : Nat
  deriving DecidableEq, Repr

/-! Engines. -/

/-- An access of an engine operation that is left (R80): a row offset, source `k` of element `i`, the write of
an element, or the push of entry `j` of a FIFO stream. -/
inductive EngAcc where
  | offset (r : Nat)
  | read (i k : Nat)
  | write (i v : Nat) (poisoned : Bool)
  | push (j : Nat)
  deriving DecidableEq, Repr

/-- An end of an operation: a virtual address, or a byte of the cluster's SRAM (R254). -/
inductive EngBase where
  | mem (va : Nat)
  | sram (off : Nat)
  deriving DecidableEq, Repr

/-- A copy's geometry (R254): the element size in bytes and the fields of the descriptor; `mcast` lists the
clusters that receive. -/
structure Geometry where
  esz : Nat
  rag : Bool
  fifo : Option Nat
  n0 : Nat
  n1 : Nat
  n2 : Nat
  ss1 : Int
  ss2 : Int
  ds1 : Int
  ds2 : Int
  pad : Nat
  span : Nat
  roff : Nat
  src : EngBase
  dst : EngBase
  mcast : List Nat
  deriving DecidableEq, Repr

/-- A near-memory operation (R258): KIND of the record, types, operation and fields of the descriptor. -/
structure Near where
  kind : Nat
  set : Elem
  det : Elem
  op : Nat
  mode : Round
  sat : Bool
  count : Nat
  idx : Nat
  nsrc : Nat
  sstr : Nat
  src : Nat
  dst : Nat
  deriving DecidableEq, Repr

/-- What an engine does. -/
inductive EngJob where
  | copy (g : Geometry)
  | near (n : Near)
  deriving DecidableEq, Repr

/-- An engine operation in flight (R68, R80, R252): its number, KIND, cluster, core and function, the
translations it took (R340), the accesses that are left, the values read so far, the row offsets, its ring and
status register, and the fields of its record; `ready` is false until R64 lets it act. -/
structure Engine where
  id : Nat
  kind : Nat
  clus : Nat
  core : Nat
  func : Nat
  job : EngJob
  spots : List (Nat × Place)
  ready : Bool
  todo : List EngAcc
  got : Tab (Nat × Bool)
  offs : Tab Nat
  ring : Option Nat
  status : Option (Nat × RegNo)
  tag : BitVec 16
  codes : List Nat
  bytes : Nat
  aux : Nat
  aux2 : Nat
  deriving DecidableEq, Repr

/-! Travelling answers. -/

/-- An arrival at a barrier (R209): the barrier, the arriving core, context and frame. -/
structure Arrival where
  launch : Option Nat
  barrier : Word
  core : Nat
  ctx : Nat
  slot : Nat
  frame : Word
  deriving DecidableEq, Repr

/-- A DRET value on its way to the caller's register (R192). -/
structure Reply where
  ctx : Nat
  d : RegNo
  core : Nat
  server : Nat
  value : Word
  deriving DecidableEq, Repr

/-- A saved context (R349): its two save frames (0 until spilled), what the image does not carry, and PTC of its die when it
left its slot, below which it reads none afterwards (R161). -/
structure Saved where
  ctx : Nat
  slot : Nat
  why : SavedWhy
  frame1 : Nat
  frame2 : Nat
  spilled : Bool
  shell : Strand
  held : MatHeld
  left : Word
  deriving DecidableEq, Repr

/-! Launches and registers. -/

/-- The life of a launch (R312, R313). -/
inductive LaunchState where
  | waiting | ready | ended (status : Nat) | done
  deriving DecidableEq, Repr

/-- A node of a graph template (R321): the words of the node. -/
abbrev Node := List Word

/-- A launch in the launch table (R315): its record's 72 words, function, order of entry, predecessor count
and mark, state, seed counter, seeds made, template nodes. `aged` counts the AGEQ steps waited; `ageFrom` is the start of
the present step while some cluster of the launch is held by another launch, and else the part of a step that has
passed (R318). -/
structure Launch where
  words : List Word
  func : Nat
  order : Nat
  waitn : Nat
  pf : Bool
  state : LaunchState
  seedCtr : Word
  seeded : List Word
  activated : Nat
  firstSeed : Option Word
  aged : Nat
  ageFrom : Word
  startedAt : Word
  flushing : Option (List Nat)
  nodes : List Node
  deriving DecidableEq, Repr

/-- A write waiting at TLBINV or RINV (R326). -/
structure InvWrite where
  entry : Bool
  image : Word
  deriving DecidableEq, Repr

/-- The registers of a function (R315, R326, R345, R381). -/
structure Fn where
  qbase : Word
  qctl : Word
  qtail : BitVec 32
  qhead : BitVec 32
  crbase : Word
  crw : BitVec 32
  maxprio : BitVec 8
  ptroot : Word
  inv : List InvWrite
  busy : Bool
  trapvec : Word
  trapcfg : Word
  enabled : Bool
  deriving DecidableEq, Repr

/-- PF registers of the launch unit (R315, R321). -/
structure PfRegs where
  ageq : BitVec 32
  quant : BitVec 32
  pdelta : BitVec 8
  tdir : Word
  tdirn : BitVec 24
  turn : Nat
  deriving DecidableEq, Repr

/-- A partition's assignment register (R378, R379): `next` is a change that waits, `drain` what its scrub waits for. -/
structure Part where
  func : BitVec 10
  en : Bool
  busy : Bool
  next : Option (BitVec 10 × Bool)
  scrub : Bool
  drain : Option (List Nat)
  deriving DecidableEq, Repr

/-- The error ring (R382). -/
structure ErrRing where
  base : Word
  ctl : Word
  tail : BitVec 32
  head : BitVec 32
  drop : BitVec 32
  exh : Bool
  lost : Bool
  irqs : Nat
  deriving DecidableEq, Repr

/-- A resource's history of correctable errors (R385) and its action in progress (R386). -/
structure Tracked where
  kind : Resource
  die : Nat
  address : Nat
  times : List Word
  acting : Bool
  deriving DecidableEq, Repr

structure Ras where
  cecfg : Word
  tracked : List Tracked
  spares : Tab Nat
  deriving DecidableEq, Repr

/-- The governor (R388): `floorTicks` are the ticks in a row with the clock at 1.0 GHz, `tickAt` the time of the last
one. -/
structure Governor where
  cfg : Word
  power : BitVec 12
  freq : BitVec 11
  duty : BitVec 5
  temp : BitVec 10
  floorTicks : Nat
  tickAt : Word
  deriving DecidableEq, Repr

/-- The management unit (R363). -/
structure Mgmt where
  owner : BitVec 16
  gen : BitVec 32
  lease : BitVec 32
  claimst : Tab Word
  deriving DecidableEq, Repr

/-- Secure start (R366 to R368); `linkCfg` holds the link settings of the record that was applied. -/
structure Boot where
  slotA : Option Image
  slotB : Option Image
  copyA : Option ConfigRecord
  copyB : Option ConfigRecord
  running : Option Image
  record : Option ConfigRecord
  mrs : List (BitVec 256)
  recovery : Bool
  leaf : Nat
  reports : List (List Byte)
  linkCfg : Word
  deriving DecidableEq, Repr

/-- A post on its way to the Centroid (R370): endpoint, generation, counts, and whether the round that it is for
closed before it arrived. -/
structure Post where
  endpoint : Nat
  gen : BitVec 32
  row : List Nat
  late : Bool
  deriving DecidableEq, Repr

/-- A heartbeat (R376): generation, round, end of the last calendar. -/
structure Beat where
  gen : BitVec 32
  round : BitVec 32
  stop : Word
  deriving DecidableEq, Repr

/-- The Centroid of the group and its registers (R369 to R377): `lead` is the copy of the registers of a leader in a
peer package, once it has come here; `pkg` and `iod` name the active one; `calendars` are on their way by endpoint;
`beat` is the last heartbeat, `beatAt` its time, `missed` those missed in a row. -/
structure Centroid where
  cgmem : Word
  cgctl : Word
  cgrate : Word
  lead : Option (Word × Word × Word)
  gen : BitVec 32
  pkg : BitVec 3
  iod : Bool
  late : BitVec 16
  posts : List Post
  rows : Tab (List Nat)
  openAt : Option Word
  round : BitVec 32
  prevEnd : Word
  calendars : Tab Calendar
  beat : Option Beat
  beatAt : Word
  missed : Nat
  deriving DecidableEq, Repr

/-- A record in the donation intake (R322): task, sender, arrival time. -/
structure Donation where
  task : BitVec 128
  sender : BitVec 3
  time : Word
  deriving DecidableEq, Repr

/-- A fabric port (R55): its queue and exception counters. -/
structure Port where
  queue : List PortOp
  ctr : Tab (BitVec 32)
  deriving DecidableEq, Repr

/-- A host link (R68, R361): write queue, whether it is declared down and viral, invalidations in wait. -/
structure HostLink where
  queue : List Item
  down : Bool
  viral : Bool
  deriving DecidableEq, Repr

/-- The host's own copy of a device-homed line (R68). -/
structure HostCopy where
  line : Nat
  link : Nat
  dirty : Bool
  data : Line
  deriving DecidableEq, Repr

/-- A snoop-filter entry (R359): line, die mask, whether some die holds it dirty; most recently used first. -/
structure FilterEntry where
  line : Nat
  mask : BitVec 8
  dirty : Bool
  deriving DecidableEq, Repr

/-- A shootdown in progress (R328): function, page or all, region entry instead, dies that have
acknowledged, accesses that must be performed, whom it answers. -/
structure Shoot where
  id : Nat
  func : Nat
  entry : Bool
  image : Word
  acked : List Nat
  waits : Tab (List Nat)
  ctx : Option Nat
  register : Bool
  migration : Option Nat
  deriving DecidableEq, Repr

/-- A cluster saved whole (R356): the parts that its save frames hold. -/
structure SavedCluster where
  clus : Nat
  launch : Nat
  cluster : Cluster
  cores : Tab Core
  slots : List (Nat × Nat)
  frames : List Nat
  deriving DecidableEq, Repr

/-- A refusal record (R214): 32 bytes, as a number, for a package. -/
abbrev RefusalRecord := BitVec 256

/-- Whose turn the next step is, with the choices that the manual leaves to the run (R69, R70; log 1). -/
inductive Turn where
  /-- ISSUE at a core; the listed slots are held by an interlock of R218 (log 5). -/
  | issue (core : Nat) (held : List Nat)
  /-- a step of R70 or of the other chapters -/
  | event (i : Instr)
  /-- PTC advances on every die (R1) -/
  | elapse (ns : Nat)
  /-- a 128 B line arrives in a granted phase from an endpoint of a peer package; `good` is its CRC check (R261,
  R262; log 23) -/
  | peerLine (die endpoint : Nat) (data : Line) (poison good : Bool)
  /-- a link-level retry delivers the last row of a pair a second time (R267; log 23) -/
  | rowAgain (die endpoint : Nat)
  /-- a calendar arrives from a Centroid in a peer package (R374; log 23) -/
  | peerCalendar (die : Nat) (cal : Calendar)
  /-- a post of an endpoint of a peer package is sent to the Centroid here (R370; log 23) -/
  | peerPost (p : Post)
  /-- a refusal record comes back from a peer package (R214; log 23) -/
  | peerRefusal (r : RefusalRecord)
  /-- a heartbeat of the active Centroid arrives, or one is missed (R376; log 23) -/
  | peerBeat (seen : Bool) (pkg : BitVec 3) (iod : Bool) (beat : Beat)
  /-- CGMEM, CGCTL and CGRATE of a leader in a peer package come here after a write of one of them (R369; log 23) -/
  | peerConfig (cgmem cgctl cgrate : Word)
  /-- the launch unit asks for a slot in order to resume a saved context there (R352; log 19) -/
  | slotRequest (slot ctx : Nat)
  /-- a driver or a management controller reads a register, as a function: 0 is the PF (R5; log 40) -/
  | registerRead (fn : Nat) (reg : PlainReg ⊕ OtherReg)
  /-- a cold or warm reset of the device (R366, R368; log 41) -/
  | reset
  deriving DecidableEq, Repr

end Sys2Proof.Machine
end

