-- ==== Sys2Proof/Machine/State.lean ====
section
/-! DEFINITION. The state of the whole package as plain data, and the state after reset. INVENTORY.md names
the rule of spec/ behind every field and the reset value of each. -/

namespace Sys2Proof.Machine

/-- Why the machine stops. -/
inductive Fault where
  /-- Raised by HOST for an access at a physical address that R323 says does not exist. Safe: the model stops where the
  manual does not say what the device does. -/
  | noSuchAddress
  deriving DecidableEq, Repr

/-- Why the model does not run an instruction. -/
inductive Refusal where
  /-- Raised by an arm of `exec` whose instruction has no meaning yet. Safe: nothing is said of it. -/
  | notModelled (mnemonic : String)
  deriving DecidableEq, Repr

structure State where
  /-- The model's own: whose turn comes next (log 1). -/
  agenda : List Turn
  /-- The model's own: the slot whose strand issues, by 8 x core + slot (log 1). -/
  here : Nat
  /-- The model's own: the next number for items, contexts and operations; 0 numbers no context (log 1). -/
  serial : Nat
  /-- The model's own: the last issue attempt was held (R72; log 2). -/
  stalled : Bool
  /-- Accesses issued and not yet performed (R75). -/
  live : List Live
  /-- Accesses accepted and not yet complete at the host (R73, R75 reach SYSTEM). -/
  hostLive : List Live
  /-- Memory at physical addresses (R323). -/
  mem : List Host.Cell
  /-- Poisoned lines, by line number (R62). -/
  poison : List Nat
  /-- Die L2 copies of host-homed lines (R53), by die x 2^45 + line: bytes and written mask. -/
  l2host : Tab (Line × ByteMask)
  /-- The lines in the sets of each die's L2, the most recently used first (R45; log 37), by 1,024 x slice + set. -/
  l2sets : Tab (List Nat)
  strands : Tab Strand
  cores : Tab Core
  clusters : Tab Cluster
  dies : Tab Die
  /-- Home slices by 64 x die + slice (R46). -/
  slices : Tab Slice
  /-- Posting buffers P[c][h] by 64 x core + slice (R68). -/
  posting : Tab (List Item)
  /-- Links by number (R63, R68, R387). -/
  links : Tab Link
  /-- Ingress buffers by 64 x link + slice (R68). -/
  ingress : Tab (List Item)
  gathers : Tab Gather
  engines : List Engine
  /-- Messages on their way (R9, R12, R211). -/
  transit : List Activation
  arrivals : List Arrival
  replies : List Reply
  decs : List Dec
  parks : List Park
  saved : List Saved
  savedClusters : List SavedCluster
  launches : Tab Launch
  fns : Tab Fn
  pf : PfRegs
  parts : Tab Part
  er : ErrRing
  ras : Ras
  power : Governor
  mgmt : Mgmt
  boot : Boot
  cg : Centroid
  donations : List Donation
  /-- Records sent to peer packages, as (package, record) (R214). -/
  donOut : List (Nat × BitVec 128)
  /-- Refusal records written for peers (R214). -/
  refusals : List RefusalRecord
  /-- The donation refusal ring: the refusals that came back (R214; log 26). -/
  refusalRing : List RefusalRecord
  /-- The driver's log of donations that arrived (R322; log 26). -/
  donLog : List (BitVec 128)
  fabric : Tab Port
  host : Tab HostLink
  copies : List HostCopy
  /-- What loads and read-modify-writes of the host's processors and reads of registers returned, the last first (R5,
  R68, R70 HOST). -/
  hostGot : List Word
  filters : Tab (List FilterEntry)
  shoots : List Shoot
  /-- The package's index in its exchange group (R160). No rule names what sets it: it is 0 after reset, and no step of
  the model writes it (DESIGN CHOICE, log 39). -/
  pkg : BitVec 3
  deriving DecidableEq, Repr

/-! The parts as they are after cold reset. -/

/-- A slot that holds no strand. -/
def Strand.idle : Strand where
  active := false
  pc := 0
  hdr := 0
  hword := 0
  way := none
  x := []
  v := []
  m := []
  n := []
  emptyX := 0
  pendX := 0
  emptyV := 0
  pendV := 0
  wid := 0
  fflags := 0
  frm := 0
  enable := 0
  region := []
  jl := none
  tm := 0
  lp := none
  cls := .load
  prio := 0
  type := 0
  ctx := 0
  launch := none
  func := 0
  queue := []
  edge := none
  wait := none
  walk := none
  bound := none
  caller := none
  p0 := none
  reload := none
  trap := none

def StealEngine.reset : StealEngine := ⟨[0, 0, 0], [0, 0, 0], false, 0, false, none⟩

def Barrier.reset : Barrier := ⟨1, 0, 0, []⟩

def Core.reset : Core where
  vtab := []
  actq := []
  deque := []
  spilling := false
  refilling := none
  groups := 0
  short := []
  barriers := []
  age := 1024
  pass := []
  last := []
  utlb := []
  icache := []
  regions := []
  engine := .reset
  rstack := []
  shadow := none
  moves := []
  discards := 0

def Fifo.reset : Fifo := ⟨[], [], none, false, 0⟩

def MatHeld.reset : MatHeld := ⟨0, [], []⟩

def MatCtx.reset : MatCtx := ⟨0, 0, .native, none, 0, 0, none, [], none, none, [], .reset⟩

def JoinCounter.reset : JoinCounter := ⟨0, false, false, none, 0⟩

def Cluster.reset : Cluster where
  modes := []
  sram := []
  badSram := []
  fifos := []
  lines := []
  fetches := []
  changing := []
  atomCtr := []
  bankCtr := []
  counters := []
  spilled := []
  frames := []
  spillFrames := []
  ready := []
  board := []
  rings := []
  sc := 0
  sched := 0
  tlb := []
  mats := []
  cvts := []
  served := 31
  holder := none
  next := none
  heldAt := 0
  started := false
  save := .off

def FaultRegs.reset : FaultRegs := ⟨0, 256 <<< 16, 0, 0, false, 0, 0, 0, 0, 0, 0⟩

def SaveRegs.reset : SaveRegs := ⟨0, 64 <<< 16, 0⟩

def Exchange.reset : Exchange where
  state := .idle
  round := 0
  gen := 0
  known := 0
  cal := none
  row := []
  phase := 0
  sentEnd := 0
  ended := 0
  voided := []
  moving := none
  sends := []
  receives := []
  arm := none
  armPins := false
  emap := none
  iw := 0
  dw := 0
  seen := []
  seqs := []
  residual := 0
  lastResidual := 0
  accepted := 0
  dups := 0
  deferred := 0
  roundDups := 0
  roundDeferred := 0
  records := []
  layerDone := false
  past := none

def Die.reset : Die where
  ptc := 0
  slew := 0
  frac := 0
  exchanged := none
  pkgSkew := 0xFFFF
  grpSkew := 0xFFFF
  power := .on
  tlb := []
  tasks := []
  fault := .reset
  pending := []
  faultq := []
  access := []
  mig := []
  save := .reset
  xu := .reset

def Slice.reset : Slice := ⟨[], 0, [], []⟩

def Link.reset : Link := ⟨[], .up, 0⟩

def Fn.reset : Fn where
  qbase := 0
  qctl := 0
  qtail := 0
  qhead := 0
  crbase := 0
  crw := 0
  maxprio := 255
  ptroot := 0
  inv := []
  busy := false
  trapvec := 0
  trapcfg := 0
  enabled := false

def Part.reset : Part := ⟨0, false, false, none, false, none⟩

def Port.reset : Port := ⟨[], []⟩

def HostLink.reset : HostLink := ⟨[], false, false⟩

/-- The machine right after cold reset. -/
def State.reset : State where
  agenda := []
  here := 0
  serial := 1
  stalled := false
  live := []
  hostLive := []
  mem := []
  poison := []
  l2host := []
  l2sets := []
  strands := []
  cores := []
  clusters := []
  dies := []
  slices := []
  posting := []
  links := []
  ingress := []
  gathers := []
  engines := []
  transit := []
  arrivals := []
  replies := []
  decs := []
  parks := []
  saved := []
  savedClusters := []
  launches := []
  fns := []
  pf := ⟨1000, 2000, 16, 0, 0, 0⟩
  parts := []
  er := ⟨0, 0x40, 0, 0, 0, false, false, 0⟩
  ras := ⟨3600 ||| (16 <<< 17), [], []⟩
  power := ⟨3600 ||| (1600 <<< 12), 0, 1600, 16, 0, 0, 0⟩
  mgmt := ⟨0, 0, 0, []⟩
  boot := ⟨none, none, none, none, none, none, List.replicate 8 0, false, 0, [], 0⟩
  cg := { cgmem := 0, cgctl := (40 <<< 16) ||| (10000 <<< 32), cgrate := 1600 ||| (2000 <<< 16), lead := none, gen := 0,
          pkg := 0, iod := false, late := 0, posts := [], rows := [], openAt := none, round := 0,
          prevEnd := 0, calendars := [], beat := none, beatAt := 0, missed := 0 }
  donations := []
  donOut := []
  refusals := []
  refusalRing := []
  donLog := []
  fabric := []
  host := []
  copies := []
  hostGot := []
  filters := []
  shoots := []
  -- DESIGN CHOICE (log 39): the manual names no source of the index (R160)
  pkg := 0

/-! Reading and writing the parts by number; a part that no step has written is as after reset. -/

def State.strand (s : State) (k : Nat) : Strand := s.strands.get k .idle
def State.core (s : State) (c : Nat) : Core := s.cores.get c .reset
def State.cluster (s : State) (k : Nat) : Cluster := s.clusters.get k .reset
def State.die (s : State) (d : Nat) : Die := s.dies.get d .reset
def State.slice (s : State) (k : Nat) : Slice := s.slices.get k .reset
def State.link (s : State) (k : Nat) : Link := s.links.get k .reset
def State.fn (s : State) (f : Nat) : Fn := s.fns.get f .reset
def State.part (s : State) (k : Nat) : Part := s.parts.get k .reset
def State.port (s : State) (p : Nat) : Port := s.fabric.get p .reset
def State.hostLink (s : State) (p : Nat) : HostLink := s.host.get p .reset

def State.setStrand (s : State) (k : Nat) (t : Strand) : State := { s with strands := s.strands.put k t }
def State.setCore (s : State) (c : Nat) (t : Core) : State := { s with cores := s.cores.put c t }
def State.setCluster (s : State) (k : Nat) (t : Cluster) : State := { s with clusters := s.clusters.put k t }
def State.setDie (s : State) (d : Nat) (t : Die) : State := { s with dies := s.dies.put d t }
def State.setSlice (s : State) (k : Nat) (t : Slice) : State := { s with slices := s.slices.put k t }
def State.setLink (s : State) (k : Nat) (t : Link) : State := { s with links := s.links.put k t }
def State.setFn (s : State) (f : Nat) (t : Fn) : State := { s with fns := s.fns.put f t }
def State.setPart (s : State) (k : Nat) (t : Part) : State := { s with parts := s.parts.put k t }
def State.setPort (s : State) (p : Nat) (t : Port) : State := { s with fabric := s.fabric.put p t }
def State.setHostLink (s : State) (p : Nat) (t : HostLink) : State := { s with host := s.host.put p t }

end Sys2Proof.Machine
end

