-- ==== Sys2Proof/Machine/Memory.lean ====
section
/-! DEFINITION. Bytes of memory, lines and their masks, home slices, copies of lines, and the error ring
(spec/02_memory.md R45, spec/03_ordering.md R73, spec/21_translation.md R323, spec/23_host.md R360, spec/25_fleet.md
R382). -/

namespace Sys2Proof.Machine

/-! Numbers of places. -/

def coreClus (c : Nat) : Nat := c / 32
def coreDie (c : Nat) : Nat := c / 8192
def clusDie (k : Nat) : Nat := k / 256
def slotCore (k : Nat) : Nat := k / 8
def slotIdx (k : Nat) : Nat := k % 8
def slotKey (c i : Nat) : Nat := 8 * c + i

/-- Whether a physical address names host memory (R323). -/
def paHost (pa : Nat) : Bool := 2 ^ 51 ≤ pa

/-- The die of a device address (R323). -/
def paDie (pa : Nat) : Nat := bits pa 37 3

/-- Whether a physical address exists (R323). -/
def paValid (pa : Nat) : Bool :=
  pa < 2 ^ 52 && (paHost pa || (bits pa 40 11 == 0 && bits pa 0 37 < 128000000000))

/-- Whether every address of `n` bytes exists (R323). -/
def bytesExist (pa n : Nat) : Bool := paValid pa && paValid (pa + n - 1)

/-- The home slice of an address (R45). -/
def homeSlice (pa : Nat) : Nat :=
  bits pa 7 6 ^^^ bits pa 13 6 ^^^ bits pa 19 6 ^^^ bits pa 25 6 ^^^ bits pa 31 6 ^^^ bits pa 37 6 ^^^
    bits pa 43 6 ^^^ bits pa 49 6

/-- The reach between two clusters (R74). -/
def distance (k1 k2 : Nat) : Dom :=
  if k1 = k2 then .cluster else if clusDie k1 = clusDie k2 then .die else .package

/-! Memory as canonical cells (log 3): addresses rise and no cell holds what an unlisted address reads as. -/

abbrev Memory := List Host.Cell

/-- What an address that no cell lists reads as (log 3). -/
def unlistedByte : Byte := 0

def Memory.read (m : Memory) (a : Nat) : Byte :=
  match m with
  | [] => unlistedByte
  | (b, v) :: r => if b = a then v else Memory.read r a

/-- Writes a byte and keeps the canonical form. -/
def Memory.write (m : Memory) (a : Nat) (v : Byte) : Memory :=
  match m with
  | [] => if v = unlistedByte then [] else [(a, v)]
  | (b, w) :: r =>
    if b = a then (if v = unlistedByte then r else (a, v) :: r)
    else if a < b then (if v = unlistedByte then (b, w) :: r else (a, v) :: (b, w) :: r)
    else (b, w) :: Memory.write r a v

/-- The canonical form. -/
def Memory.wf : Memory → Bool
  | [] => true
  | [(_, v)] => v != unlistedByte
  | (a, v) :: (b, w) :: r => v != unlistedByte && a < b && Memory.wf ((b, w) :: r)

/-- The `n` bytes from `a`, little-endian (R4). -/
def Memory.readN (m : Memory) (a : Nat) : Nat → Nat
  | 0 => 0
  | n + 1 => (m.read a).toNat + 256 * Memory.readN m (a + 1) n

def Memory.writeN (m : Memory) (a v : Nat) : Nat → Memory
  | 0 => m
  | n + 1 => Memory.writeN (m.write a (BitVec.ofNat 8 v)) (a + 1) (v / 256) n

/-- Writes the bytes of `v` that the mask names, from byte `i` of the line at `a` on. -/
def Memory.writeMasked (m : Memory) (a v mask : Nat) : Nat → Memory
  | 0 => m
  | n + 1 =>
    Memory.writeMasked (if mask % 2 = 1 then m.write a (BitVec.ofNat 8 v) else m) (a + 1) (v / 256) (mask / 2) n

def State.readByte (s : State) (a : Nat) : Byte := Memory.read s.mem a
/-- The `n` bytes from `a`; a free value where they do not exist (R323; log 3). -/
def State.readMem (s : State) (a n : Nat) : Nat :=
  if bytesExist a n then Memory.readN s.mem a n else Config.absentBytes a s.serial % 2 ^ (8 * n)

/-- Writes `n` bytes at `a`; bytes that do not exist hold nothing (R323; log 3). -/
def State.writeMem (s : State) (a v n : Nat) : State :=
  if bytesExist a n then { s with mem := Memory.writeN s.mem a v n } else s
def State.readLine (s : State) (l : Nat) : Line := BitVec.ofNat 1024 (Memory.readN s.mem (128 * l) 128)

/-- Merges masked bytes into a line of memory; a write of all 128 bytes clears its poison (R51, R62). -/
def State.mergeLine (s : State) (l : Nat) (d : Line) (mask : ByteMask) : State :=
  { s with
    mem := Memory.writeMasked s.mem (128 * l) d.toNat mask.toNat 128
    poison := if mask = BitVec.allOnes 128 then s.poison.filter (fun p => p != l) else s.poison }

/-! Bytes of lines. -/

/-- The `n` bytes at offset `off` of a line, little-endian. -/
def lineBytes (d : Line) (off n : Nat) : Nat := d.toNat / 2 ^ (8 * off) % 2 ^ (8 * n)

/-- The mask of `n` bytes at offset `off`. -/
def byteMask (off n : Nat) : ByteMask := BitVec.ofNat 128 ((2 ^ n - 1) * 2 ^ off)

/-- A line with the value `v` at offset `off`. -/
def lineAt (v off : Nat) : Line := BitVec.ofNat 1024 (v * 2 ^ (8 * off))

/-- The bit mask of a byte mask: eight bits for each byte. -/
def spread (mask : Nat) : Nat → Nat
  | 0 => 0
  | n + 1 => (if mask % 2 = 1 then 255 else 0) + 256 * spread (mask / 2) n

def maskBits (mask : ByteMask) : Line := BitVec.ofNat 1024 (spread mask.toNat 128)

/-- The line `old` with the masked bytes of `new` (R51). -/
def mergeBytes (old new : Line) (mask : ByteMask) : Line :=
  (old &&& ~~~(maskBits mask)) ||| (new &&& maskBits mask)

/-! Serials and live accesses. -/

def State.fresh (s : State) : State := { s with serial := s.serial + 1 }

def State.addLive (s : State) (l : Live) : State := { s with live := l :: s.live }

/-- The access is performed (R75). -/
def State.performed (s : State) (n : Nat) : State :=
  { s with live := s.live.filter fun l => l.serial != n }

/-- The access is complete at the host (R73). -/
def State.hostDone (s : State) (n : Nat) : State :=
  { s with hostLive := s.hostLive.filter fun l => l.serial != n }

/-- The access is accepted: performed for a DIE or PACKAGE release, not yet for a SYSTEM release (R73). -/
def State.accepted (s : State) (n : Nat) : State :=
  { s.performed n with hostLive := (s.live.filter fun l => l.serial == n) ++ s.hostLive }

/-- Whether every serial of a list is performed; with `sys` also complete at the host. -/
def State.allDone (s : State) (sys : Bool) (w : List Nat) : Bool :=
  w.all fun n => !(s.live.any fun l => l.serial == n) && !(sys && s.hostLive.any fun l => l.serial == n)

/-! Dies and the links between them (R24, R63, R362). -/

/-- Whether a die works. -/
def State.dieOn (s : State) (d : Nat) : Bool := (s.die d).power == .on

def linkKey (a b : Nat) : Nat := 8 * a + b

/-- The neighbours of a die on the grid of R24. -/
def neighbours (d : Nat) : List Nat :=
  (if d % 4 = 0 then [] else [d - 1]) ++ (if d % 4 = 3 then [] else [d + 1]) ++ [if d < 4 then d + 4 else d - 4]

/-- Some link into the die is trained. -/
def State.dieAwake (s : State) (d : Nat) : Bool := (neighbours d).any fun n => (s.link (linkKey n d)).state == .up

/-- No link into the die is trained, and one of them sleeps or wakes. -/
def State.dieWakes (s : State) (d : Nat) : Bool :=
  !s.dieAwake d && (neighbours d).any fun n => match (s.link (linkKey n d)).state with
    | .asleep .. => true
    | _ => false

/-! Copies of lines in the host and in the L2s of the dies (R53, R73, R360; log 22). -/

/-- The home slice of a line of device memory (R45). -/
def sliceOf (line : Nat) : Nat := 64 * paDie (128 * line) + homeSlice (128 * line)

def l2Key (die line : Nat) : Nat := die * 2 ^ 45 + line

/-- Host memory has a line anew: copies in die L2s take its bytes, but for those they hold written. -/
def State.refreshCopies (s : State) (line : Nat) : State :=
  (List.range 8).foldl (fun s d =>
    match s.l2host.find (l2Key d line) with
    | some (c, m) => { s with l2host := s.l2host.put (l2Key d line) (mergeBytes (s.readLine line) c m, m) }
    | none => s) s

/-- A queued host write is complete on CXL in host memory (R70 HOSTW). -/
def State.hostWrite (s : State) (it : Item) : State :=
  match it.act with
  | .write d m _ => ((s.mergeLine it.line d m).refreshCopies it.line).hostDone it.serial
  | _ => s.hostDone it.serial

/-- Completes the queued writes of one line, in order (R359). -/
def State.hostFlushLine (s : State) (line : Nat) : State :=
  [0, 1].foldl (fun s p =>
    let l := s.hostLink p
    let mine := l.queue.filter fun it => it.line == line
    if mine.isEmpty then s
    else
      mine.foldl (fun s it => s.hostWrite it)
        (s.setHostLink p { l with queue := l.queue.filter fun it => it.line != line })) s

/-- Whether a line has a write held at a slice (R73). -/
def State.heldOn (s : State) (sl line : Nat) : Bool := (s.slice sl).held.any fun it => it.line == line

/-- The last answer of every host link completes the held writes of a line (R70 BIACK, R73, R360). While the die's links wake
they wait (R362). -/
def State.releaseHeld (s : State) (sl line : Nat) : State :=
  let h := s.slice sl
  if (h.sharers.any fun e => e.1 == line) || s.dieWakes (sl / 64) then s
  else
    let mine := h.held.filter fun it => it.line == line
    let s := s.setSlice sl { h with held := h.held.filter fun it => it.line != line }
    mine.foldl (fun s it =>
      match it.act with
      | .write d m _ => (s.mergeLine line d m).hostDone it.serial
      | _ => s.hostDone it.serial) s

/-- The host's modified copies of a device-homed line are written back (R360; log 22). With `drop` the copies are
removed, which completes the held writes. -/
def State.pullHost (s : State) (line : Nat) (drop : Bool) : State :=
  let mine := s.copies.filter fun c => c.line == line
  let s := mine.foldl (fun s c => if c.dirty then s.mergeLine line c.data (BitVec.allOnes 128) else s) s
  let rest := s.copies.filter fun c => c.line != line
  if drop then
    let k := 64 * paDie (128 * line) + homeSlice (128 * line)
    let sl := s.slice k
    if mine.isEmpty && !(sl.sharers.any fun e => e.1 == line) then s
    else ({ s.setSlice k { sl with sharers := sl.sharers.filter fun e => e.1 != line } with copies := rest }).releaseHeld k line
  else if mine.isEmpty then s
  else { s with copies := (mine.map fun c => { c with dirty := false }) ++ rest }

/-- A write by hardware that is no core, of bytes of one line at its home: behind a write that is held there (R73), and no copy
of the host is left to hide it. Copies of host memory in die L2s take its bytes. -/
def State.hwWrite (s : State) (pa v n : Nat) : State :=
  let l := pa / 128
  if paHost pa then ((s.hostFlushLine l).writeMem pa v n).refreshCopies l
  else if s.heldOn (sliceOf l) l then
    let h := s.slice (sliceOf l)
    let it : Item := { serial := 0, ctx := 0, die := paDie pa, line := l,
                       act := .write (lineAt v (pa % 128)) (byteMask (pa % 128) n) false, after := [], func := 0, va := 0,
                       core := 0, wb := false, ctxs := [] }
    s.setSlice (sliceOf l) { h with held := h.held ++ [it] }
  else (s.pullHost l true).writeMem pa v n

/-! Time and the error ring. -/

/-- PTC of the die of I/O die 0, taken as die 0's (R375; log 5). -/
def State.now (s : State) : Word := (s.die 0).ptc

/-- Writes an error record (R382, R383): dropped while EN = 0, counted in ERDROP at a full ring. -/
def State.error (s : State) (kind sev die func count : Nat) (addr aux : Nat) : State :=
  let e := s.er
  let e := if kind = 8 then { e with exh := true } else e
  if !e.ctl.getLsbD 4 then { s with er := e }
  else
    let n := 2 ^ (e.ctl.toNat % 16)
    if (e.tail - e.head).toNat = n then
      { s with er := { e with drop := if e.drop = BitVec.allOnes 32 then e.drop else e.drop + 1, lost := true } }
    else
      let base := e.base.toNat / 64 % 2 ^ 46 * 64 + 64 * (e.tail.toNat % n)
      let w0 := kind + sev * 2 ^ 8 + die * 2 ^ 10 + (if e.lost then 2 ^ 13 else 0) + func * 2 ^ 16 + count * 2 ^ 32
      let s := s.hwWrite base
        (w0 + addr % 2 ^ 64 * 2 ^ 64 + aux % 2 ^ 64 * 2 ^ 128 + s.now.toNat * 2 ^ 192) 64
      { s with er := { e with
          tail := e.tail + 1
          lost := false
          irqs := if e.ctl.toNat / 32 % 4 ≤ sev then e.irqs + 1 else e.irqs } }

/-- Poisons a line, with one POISON record of the reporting die when it was not poisoned (R62, R383, R384). -/
def State.poisonLine (s : State) (l unit die : Nat) : State :=
  if s.poison.contains l then s
  else ({ s with poison := l :: s.poison }).error 17 2 die 0 1 (128 * l) unit

/-- Poisons a line whose CRC failed, with the record of the die that received it (R252, R267, R384). -/
def State.crcPoison (s : State) (l endpoint die : Nat) : State :=
  let s := s.error 16 2 die 0 1 (128 * l) endpoint
  if s.poison.contains l then s else { s with poison := l :: s.poison }

/-- Raises the counters of the flags in a set, saturating (R110, R186). -/
def countFlags (t : Tab (BitVec 32)) (fl : Nat) : Tab (BitVec 32) :=
  [0, 1, 2, 3, 4].foldl (fun t i =>
    if bits fl i 1 = 1 then
      let v := t.get i 0
      t.put i (if v = BitVec.allOnes 32 then v else v + 1)
    else t) t

end Sys2Proof.Machine
end

