-- ==== Sys2Proof/Machine/Operands.lean ====
section
/-! DEFINITION. The operand forms of instructions: reading and writing x, v, m and n registers, the full and
empty bits (spec/06_encoding.md R131), and the value of every immediate (R133). -/

namespace Sys2Proof.Machine

/-! Registers. x0 reads as zero and discards writes (R131). -/

def Strand.xr (t : Strand) (r : RegNo) : Word := if r = 0 then 0 else t.x.get r.toNat 0
def Strand.vr (t : Strand) (r : RegNo) : Vec := t.v.get r.toNat 0
/-- m0 reads as all ones and discards writes (R217). -/
def Strand.mr (t : Strand) (k : BitVec 3) : Word := if k = 0 then BitVec.allOnes 64 else t.m.get k.toNat 0
def Strand.nr (t : Strand) (k : BitVec 4) : Word := t.n.get k.toNat 0

/-- One bit of a register mask. -/
def regBit (r : RegNo) : BitVec 32 := 1#32 <<< r.toNat

/-- Writes an x register and fills it (R131). -/
def Strand.setX (t : Strand) (r : RegNo) (v : Word) : Strand :=
  if r = 0 then t
  else { t with x := t.x.put r.toNat v, emptyX := t.emptyX &&& ~~~(regBit r), pendX := t.pendX &&& ~~~(regBit r) }

def Strand.setV (t : Strand) (r : RegNo) (v : Vec) : Strand :=
  { t with v := t.v.put r.toNat v, emptyV := t.emptyV &&& ~~~(regBit r), pendV := t.pendV &&& ~~~(regBit r) }

def Strand.setM (t : Strand) (k : BitVec 3) (v : Word) : Strand :=
  if k = 0 then t else { t with m := t.m.put k.toNat v }
def Strand.setN (t : Strand) (k : BitVec 4) (v : Word) : Strand := { t with n := t.n.put k.toNat v }

/-- Marks an x register empty with a pending producer (R131 rule 1). -/
def Strand.pendDestX (t : Strand) (r : RegNo) : Strand :=
  if r = 0 then t else { t with emptyX := t.emptyX ||| regBit r, pendX := t.pendX ||| regBit r }

/-- No producer of an empty register is left. -/
def Strand.unpendX (t : Strand) (r : RegNo) : Strand := { t with pendX := t.pendX &&& ~~~regBit r }

def Strand.pendDestV (t : Strand) (r : RegNo) : Strand :=
  { t with emptyV := t.emptyV ||| regBit r, pendV := t.pendV ||| regBit r }

/-- Whether every long-latency producer has filled its destination (R193). -/
def Strand.filled (t : Strand) : Bool := t.pendX == 0 && t.pendV == 0

/-! The rules of R131 for a source or a destination field. -/

/-- A register field as R131 treats it: a source with its t bit, or a destination. -/
inductive Opnd where
  | xs (r : RegNo) (t : Bool)
  | vs (r : RegNo) (t : Bool)
  | xd (r : RegNo)
  | vd (r : RegNo)
  deriving DecidableEq, Repr

/-- What an empty register does to an instruction. -/
inductive Gate where
  | ok | stall | trap
  deriving DecidableEq, Repr

/-- A source: empty without a producer traps; else the t bit chooses between stall and trap (R131 rules 2, 6). -/
def srcGate (empty pend t : Bool) : Gate :=
  if !empty then .ok else if !pend then .trap else if t then .trap else .stall

/-- A destination stalls while a producer is pending (R131 rules 3, 6). -/
def dstGate (empty pend : Bool) : Gate := if empty && pend then .stall else .ok

def Strand.gateOf (t : Strand) : Opnd → Gate
  | .xs r b => if r = 0 then .ok else srcGate (t.emptyX.getLsbD r.toNat) (t.pendX.getLsbD r.toNat) b
  | .vs r b => srcGate (t.emptyV.getLsbD r.toNat) (t.pendV.getLsbD r.toNat) b
  | .xd r => if r = 0 then .ok else dstGate (t.emptyX.getLsbD r.toNat) (t.pendX.getLsbD r.toNat)
  | .vd r => dstGate (t.emptyV.getLsbD r.toNat) (t.pendV.getLsbD r.toNat)

/-- All fields together: a trap comes before a stall (R175; log 24). -/
def Strand.gate (t : Strand) (l : List Opnd) : Gate :=
  if l.any fun o => t.gateOf o == .trap then .trap
  else if l.any fun o => t.gateOf o == .stall then .stall
  else .ok

end Sys2Proof.Machine
namespace Sys2Proof

def Src.x (a : Src) : Machine.Opnd := .xs a.r a.t
def Src.v (a : Src) : Machine.Opnd := .vs a.r a.t

end Sys2Proof
namespace Sys2Proof.Machine

/-! Widths and codes (R134, R151). -/

/-- The low `n` bits of a word as a natural number. -/
def lowBits (v : Word) (n : Nat) : Nat := v.toNat % 2 ^ n

/-- The low `n` bits read as a two's complement number. -/
def signedOf (v n : Nat) : Int := if v % 2 ^ n < 2 ^ (n - 1) then (v % 2 ^ n : Nat) else (v % 2 ^ n : Nat) - (2 ^ n : Nat)

/-- A value of `n` bits as a size code reads it. -/
def readAs (signed : Bool) (n v : Nat) : Int := if signed then signedOf v n else (v % 2 ^ n : Nat)

/-- R151: the result mod 2^n, sign- or zero-extended to a register. -/
def extendTo (signed : Bool) (n : Nat) (v : Int) : Word :=
  BitVec.ofInt 64 (readAs signed n (v % (2 ^ n : Nat)).toNat)

/-- The value that a load or a returning atomic writes (R176). -/
def loadValue (z : Size) (v : Nat) : Word := extendTo z.signed z.w.bits v

end Sys2Proof.Machine
namespace Sys2Proof

def NumTy.size (t : NumTy) : Size :=
  ⟨if t.bytes = 4 then .w32 else .w64, t.signed && !t.isFloat⟩

end Sys2Proof
namespace Sys2Proof.Machine

/-- M-format addresses: xa + sext(off) x unit, mod 2^64 (R173). -/
def mAddr (base : Word) (off : BitVec 12) (unit : Nat) : Word :=
  base + BitVec.ofInt 64 (off.toInt * (unit : Int))

/-- A displacement in 8-byte units from the address of the instruction's first word with bits [2:0] cleared
(R130). -/
def relTarget (pc : Word) (disp : Int) : Word :=
  (pc &&& ~~~7#64) + BitVec.ofInt 64 (8 * disp)

/-! Headers (R128). -/

def hdrRejoin (h : Word) : Int := (h.extractLsb' 0 10).toInt
def hdrP (h : Word) : Bool := h.getLsbD 15
def hdrH (h : Word) : Bool := h.getLsbD 16
def hdrC (h : Word) : Bool := h.getLsbD 17
def hdrLength (h : Word) : Nat := (h.extractLsb' 18 8).toNat
def hdrMajor (h : Word) : Nat := (h.extractLsb' 26 6).toNat
def hdrLivex (h : Word) : BitVec 24 := h.extractLsb' 32 24
def hdrLivev (h : Word) : BitVec 8 := h.extractLsb' 56 8

/-- The first two rows of R129. -/
def hdrFramed (h : Word) : Bool := hdrMajor h == 0x3F && hdrLength h != 0

/-- The header that follows the block: the continuation or return header (R169, R197). -/
def Strand.nextHeader (t : Strand) : Word := t.hdr + 8 + 4 * BitVec.ofNat 64 (hdrLength t.hword)

/-- A wider address than 58 bits or a misaligned one is no header (R130). -/
def headerAddr (a : Word) : Bool := a.toNat % 8 == 0 && a.toNat < 2 ^ 58

end Sys2Proof.Machine
end

