-- ==== Sys2Proof/Machine/Context.lean ====
section
/-! DEFINITION. The trap frame, replay-queue entries as words, and the image of a saved context
(spec/12_isa_engines.md R269 to R271, spec/22_traps.md R349, R350). -/

namespace Sys2Proof.Machine

/-- The code of a trap (R268). -/
def Trap.code : Trap → Nat
  | .illegal => 1 | .framing => 2 | .empty => 3 | .window => 4 | .alignment => 5 | .protection _ => 6
  | .translation .. => 7 | .foreignDie .. => 8 | .poison => 9 | .linkLost => 10 | .software _ => 11
  | .breakpoint _ => 12

/-- CODE of the trap frame: the PROTECTION cause or the e of TRAP and BRK (R269). -/
def Trap.detail : Trap → Nat
  | .protection c => c
  | .software e | .breakpoint e => e
  | _ => 0

def SlotClass.code : SlotClass → Nat
  | .load => 0 | .arith => 1 | .epil => 2 | .server => 3

/-- The class of a CLASS field. The manual gives none to the values 4 to 7, and 3 is SERVER in a control line alone
(R350): in a record of a general slot the model takes 3 to 7 as SERVER (DESIGN CHOICE, log 39). -/
def SlotClass.ofCode (n : Nat) : SlotClass :=
  match n with
  | 0 => .load | 1 => .arith | 2 => .epil | _ => .server

/-- The PROTECTION causes of R270 by name. -/
def Cause.fifoNotEmpty := 1
def Cause.addressForm := 2
def Cause.tileBounds := 3
def Cause.readOnly := 4
def Cause.notAccumulate := 5
def Cause.remoteScope := 6
def Cause.badTarget := 7
def Cause.notServer := 8
def Cause.serverSlot := 9
def Cause.badFrame := 10
def Cause.frameArea := 11
def Cause.frameExhausted := 12
def Cause.frameBusy := 13
def Cause.frameReg := 14
def Cause.frameRemote := 15
def Cause.reservedBits := 16
def Cause.dequeOverflow := 17
def Cause.badCount := 18
def Cause.notPublished := 19
def Cause.barRemote := 20
def Cause.badTask := 21
def Cause.notFifo := 22
def Cause.noFormat := 23
def Cause.badFormat := 24
def Cause.badDims := 25
def Cause.notCompensated := 26
def Cause.mmatFormat := 27
def Cause.accTile := 28
def Cause.badStat := 29
def Cause.regionDepth := 30
def Cause.regionNone := 31
def Cause.badGeometry := 32
def Cause.badRing := 33
def Cause.badDesc := 34
def Cause.xchgBusy := 35
def Cause.xchgIdle := 36
def Cause.badDemand := 37
def Cause.notHandler := 38
def Cause.rqField := 39
def Cause.rqEmpty := 40
def Cause.privileged := 41
def Cause.noRing := 42
def Cause.selfDelegate := 43

/-- The trap-frame header as eight words (R269). -/
def frameHeader (cause detail nq slot : Nat) (pc faddr : Word) (iword : BitVec 32) (wid fflags frm time : Word) :
    List Word :=
  [BitVec.ofNat 64 (cause + detail % 1024 * 2 ^ 8 + nq * 2 ^ 18 + slot * 2 ^ 23 + pc.toNat % 2 ^ 32 * 2 ^ 32),
   BitVec.ofNat 64 (pc.toNat / 2 ^ 32 % 2 ^ 26 + faddr.toNat % 2 ^ 32 * 2 ^ 32),
   BitVec.ofNat 64 (faddr.toNat / 2 ^ 32 + iword.toNat * 2 ^ 32),
   wid, fflags, frm, time, 0]

/-- An entry as its 16 words (R271): `seq` its rank. -/
def Entry.words (e : Entry) (seq : Nat) : List Word :=
  let flt := match e.phase with
    | .faulted _ => 1
    | _ => 0
  let fcode := match e.phase with
    | .faulted t => t.code
    | _ => 0
  [BitVec.ofNat 64 (e.iword.toNat + e.lit.toNat * 2 ^ 32),
   BitVec.ofNat 64 (e.pc.toNat % 2 ^ 58 + seq % 16 * 2 ^ 58 + flt * 2 ^ 62 + 2 ^ 63),
   BitVec.ofNat 64 fcode, e.addr, e.opa, e.opb, e.opd] ++
  (List.range 8).map (fun i => e.vop.extractLsb' (64 * i) 64) ++ [0]

/-- A field of an image: offset, size in bytes, value. -/
structure ImageField where
  off : Nat
  bytes : Nat
  value : Nat
  deriving DecidableEq, Repr

def bitsOf (b : Bool) : Nat := if b then 1 else 0

/-- The control line (R350). -/
def controlLine (next kind : Nat) (t : Strand) (mset : Bool) : Nat :=
  let jl := match t.jl with
    | none => 0
    | some .seed => 2 ^ 88 + 2 ^ 113
    | some (.counter c) => 2 ^ 88 + c.toNat * 2 ^ 89
  next % 2 ^ 58 + kind * 2 ^ 64 + t.cls.code * 2 ^ 72 + bitsOf t.bound.isSome * 2 ^ 75 + t.prio.toNat * 2 ^ 80 + jl +
    (t.lp.getD 0).toNat * 2 ^ 128 + bitsOf t.lp.isSome * 2 ^ 192 + t.tm.toNat * 2 ^ 193 +
    (~~~t.emptyX).toNat * 2 ^ 256 + (~~~t.emptyV).toNat * 2 ^ 288 + t.pendX.toNat * 2 ^ 320 +
    t.pendV.toNat * 2 ^ 352 + bitsOf mset * 2 ^ 384

def regionFields (l : List (Word × Word)) (j : Nat) : List ImageField :=
  match l with
  | [] => []
  | (o, n) :: r => ⟨4616 + 16 * j, 8, o.toNat⟩ :: ⟨4616 + 16 * j + 8, 8, n.toNat⟩ :: regionFields r (j + 1)

def matFields (m : Option MatSave) : List ImageField :=
  match m with
  | none => []
  | some m =>
    [⟨4736, 8, m.descA.toNat⟩, ⟨4744, 8, m.descB.toNat⟩, ⟨4752, 8, m.kpos⟩,
     ⟨4760, 8, match m.key with
        | none => 0
        | some (tag, kt) => tag % 2 ^ 16 + kt % 2 ^ 8 * 2 ^ 16 + 2 ^ 24⟩]

def entryFields (q : List Entry) (i : Nat) : List ImageField :=
  match q with
  | [] => []
  | e :: r =>
    ((e.words i).zipIdx.map fun (w, j) => ⟨128 + 128 * i + 8 * j, 8, w.toNat⟩) ++ entryFields r (i + 1)

/-- All 5,120 bytes of a context's image (R349). The stack of regions is stored from the outermost entry. -/
def imageFields (next kind : Nat) (header : List Word) (t : Strand) (mat : Option MatSave) : List ImageField :=
  [⟨0, 4096, 0⟩, ⟨4096, 1024, 0⟩] ++
  (header.zipIdx.map fun (w, j) => ⟨8 * j, 8, w.toNat⟩) ++
  [⟨64, 64, controlLine next kind t mat.isSome⟩] ++ entryFields t.queue 0 ++
  ((List.range 32).map fun i => ⟨2176 + 8 * i, 8, (t.x.get i 0).toNat⟩) ++
  ((List.range 32).map fun i => ⟨2432 + 64 * i, 64, (t.v.get i 0).toNat⟩) ++
  ((List.range 8).map fun k => ⟨4480 + 8 * k, 8, (t.mr (BitVec.ofNat 3 k)).toNat⟩) ++
  ((List.range 16).map fun k => ⟨4544 + 4 * k, 4, (t.n.get k 0).toNat % 2 ^ 24⟩) ++
  [⟨4608, 8, t.enable.toNat⟩, ⟨4680, 8, t.region.length⟩] ++ regionFields t.region.reverse 0 ++ matFields mat

/-- Where an offset of an image lies: the first 4,096 bytes in the first frame, the rest in the second. -/
def imageAddr (f1 f2 off : Nat) : Nat := if off < 4096 then f1 + off else f2 + (off - 4096)

/-- No write is held on a line of two save frames (R73): an image is written and read at the homes of its lines. -/
def State.framesFree (s : State) (f1 f2 : Nat) : Bool :=
  (List.range 40).all fun i =>
    let l := imageAddr f1 f2 (128 * i) / 128
    !s.heldOn (sliceOf l) l

/-- Writes fields of an image; no copy of the host is left to hide them (R73). -/
def State.writeImage (s : State) (f1 f2 : Nat) (l : List ImageField) : State :=
  l.foldl (fun s f =>
    let a := imageAddr f1 f2 f.off
    ((List.range ((a + f.bytes + 127) / 128 - a / 128)).foldl (fun s i => s.pullHost (a / 128 + i) true) s).writeMem a f.value
      f.bytes) s

/-- Bytes of one line of an image, the newest of them. -/
def State.readImage (s : State) (f1 f2 off n : Nat) : Nat :=
  let a := imageAddr f1 f2 off
  (s.pullHost (a / 128) false).readMem a n

/-- Puts a value under a key where it is not the default. -/
def tabOf {α : Type} [DecidableEq α] (d : α) (l : List (Nat × α)) : Tab α := l.filter fun e => e.2 != d

def imageEntry (s : State) (f1 f2 q : Nat) (shell : List Entry) : Option (Nat × Entry) :=
  let w := fun j => s.readImage f1 f2 (128 + 128 * q + 8 * j) 8
  if w 1 / 2 ^ 63 = 0 then none
  else
    let old := shell[q]?
    some (bits (w 1) 58 4,
      { serial := match old with
          | some e => e.serial
          | none => 0
        iword := BitVec.ofNat 32 (w 0)
        lit := BitVec.ofNat 32 (w 0 / 2 ^ 32)
        pc := BitVec.ofNat 64 (w 1 % 2 ^ 58)
        addr := BitVec.ofNat 64 (w 3)
        opa := BitVec.ofNat 64 (w 4)
        opb := BitVec.ofNat 64 (w 5)
        opd := BitVec.ofNat 64 (w 6)
        vop := BitVec.ofNat 512 (s.readImage f1 f2 (128 + 128 * q + 56) 64)
        phase := match (old.map (fun e => e.phase) : Option Phase) with
          | some .flight => .flight
          | _ => .replay
        sent := (old.map fun e => e.sent).getD [] })

/-- Keeps entries in the order of SEQ (R273). -/
def insertSeq (e : Nat × Entry) : List (Nat × Entry) → List (Nat × Entry)
  | [] => [e]
  | f :: r => if e.1 < f.1 then e :: f :: r else f :: insertSeq e r

/-- The context that an image holds; what it does not carry comes from the shell (R349, R350). The program
counter is the header's PC, and the word after it for TRAP and BRK (R273); after the trap of an entry, which is
re-injected, it is the word that was to issue next (R272). -/
def State.loadImage (s : State) (f1 f2 : Nat) (shell : Strand) : Strand :=
  let h := fun j => s.readImage f1 f2 (8 * j) 8
  let c := s.readImage f1 f2 64 64
  let cause := h 0 % 256
  let pc := h 0 / 2 ^ 32 + h 1 % 2 ^ 26 * 2 ^ 32
  let entries := (List.range 16).filterMap fun q => imageEntry s f1 f2 q shell.queue
  let depth := s.readImage f1 f2 4680 8
  { shell with
    pc := if (7 ≤ cause ∧ cause ≤ 10) ∨ bits (h 0) 18 5 ≠ 0 then shell.pc
      else BitVec.ofNat 64 (if cause = 11 ∨ cause = 12 then pc + 4 else pc)
    way := if cause = 2 then some (shell.way.getD .branch) else shell.way
    x := tabOf 0 ((List.range 32).map fun i => (i, BitVec.ofNat 64 (s.readImage f1 f2 (2176 + 8 * i) 8)))
    v := tabOf 0 ((List.range 32).map fun i => (i, BitVec.ofNat 512 (s.readImage f1 f2 (2432 + 64 * i) 64)))
    m := tabOf 0 ((List.range 8).map fun i => (i, BitVec.ofNat 64 (s.readImage f1 f2 (4480 + 8 * i) 8)))
    n := tabOf 0 ((List.range 16).map fun i => (i, BitVec.ofNat 64 (s.readImage f1 f2 (4544 + 4 * i) 4)))
    wid := BitVec.ofNat 64 (h 3)
    fflags := BitVec.ofNat 64 (h 4)
    frm := BitVec.ofNat 64 (h 5)
    enable := BitVec.ofNat 64 (s.readImage f1 f2 4608 8)
    region := ((List.range depth).map fun j =>
      (BitVec.ofNat 64 (s.readImage f1 f2 (4616 + 16 * j) 8),
       BitVec.ofNat 64 (s.readImage f1 f2 (4624 + 16 * j) 8))).reverse
    emptyX := ~~~(BitVec.ofNat 32 (c / 2 ^ 256))
    emptyV := ~~~(BitVec.ofNat 32 (c / 2 ^ 288))
    pendX := BitVec.ofNat 32 (c / 2 ^ 320)
    pendV := BitVec.ofNat 32 (c / 2 ^ 352)
    cls := SlotClass.ofCode (bits c 72 3)
    prio := BitVec.ofNat 8 (c / 2 ^ 80)
    jl := if bits c 88 1 = 0 then none
      else if bits c 113 1 = 1 then some .seed
      else some (.counter (BitVec.ofNat 24 (c / 2 ^ 89)))
    lp := if bits c 192 1 = 1 then some (BitVec.ofNat 64 (c / 2 ^ 128)) else none
    tm := BitVec.ofNat 16 (c / 2 ^ 193)
    queue := (entries.foldr insertSeq []).map fun e => e.2 }

/-- The matrix context in an image, where MSET is 1 (R349). -/
def State.loadMat (s : State) (f1 f2 : Nat) (held : MatHeld) : Option MatSave :=
  if bits (s.readImage f1 f2 64 64) 384 1 = 0 then none
  else
    let k := s.readImage f1 f2 4760 8
    some { descA := BitVec.ofNat 64 (s.readImage f1 f2 4736 8)
           descB := BitVec.ofNat 64 (s.readImage f1 f2 4744 8)
           kpos := s.readImage f1 f2 4752 8
           key := if bits k 24 1 = 1 then some (bits k 0 16, bits k 16 8) else none
           held := held }

/-! Finding a context wherever it is kept (R191, R355). -/

/-- Where a context is: in a slot, in a shadow bank, or saved. -/
inductive CtxAt where
  | slot (k : Nat)
  | shadow (c : Nat)
  | saved (i : Nat)
  | gone
  deriving DecidableEq, Repr

def State.findCtx (s : State) (ctx : Nat) : CtxAt :=
  match s.strands.find? fun e => e.2.active && e.2.ctx == ctx with
  | some e => .slot e.1
  | none =>
    match s.cores.find? fun e => match e.2.shadow with
        | some b => b.strand.ctx == ctx
        | none => false with
    | some e => .shadow e.1
    | none =>
      match s.saved.findIdx? fun v => v.ctx == ctx with
      | some i => .saved i
      | none => .gone

/-- Changes what is kept in an image: registers, their bits, %fflags, %frm, PC, and the entries that are freed or that
have faulted (R344, R355). The answer is also what the image does not carry. -/
def State.editImage (s : State) (v : Saved) (f : Strand → Strand) : State × Strand :=
  let t := s.loadImage v.frame1 v.frame2 v.shell
  let u := f t
  let rd := fun off n => s.readImage v.frame1 v.frame2 off n
  let old := rd 64 64
  let w := controlLine 0 0 u false
  let ctl := old % 2 ^ 256 + w / 2 ^ 256 % 2 ^ 128 * 2 ^ 256 + old / 2 ^ 384 * 2 ^ 384
  let pc := if u.pc = t.pc then []
    else [(⟨4, 4, u.pc.toNat % 2 ^ 32⟩ : ImageField), ⟨8, 4, u.pc.toNat / 2 ^ 32 % 2 ^ 26 + rd 8 4 / 2 ^ 26 * 2 ^ 26⟩]
  let now := fun (e : Entry) => (u.queue.find? fun q => q.serial == e.serial).map fun q => q.phase
  let entry := fun (e : Entry) (q : Nat) =>
    let w1 := rd (136 + 128 * q) 8
    match (now e : Option Phase) with
    | none => [(⟨136 + 128 * q, 8, w1 % 2 ^ 63⟩ : ImageField)]
    | some (.faulted tr) => [⟨136 + 128 * q, 8, w1 % 2 ^ 62 + 3 * 2 ^ 62⟩, ⟨144 + 128 * q, 8, tr.code⟩]
    | _ => []
  let s := s.writeImage v.frame1 v.frame2
    ([⟨64, 64, ctl⟩, ⟨32, 8, u.fflags.toNat⟩, ⟨40, 8, u.frm.toNat⟩] ++ pc ++
     ((List.range 32).map fun i => ⟨2176 + 8 * i, 8, (u.x.get i 0).toNat⟩) ++
     ((List.range 32).map fun i => ⟨2432 + 64 * i, 64, (u.v.get i 0).toNat⟩) ++
     (v.shell.queue.zipIdx.flatMap fun (e, q) => entry e q))
  (s, { v.shell with
    pc := u.pc, way := u.way, wait := u.wait
    queue := v.shell.queue.map fun e => match (now e : Option Phase) with
      | some p => { e with phase := p }
      | none => e })

/-- Applies a change to a context where it is kept: the slot, the shadow bank or the image (R191, R355). -/
def State.onCtx (s : State) (ctx : Nat) (f : Strand → Strand) : State :=
  match s.findCtx ctx with
  | .slot k => s.setStrand k (f (s.strand k))
  | .shadow c =>
    let co := s.core c
    match co.shadow with
    | some b => s.setCore c { co with shadow := some { b with strand := f b.strand } }
    | none => s
  | .saved i =>
    match s.saved[i]? with
    | some v =>
      if v.spilled then
        let r := s.editImage v f
        { r.1 with saved := r.1.saved.set i { v with shell := r.2 } }
      else { s with saved := s.saved.set i { v with shell := f v.shell } }
    | none => s
  | .gone => s

/-- The strand of a context where it is kept. -/
def State.ctxStrand (s : State) (ctx : Nat) : Option Strand :=
  match s.findCtx ctx with
  | .slot k => some (s.strand k)
  | .shadow c => (s.core c).shadow.map fun b => b.strand
  | .saved i => s.saved[i]?.map fun v => if v.spilled then s.loadImage v.frame1 v.frame2 v.shell else v.shell
  | .gone => none

/-- Frees an entry of a replay queue (R272). -/
def Strand.free (t : Strand) (entry : Nat) : Strand :=
  { t with queue := t.queue.filter fun e => e.serial != entry }

/-- Marks an entry faulted (R271, R343). -/
def Strand.faultEntry (t : Strand) (entry : Nat) (tr : Trap) : Strand :=
  { t with queue := t.queue.map fun e => if e.serial = entry then { e with phase := .faulted tr } else e }

def Strand.orFlags (t : Strand) (fl : Nat) : Strand := { t with fflags := t.fflags ||| BitVec.ofNat 64 fl }

end Sys2Proof.Machine
end

