-- ==== Sys2Proof/Machine/Space.lean ====
section
/-! DEFINITION. Addresses: tile addresses, regions and domains, translation and page-table walks
(spec/02_memory.md R41 to R54, spec/08_isa_memory.md R173, spec/21_translation.md R323 to R331). -/

namespace Sys2Proof.Machine

/-- What an address is (R173, R41). -/
inductive AddrKind where
  | tile (n : BitVec 4) (off : Nat)
  | virtual
  | badForm
  deriving DecidableEq, Repr

def addrKind (a : Word) : AddrKind :=
  let top := a.extractLsb' 58 6
  if top = 0b111110 then
    (if a.extractLsb' 56 2 = 0 then .tile (a.extractLsb' 52 4) (a.extractLsb' 0 52).toNat else .badForm)
  else if top = 0 then .virtual
  else .badForm

/-! Named tiles (R42, R43). -/

def bindBank (n : Word) : Nat := (n.extractLsb' 0 5).toNat
def bindOff (n : Word) : Nat := (n.extractLsb' 5 7).toNat
def bindSize (n : Word) : Nat := (n.extractLsb' 12 12).toNat

def Cluster.mode (k : Cluster) (b : Nat) : BankMode := k.modes.get b .cache

/-- The byte of cluster SRAM where an access of `len` bytes at `off` through a binding begins, or none where its
bounds fail (R43). -/
def tileByte (n : Word) (off len : Nat) : Option Nat :=
  let start := bindBank n * 128 + bindOff n
  if bindSize n = 0 ∨ 23 < bindBank n ∨ 24 * 128 < start + bindSize n ∨ bindSize n * 128 < off + len then none
  else some (start * 128 + off)

/-- The banks that `len` bytes of SRAM at byte `b` touch. -/
def banksOf (b len : Nat) : List Nat :=
  (List.range ((b + len - 1) / 16384 + 1 - b / 16384)).map fun i => b / 16384 + i

/-- Every bank of these bytes of SRAM is in SCRATCH mode. -/
def Cluster.inScratch (k : Cluster) (b n : Nat) : Bool := (banksOf b n).all fun i => k.mode i == .scratch

/-- The byte of cluster SRAM where an access through a binding begins, or none where R43 traps. -/
def tileSpot (k : Cluster) (n : Word) (off len : Nat) : Option Nat :=
  match tileByte n off len with
  | some b => if k.inScratch b len then some b else none
  | none => none

/-- Bytes of cluster SRAM, little-endian; SRAM is kept by lines. -/
def Cluster.readSram (k : Cluster) (b : Nat) : Nat → Nat
  | 0 => 0
  | n + 1 => lineBytes (k.sram.get (b / 128) 0) (b % 128) 1 + 256 * Cluster.readSram k (b + 1) n

def Cluster.writeBytes (k : Cluster) (b v : Nat) : Nat → Cluster
  | 0 => k
  | n + 1 =>
    let l := k.sram.get (b / 128) 0
    Cluster.writeBytes
      { k with sram := k.sram.put (b / 128) (mergeBytes l (lineAt (v % 256) (b % 128)) (byteMask (b % 128) 1)) }
      (b + 1) (v / 256) n

/-- Some of `n` bytes of SRAM are poison (R252). -/
def Cluster.badAt (k : Cluster) (b n : Nat) : Bool :=
  !k.badSram.isEmpty && (List.range n).any fun i => (k.badSram.get ((b + i) / 128) 0).getLsbD ((b + i) % 128)

/-- Marks `n` bytes of SRAM as poison, or as good (R252). -/
def Cluster.markSram (k : Cluster) (b n : Nat) (bad : Bool) : Cluster :=
  if !bad && k.badSram.isEmpty then k
  else
    { k with badSram := (List.range n).foldl (fun t i =>
        let a := b + i
        let m : ByteMask := t.get (a / 128) 0
        t.put (a / 128) (if bad then m ||| byteMask (a % 128) 1 else m &&& ~~~(byteMask (a % 128) 1))) k.badSram }

/-- A write of `n` bytes of SRAM ends their poison. -/
def Cluster.writeSram (k : Cluster) (b v n : Nat) : Cluster := (k.writeBytes b v n).markSram b n false

/-! Regions (R49, R329). -/

def rgnV (e : BitVec 128) : Bool := e.getLsbD 0
def rgnDom (e : BitVec 128) : Dom :=
  match (e.extractLsb' 1 2).toNat with
  | 0 => .cluster | 1 => .die | 2 => .package | _ => .system
def rgnHome (e : BitVec 128) : Nat := (e.extractLsb' 3 3).toNat
def rgnAcc (e : BitVec 128) : Bool := e.getLsbD 6
def rgnCmp (e : BitVec 128) : Bool := e.getLsbD 7
def rgnMgr (e : BitVec 128) : Bool := e.getLsbD 8
def rgnAuto (e : BitVec 128) : Bool := e.getLsbD 9
def rgnRo (e : BitVec 128) : Bool := e.getLsbD 10
def rgnUnc (e : BitVec 128) : Bool := e.getLsbD 11
def rgnBase (e : BitVec 128) : Nat := (e.extractLsb' 14 44).toNat
def rgnNpg (e : BitVec 128) : Nat := (e.extractLsb' 64 44).toNat
def rgnCstr (e : BitVec 128) : Nat := 128 * (e.extractLsb' 108 20).toNat

/-- The entry that covers an address: the lowest-numbered valid one (R330). -/
def Core.region (c : Core) (va : Nat) : Option (BitVec 128) :=
  (c.regions.find? fun e => rgnV e.2 && rgnBase e.2 ≤ va / 16384 && va / 16384 < rgnBase e.2 + rgnNpg e.2).map
    fun e => e.2

/-- Whether an entry is loaded as V = 0 (R330). -/
def rgnBad (e : BitVec 128) : Bool :=
  e.extractLsb' 12 2 != 0 || e.extractLsb' 58 6 != 0 || (rgnDom e != .package && rgnHome e != 0) ||
    rgnNpg e == 0 || 2 ^ 44 < rgnBase e + rgnNpg e || (rgnCmp e && !rgnAcc e) || (rgnAuto e && !rgnMgr e) ||
    (rgnAcc e && rgnDom e == .system)

/-- R331: the domain of an access from a die, and what its range gives. -/
def placeOf (die : Nat) (e : Option (BitVec 128)) (pa log : Nat) : Place :=
  let own := paDie pa == die
  let dom : Dom :=
    if paHost pa then .system
    else match e with
      | none => if own then .die else .package
      | some e =>
        match rgnDom e with
        | .cluster => if own then .cluster else .package
        | .die => if own then .die else .package
        | .package => .package
        | .system => .system
  match e with
  | none => ⟨pa, dom, false, false, false, false, 0, log⟩
  | some e => ⟨pa, dom, rgnAcc e, rgnCmp e, rgnRo e, rgnUnc e, rgnCstr e, log⟩

/-- Whether an address of a place is served at another die (R52): device memory not on this die. -/
def Place.remote (p : Place) (die : Nat) : Bool := !paHost p.pa && paDie p.pa != die

/-! Translations. -/

def xlatCovers (x : Xlat) (func va : Nat) : Bool := x.func == func && x.va == va / 2 ^ x.log

def xlatFind (l : List Xlat) (func va : Nat) : Option Xlat := l.find? fun x => xlatCovers x func va

def Xlat.pa (x : Xlat) (va : Nat) : Nat := x.frame + va % 2 ^ x.log

/-- Whether bytes of device memory from `pa` on are assigned to a function (R378, R379). -/
def State.assigned (s : State) (f pa size : Nat) : Bool :=
  paHost pa ||
    (let off := bits pa 0 37
     let g := 16000000000
     (List.range ((off + size - 1) / g + 1 - off / g)).all fun i =>
       let p := s.part (8 * paDie pa + off / g + i)
       p.en && p.func.toNat == f && off / g + i < 8)

/-! Launch-record fields (R309 to R311). -/

def Launch.word (l : Launch) (off : Nat) : Word := (l.words[off / 8]?).getD 0
def Launch.byteBits (l : Launch) (off lo n : Nat) : Nat := bits (l.word off).toNat lo n
def Launch.prio (l : Launch) : Nat := l.byteBits 0 8 8
def Launch.cls (l : Launch) : SlotClass := SlotClass.ofCode (l.byteBits 0 16 2)
def Launch.priv (l : Launch) : Bool := l.byteBits 0 18 1 == 1
def Launch.ie (l : Launch) : Bool := l.byteBits 0 19 1 == 1
def Launch.nfield (l : Launch) : Nat := l.byteBits 0 20 3
def Launch.don (l : Launch) : Bool := l.byteBits 0 23 1 == 1
def Launch.fieldWidth (l : Launch) (i : Nat) : Nat := l.byteBits (8 + 8 * i) 0 6
def Launch.fieldExtent (l : Launch) (i : Nat) : Nat := l.byteBits (8 + 8 * i) 6 33
def Launch.fieldLevel (l : Launch) (i : Nat) : Nat := l.byteBits (8 + 8 * i) 39 3
def Launch.pmask (l : Launch) : Word := l.word 56
def Launch.graph (l : Launch) : Bool := l.byteBits 560 24 1 == 1
def Launch.tmpl (l : Launch) : Nat := l.byteBits 560 0 24
def Launch.lid (l : Launch) : Nat := l.byteBits 512 0 32

/-- Whether a launch may use a cluster: its partition is in PMASK (R309, R378). -/
def Launch.covers (l : Launch) (k : Nat) : Bool := l.pmask.getLsbD (8 * clusDie k + k % 256 / 32)

/-- The rank of a cluster among a launch's clusters (R309). -/
def Launch.rank (l : Launch) (k : Nat) : Nat :=
  32 * ((List.range (k / 32)).filter fun p => l.pmask.getLsbD p).length + k % 32

def State.launchOf (s : State) (t : Strand) : Option Launch := t.launch.bind fun n => s.launches.find n

/-- Whether a core or frame of a cluster lies inside the strand's launch (R190, R194, R380). -/
def State.inLaunch (s : State) (t : Strand) (k : Nat) : Bool :=
  match s.launchOf t with
  | some l => l.covers k
  | none => true

end Sys2Proof.Machine
end

