-- ==== Sys2Proof/Machine/HostLines.lean ====
section
/-! DEFINITION. Host memory and copies of lines: the host links, the L2s of the dies, the snoop filters, held writes, the
newest bytes of a line, and the walks of page tables that read them (spec/02_memory.md R53 to R55, spec/03_ordering.md R73,
spec/21_translation.md R324 to R327, spec/23_host.md R358 to R362). -/

namespace Sys2Proof.Machine

/-! Dies and the links between them (R24, R63, R362). -/

/-- The die where an access from a die to a line is served: the home die of device memory, and the accessing
die's own L2 for host memory (R53, R323). -/
def servedAt (die line : Nat) : Nat := if paHost (128 * line) then die else paDie (128 * line)

/-! Host memory (R53, R359; log 22). -/

/-- The host link that the host's decoder assigns to a line (R55, R358). -/
def linkOfLine (line : Nat) : Nat := if Config.hostLinkOf line then 1 else 0

/-- The link that device traffic to a line takes: the assigned one, and the other one while that is viral (R361). -/
def State.linkTo (s : State) (line : Nat) : Nat :=
  let p := linkOfLine line
  if (s.hostLink p).viral then 1 - p else p

/-! Sets of a die's L2 (R45; log 37). -/

/-- The set of a line among those of its die's L2: 1,024 in each home slice (R45; log 37). -/
def l2Set (die line : Nat) : Nat := 1024 * (64 * die + homeSlice (128 * line)) + line / 64 % 1024

/-- What is left of filter entries whose dies may have lost or cleaned a line: M stands while a die of the mask holds the
line dirty, or has lost it while it was dirty (R359, R362). -/
def State.retag (s : State) (e : FilterEntry) : FilterEntry :=
  { e with dirty := e.dirty && (List.range 8).any fun d => e.mask.getLsbD d &&
      match s.l2host.find (l2Key d e.line) with
      | some (_, m) => m != 0
      | none => true }

/-- Filter entries of a line, or of every line, lose the dies of a mask (R359, R362). -/
def State.untrack (s : State) (line : Option Nat) (gone : BitVec 8) : State :=
  [0, 1].foldl (fun s p =>
    let l := (s.filters.get p []).map fun e =>
      if line = none ∨ line = some e.line then s.retag { e with mask := e.mask &&& ~~~gone } else e
    { s with filters := s.filters.put p (l.filter fun e => e.mask != 0) }) s

/-- A line leaves the L2 of a die: the bytes that the die wrote of a host-homed line go to host memory (R53, R361). -/
def State.l2Evict (s : State) (die line : Nat) : State :=
  match s.l2host.find (l2Key die line) with
  | none => s
  | some (c, m) =>
    let p := s.linkTo line
    let l := s.hostLink p
    let it : Item := { serial := 0, ctx := 0, die := die, line := line, act := .write c m false, after := [], func := 0,
                       va := 0, core := 0, wb := true, ctxs := [] }
    let s := if m = 0 then s else s.setHostLink p { l with queue := l.queue ++ [it] }
    ({ s with l2host := s.l2host.del (l2Key die line) }).untrack (some line) (1#8 <<< die)

/-- A die's L2 takes a line that it serves; a full set of 12 ways gives up a line (R45; log 37). -/
def State.l2Touch (s : State) (die line : Nat) : State :=
  let k := l2Set die line
  let set := (s.l2sets.get k []).filter fun l => l != line
  if set.length < 12 then { s with l2sets := s.l2sets.put k (line :: set) }
  else
    let v := set.getD (Config.l2Victim s.serial % set.length) 0
    { s.l2Evict die v with l2sets := s.l2sets.put k (line :: set.filter fun l => l != v) }

/-- A die writes back the bytes it wrote of a host-homed line; with `drop` it also loses the copy (R359). -/
def State.snoopDie (s : State) (line die : Nat) (drop : Bool) : State :=
  match s.l2host.find (l2Key die line) with
  | none => s
  | some (c, m) =>
    let s := if m = 0 then s else (s.mergeLine line c m).refreshCopies line
    { s with l2host := if drop then s.l2host.del (l2Key die line) else s.l2host.put (l2Key die line) (c, 0) }

def setHas (m : BitVec 8) (d : Nat) : Bool := m.getLsbD d

/-- The filter snoops the dies in an entry's mask (R359). -/
def State.snoopMask (s : State) (line : Nat) (mask : BitVec 8) (drop : Bool) : State :=
  (List.range 8).foldl (fun s d => if setHas mask d then s.snoopDie line d drop else s) s

/-- The set of a line in a filter of 2,097,152 entries in 16 ways (R359; log 22). -/
def filterSet (line : Nat) : Nat := line % 131072

/-- A filter tracks a die's copy of a line: the one of the link that fetches it now, or else the one that tracks it
already; a full set gives up its least recently used entry (R359). -/
def State.track (s : State) (line die : Nat) (dirty fetched : Bool) : State :=
  let at' := [0, 1].find? fun p => (s.filters.get p []).any fun e => e.line == line
  let p := if fetched then s.linkTo line else at'.getD (s.linkTo line)
  let old := at'.bind fun q => (s.filters.get q []).find? fun e => e.line == line
  let s : State := match at' with
    | some q => { s with filters := s.filters.put q ((s.filters.get q []).filter fun e => e.line != line) }
    | none => s
  let l := s.filters.get p []
  let e : FilterEntry := match old with
    | some o => ⟨line, o.mask ||| 1#8 <<< die, o.dirty || dirty⟩
    | none => ⟨line, 1#8 <<< die, dirty⟩
  let set := l.filter fun e => filterSet e.line == filterSet line
  if set.length < 16 then { s with filters := s.filters.put p (e :: l) }
  else
    match set.getLast? with
    | some v =>
      let s := (s.hostFlushLine v.line).snoopMask v.line v.mask true
      { s with filters := s.filters.put p (e :: l.filter fun e => e.line != v.line) }
    | none => s

/-- A line that a die lost in a reset while it held it dirty: whoever asks for it gets poison, with one record for the
line (R362), and the POISON record where it was not poisoned (R384). `p` is the link of the filter. -/
def State.snoopPoison (s : State) (line die p : Nat) : State :=
  (s.poisonLine line 1 die).error 13 2 die 0 1 (128 * line) p

/-- A die asks anew for a line that it lost while it was dirty there (R362). -/
def State.askLost (s : State) (die line : Nat) : State :=
  [0, 1].foldl (fun s p =>
    match (s.filters.get p []).find? fun e => e.line == line with
    | some e =>
      if e.dirty && setHas e.mask die then
        let s := s.snoopPoison line die p
        { s with filters := s.filters.put p ((s.filters.get p []).map fun x => if x.line = line then { x with dirty := false } else x) }
      else s
    | none => s) s

/-- A host link carries CXL.cache and CXL.mem traffic now: the device has started, and the link is neither viral nor
retraining (R361, R366, R387). -/
def State.hostCarries (s : State) (p : Nat) : Bool :=
  s.boot.running.isSome && !(s.hostLink p).viral && (s.link (64 + p)).state != .retraining

/-- The row of HBM or of the die's L2 that holds a line is being remapped: accesses wait (R386). -/
def State.rowBusy (s : State) (die line : Nat) : Bool :=
  s.ras.tracked.any fun t => t.acting &&
    match t.kind with
    | .hbmRow => !paHost (128 * line) && t.die == paDie (128 * line) && Config.rowHolds 0 t.die t.address line
    | .l2Row => t.die == die && Config.rowHolds 1 t.die t.address line
    | _ => false

/-- The lines of SRAM that a stretch of bytes touches: the first and the number. -/
def linesOf (a n : Nat) : Nat × Nat := (a / 128, (a + n + 127) / 128 - a / 128)

/-- A row of cluster SRAM that these bytes lie in is being remapped: accesses wait (R386). -/
def State.sramBusy (s : State) (kn b n : Nat) : Bool :=
  s.ras.tracked.any fun t => t.acting && t.kind == .sramRow && t.die == clusDie kn &&
    (List.range (linesOf b n).2).any fun i => Config.rowHolds 2 t.die t.address (4096 * kn + (linesOf b n).1 + i)

/-- A host line can be fetched: its link carries traffic, and so do the links on which writes of it are queued (R359,
R361). -/
def State.hostFree (s : State) (line : Nat) : Bool :=
  s.hostCarries (s.linkTo line) &&
    [0, 1].all fun p => s.hostCarries p || !((s.hostLink p).queue.any fun it => it.line == line)

/-- A die can serve an access to a line: it has the line, or a host link can fetch it, and no remap holds the row
(R361, R366, R386, R387). -/
def State.lineReady (s : State) (die line : Nat) : Bool :=
  (!paHost (128 * line) || (s.l2host.find (l2Key die line)).isSome || s.hostFree line) && !s.rowBusy die line

/-! The snoop filter (R359, R362). -/

/-- Links into a die that sleep begin to wake. -/
def State.wakeDie (s : State) (d : Nat) : State :=
  (neighbours d).foldl (fun s n =>
    let l := s.link (linkKey n d)
    match l.state with
    | .asleep none slow => s.setLink (linkKey n d) { l with state := .asleep (some s.now) slow }
    | _ => s) s

/-- An entry names a die that has lost its copy in a reset. -/
def State.lostHolders (s : State) (e : FilterEntry) : List Nat :=
  (List.range 8).filter fun d => setHas e.mask d && (s.l2host.find (l2Key d e.line)).isNone

/-- A snoop is served: the dies of the mask write back; where a die of an entry in state M has lost the line, the host
gets poison (R359, R362). With `drop` the copies are invalidated. -/
def State.serveSnoop (s : State) (p : Nat) (e : FilterEntry) (drop : Bool) : State :=
  let lost := s.lostHolders e
  let s := (s.hostFlushLine e.line).snoopMask e.line e.mask drop
  let s := if e.dirty && !lost.isEmpty then
      s.snoopPoison e.line ((lost.head?).getD 0) p
    else s
  let mask := lost.foldl (fun (m : BitVec 8) d => m &&& ~~~(1#8 <<< d)) e.mask
  let rest := (s.filters.get p []).filter fun x => x.line != e.line
  { s with filters := s.filters.put p (if drop || mask = 0 then rest else ⟨e.line, mask, false⟩ :: rest) }

/-- The entry of a line in a filter. -/
def State.filterEntry (s : State) (p line : Nat) : Option FilterEntry := (s.filters.get p []).find? fun e => e.line == line

/-- The dies of a mask whose links sleep: a snoop waits for them (R362). -/
def State.asleep (s : State) (mask : BitVec 8) : List Nat :=
  (List.range 8).filter fun d => setHas mask d && s.dieOn d && !s.dieAwake d

/-- The filter that tracks a line, with its entry: the one that is asked first, or else the other (R359). -/
def State.tracker (s : State) (p line : Nat) : Option (Nat × FilterEntry) :=
  match s.filterEntry p line with
  | some e => some (p, e)
  | none => (s.filterEntry (1 - p) line).map fun e => (1 - p, e)

/-- A write-back of a line waits at a host link (R359). -/
def State.queuedBack (s : State) (line : Nat) : Bool := [0, 1].any fun p => (s.hostLink p).queue.any fun it => it.line == line

/-- The host gains a line of host memory: a write-back that came first is merged, dies that hold it dirty write back, and for a
write all lose it. -/
def State.hostOwns (s : State) (line : Nat) (write : Bool) : State :=
  let s := s.hostFlushLine line
  match s.tracker 0 line with
  | some (p, e) => if write || e.dirty then s.serveSnoop p e write else s
  | none => s

/-- The host may gain a line of host memory: no snoop and no write-back is needed for it, or a link carries it and the dies are
awake (R361, R362). -/
def State.mayOwn (s : State) (line : Nat) (write : Bool) : Bool :=
  (!s.queuedBack line || s.hostFree line) && match s.tracker 0 line with
    | some (_, e) => !(write || e.dirty) || (s.hostFree line && (s.asleep e.mask).isEmpty)
    | none => true

/-! Reads and writes by hardware that is no core (R315, R327, R339; log 20). -/

/-- Memory has the newest bytes of a line, wherever they were. -/
def State.upToDate (s : State) (pa : Nat) : State :=
  let l := pa / 128
  if paHost pa then (s.hostFlushLine l).hostOwns l false else s.pullHost l false

/-- Hardware may access a line now: no held write stands before it (R73), host memory can be reached, and no remap holds
the row (R361, R386). -/
def State.sysReady (s : State) (pa : Nat) (write : Bool) : Bool :=
  let l := pa / 128
  if paHost pa then s.hostFree l && s.mayOwn l write
  else !s.heldOn (sliceOf l) l && !s.rowBusy (paDie pa) l

/-- A line is ready for a write: newer bytes of its copies are in memory, and no copy is left to hide the write. -/
def State.claimLine (s : State) (l : Nat) : State :=
  if paHost (128 * l) then (s.hostFlushLine l).hostOwns l true else s.pullHost l true

/-- Writes bytes that lie in one line at its home, behind a write that is held there (R73), so that no cached copy of the host
or of a die L2 hides them. -/
def State.writeSys (s : State) (pa v n : Nat) : State :=
  if paHost pa then (s.claimLine (pa / 128)).writeMem pa v n else s.hwWrite pa v n

/-- Reads bytes of one line at its home; none while the home does not serve it (R73, R386). -/
def State.sysGet (s : State) (pa n : Nat) : Option Nat :=
  if s.sysReady pa false then some ((s.upToDate pa).readMem pa n) else none

/-- Writes bytes of one line at its home; none while the home does not serve it. -/
def State.sysPut (s : State) (pa v n : Nat) : Option State :=
  if s.sysReady pa true then some (s.writeSys pa v n) else none

/-! Translations. -/

/-- The outcome of a page-table walk (R324): `wait` at a migrating page, `held` where an entry cannot be read now. -/
inductive WalkRes where
  | ok (x : Xlat)
  | wait (leaf : Nat)
  | held
  | fail (reason : Nat)
  deriving DecidableEq, Repr

/-- R324 from a level on: `t` the table, `left` the levels that remain. The reasons are those of R335. Entries are read at
their homes (R327). -/
def State.walkFrom (s : State) (f va t lvl : Nat) : Nat → WalkRes
  | 0 => .fail 4
  | left + 1 =>
    let at' := t + 8 * bits va (47 - 11 * lvl) 11
    let e := (s.upToDate at').readMem at' 8
    if !paValid t then .fail 5
    else if !s.sysReady at' false then .held
    else if bits e 0 1 = 0 then (if bits e 56 1 = 1 then .wait at' else .fail 1)
    else if bits e 4 10 ≠ 0 ∨ bits e 52 4 ≠ 0 then .fail 4
    else
      let frame := bits e 14 38 * 2 ^ 14
      if bits e 1 1 = 1 then
        if lvl = 0 then .fail 4
        else
          let log := 14 + 11 * (3 - lvl)
          if frame % 2 ^ log ≠ 0 then .fail 4
          else if !paValid frame || !paValid (frame + 2 ^ log - 1) || !s.assigned f frame (2 ^ log) then .fail 5
          else .ok ⟨f, va / 2 ^ log, log, frame, bits e 2 1 == 1, bits e 3 1 == 1⟩
      else if lvl = 3 then .fail 4
      else s.walkFrom f va frame (lvl + 1) left

/-- A walk for a function's address (R324, R326 PTROOT). -/
def State.pageWalk (s : State) (f va : Nat) : WalkRes :=
  let r := (s.fn f).ptroot.toNat
  if bits r 0 1 = 0 then .fail 1 else s.walkFrom f (va % 2 ^ 58) (bits r 14 38 * 2 ^ 14) 0 4

/-- A hardware reader's translation of an address without the TLBs (log 20). -/
def State.translate (s : State) (f : Nat) (va : Nat) : Option Nat :=
  match s.pageWalk f va with
  | .ok x => some (x.pa (va % 2 ^ 58))
  | _ => none

/-- The same for a writer, which needs the right W (R324). -/
def State.translateW (s : State) (f : Nat) (va : Nat) : Option Nat :=
  match s.pageWalk f va with
  | .ok x => if x.w then some (x.pa (va % 2 ^ 58)) else none
  | _ => none

/-- Reads bytes at a function's virtual address as hardware does (log 20). -/
def State.readVa (s : State) (f va : Nat) : Nat → Option Nat
  | 0 => some 0
  | n + 1 =>
    match s.translate f va, s.readVa f (va + 1) n with
    | some pa, some r => if s.sysReady pa false then some (((s.upToDate pa).readByte pa).toNat + 256 * r) else none
    | _, _ => none

end Sys2Proof.Machine
end

