-- ==== Sys2Proof/Machine/FaultUnit.lean ====
section
/-! DEFINITION. The fault unit's ring, shootdowns, migrations and access counters of a die
(spec/21_translation.md R328, R335, R337 to R341). -/

namespace Sys2Proof.Machine

/-! The fault ring (R334, R335, R337). -/

def FaultRegs.en (r : FaultRegs) : Bool := r.frctl.getLsbD 0
def FaultRegs.auto (r : FaultRegs) : Bool := r.frctl.getLsbD 1
def FaultRegs.cntth (r : FaultRegs) : Nat := bits r.frctl.toNat 16 16
def FaultRegs.base (r : FaultRegs) : Nat := bits r.frbase.toNat 17 35 * 2 ^ 17
def FaultRegs.full (r : FaultRegs) : Bool := (r.frtail - r.frhead).toNat == 4096

/-- The contents of a record (R335). -/
structure FaultRecord where
  kind : Nat
  reason : Nat := 0
  wr : Bool := false
  home : Nat := 0
  func : Nat := 0
  count : Nat := 0
  va : Nat := 0
  pa : Nat := 0
  old : Nat := 0
  mask : Option (List Nat) := none
  deriving DecidableEq, Repr

/-- A number with the bits of a list set. -/
def bitSet (l : List Nat) : Nat := l.foldl (fun a i => if bits a i 1 = 1 then a else a + 2 ^ i) 0

/-- Writes a record at a ring with room; the slot it takes is FRTAIL mod 4,096. -/
def State.putFault (s : State) (die : Nat) (f : FaultRecord) : State :=
  let d := s.die die
  let r := d.fault
  let slot := r.frtail.toNat % 4096
  let w0 := f.kind + f.reason * 2 ^ 4 + bitsOf f.wr * 2 ^ 8 + bitsOf r.lost * 2 ^ 9 + die * 2 ^ 10 +
    f.home * 2 ^ 13 + f.func * 2 ^ 16 + f.count % 2 ^ 32 * 2 ^ 32
  let s := s.writeSys (r.base + 32 * slot)
    (w0 + f.va % 2 ^ 58 * 2 ^ 64 + f.pa % 2 ^ 52 * 2 ^ 128 + f.old % 2 ^ 52 * 2 ^ 192) 32
  let s := match f.mask with
    | some m =>
      let a := r.base + 131072 + 256 * slot
      (s.writeSys a (bitSet m) 128).writeSys (a + 128) (bitSet m / 2 ^ 1024) 128
    | none => s
  s.setDie die { d with fault := { r with frtail := r.frtail + 1, lost := false } }

/-- Writes a record, or drops it at a full ring; the next one is marked LOST where an ACCESS record was dropped (R334, R335). -/
def State.putOrDrop (s : State) (die : Nat) (f : FaultRecord) : State :=
  let d := s.die die
  if d.fault.full then s.setDie die { d with fault := { d.fault with lost := d.fault.lost || f.kind == 3 } } else s.putFault die f

/-! Shootdowns (R274, R328). -/

/-- Starts a shootdown of a page (bits [57:14] of the image) or of all (bit 58), or, with `entry`, of region
entries (bits [7:0], bit 8). -/
def State.startShoot (s : State) (func : Nat) (entry : Bool) (image : Word) (ctx : Option Nat) (register : Bool)
    (migration : Option Nat) : State :=
  { s.fresh with shoots := s.shoots ++ [⟨s.serial, func, entry, image, [], [], ctx, register, migration⟩] }

/-- Whether a shootdown names a page of `2 ^ log` bytes with page number `p`. -/
def shootNames (image : Word) (p log : Nat) : Bool :=
  image.getLsbD 58 || bits image.toNat 14 44 * 2 ^ 14 / 2 ^ log == p

/-! Migration (R339, R341). -/

/-- Finds a page's leaf: its address, value and the log of its size; `error` is a RESULT code of R337, with the entry of a page
that is migrating. -/
def State.leafFrom (s : State) (va t lvl : Nat) : Nat → Except (Nat × Nat) (Nat × Nat × Nat)
  | 0 => .error (2, 0)
  | left + 1 =>
    let at' := t + 8 * bits va (47 - 11 * lvl) 11
    let e := (s.upToDate at').readMem at' 8
    if bits e 0 1 = 0 then .error (if bits e 56 1 = 1 then (1, e) else (2, 0))
    else if bits e 1 1 = 1 then .ok (at', e, 14 + 11 * (3 - lvl))
    else if lvl = 3 then .error (2, 0)
    else s.leafFrom va (bits e 14 38 * 2 ^ 14) (lvl + 1) left

def State.leafOf (s : State) (f va : Nat) : Except (Nat × Nat) (Nat × Nat × Nat) :=
  let r := (s.fn f).ptroot.toNat
  if bits r 0 1 = 0 then .error (2, 0) else s.leafFrom va (bits r 14 38 * 2 ^ 14) 0 4

/-- Step 1 of R339 and the start of step 2; an error is a RESULT code. `small` admits 16 KiB pages only (R341). -/
def State.startMigration (s : State) (die f va new : Nat) (command small : Bool) : Except Nat State :=
  match s.leafOf f va with
  | .error r => .error r.1
  | .ok (at', e, log) =>
    if 25 < log ∨ (small ∧ 14 < log) then .error 3
    else if new ≠ 0 ∧ (new % 2 ^ log ≠ 0 ∨ !paValid new ∨ !paValid (new + 2 ^ log - 1)) then .error 4
    else
      let s := s.writeSys at' (e - 1 + (if bits e 56 1 = 1 then 0 else 2 ^ 56)) 8
      let page := va / 2 ^ 14 * 2 ^ 14
      let n := s.serial
      let m : Migration :=
        { func := f, page := BitVec.ofNat 64 page, leafPa := at', leaf := BitVec.ofNat 64 e, size := 2 ^ log,
          old := bits e 14 38 * 2 ^ 14, new := new, shoot := n, command := command,
          drain := none }
      let s := s.startShoot f false (BitVec.ofNat 64 page) none false (some n)
      let d := s.die die
      .ok (s.setDie die { d with mig := d.mig ++ [m] })

/-- Takes a frame of a die's free-frame ring (R337). -/
def State.takeFrame (s : State) (die : Nat) : Option (State × Nat) :=
  let d := s.die die
  let r := d.fault
  if r.fflget = r.fflput then none
  else
    let a := bits r.fflbase.toNat 3 49 * 8 + 8 * (r.fflget.toNat % 2 ^ bits r.fflctl.toNat 0 4)
    some (s.setDie die { d with fault := { r with fflget := r.fflget + 1 } }, (s.upToDate a).readMem a 8 % 2 ^ 52)

/-- The die that holds the frame of a leaf, or 0 (R335 HOME). -/
def leafHome (leaf : Nat) : Nat :=
  let pa := bits leaf 14 38 * 2 ^ 14
  if paHost pa then 0 else paDie pa

/-- R341 for one page counted at a die: `e` is the region entry that covers it. -/
def State.autoMigrate (s : State) (die f va : Nat) (e : BitVec 128) : State :=
  let target := if rgnDom e = .package then rgnHome e else die
  let fail := fun (s : State) (code home : Nat) =>
    s.putOrDrop die { kind := 5, reason := code, home := home, func := f, va := va }
  match s.leafOf f va with
  | .error r => fail s r.1 (leafHome r.2)
  | .ok (_, leaf, log) =>
    let pa := bits leaf 14 38 * 2 ^ 14
    let home := leafHome leaf
    if rgnDom e = .package ∧ !paHost pa ∧ paDie pa = target then s
    else if 14 < log then fail s 3 home
    else match s.takeFrame target with
      | none => fail s 0 home
      | some (s, new) =>
        match s.startMigration die f va new false true with
        | .ok s => s
        | .error r => fail s r home

/-! Access counters (R338). -/

/-- Counts one access of a die; at CNTTH it migrates the marked pages that lie in AUTO ranges, each by the entry that covers
it, or writes an ACCESS record where the access lies in none; and it clears the entry. -/
def State.countAccess (s : State) (core func va pa : Nat) : State :=
  let home := if paHost pa then 0 else paDie pa
  let die := coreDie core
  let d := s.die die
  let region := va % 2 ^ 58 / 2 ^ 25
  let sub := va % 2 ^ 25 / 2 ^ 14
  let old := (d.access.find? fun a => a.func == func && a.region == region).getD ⟨func, region, 0, []⟩
  let rest := d.access.filter fun a => !(a.func == func && a.region == region)
  let new : AccessCtr := { old with
    count := old.count + 1
    sub := if old.sub.contains sub then old.sub else old.sub ++ [sub] }
  if new.count < d.fault.cntth || !d.fault.en then s.setDie die { d with access := (new :: rest).take 1024 }
  else
    let s := s.setDie die { d with access := rest }
    let co := s.core core
    let auto := fun (a : Nat) => (co.region a).filter fun e => rgnAuto e && d.fault.auto
    if (auto (va % 2 ^ 58)).isSome then
      new.sub.foldl (fun s p =>
        let a := region * 2 ^ 25 + p * 2 ^ 14
        match auto a with
        | some e => s.autoMigrate die func a e
        | none => s) s
    else s.putOrDrop die { kind := 3, func := func, count := new.count, va := region * 2 ^ 25,
                           mask := some new.sub, home := home }

end Sys2Proof.Machine
end

