-- ==== Sys2Proof/Machine/Float.lean ====
section
/-! DEFINITION. The number formats and their arithmetic (spec/04_numbers.md R86 to R101, R107): codes are
unpacked to exact values, computed exactly, and rounded once. -/

namespace Sys2Proof.Machine

/-! Formats. -/

/-- How a format spends its top codes (R86, R92). -/
inductive FmtKind where
  | ieee | e4m3 | finite | tapered (es : Nat)
  deriving DecidableEq, Repr

/-- A floating-point format: bits of exponent and of mantissa, and its bias (R86); for a tapered format
`mw + 1` is the width. -/
structure Fmt where
  ew : Nat
  mw : Nat
  bias : Nat
  kind : FmtKind
  deriving DecidableEq, Repr

namespace Fmt

def f64 : Fmt := ⟨11, 52, 1023, .ieee⟩
def f32 : Fmt := ⟨8, 23, 127, .ieee⟩
def bf16 : Fmt := ⟨8, 7, 127, .ieee⟩
def f16 : Fmt := ⟨5, 10, 15, .ieee⟩
def e5m2 : Fmt := ⟨5, 2, 15, .ieee⟩
def e4m3 : Fmt := ⟨4, 3, 7, .e4m3⟩
def e3m2 : Fmt := ⟨3, 2, 3, .finite⟩
def e2m3 : Fmt := ⟨2, 3, 1, .finite⟩
def e2m1 : Fmt := ⟨2, 1, 1, .finite⟩
def t8 : Fmt := ⟨0, 7, 0, .tapered 1⟩
def t6 : Fmt := ⟨0, 5, 0, .tapered 0⟩

/-- Width of a code. -/
def width (f : Fmt) : Nat := 1 + f.ew + f.mw

/-- The sign bit's weight. -/
def signBit (f : Fmt) : Nat := 2 ^ (f.ew + f.mw)

/-- The canonical NaN (R86, R92); `none` for a format without NaN codes. -/
def nan (f : Fmt) : Option Nat :=
  match f.kind with
  | .ieee => some ((2 ^ f.ew - 1) * 2 ^ f.mw + 2 ^ (f.mw - 1))
  | .e4m3 => some 0x7F
  | .finite => none
  | .tapered _ => some f.signBit

/-- The code of the largest finite value (R86, R92). -/
def maxFinite (f : Fmt) : Nat :=
  match f.kind with
  | .ieee => (2 ^ f.ew - 1) * 2 ^ f.mw - 1
  | .e4m3 => 0x7E
  | .finite | .tapered _ => f.signBit - 1

/-- The code of +infinity, where the format has one. -/
def inf (f : Fmt) : Option Nat :=
  match f.kind with
  | .ieee => some ((2 ^ f.ew - 1) * 2 ^ f.mw)
  | _ => none

def emin (f : Fmt) : Int := 1 - (f.bias : Int)

end Fmt

/-- An exact value: a NaN with its sign, mantissa field and whether it signals, an infinity, or
(-1)^neg x m x 2^e. -/
inductive FVal where
  | nan (neg : Bool) (frac : Nat) (sig : Bool)
  | inf (neg : Bool)
  | fin (neg : Bool) (m : Nat) (e : Int)
  deriving DecidableEq, Repr

namespace FVal

def isNan : FVal → Bool
  | .nan .. => true
  | _ => false

def isSig : FVal → Bool
  | .nan _ _ s => s
  | _ => false

def isZero : FVal → Bool
  | .fin _ m _ => m == 0
  | _ => false

def neg : FVal → Bool
  | .nan n _ _ => n
  | .inf n => n
  | .fin n _ _ => n

def negate : FVal → FVal
  | .nan n f s => .nan (!n) f s
  | .inf n => .inf (!n)
  | .fin n m e => .fin (!n) m e

end FVal

/-- The length of the run of bits equal to `b` from bit `i` downward, with `n` bits in all (R92). -/
def runLength (v : Nat) (b : Nat) : Nat → Nat
  | 0 => 0
  | n + 1 => if bits v n 1 = b then 1 + runLength v b n else 0

/-- R92: the value of a positive tapered magnitude of `w` bits. -/
def taperedMag (mag w es : Nat) : Nat × Int :=
  let bit := bits mag (w - 1) 1
  let m := runLength mag bit w
  let k : Int := if bit = 1 then (m : Int) - 1 else -(m : Int)
  let rest := w - m - 1
  let have' := if rest < es then rest else es
  let e := bits mag (rest - have') have' * 2 ^ (es - have')
  let fw := rest - have'
  let f := bits mag 0 fw
  (2 ^ fw + f, k * (2 ^ es : Nat) + (e : Int) - (fw : Int))

/-- The exact value of a code (R86, R87, R92). -/
def unpack (f : Fmt) (code : Nat) : FVal :=
  let c := code % 2 ^ f.width
  let neg := c / f.signBit == 1
  let mag := c % f.signBit
  match f.kind with
  | .tapered es =>
    if mag = 0 then (if neg then .nan true 0 false else .fin false 0 0)
    else
      let r := taperedMag mag f.mw es
      .fin neg r.1 r.2
  | k =>
    let ex := mag / 2 ^ f.mw
    let fr := mag % 2 ^ f.mw
    let top := 2 ^ f.ew - 1
    if k = .ieee ∧ ex = top then
      (if fr = 0 then .inf neg else .nan neg fr (fr / 2 ^ (f.mw - 1) == 0))
    else if k = .e4m3 ∧ mag = 0x7F then .nan neg fr false
    else if ex = 0 then .fin neg fr (f.emin - f.mw)
    else .fin neg (2 ^ f.mw + fr) ((ex : Int) - f.bias - f.mw)

/-! Flags of R108. -/

abbrev Flags := Nat

def flagNX : Flags := 1
def flagUF : Flags := 2
def flagOF : Flags := 4
def flagDZ : Flags := 8
def flagNV : Flags := 16
def flagPWB : Flags := 32

/-- A rounded result: its code, the flags it raises, and whether the draw of R95 was used. -/
structure Rounded where
  code : Nat
  flags : Flags
  drew : Bool
  deriving DecidableEq, Repr

/-- The least e with v < 2^e, for v > 0: the number of bits. -/
def bitLength (v : Nat) : Nat := if v = 0 then 0 else Nat.log2 v + 1

/-- Compares two nonnegative values m x 2^e. -/
def magLt (m1 : Nat) (e1 : Int) (m2 : Nat) (e2 : Int) : Bool :=
  if e1 ≤ e2 then m1 < m2 * 2 ^ (e2 - e1).toNat else m1 * 2 ^ (e1 - e2).toNat < m2

/-- Whether rounding goes up in magnitude (R94, R95): `n` is the lower neighbour in quanta, r / 2^s the
part above it, nonzero. -/
def roundsUp (mode : Round) (draw : Nat) (neg : Bool) (n r s : Nat) : Bool :=
  match mode with
  | .rtz => false
  | .rdn => neg
  | .rup => !neg
  | .sr =>
    if neg then !decide (draw * 2 ^ s < (2 ^ s - r) * 2 ^ 24) else decide (draw * 2 ^ s < r * 2 ^ 24)
  | .dyn | .rne => 2 * r > 2 ^ s || (2 * r == 2 ^ s && n % 2 == 1)

/-- m x 2^e in quanta of 2^q: whole quanta, the rest, and the rest's scale. -/
def quanta (m : Nat) (e q : Int) : Nat × Nat × Nat :=
  if q ≤ e then (m * 2 ^ (e - q).toNat, 0, 0)
  else
    let s := (q - e).toNat
    (m / 2 ^ s, m % 2 ^ s, s)

/-- The value that an overflow takes (R96), with its sign. A mode directed away from zero, which no column of the table
names, takes the first column's (DESIGN CHOICE, log 38). -/
def overflowCode (f : Fmt) (mode : Round) (sat neg : Bool) : Nat :=
  let toZero := mode == .rtz || (mode == .rdn && !neg) || (mode == .rup && neg)
  let s := if neg then f.signBit else 0
  if sat || toZero then s + f.maxFinite
  else match f.kind with
    | .ieee => s + f.inf.getD 0
    | .e4m3 => 0x7F
    | .finite => s + f.maxFinite
    | .tapered _ => f.signBit

/-- The greatest tapered magnitude code that is at most m x 2^e, among the codes up to `c` (R93). -/
def taperedBelow (f : Fmt) (es m : Nat) (e : Int) : Nat → Nat
  | 0 => 0
  | c + 1 =>
    let v := taperedMag (c + 1) f.mw es
    if magLt m e v.1 v.2 then taperedBelow f es m e c else c + 1

/-- R93: rounding a nonzero value into a tapered format. A magnitude below the smallest value takes no step of the LFSR
(R95; DESIGN CHOICE, log 38). -/
def roundTapered (f : Fmt) (es : Nat) (mode : Round) (draw : Nat) (sat neg : Bool) (m : Nat) (e : Int) :
    Rounded :=
  let s := if neg then f.signBit else 0
  let top := taperedMag f.maxFinite f.mw es
  if magLt top.1 top.2 m e then ⟨overflowCode f mode sat neg, flagOF + flagNX, false⟩
  else
    let lo := taperedBelow f es m e f.maxFinite
    if lo = 0 then ⟨s + 1, flagUF + flagNX, false⟩
    else
      let vl := taperedMag lo f.mw es
      if !magLt vl.1 vl.2 m e then ⟨s + lo, 0, false⟩
      else
        let vh := taperedMag (lo + 1) f.mw es
        let b := min e (min vl.2 vh.2)
        let x := m * 2 ^ (e - b).toNat
        let l := vl.1 * 2 ^ (vl.2 - b).toNat
        let h := vh.1 * 2 ^ (vh.2 - b).toNat
        let up := match mode with
          | .rtz => false
          | .rdn => neg
          | .rup => !neg
          | .sr =>
            if neg then !decide (draw * (h - l) < (h - x) * 2 ^ 24)
            else decide (draw * (h - l) < (x - l) * 2 ^ 24)
          | .dyn | .rne => x - l > h - x || (x - l == h - x && lo % 2 == 1)
        ⟨s + (if up then lo + 1 else lo), flagNX, mode == .sr⟩

/-- R87, R89, R94 to R96, R108: rounds the nonzero value (-1)^neg x m x 2^e into a format. Tininess is
judged after rounding with an unbounded exponent, under stochastic rounding on the value picked. Under .sr a value
above the largest finite one that needs no rounding but for its exponent takes no step of the LFSR: R95 and R163 do not say
whether it is representable (DESIGN CHOICE, log 38). -/
def roundTo (f : Fmt) (mode : Round) (draw : Nat) (sat neg : Bool) (m : Nat) (e : Int) : Rounded :=
  match f.kind with
  | .tapered es => roundTapered f es mode draw sat neg m e
  | _ =>
    let s := if neg then f.signBit else 0
    let lead : Int := (bitLength m : Int) - 1 + e
    let q : Int := max (lead - f.mw) (f.emin - f.mw)
    let a := quanta m e q
    let exact := a.2.1 == 0
    let n := if !exact && roundsUp mode draw neg a.1 a.2.1 a.2.2 then a.1 + 1 else a.1
    let inexact := !exact
    let drew := inexact && mode == .sr
    let n1 := if n = 2 ^ (f.mw + 1) then 2 ^ f.mw else n
    let q1 : Int := if n = 2 ^ (f.mw + 1) then q + 1 else q
    let mag : Int :=
      if n1 < 2 ^ f.mw then (n1 : Int) else (q1 + f.mw + f.bias) * (2 ^ f.mw : Nat) + ((n1 - 2 ^ f.mw : Nat) : Int)
    if mag > (f.maxFinite : Int) then ⟨overflowCode f mode sat neg, flagOF + flagNX, drew⟩
    else
      let u := quanta m e (lead - f.mw)
      let un := if u.2.1 != 0 && roundsUp mode draw neg u.1 u.2.1 u.2.2 then u.1 + 1 else u.1
      let tiny :=
        if mode == .sr then decide (mag < (2 ^ f.mw : Nat))
        else decide (un < 2 ^ (f.mw + 1) ∧ lead < f.emin ∨ un = 2 ^ (f.mw + 1) ∧ lead + 1 < f.emin)
      ⟨s + mag.toNat, (if inexact then flagNX else 0) + (if tiny && inexact then flagUF else 0), drew⟩

/-- A zero of a sign; T8 and T6 have one zero (R93). -/
def zeroCode (f : Fmt) (neg : Bool) : Nat :=
  match f.kind with
  | .tapered _ => 0
  | _ => if neg then f.signBit else 0

/-- Rounds any exact value that is no NaN, with `sat` saturating (R96); infinities become the format's. -/
def roundSat (f : Fmt) (mode : Round) (draw : Nat) (sat : Bool) (v : FVal) : Rounded :=
  match v with
  | .nan .. => ⟨f.nan.getD 0, 0, false⟩
  | .inf n => ⟨(if n then f.signBit else 0) + f.inf.getD f.maxFinite, 0, false⟩
  | .fin n m e => if m = 0 then ⟨zeroCode f n, 0, false⟩ else roundTo f mode draw sat n m e

/-- The same without saturation. -/
def roundVal (f : Fmt) (mode : Round) (draw : Nat) (v : FVal) : Rounded := roundSat f mode draw false v

/-! Stochastic rounding's register (R95). -/

def lfsrStep (l : BitVec 32) : BitVec 32 :=
  (l <<< 1) ||| (BitVec.ofBool (l.getLsbD 31 ^^ l.getLsbD 21 ^^ l.getLsbD 1 ^^ l.getLsbD 0)).zeroExtend 32

/-- The draw that the next stochastic rounding takes. -/
def lfsrDraw (l : BitVec 32) : Nat := (lfsrStep l).toNat % 2 ^ 24

/-- A rounding environment: the mode in force and the LFSR. -/
structure REnv where
  mode : Round
  lfsr : BitVec 32
  deriving DecidableEq, Repr

/-- The result of an operation of a strand: code, flags and the LFSR after it. -/
structure FRes where
  code : Nat
  flags : Flags
  lfsr : BitVec 32
  deriving DecidableEq, Repr

/-- Rounds with the draw of the environment, and steps the LFSR if the draw was used. -/
def REnv.finish (env : REnv) (r : Nat → Rounded) (more : Flags := 0) : FRes :=
  let a := r (lfsrDraw env.lfsr)
  ⟨a.code, a.flags ||| more, if a.drew then lfsrStep env.lfsr else env.lfsr⟩

def REnv.exact (env : REnv) (code : Nat) (flags : Flags) : FRes := ⟨code, flags, env.lfsr⟩

/-! Exact arithmetic on values. -/

/-- The signed sum of two finite values as sign, magnitude and exponent. -/
def addFin (n1 : Bool) (m1 : Nat) (e1 : Int) (n2 : Bool) (m2 : Nat) (e2 : Int) : Bool × Nat × Int :=
  let b := min e1 e2
  let x : Int := (m1 * 2 ^ (e1 - b).toNat : Nat)
  let y : Int := (m2 * 2 ^ (e2 - b).toNat : Nat)
  let z := (if n1 then -x else x) + (if n2 then -y else y)
  (decide (z < 0), z.natAbs, b)

def sigFlags (a b : FVal) : Flags := if a.isSig || b.isSig then flagNV else 0

/-- R163: a + b, rounded once. -/
def fpAdd (f : Fmt) (env : REnv) (a b : FVal) : FRes :=
  let nan := f.nan.getD 0
  match a, b with
  | .fin n1 m1 e1, .fin n2 m2 e2 =>
    let r := addFin n1 m1 e1 n2 m2 e2
    if r.2.1 = 0 then
      let neg := if n1 == n2 then n1 else env.mode == .rdn
      env.exact (zeroCode f neg) 0
    else env.finish fun d => roundTo f env.mode d false r.1 r.2.1 r.2.2
  | .inf n, .fin .. => env.exact ((if n then f.signBit else 0) + f.inf.getD 0) 0
  | .fin .., .inf n => env.exact ((if n then f.signBit else 0) + f.inf.getD 0) 0
  | .inf n, .inf k =>
    if n == k then env.exact ((if n then f.signBit else 0) + f.inf.getD 0) 0 else env.exact nan flagNV
  | _, _ => env.exact nan (sigFlags a b)

/-- R163: a - b. -/
def fpSub (f : Fmt) (env : REnv) (a b : FVal) : FRes := fpAdd f env a (if b.isNan then b else b.negate)

/-- The product of two values, not rounded; `none` is 0 x infinity. -/
def mulVal (a b : FVal) : Option FVal :=
  match a, b with
  | .fin n1 m1 e1, .fin n2 m2 e2 => some (.fin (n1 != n2) (m1 * m2) (e1 + e2))
  | .inf n, .fin k m _ => if m = 0 then none else some (.inf (n != k))
  | .fin k m _, .inf n => if m = 0 then none else some (.inf (n != k))
  | .inf n, .inf k => some (.inf (n != k))
  | .nan n q s, _ => some (.nan n q s)
  | _, .nan n q s => some (.nan n q s)

/-- R163: a x b; with `sat` a result that overflows saturates (R96). -/
def fpMulSat (f : Fmt) (sat : Bool) (env : REnv) (a b : FVal) : FRes :=
  let nan := f.nan.getD 0
  if a.isNan || b.isNan then env.exact nan (sigFlags a b)
  else match mulVal a b with
    | none => env.exact nan flagNV
    | some v => env.finish fun d => roundSat f env.mode d sat v

/-- R163: a x b. -/
def fpMul (f : Fmt) (env : REnv) (a b : FVal) : FRes := fpMulSat f false env a b

/-- R163: a x b + c, fused; 0 x infinity raises NV whatever c is. -/
def fpFma (f : Fmt) (env : REnv) (a b c : FVal) : FRes :=
  let nan := f.nan.getD 0
  match (if a.isNan || b.isNan then some a else mulVal a b) with
  | none => env.exact nan flagNV
  | some p =>
    if a.isNan || b.isNan || c.isNan then
      env.exact nan (sigFlags a b ||| (if c.isSig then flagNV else 0))
    else fpAdd f env p c

/-- m1/m2 to at least 140 significant bits, the last bit set when the quotient is not exact. -/
def quotient (m1 : Nat) (e1 : Int) (m2 : Nat) (e2 : Int) : Nat × Int :=
  let k := 140 + bitLength m2
  let n := m1 * 2 ^ k
  (2 * (n / m2) + (if n % m2 = 0 then 0 else 1), e1 - e2 - k - 1)

/-- R163: a / b. -/
def fpDiv (f : Fmt) (env : REnv) (a b : FVal) : FRes :=
  let nan := f.nan.getD 0
  let sgn := if a.neg != b.neg then f.signBit else 0
  match a, b with
  | .fin _ m1 e1, .fin _ m2 e2 =>
    if m2 = 0 then (if m1 = 0 then env.exact nan flagNV else env.exact (sgn + f.inf.getD 0) flagDZ)
    else if m1 = 0 then env.exact sgn 0
    else
      let q := quotient m1 e1 m2 e2
      env.finish fun d => roundTo f env.mode d false (a.neg != b.neg) q.1 q.2
  | .inf _, .fin .. => env.exact (sgn + f.inf.getD 0) 0
  | .fin .., .inf _ => env.exact sgn 0
  | .inf _, .inf _ => env.exact nan flagNV
  | _, _ => env.exact nan (sigFlags a b)

/-- The greatest r with r^2 at most v, below 2^(k+1) + acc, bit by bit. -/
def sqrtBits (v : Nat) : Nat → Nat → Nat
  | 0, acc => if (acc + 1) * (acc + 1) ≤ v then acc + 1 else acc
  | k + 1, acc =>
    let t := acc + 2 ^ (k + 1)
    sqrtBits v k (if t * t ≤ v then t else acc)

/-- The integer square root. -/
def isqrt (v : Nat) : Nat := sqrtBits v (bitLength v / 2 + 1) 0

/-- The square root of m x 2^e to at least 140 bits, the last bit set when it is not exact. -/
def sqrtVal (m : Nat) (e : Int) : Nat × Int :=
  let m1 := if e % 2 = 0 then m else 2 * m
  let e1 := if e % 2 = 0 then e else e - 1
  let n := m1 * 2 ^ 280
  let r := isqrt n
  (2 * r + (if r * r = n then 0 else 1), e1 / 2 - 140 - 1)

/-- R163: the square root. -/
def fpSqrt (f : Fmt) (env : REnv) (a : FVal) : FRes :=
  let nan := f.nan.getD 0
  match a with
  | .nan _ _ s => env.exact nan (if s then flagNV else 0)
  | .inf n => if n then env.exact nan flagNV else env.exact (f.inf.getD 0) 0
  | .fin n m e =>
    if m = 0 then env.exact (zeroCode f n) 0
    else if n then env.exact nan flagNV
    else
      let r := sqrtVal m e
      env.finish fun d => roundTo f env.mode d false false r.1 r.2

/-! Comparison (R88, R164). -/

/-- a < b for values that are no NaN, with -0 equal to +0. -/
def fpLt (a b : FVal) : Bool :=
  match a, b with
  | .inf n, .inf k => n && !k
  | .inf n, _ => n
  | _, .inf k => !k
  | .fin n1 m1 e1, .fin n2 m2 e2 =>
    let r := addFin n1 m1 e1 (!n2) m2 e2
    r.1
  | _, _ => false

def fpEq (a b : FVal) : Bool :=
  match a, b with
  | .inf n, .inf k => n == k
  | .fin n1 m1 e1, .fin n2 m2 e2 => (addFin n1 m1 e1 (!n2) m2 e2).2.1 == 0
  | _, _ => false

/-- R88, R164: minimumNumber (`big` false) or maximumNumber of two codes, with -0 below +0. -/
def fpMinMax (f : Fmt) (big : Bool) (x y : Nat) : Nat × Flags :=
  let a := unpack f x
  let b := unpack f y
  let fl := sigFlags a b
  match a.isNan, b.isNan with
  | true, true => (f.nan.getD 0, fl)
  | true, false => (y, fl)
  | false, true => (x, fl)
  | false, false =>
    let less := fpLt a b || (a.isZero && b.isZero && a.neg && !b.neg)
    (if less != big then x else y, 0)

/-- R165: the class mask. -/
def fpClass (f : Fmt) (x : Nat) : Nat :=
  match unpack f x with
  | .inf n => if n then 1 else 128
  | .nan _ _ s => if s then 256 else 512
  | .fin n m e =>
    if m = 0 then (if n then 8 else 16)
    else if (bitLength m : Int) - 1 + e < f.emin then (if n then 4 else 32)
    else if n then 2 else 64

/-! Conversions (R97 to R100). -/

/-- The mantissa image of a NaN of format `f` in the `w`-bit mantissa of a wider IEEE format (R97, R99). -/
def nanImage (f : Fmt) (w : Nat) (frac : Nat) : Nat :=
  match f.kind with
  | .tapered _ => 2 ^ (w - 1)
  | _ => frac * 2 ^ (w - f.mw)

/-- The FP32 pattern of a NaN of any format (R97, R99). -/
def nanToF32 (f : Fmt) (neg : Bool) (frac : Nat) : Nat :=
  if f = .f64 then
    (if frac % 2 ^ 29 = 0 then (if neg then 0x80000000 else 0) + 0x7F800000 + frac / 2 ^ 29 else 0x7FC00000)
  else if f = .f32 then (if neg then 0x80000000 else 0) + 0x7F800000 + frac
  else (if neg then 0x80000000 else 0) + 0x7F800000 + nanImage f 23 frac

/-- R98, R100: an FP32 NaN pattern in a narrower format, or 0 with invalid where that has no NaN. -/
def nanFromF32 (t : Fmt) (pat : Nat) : Nat × Flags :=
  match t.nan with
  | none => (0, flagNV)
  | some c =>
    let neg := pat / 0x80000000 == 1
    let frac := pat % 0x800000
    match t.kind with
    | .tapered _ => (c, 0)
    | .e4m3 =>
      if frac = 0x700000 then ((if neg then t.signBit else 0) + 0x7F, 0) else (c, 0)
    | _ =>
      if frac % 2 ^ (23 - t.mw) = 0 then
        ((if neg then t.signBit else 0) + (2 ^ t.ew - 1) * 2 ^ t.mw + frac / 2 ^ (23 - t.mw), 0)
      else (c, 0)

/-- R97 to R99: a NaN of format `f` in format `t`. -/
def nanConvert (f t : Fmt) (neg : Bool) (frac : Nat) : Nat × Flags :=
  if f = t then ((if neg then t.signBit else 0) + (2 ^ t.ew - 1) * 2 ^ t.mw + frac, 0)
  else if t = .f64 then
    let p := nanToF32 f neg frac
    ((if p / 0x80000000 = 1 then t.signBit else 0) + 0x7FF0000000000000 + (p % 0x800000) * 2 ^ 29, 0)
  else if t = .f32 then (nanToF32 f neg frac, 0)
  else nanFromF32 t (nanToF32 f neg frac)

/-- R97 to R100: float to float. An infinity in a target without one takes R96's value and raises NV. -/
def fpConvert (f t : Fmt) (env : REnv) (sat : Bool) (x : Nat) : FRes :=
  match unpack f x with
  | .nan n q _ => let r := nanConvert f t n q; env.exact r.1 r.2
  | .inf n =>
    match t.inf with
    | some c => env.exact ((if n then t.signBit else 0) + c) 0
    | none => env.exact (overflowCode t env.mode sat n) flagNV
  | .fin n m e =>
    if m = 0 then env.exact (zeroCode t n) 0
    else env.finish fun d => roundTo t env.mode d sat n m e

/-- Integer to float (R166, R229): rounded once. -/
def fpFromInt (t : Fmt) (env : REnv) (sat : Bool) (v : Int) : FRes :=
  if v = 0 then env.exact 0 0
  else env.finish fun d => roundTo t env.mode d sat (decide (v < 0)) v.natAbs 0

/-- The value rounded to an integer in the mode (R100, R166): magnitude, whether inexact, whether the draw was
used. -/
def roundInt (mode : Round) (draw : Nat) (neg : Bool) (m : Nat) (e : Int) : Nat × Bool :=
  let a := quanta m e 0
  if a.2.1 = 0 then (a.1, false)
  else (if roundsUp mode draw neg a.1 a.2.1 a.2.2 then a.1 + 1 else a.1, true)

/-- R100, R166: float to an integer in [lo, hi]. A NaN gives 0 and NV; out of range gives the nearest end and
NV, and no NX where fraction bits are lost as well: R100 does not say (DESIGN CHOICE, log 38). -/
def fpToInt (f : Fmt) (env : REnv) (lo hi : Int) (x : Nat) : Int × Flags × BitVec 32 :=
  match unpack f x with
  | .nan .. => (0, flagNV, env.lfsr)
  | .inf n => (if n then lo else hi, flagNV, env.lfsr)
  | .fin n m e =>
    let r := roundInt env.mode (lfsrDraw env.lfsr) n m e
    let v : Int := if n then -(r.1 : Int) else r.1
    let l := if r.2 && env.mode == .sr then lfsrStep env.lfsr else env.lfsr
    if v < lo then (lo, flagNV, l)
    else if hi < v then (hi, flagNV, l)
    else (v, if r.2 then flagNX else 0, l)

/-! Increments (R58): TwoSum with round to nearest. -/

def rneEnv : REnv := ⟨.rne, 1⟩

/-- An FP32 addition with round to nearest: code and flags. -/
def addRne (f : Fmt) (x y : Nat) : Nat × Flags :=
  let r := fpAdd f rneEnv (unpack f x) (unpack f y)
  (r.code, r.flags)

def subRne (f : Fmt) (x y : Nat) : Nat × Flags :=
  let r := fpSub f rneEnv (unpack f x) (unpack f y)
  (r.code, r.flags)

/-- R58 twosum_apply: sum element, error element, and the union of the flags. -/
def twoSum (m e i : Nat) : Nat × Nat × Flags :=
  let s := addRne .f32 m i
  let bb := subRne .f32 s.1 m
  let sb := subRne .f32 s.1 bb.1
  let t1 := subRne .f32 m sb.1
  let t2 := subRne .f32 i bb.1
  let t := addRne .f32 t1.1 t2.1
  let e' := addRne .f32 e t.1
  (s.1, e'.1, s.2 ||| bb.2 ||| sb.2 ||| t1.2 ||| t2.2 ||| t.2 ||| e'.2)

/-! Exact sums (R102, R103). -/

/-- The value of an exact sum: NaN, an infinity, or a signed magnitude; `negZero` while every term so far is
-0. -/
inductive Sum where
  | nan
  | inf (neg : Bool)
  | fin (v : Int) (e : Int) (negZero : Bool)
  deriving DecidableEq, Repr

/-- Adds a term exactly (R103); NV is raised where infinities of both signs meet. -/
def Sum.add (s : Sum) (t : FVal) : Sum × Flags :=
  match s, t with
  | .nan, _ => (.nan, 0)
  | _, .nan _ _ _ => (.nan, flagNV)
  | .inf n, .inf k => if n == k then (.inf n, 0) else (.nan, flagNV)
  | .inf n, _ => (.inf n, 0)
  | .fin .., .inf k => (.inf k, 0)
  | .fin v e z, .fin n m f =>
    let b := min e f
    let w : Int := (m * 2 ^ (f - b).toNat : Nat)
    (.fin (v * (2 ^ (e - b).toNat : Nat) + (if n then -w else w)) b (z && n && m == 0), 0)

/-- The value of a sum. -/
def Sum.val (s : Sum) : FVal :=
  match s with
  | .nan => .nan false 0 false
  | .inf n => .inf n
  | .fin v e z => if v = 0 then .fin z 0 0 else .fin (decide (v < 0)) v.natAbs e

end Sys2Proof.Machine
end

