-- ==== Sys2Proof/Machine/Flags.lean ====
section
/-! DEFINITION. Flag computations: %fflags and %frm of a strand (spec/04_numbers.md R94, R95, R108, R109),
and the rounding environment that an instruction uses. -/

namespace Sys2Proof

def FTy.fmt : FTy → Machine.Fmt
  | .f32 => .f32 | .f64 => .f64

def VTy.fmt : VTy → Machine.Fmt
  | .f32 => .f32 | .f64 => .f64 | .bf16 => .bf16 | .f16 => .f16

/-- The format of a float element type (R135). -/
def Elem.fmt : Elem → Option Machine.Fmt
  | .f64 => some .f64 | .f32 => some .f32 | .bf16 => some .bf16 | .f16 => some .f16
  | .e5m2 => some .e5m2 | .e4m3 => some .e4m3 | .e3m2 => some .e3m2 | .e2m3 => some .e2m3
  | .e2m1 => some .e2m1 | .t8 => some .t8 | .t6 => some .t6
  | _ => none

/-- Width of an element in bits (R86, R91, R92). -/
def Elem.bits : Elem → Nat
  | .s8 | .n8 | .e5m2 | .e4m3 | .t8 => 8
  | .s16 | .n16 | .bf16 | .f16 => 16
  | .s32 | .n32 | .f32 => 32
  | .s64 | .n64 | .f64 => 64
  | .e3m2 | .e2m3 | .t6 => 6
  | .e2m1 | .s4 => 4

def Elem.signed : Elem → Bool
  | .s8 | .s16 | .s32 | .s64 | .s4 => true
  | _ => false

end Sys2Proof

namespace Sys2Proof.Machine

/-- %frm.MODE as a rounding mode (R95). -/
def frmMode (frm : Word) : Round :=
  match (frm.extractLsb' 0 3).toNat with
  | 2 => .rtz | 3 => .rdn | 4 => .rup | 5 => .sr | _ => .rne

def frmLfsr (frm : Word) : BitVec 32 := frm.extractLsb' 32 32

/-- The mode of a rounding field: code 0 takes %frm.MODE (R94). -/
def Strand.mode (t : Strand) (r : Round) : Round := if r = .dyn then frmMode t.frm else r

def Strand.env (t : Strand) (r : Round) : REnv := ⟨t.mode r, frmLfsr t.frm⟩

/-- %frm with another LFSR (R95). -/
def frmWithLfsr (frm : Word) (l : BitVec 32) : Word := l ++ frm.extractLsb' 0 32

/-- ORs flags into %fflags once (R109) and keeps the LFSR. -/
def Strand.commit (t : Strand) (fl : Flags) (l : BitVec 32) : Strand :=
  { t with fflags := t.fflags ||| BitVec.ofNat 64 fl, frm := frmWithLfsr t.frm l }

/-- %frm as WRS stores it: modes 0, 6 and 7 store 1, a zero LFSR stores 1, [31:3] read 0 (R95). -/
def frmStored (v : Word) : Word :=
  let m := v.extractLsb' 0 3
  let m' : BitVec 3 := if m = 0 ∨ m = 6 ∨ m = 7 then 1 else m
  let l := v.extractLsb' 32 32
  let l' : BitVec 32 := if l = 0 then 1 else l
  l' ++ (0#29 ++ m')

/-- %frm at an activation (R95). -/
def frmAt (wid : Word) : Word :=
  let l := wid.extractLsb' 0 32 ^^^ 0x9E3779B9#32
  (if l = 0 then 1#32 else l) ++ 1#32

/-- %fflags as WRS stores it (R108). -/
def fflagsStored (v : Word) : Word := v &&& 0x3F

/-- %age as WRS stores it (R14). -/
def ageStored (v : Word) : BitVec 16 :=
  if v.toNat < 64 then 64 else if 65535 < v.toNat then 65535 else BitVec.ofNat 16 v.toNat

/-- The range of an integer element type. -/
def intRange (signed : Bool) (w : Nat) : Int × Int :=
  if signed then (-(2 ^ (w - 1) : Nat), (2 ^ (w - 1) : Nat) - 1) else (0, (2 ^ w : Nat) - 1)

/-- R97 to R100, R166, R229: converts one element; the code is right-aligned. -/
def convertElem (src dst : Elem) (env : REnv) (sat : Bool) (x : Nat) : FRes :=
  match src.fmt, dst.fmt with
  | some f, some t => fpConvert f t env sat x
  | none, some t => fpFromInt t env sat (readAs src.signed src.bits x)
  | some f, none =>
    let r := intRange dst.signed dst.bits
    let v := fpToInt f env r.1 r.2 x
    ⟨(BitVec.ofInt dst.bits v.1).toNat, v.2.1, v.2.2⟩
  | none, none =>
    let v := readAs src.signed src.bits x
    let r := intRange dst.signed dst.bits
    let v := if sat then max r.1 (min r.2 v) else v
    env.exact (BitVec.ofInt dst.bits v).toNat 0

end Sys2Proof.Machine
end

