-- ==== Sys2Proof/Machine/Cache.lean ====
section
/-! DEFINITION. Queueing items on their way home, delivering values, and the cluster cache
(spec/02_memory.md R36, R56 to R63, spec/03_ordering.md R68 to R76). -/

namespace Sys2Proof.Machine

/-! Routes and queues. -/

/-- Who makes an access: the core, the context, the function and the slot (5 for none). -/
structure Who where
  core : Nat
  ctx : Nat
  func : Nat
  slot : Nat
  deriving DecidableEq, Repr

def Who.clus (w : Who) : Nat := coreClus w.core
def Who.die (w : Who) : Nat := coreDie w.core

/-- The next die on the way: to the right column first, then to the right row (R24, R48, R63). -/
def nextDie (d t : Nat) : Nat :=
  if d % 4 < t % 4 then d + 1 else if t % 4 < d % 4 then d - 1 else if d < t then d + 4 else d - 4

/-- The items of a line that a cluster has in its posting buffers. -/
def State.queuedOn (s : State) (k line : Nat) : List Item :=
  (List.range 32).flatMap fun i =>
    (s.posting.get (64 * (32 * k + i) + homeSlice (128 * line)) []).filter fun it => it.line == line

/-- An item holds an access of a context (R61). -/
def Item.holds (it : Item) (ctx : Nat) : Bool := if it.wb then it.ctxs.contains ctx else it.ctx == ctx

/-- What a strand's next item of a line must follow: its own earlier accesses of the line, and the line as the cluster
cache sent it home, which an increment does not follow where the strand added nothing to it (R60, R61, R72, R81). -/
def State.ahead (s : State) (k line ctx : Nat) (incr : Bool) : List Nat :=
  ((s.queuedOn k line).filter fun it => (it.wb && !incr) || it.holds ctx).map fun it => it.serial

/-- A strand's own queued items of a line, which its store into the cluster cache follows (R72). -/
def State.ownAhead (s : State) (k line ctx : Nat) : List Nat :=
  ((s.queuedOn k line).filter fun it => !it.wb && it.ctx == ctx).map fun it => it.serial

def isIncr : Act → Bool
  | .incr .. | .incrc .. => true
  | _ => false

/-! Delivering values. -/

/-- What a sink suffers when its access fails after issue: the entry faults (R343), a collected read notes it. -/
def State.failSink (s : State) (k : Sink) (t : Trap) : State :=
  match k with
  | .discard => s
  | .x c e _ _ | .v c e _ => s.onCtx c fun u => u.faultEntry e t
  | .trec c e _ _ _ _ | .donate c e _ => s.onCtx c fun u => { u.faultEntry e t with wait := none }
  | .gather id _ =>
    match s.gathers.find id with
    | some g => { s with gathers := s.gathers.put id { g with left := g.left - 1, failed := some t } }
    | none => s

/-- Places a task record on a die's task ready queue (R213). -/
def State.enqueueTask (s : State) (die : Nat) (task : BitVec 128) (func : Nat) : State :=
  let d := s.die die
  { s.setDie die { d with tasks := d.tasks ++ [(task, func, s.serial)] } with serial := s.serial + 1 }

/-- TREC's answer (R213): the old value of the counter decides. -/
def State.trecAnswer (s : State) (c e die : Nat) (d : RegNo) (task : BitVec 128) (va : Word) (old : Nat) : State :=
  let func := ((s.ctxStrand c).map fun t => t.func).getD 0
  let s := s.onCtx c fun t =>
    { ((t.setX d (if old = 0 then BitVec.allOnes 64 else BitVec.ofNat 64 (old - 1))).free e) with wait := none }
  if old = 0 then s.error 3 2 die func 1 va.toNat (task.extractLsb' 0 64).toNat
  else if old = 1 then s.enqueueTask die task func
  else s

/-- Delivers the bytes of a performed read, or the old value of a performed atomic. -/
def State.deliver (s : State) (k : Sink) (v : Nat) : State :=
  match k with
  | .discard => s
  | .x c e d z => s.onCtx c fun t => (t.setX d (loadValue z v)).free e
  | .v c e d => s.onCtx c fun t => (t.setV d (BitVec.ofNat 512 v)).free e
  | .gather id pos =>
    match s.gathers.find id with
    | some g => { s with gathers := s.gathers.put id { g with left := g.left - 1, bytes := g.bytes.put pos v } }
    | none => s
  | .trec c e die d task va => s.trecAnswer c e die d task va v
  | .donate c e pkg =>
    let r := BitVec.ofNat 128 v
    -- a reserved bit, PF or DN is set (R212)
    if r.extractLsb' 97 31 != 0 then s.onCtx c fun t => { t.faultEntry e (.protection 21) with wait := none }
    else
      { s.onCtx c (fun t => { t.free e with wait := none }) with donOut := s.donOut ++ [(pkg.toNat, r)] }

/-- The entry of a read stands in its strand's queue: a context that left its slot makes its reads anew, and an old answer finds
none (R355; log 19). -/
def State.awaited (s : State) (ctx e : Nat) : Bool :=
  (s.ctxStrand ctx).any fun t => t.queue.any fun q => q.serial == e

/-- Delivers the bytes of a read that was on its way. -/
def State.deliverRead (s : State) (k : Sink) (v : Nat) : State :=
  match k with
  | .x c e _ _ | .v c e _ => if s.awaited c e then s.deliver k v else s
  | _ => s.deliver k v

/-- %fflags of the strand behind a sink (R109, R184). -/
def State.sinkFlags (s : State) (k : Sink) (fl : Nat) : State :=
  match k with
  | .x c _ _ _ => if fl = 0 then s else s.onCtx c fun t => t.orFlags fl
  | _ => s

/-! Queueing. -/

/-- An operation that a lost link fails (R343): the entry raises LINK_LOST, or the operation is dropped with a
REMOTE_LOST record and counts as performed. -/
def State.lose (s : State) (it : Item) (link : Nat) : State :=
  let s := s.performed it.serial
  let drop := fun (s : State) => s.error 25 2 (link / 8) it.func 1 it.va.toNat link
  match it.act with
  | .read _ _ k => s.failSink k .linkLost
  | .atomic r _ k => if r.returning then s.failSink k .linkLost else drop s
  | _ => drop s

/-- Puts an item in the remote queue of the link to the next die (R63, R71). -/
def State.forward (s : State) (die : Nat) (it : Item) : State :=
  let l := linkKey die (nextDie die it.die)
  let k := s.link l
  if k.state = .down then s.lose it l else s.setLink l { k with queue := k.queue ++ [it] }

/-- What a fetch on its way must know of an item that its cluster queues behind it (R56, R72; log 9). -/
def Fetch.note (f : Fetch) (line serial : Nat) (ctxs : List Nat) (act : Act) : Fetch :=
  if f.line ≠ line then f
  else match act with
    | .fetch _ | .read _ _ _ => f
    | .write d m _ => { f with late := f.late ++ [(serial, d, m)] }
    | .incr .. | .incrc .. | .atomic .. | .poison _ => { f with stale := f.stale ++ [(serial, ctxs)] }

/-- The cluster queues an item of a line: fetches of the line that are on their way take note. -/
def State.noteItem (s : State) (kn : Nat) (it : Item) : State :=
  let k := s.cluster kn
  if k.fetches.any fun f => f.line == it.line then
    let ctxs := if it.wb then it.ctxs else [it.ctx]
    s.setCluster kn { k with fetches := k.fetches.map fun f => f.note it.line it.serial ctxs it.act }
  else s

/-- The bytes of an increment's element. -/
def IncFmt.bytes : IncFmt → Nat
  | .s64 => 8
  | _ => 4

/-- The increments that an item delivers: a line of the cluster cache is one, a strand's are its elements (R57, R60). Any other
item is one access. -/
def Item.increments (it : Item) : Nat :=
  match it.act with
  | .incr f _ m => if it.wb then 1 else ((List.range (128 / f.bytes)).filter fun n => m.getLsbD (n * f.bytes)).length
  | _ => 1

/-- Queues an item (R71): in P[c][h] for memory served at this die, else in the remote queue, where the fault unit counts each of
its accesses (R338). -/
def State.enqueue (s : State) (w : Who) (it : Item) (isLoad : Bool) : State :=
  let remote := it.die != w.die
  let s := (s.addLive ⟨it.serial, it.ctx, slotKey w.core w.slot, w.clus, remote, isLoad, isIncr it.act, it.die, it.func, it.va⟩).noteItem w.clus it
  if remote then ((List.range it.increments).foldl (fun s _ => s.countAccess w.core it.func it.va.toNat (128 * it.line)) s).forward w.die it
  else
    let key := 64 * w.core + homeSlice (128 * it.line)
    { s with posting := s.posting.put key (s.posting.get key [] ++ [it]) }

/-- Queues an access of a strand (R71). It follows the strand's own items of the line, and what the cluster cache sent
home of it (R47, R60, R72). -/
def State.post (s : State) (w : Who) (va : Word) (line : Nat) (act : Act) (serial : Nat) (after : List Nat)
    (isLoad : Bool) : State :=
  s.enqueue w { serial := serial, ctx := w.ctx, die := servedAt w.die line, line := line, act := act,
                after := (if servedAt w.die line = w.die then s.ahead w.clus line w.ctx (isIncr act) else []) ++ after,
                func := w.func, va := va, core := w.core, wb := false, ctxs := [] } isLoad

/-- Queues an item that takes a serial of its own. -/
def State.postNew (s : State) (w : Who) (va : Word) (line : Nat) (act : Act) (after : List Nat) : State :=
  (s.fresh).post w va line act s.serial after false

/-- Queues a line of the cluster cache on its way home: behind what the cache sent of it before, and behind what its
writers had queued (R61, R72). -/
def State.postBack (s : State) (w : Who) (c : CLine) (act : Act) : State :=
  s.fresh.enqueue w { serial := s.serial, ctx := w.ctx, die := servedAt w.die c.line, line := c.line, act := act,
                      after := (((s.queuedOn w.clus c.line).filter fun it => it.wb).map fun it => it.serial) ++ c.after,
                      func := w.func, va := c.va, core := w.core, wb := true, ctxs := c.ctxs } false

/-! Elements of increments (R58, R59). -/

/-- The element that leaves every value unchanged (R59). -/
def IncFmt.identity : IncFmt → Nat
  | .f32 | .f32c => 0x80000000
  | _ => 0

def IncFmt.add (f : IncFmt) (m i : Nat) : Nat × Flags :=
  match f with
  | .f32 | .f32c => addRne .f32 m i
  | .s32 => ((m + i) % 2 ^ 32, 0)
  | .s64 => ((m + i) % 2 ^ 64, 0)

/-- Adds the masked elements of a line, counting the flags of each; with `home`, an identity is passed over
(R58, R59; log 10). -/
def addElems (f : IncFmt) (home : Bool) (old inc : Line) (mask : ByteMask) (ctr : Tab (BitVec 32)) :
    Line × Tab (BitVec 32) :=
  let r := (List.range (128 / f.bytes)).foldl (fun (a : Nat × Tab (BitVec 32)) n =>
    let off := n * f.bytes
    let m := lineBytes old off f.bytes
    let i := lineBytes inc off f.bytes
    if !mask.getLsbD off || (home && i == f.identity) then (a.1 + m * 2 ^ (8 * off), a.2)
    else
      let v := f.add m i
      (a.1 + v.1 * 2 ^ (8 * off), countFlags a.2 v.2)) (0, ctr)
  (BitVec.ofNat 1024 r.1, r.2)

/-- A line with every element at the identity (R59). -/
def identityLine (f : IncFmt) : Line :=
  BitVec.ofNat 1024 ((List.range (128 / f.bytes)).foldl (fun a n => a + f.identity * 2 ^ (8 * f.bytes * n)) 0)

/-! Atomics (R182 to R184). -/

/-- An LFSR whose next draw is `d`. -/
def drawLfsr (d : BitVec 24) : BitVec 32 :=
  let l : BitVec 32 := (d >>> 1).zeroExtend 32
  if (l.getLsbD 21 ^^ l.getLsbD 1 ^^ l.getLsbD 0) == d.getLsbD 0 then l else l ||| 0x80000000#32

def NumTy.fmt (t : NumTy) : Fmt := if t.bytes = 4 then .f32 else .f64

def AtomKind.bytes : AtomKind → Nat
  | .amo _ t | .cas t | .famo _ t _ _ => t.bytes
  | .dec => 4

/-- The new value and the flags of an atomic. -/
def AtomReq.apply (r : AtomReq) (old : Nat) : Nat × Flags :=
  match r.kind with
  | .amo op t =>
    let n := t.bits
    let b := r.b.toNat % 2 ^ n
    (match op with
     | .add => (old + b) % 2 ^ n
     | .and => old &&& b
     | .or => old ||| b
     | .xor => old ^^^ b
     | .min => if readAs t.signed n old < readAs t.signed n b then old else b
     | .max => if readAs t.signed n b < readAs t.signed n old then old else b
     | .swap => b, 0)
  | .cas t => (if old = r.c.toNat % 2 ^ t.bits then r.b.toNat % 2 ^ t.bits else old, 0)
  | .famo op t mode draw =>
    let b := r.b.toNat % 2 ^ t.bits
    (match op with
     | .add =>
       let v := fpAdd (NumTy.fmt t) ⟨mode, drawLfsr draw⟩ (unpack (NumTy.fmt t) old) (unpack (NumTy.fmt t) b)
       (v.code, v.flags)
     | .min => fpMinMax (NumTy.fmt t) false old b
     | .max => fpMinMax (NumTy.fmt t) true old b
     | _ => (b, 0))
  | .dec => (old - 1, 0)

/-! The cluster cache (R36, R56). -/

def Cluster.findLine (k : Cluster) (l : Nat) : Option CLine := k.lines.find? fun c => c.line == l

def Cluster.dropLine (k : Cluster) (l : Nat) : Cluster := { k with lines := k.lines.filter fun c => c.line != l }

/-- Puts a line first, as the most recently used (R36). -/
def Cluster.putLine (k : Cluster) (c : CLine) : Cluster :=
  { k with lines := c :: k.lines.filter fun o => o.line != c.line }

/-- The banks that are ways of the cache (R36, R39). -/
def Cluster.cacheBanks (k : Cluster) : List Nat :=
  (List.range 24).filter fun b => k.mode b == .cache && !(k.changing.any fun c => c.bank == b)

def Cluster.caches (k : Cluster) : Bool := !k.cacheBanks.isEmpty

/-- A line that a strand has written, with what its write-back must follow. -/
def State.written (s : State) (kn ctx : Nat) (c : CLine) : CLine :=
  { c with ctxs := (c.ctxs ++ [ctx]).eraseDups, after := (c.after ++ s.ownAhead kn c.line ctx).eraseDups }

/-- Executes an atomic on a line of the cache. -/
def State.atomOnLine (s : State) (kn ctx : Nat) (c : CLine) (off : Nat) (r : AtomReq) (sink : Sink) : State :=
  let n := r.kind.bytes
  let old := lineBytes c.data off n
  let v := r.apply old
  let k := s.cluster kn
  let c' : CLine := { s.written kn ctx c with
    st := .d, data := mergeBytes c.data (lineAt v.1 off) (byteMask off n), dirty := c.dirty ||| byteMask off n }
  let k := { k.putLine c' with atomCtr := if r.returning then k.atomCtr else countFlags k.atomCtr v.2 }
  let s := s.setCluster kn k
  if r.returning then (s.deliver sink old).sinkFlags sink v.2 else s

/-- A slice discards increments or a no-return atomic on a poisoned line and counts each, saturating (R62). -/
def State.discardAt (s : State) (sl n : Nat) : State :=
  let h := s.slice sl
  s.setSlice sl { h with poisonDiscards := BitVec.ofNat 32 (min (h.poisonDiscards.toNat + n) (2 ^ 32 - 1)) }

/-- A load is performed: its value, and its mark (R70 FILL). -/
def State.answerLoad (s : State) (w : WaitLoad) (d : Line) (poisoned : Bool) : State :=
  let s := s.performed w.serial
  if poisoned then s.failSink w.sink .poison else s.deliverRead w.sink (lineBytes d w.off w.len)

/-- Sends a line home by the eviction column of R56: its item is queued and the line goes to I. -/
def State.evictLine (s : State) (w : Who) (l : Nat) : State :=
  let k := s.cluster w.clus
  match k.findLine l with
  | none => s
  | some c =>
    let s := s.setCluster w.clus (k.dropLine l)
    match c.st with
    | .s => s
    | .d => s.postBack w c (.write c.data c.dirty false)
    | .a => s.postBack w c (.incr c.fmt c.data c.dirty)

/-- A line that an uncorrectable error has struck goes home as poison; an S line is dropped (R62). -/
def State.sendPoison (s : State) (w : Who) (c : CLine) : State :=
  let s := s.setCluster w.clus ((s.cluster w.clus).dropLine c.line)
  if c.st = LState.s then s else s.postBack w c (.poison (some 2))

/-- Room for a line in its set: a free way, or the way of the least recently used line, which is evicted
(R36). -/
def State.allocate (s : State) (w : Who) (l : Nat) : State × Nat :=
  let k := s.cluster w.clus
  let set := k.lines.filter fun c => c.line % 128 == l % 128
  match k.cacheBanks.find? fun b => !(set.any fun c => c.bank == b) with
  | some b => (s, b)
  | none =>
    match (set.filter fun c => k.cacheBanks.contains c.bank).getLast? with
    | some v => (s.evictLine w v.line, v.bank)
    | none => (s, 0)

/-- Installs bytes in a line that is I, S or D (R56 FILL), and gives the line; `behind` as in `CLine`. -/
def State.install (s : State) (w : Who) (l : Nat) (d : Line) (p : Place) (va : Word) (behind : List Nat) :
    State × Option CLine :=
  let k := s.cluster w.clus
  match k.findLine l with
  | some c =>
    if c.st = LState.a then (s, none)
    else
      let c' := { c with
        data := mergeBytes d c.data c.valid
        valid := BitVec.allOnes 128
        behind := if c.valid = BitVec.allOnes 128 then c.behind else (c.behind ++ behind).eraseDups }
      (s.setCluster w.clus (k.putLine c'), some c')
  | none =>
    if !k.caches then (s, none)
    else
      let r := s.allocate w l
      let c : CLine := { line := l, st := .s, data := d, valid := BitVec.allOnes 128, dirty := 0, fmt := .f32,
                         dom := p.dom, bank := r.2, va := va, ctxs := [], after := [], behind := behind }
      (r.1.setCluster w.clus ((r.1.cluster w.clus).putLine c), some c)

/-- Queues a fetch of a line for a load or an atomic that waits on it (R71). -/
def State.queueFetch (s : State) (w : Who) (p : Place) (va : Word) (l : Nat) (loads : List WaitLoad)
    (atoms : List WaitAtom) : State :=
  let f : Fetch := { line := l, serial := s.serial, ctx := w.ctx, place := p, va := va, func := w.func, core := w.core,
                     loads := loads, atoms := atoms, got := none, poisoned := false, late := [], stale := [] }
  let s := s.fresh.post w va l (.fetch w.clus) s.serial [] false
  let k := s.cluster w.clus
  s.setCluster w.clus { k with fetches := k.fetches ++ [f] }

/-- An atomic that waited for a fetch executes on the line at FILL; where no bank is in CACHE mode, at the home
slice (R56). Where the line lacks increments or atomics of the cluster, the atomic fetches it again (log 9). -/
def State.runAtom (s : State) (w : Who) (p : Place) (va : Word) (l : Nat) (a : WaitAtom) : State :=
  match (s.cluster w.clus).findLine l with
  | some c =>
    if c.st = LState.a || !c.behind.isEmpty then (s.evictLine w l).queueFetch w p va l [] [a]
    else if c.valid = BitVec.allOnes 128 then (s.performed a.serial).atomOnLine w.clus a.ctx c a.off a.req a.sink
    else s.queueFetch w p va l [] [a]
  | none =>
    if (s.cluster w.clus).caches then s.queueFetch w p va l [] [a]
    else (s.performed a.serial).post w va l (.atomic a.req a.off a.sink) a.serial [] a.req.returning

/-- The contexts whose increments or atomics the bytes of a fetch do not hold: their own accesses to the line are in
program order, so they do not take these bytes (R72; log 9). -/
def Fetch.behind (f : Fetch) : List Nat := (f.stale.flatMap fun e => e.2).eraseDups

/-- The bytes of a fetch with the cluster's own later writes (R56, R72). -/
def Fetch.bytes (f : Fetch) (d : Line) : Line := f.late.foldl (fun d e => mergeBytes d e.2.1 e.2.2) d

/-- The row of SRAM that holds a line of the cache, or any in which it would be placed, is being remapped (R36, R386). -/
def State.wayBusy (s : State) (kn l : Nat) : Bool :=
  let k := s.cluster kn
  let row := fun (b : Nat) => s.sramBusy kn (16384 * b + 128 * (l % 128)) 128
  match k.findLine l with
  | some c => row c.bank
  | none => k.cacheBanks.any row

/-- FILL (R70): the oldest performed fetch of a line is installed, and the loads that wait on the line take
their values, but for those of contexts that are ahead of its bytes (log 9). -/
def State.fillOne (s : State) (kn l : Nat) : Option State :=
  let k := s.cluster kn
  let ready := if s.wayBusy kn l then [] else k.fetches.filter fun f => f.line == l && f.got.isSome
  let first := ready.foldl (fun (b : Option Fetch) f =>
    match b with
    | none => some f
    | some g =>
      if (f.got.map fun x => x.1).getD 0 < (g.got.map fun x => x.1).getD 0 then some f else some g) none
  match first with
  | none => none
  | some f =>
    match f.got with
    | none => none
    | some (_, d) =>
      let w : Who := ⟨f.core, f.ctx, f.func, 5⟩
      let waits := fun (g : Fetch) (x : WaitLoad) => g.serial != f.serial && f.behind.contains x.ctx
      let waiting := (k.fetches.filter fun g => g.line == l).flatMap fun g => g.loads.filter fun x => !waits g x
      let s := (s.setCluster kn { k with
        fetches := (k.fetches.filter fun g => g.serial != f.serial).map fun g =>
          if g.line == l then { g with loads := g.loads.filter (waits g) } else g }).performed f.serial
      if f.poisoned then
        let s := waiting.foldl (fun s x => s.answerLoad x d true) s
        some (f.atoms.foldl (fun s a =>
          if a.req.returning then (s.performed a.serial).failSink a.sink .poison
          else (s.performed a.serial).discardAt (64 * servedAt w.die l + homeSlice (128 * l)) 1) s)
      else
        let d := f.bytes d
        let r := s.install w l d f.place f.va f.behind
        let bytes := match r.2 with
          | some c => if c.st = LState.a then d else c.data
          | none => d
        let s := waiting.foldl (fun s x => s.answerLoad x bytes false) r.1
        some (f.atoms.foldl (fun s a => s.runAtom w f.place f.va l a) s)

/-! Accesses of a strand through the cache (R56, R71). -/

/-- A plain load in a cached domain. `entry` is its serial. -/
def State.loadCached (s : State) (w : Who) (p : Place) (va : Word) (l off len entry : Nat) (sink : Sink) : State :=
  let k := s.cluster w.clus
  let miss := fun (s : State) =>
    (s.addLive ⟨entry, w.ctx, slotKey w.core w.slot, w.clus, false, true, false, w.die, w.func, va⟩).queueFetch w p va l [⟨entry, w.ctx, off, len, sink⟩] []
  match k.findLine l with
  | some c =>
    if c.st = LState.a || c.behind.contains w.ctx then miss (s.evictLine w l)
    else if byteMask off len &&& ~~~c.valid = 0 then
      (s.setCluster w.clus (k.putLine c)).deliver sink (lineBytes c.data off len)
    else miss s
  | none => miss s

/-- A plain store in a cached domain: performed at issue. -/
def State.storeCached (s : State) (w : Who) (p : Place) (va : Word) (l off len v : Nat) : State :=
  let s := match (s.cluster w.clus).findLine l with
    | some c => if c.st = LState.a then s.evictLine w l else s
    | none => s
  let k := s.cluster w.clus
  match k.findLine l with
  | some c =>
    s.setCluster w.clus (k.putLine { s.written w.clus w.ctx c with
      st := .d, data := mergeBytes c.data (lineAt v off) (byteMask off len),
      valid := c.valid ||| byteMask off len, dirty := c.dirty ||| byteMask off len })
  | none =>
    let r := s.allocate w l
    r.1.setCluster w.clus ((r.1.cluster w.clus).putLine
      { line := l, st := .d, data := lineAt v off, valid := byteMask off len, dirty := byteMask off len, fmt := .f32,
        dom := p.dom, bank := r.2, va := va, ctxs := [w.ctx], after := r.1.ownAhead w.clus l w.ctx, behind := [] })

/-- Adds elements into an A line of this format (R56, R59). -/
def State.addLocal (s : State) (w : Who) (p : Place) (va : Word) (l : Nat) (f : IncFmt) (inc : Line)
    (mask : ByteMask) : State :=
  let s := match (s.cluster w.clus).findLine l with
    | some c => if c.st == LState.a && c.fmt == f then s else s.evictLine w l
    | none => s
  let k := s.cluster w.clus
  match k.findLine l with
  | some c =>
    let r := addElems f false c.data inc mask k.atomCtr
    s.setCluster w.clus { k.putLine { s.written w.clus w.ctx c with data := r.1 } with atomCtr := r.2 }
  | none =>
    let a := s.allocate w l
    let k := a.1.cluster w.clus
    let r := addElems f false (identityLine f) inc mask k.atomCtr
    a.1.setCluster w.clus
      { k.putLine { line := l, st := .a, data := r.1, valid := 0, dirty := BitVec.allOnes 128, fmt := f, dom := p.dom,
                    bank := a.2, va := va, ctxs := [w.ctx], after := a.1.ownAhead w.clus l w.ctx, behind := [] } with atomCtr := r.2 }

/-- An atomic at the cluster atomic unit (R55, R56). -/
def State.atomCluster (s : State) (w : Who) (p : Place) (va : Word) (l off entry : Nat) (r : AtomReq) (sink : Sink) :
    State :=
  let s := match (s.cluster w.clus).findLine l with
    | some c => if c.st = LState.a || !c.behind.isEmpty then s.evictLine w l else s
    | none => s
  let miss := fun (s : State) =>
    (s.addLive ⟨entry, w.ctx, slotKey w.core w.slot, w.clus, false, r.returning, false, w.die, w.func, va⟩).queueFetch w p va l []
      [⟨entry, w.ctx, off, r, sink⟩]
  match (s.cluster w.clus).findLine l with
  | some c =>
    if c.valid = BitVec.allOnes 128 then s.atomOnLine w.clus w.ctx c off r sink else miss s
  | none => miss s

end Sys2Proof.Machine
end

