-- ==== Sys2Proof/Machine/Home.lean ====
section
/-! DEFINITION. What happens at homes: lines of memory and of host memory, held writes, the performance of
an item, and reads that are put together (spec/02_memory.md R46 to R62, spec/03_ordering.md R70, R73,
spec/11_isa_matrix.md R247, R248, spec/23_host.md R358 to R361). -/

namespace Sys2Proof.Machine

/-! Lines at their homes. -/

/-- The bytes of a line as an access served at a die finds them; a host-homed line that misses the die's L2 is
fetched into it (R53, R338). -/
def State.homeRead (s : State) (core func : Nat) (va : Word) (die line : Nat) : State × Line :=
  let s := s.l2Touch die line
  if paHost (128 * line) then
    match s.l2host.find (l2Key die line) with
    | some (c, _) => (s, c)
    | none =>
      let s := ((s.countAccess core func va.toNat (128 * line)).hostFlushLine line).askLost die line
      let d := s.readLine line
      ({ s.track line die false true with l2host := s.l2host.put (l2Key die line) (d, 0) }, d)
  else
    let s := s.pullHost line false
    (s, s.readLine line)

/-- Merges masked bytes at a home (R51, R62). -/
def State.homeWrite (s : State) (core func : Nat) (va : Word) (die line : Nat) (d : Line) (mask : ByteMask) : State :=
  if paHost (128 * line) then
    let r := s.homeRead core func va die line
    let m := match r.1.l2host.find (l2Key die line) with
      | some (_, m) => m
      | none => 0
    let s := { r.1 with l2host := r.1.l2host.put (l2Key die line) (mergeBytes r.2 d mask, m ||| mask) }
    let s := s.track line die true false
    if mask = BitVec.allOnes 128 then { s with poison := s.poison.filter fun p => p != line } else s
  else ((s.l2Touch die line).pullHost line false).mergeLine line d mask

/-- The slice at which an item is performed. -/
def Item.slice (it : Item) : Nat := 64 * it.die + homeSlice (128 * it.line)

def isWrite : Act → Bool
  | .write _ _ _ => true
  | _ => false

/-- Whether an item may be performed: what it must follow is performed, no held write stands before it, and its line can
be served (R73, R189). -/
def State.servable (s : State) (it : Item) : Bool :=
  s.allDone false it.after && (isWrite it.act || !s.heldOn it.slice it.line) && s.lineReady it.die it.line

/-- A write arrives at its home: it merges, or it is accepted and held where a host link is recorded for the
line (R73, R360); the back-invalidations go out once a link of the die is trained (R362). With `toHost` the bytes go on to host memory (R75). -/
def State.performWrite (s : State) (it : Item) (d : Line) (mask : ByteMask) (toHost : Bool) : State :=
  let core := it.core
  let sl := s.slice it.slice
  if paHost (128 * it.line) then
    let s := s.homeWrite core it.func it.va it.die it.line d mask
    if toHost then
      let p := s.linkTo it.line
      match s.l2host.find (l2Key it.die it.line) with
      | some (c, m) =>
        let l := s.hostLink p
        let s := s.setHostLink p { l with queue := l.queue ++ [{ it with act := .write c m false }] }
        ({ s with l2host := s.l2host.put (l2Key it.die it.line) (c, 0) }.untrack (some it.line) 0).accepted it.serial
      | none => s.performed it.serial
    else s.performed it.serial
  else if sl.held.any (fun h => h.line == it.line) || sl.sharers.any (fun e => e.1 == it.line) then
    (s.setSlice it.slice { sl with
      held := sl.held ++ [it]
      sharers := if s.dieWakes it.die then sl.sharers
        else sl.sharers.map fun e => if e.1 == it.line then (e.1, e.2.1, some (e.2.2.getD s.now)) else e }).accepted it.serial
  else (s.homeWrite core it.func it.va it.die it.line d mask).performed it.serial

/-- R58 for one compensated element: the sum line and the error line. Where either line is poisoned, neither takes the
increment, and it counts once (R62; of the error line alone the rule does not speak: DESIGN CHOICE, log 44). -/
def State.performComp (s : State) (it : Item) (off : Nat) (v : BitVec 32) (comp : Nat) : State :=
  let core := it.core
  let cl := comp / 128
  if s.poison.contains it.line || s.poison.contains cl then s.discardAt it.slice 1
  else
    let a := s.homeRead core it.func it.va it.die it.line
    let b := a.1.homeRead core it.func it.va it.die cl
    let r := twoSum (lineBytes a.2 off 4) (lineBytes b.2 (comp % 128) 4) v.toNat
    let s := b.1.homeWrite core it.func it.va it.die it.line (lineAt r.1 off) (byteMask off 4)
    let s := s.homeWrite core it.func it.va it.die cl (lineAt r.2.1 (comp % 128)) (byteMask (comp % 128) 4)
    let h := s.slice it.slice
    s.setSlice it.slice { h with ctr := countFlags h.ctr r.2.2 }

/-- The flags of an atomic at a home slice: to the strand of a returning one, else to the slice (R186). -/
def State.slotFlags (s : State) (sl : Nat) (r : AtomReq) (k : Sink) (fl : Nat) : State :=
  if r.returning then s.sinkFlags k fl
  else
    let h := s.slice sl
    s.setSlice sl { h with ctr := countFlags h.ctr fl }

/-- The head item of a queue is performed at its home slice (R70 DRAIN and INGRESS). -/
def State.perform (s : State) (it : Item) : State :=
  let core := it.core
  let s := if (s.l2host.find (l2Key it.die it.line)).isNone then s.askLost it.die it.line else s
  let poisoned := s.poison.contains it.line
  match it.act with
  | .fetch clus =>
    let r := s.homeRead core it.func it.va it.die it.line
    let k := r.1.cluster clus
    if k.fetches.any fun f => f.serial == it.serial then
      { r.1.setCluster clus { k with fetches := k.fetches.map fun f =>
          if f.serial = it.serial then
            let queued := fun (n : Nat) => r.1.live.any fun l => l.serial == n
            { f with got := some (s.serial, r.2), poisoned := poisoned, late := f.late.filter fun e => queued e.1,
                     stale := f.stale.filter fun e => queued e.1 }
          else f } with
        serial := s.serial + 1 }
    else r.1.performed it.serial
  | .read off len k =>
    let r := s.homeRead core it.func it.va it.die it.line
    let s := r.1.performed it.serial
    if poisoned then s.failSink k .poison else s.deliverRead k (lineBytes r.2 off len)
  | .write d mask toHost => s.performWrite it d mask toHost
  | .incr f d mask =>
    let s := s.performed it.serial
    if poisoned then s.discardAt it.slice it.increments
    else
      let r := s.homeRead core it.func it.va it.die it.line
      let h := r.1.slice it.slice
      let v := addElems f true r.2 d mask h.ctr
      (r.1.setSlice it.slice { h with ctr := v.2 }).homeWrite core it.func it.va it.die it.line v.1 mask
  | .incrc off v comp => (s.performed it.serial).performComp it off v comp
  | .poison (some u) => (s.performed it.serial).poisonLine it.line u it.die
  | .poison none =>
    let s := s.performed it.serial
    if poisoned then s else { s with poison := it.line :: s.poison }
  | .atomic q off k =>
    let s := s.performed it.serial
    if poisoned then (if q.returning then s.failSink k .poison else s.discardAt it.slice 1)
    else
      let n := q.kind.bytes
      let r := s.homeRead core it.func it.va it.die it.line
      let old := lineBytes r.2 off n
      let v := q.apply old
      let underflow := q.kind == .dec && old == 0
      let s := if underflow then r.1
        else r.1.homeWrite core it.func it.va it.die it.line (lineAt v.1 off) (byteMask off n)
      (if q.returning then s.deliver k old else s).slotFlags it.slice q k v.2

/-! Reads that are put together (R178, R247, R248). -/

/-- The place of an address among the pages that an instruction translated at issue. -/
def spotOf (spots : List (Nat × Place)) (va : Nat) : Option Place :=
  (spots.find? fun e => e.1 == va / 16384).map fun e => { e.2 with pa := e.2.pa + va % 16384 }

/-- A write of `n` bytes as STS or PUT makes it: the cluster's copy goes home first (R177, R188). The bytes lie
in one line. -/
def State.storeHome (s : State) (w : Who) (p : Place) (va : Word) (v n : Nat) (after : List Nat) : State :=
  let l := p.pa / 128
  let s := if p.remote w.die then s else s.evictLine w l
  s.postNew w va l (.write (lineAt v (p.pa % 128)) (byteMask (p.pa % 128) n) false) after

/-- Such a write under a serial that was taken before. -/
def State.storeAs (s : State) (w : Who) (p : Place) (va : Word) (v n serial : Nat) : State :=
  let l := p.pa / 128
  let s := if p.remote w.die then s else s.evictLine w l
  s.post w va l (.write (lineAt v (p.pa % 128)) (byteMask (p.pa % 128) n) false) serial [] false

/-- A format that holds every sum of two FP32 values exactly. -/
def exactFmt : Fmt := ⟨11, 320, 1023, .ieee⟩

/-- R248: the exact sum of an element and its companion, converted. A sum that is a NaN is the canonical NaN of FP32
(R88). Flags of the sum itself are not counted: R110 counts those of the conversion (log 38). -/
def compConvert (dst : Elem) (sat : Bool) (e : REnv) (m c : Nat) : FRes :=
  let x := (fpAdd exactFmt ⟨.rne, 1⟩ (unpack .f32 m) (unpack .f32 c)).code
  if (unpack exactFmt x).isNan then convertElem .f32 dst e sat 0x7FC00000
  else match dst.fmt with
    | some t => fpConvert exactFmt t e sat x
    | none =>
      let g := intRange dst.signed dst.bits
      let v := fpToInt exactFmt e g.1 g.2 x
      ⟨(BitVec.ofInt dst.bits v.1).toNat, v.2.1, v.2.2⟩

/-- R248: converts the source elements and packs them (R90): the bytes, their flags and the LFSR. Element i stands
under 2 i, and its companion, where its range is compensated, under 2 i + 1. -/
def accConvert (src : AccTy) (dst : Elem) (sat : Bool) (env : REnv) (vals : Tab Nat) : Nat × Flags × BitVec 32 :=
  let one := fun (a : Nat × Flags × BitVec 32) (i : Nat) =>
    let e : REnv := { env with lfsr := a.2.2 }
    let m := vals.get (2 * i) 0
    let r := match src with
      | .f32 =>
        (match vals.find (2 * i + 1) with
         | some c => compConvert dst sat e m c
         | none => convertElem .f32 dst e sat m)
      | .s32 => convertElem .s32 dst e sat m
      | .s64 => convertElem .s64 dst e sat m
    (a.1 + r.code % 2 ^ dst.bits * 2 ^ (dst.bits * i), a.2.1 ||| r.flags, r.lfsr)
  (List.range 16).foldl one (0, 0, env.lfsr)

/-- An ACCCVT of a cluster has come to its end. -/
def Cluster.endCvt (k : Cluster) (entry : Nat) : Cluster := { k with cvts := k.cvts.filter fun c => c.entry != entry }

/-- The conversion's result is written to the target (R248), its flags are counted once in the context of the
core (R110), and the entry is freed (R272). Under .sr the strand's LFSR is read and stepped here (log 38). Where the
bank has left SCRATCH mode, the bytes go with its contents (R39). -/
def State.finishCvt (s : State) (g : Gather) (ctx core : Nat) (src : AccTy) (dst : Elem) (sat : Bool)
    (mode : Round) (target : Word) (sram : Option Nat) (spots : List (Nat × Place)) (writes : List Nat) : State :=
  let t := (s.ctxStrand ctx).getD .idle
  let r := accConvert src dst sat ⟨mode, frmLfsr t.frm⟩ g.bytes
  let s := s.onCtx ctx fun t => { t.free g.serial with frm := frmWithLfsr t.frm r.2.2 }
  let kn := coreClus core
  let k := (s.cluster kn).endCvt g.serial
  let m := k.mats.get (core % 32) .reset
  let k := { k with mats := k.mats.put (core % 32) { m with counters := countFlags m.counters r.2.1 } }
  let n := 2 * dst.bits
  match sram with
  | some b => s.setCluster kn (if k.inScratch b n then k.writeSram b r.1 n else k)
  | none =>
    -- a 6-bit result may cross from one line to the next
    let s := s.setCluster kn k
    let a := target.toNat
    let n1 := min n (128 - a % 128)
    let w : Who := ⟨core, ctx, t.func, 5⟩
    let parts := [(a, r.1 % 2 ^ (8 * n1), n1), (a + n1, r.1 / 2 ^ (8 * n1), n - n1)]
    (parts.zip writes).foldl (fun s q =>
      match spotOf spots q.1.1 with
      | some p => (s.performed q.2).storeAs w p (BitVec.ofNat 64 q.1.1) q.1.2.1 q.1.2.2 q.2
      | none => s.performed q.2) s

/-- All parts have come: the value goes where it belongs. ACCRD of f32c rounds the sum to FP64 and raises no flag
(R247; log 38). -/
def State.finishGather (s : State) (id : Nat) (g : Gather) : State :=
  let s := { s with gathers := s.gathers.del id }
  match g.failed with
  | some t =>
    (match g.finish with
     | .x c e _ _ _ | .accrd c e _ => s.onCtx c fun u => u.faultEntry e t
     | .acccvt c core _ _ _ _ _ _ _ writes =>
       let kn := coreClus core
       let s := (s.setCluster kn ((s.cluster kn).endCvt g.serial)).onCtx c fun u => u.faultEntry g.serial t
       writes.foldl (fun s n => s.performed n) s)
  | none =>
    match g.finish with
    | .x c e d z pwb =>
      let v := g.bytes.foldl (fun a p => a + p.2 * 2 ^ (8 * p.1)) 0
      if s.awaited c e then s.onCtx c fun t => ((t.setX d (loadValue z v)).free e).orFlags (if pwb then flagPWB else 0) else s
    | .accrd c e d =>
      let v := fpAdd .f64 rneEnv (unpack .f32 (g.bytes.get 0 0)) (unpack .f32 (g.bytes.get 1 0))
      if s.awaited c e then s.onCtx c fun t => (t.setX d (BitVec.ofNat 64 v.code)).free e else s
    | .acccvt c core src dst sat mode target sram spots writes =>
      s.finishCvt g c core src dst sat mode target sram spots writes

/-- A row of SRAM that a conversion's result goes to is being remapped (R386). -/
def State.cvtHeld (s : State) (g : Gather) : Bool :=
  match g.finish with
  | .acccvt _ core _ dst _ _ _ sram _ _ => sram.any fun b => s.sramBusy (coreClus core) b (2 * dst.bits)
  | _ => false

/-- Finishes every read whose parts have all come. -/
def State.sweep (s : State) : State :=
  (s.gathers.filter fun g => g.2.left == 0 && !s.cvtHeld g.2).foldl (fun s g => s.finishGather g.1 g.2) s

end Sys2Proof.Machine
end

