-- ==== Sys2Proof/Machine/Edges.lean ====
section
/-! DEFINITION. Releases and acquires (spec/03_ordering.md R74 to R79). -/

namespace Sys2Proof.Machine

def Dom.rank : Dom → Nat
  | .cluster => 0 | .die => 1 | .package => 2 | .system => 3

/-- The serials of the write-backs and increments in the posting buffers of a cluster (R75). -/
def State.postedBy (s : State) (k : Nat) : List Nat :=
  (s.posting.filter fun e => e.1 / 64 / 32 == k).flatMap fun e =>
    (e.2.filter fun it => it.wb || isIncr it.act).map fun it => it.serial

/-- The accesses of a strand that a release of a reach waits for: remote operations count from PACKAGE on
(R75; log 7). -/
def State.issuedBy (s : State) (ctx : Nat) (reach : Dom) : List Nat :=
  (s.live.filter fun l => l.ctx == ctx && (!l.remote || 2 ≤ reach.rank)).map fun l => l.serial

/-- The increments of a strand that are not performed at their homes: a FENCE of any reach but CLUSTER waits for
those of other dies too (R79). -/
def State.increments (s : State) (ctx : Nat) (reach : Dom) : List Nat :=
  if reach = .cluster then [] else (s.live.filter fun l => l.ctx == ctx && l.incr).map fun l => l.serial

/-- The start of a release that is not of reach CLUSTER: D lines are written back and go to S, A lines go home
(R75). -/
def State.writeBack (s : State) (w : Who) (system : Bool) : State :=
  (s.cluster w.clus).lines.foldl (fun s c =>
    if c.dom = .cluster then s
    else match c.st with
      | .s => s
      | .a => s.evictLine w c.line
      | .d =>
        let k := s.cluster w.clus
        match k.findLine c.line with
        | some c =>
          let s := s.setCluster w.clus { k with lines := k.lines.map fun o =>
            if o.line = c.line then { o with st := .s, dirty := 0, ctxs := [], after := [] } else o }
          s.postBack w c (.write c.data c.dirty (system && paHost (128 * c.line)))
        | none => s) s

/-- Begins a release by a strand (R75) and gives what it waits for. -/
def State.release (s : State) (w : Who) (reach : Dom) : State × List Nat :=
  if reach = .cluster then (s, s.issuedBy w.ctx reach)
  else
    let s := s.writeBack w (reach == .system)
    let own := s.issuedBy w.ctx reach
    let host := if reach = .system then (s.hostLive.filter fun l => l.ctx == w.ctx).map fun l => l.serial else []
    (s, own ++ s.postedBy w.clus ++ host)

/-- A release that covers every access of a cluster (R78), made for core `w.core`. -/
def State.releaseCluster (s : State) (w : Who) (reach : Dom) : State × List Nat :=
  let mine := fun (s : State) =>
    (s.live.filter fun l => l.clus == w.clus && (!l.remote || 2 ≤ reach.rank)).map fun l => l.serial
  if reach = .cluster then (s, mine s)
  else
    let s := s.writeBack w (reach == .system)
    (s, mine s ++ s.postedBy w.clus)

/-- The loads that an acquire waits for (R76 step 1): returning atomics, GET, ACCRD and TREC are among them (DESIGN
CHOICE, log 44). -/
def State.loadsOf (s : State) (ctx : Nat) : List Nat :=
  (s.live.filter fun l => l.ctx == ctx && l.isLoad).map fun l => l.serial

/-- Steps 2 and 3 of an acquire (R76). -/
def State.invalidate (s : State) (w : Who) (reach : Dom) : State :=
  if reach = .cluster then s
  else
    (s.cluster w.clus).lines.foldl (fun s c =>
      if c.dom = .cluster then s
      else match c.st with
        | .s => s.setCluster w.clus ((s.cluster w.clus).dropLine c.line)
        | .d => s.evictLine w c.line
        | .a => s) s

/-- The domain of a FENCE's address as a reach (R79). -/
def fenceReach (p : Option Place) : Dom :=
  match p with
  | none => .cluster
  | some p => p.dom

end Sys2Proof.Machine
end

