-- ==== Sys2Proof/Machine/Ops.lean ====
section
/-! DEFINITION. The shared operations of instructions: issuing and its holds, translating at issue, emission,
taking a trap and returning from one (spec/03_ordering.md R72, spec/08_isa_memory.md R175,
spec/11_isa_matrix.md R243, R244, spec/12_isa_engines.md R268 to R273, spec/22_traps.md R343 to R352). -/

namespace Sys2Proof.Machine

/-! Events: a step whose condition does not hold leaves the machine as it is (log 2). -/

/-- The machine after a step that was taken. -/
def State.ran (s : State) : State := { s with stalled := false }
/-- The machine where a step is held: nothing else changes. -/
def State.waits (s : State) : State := { s with stalled := true }

def event (s : State) (o : Option State) : Host.Outcome State Fault Refusal :=
  match o with
  | some s' => .next s'.ran
  | none => .next s.waits

/-! The strand that issues. -/

def State.me (s : State) : Strand := s.strand s.here
def State.setMe (s : State) (t : Strand) : State := s.setStrand s.here t

def State.whoAt (s : State) (k : Nat) : Who := ⟨slotCore k, (s.strand k).ctx, (s.strand k).func, slotIdx k⟩

/-- The instruction of `n` bytes is issued: the program counter moves on, and the translations that were taken
for it are let go. -/
def Strand.advance (t : Strand) (n : Nat) : Strand := { t with pc := t.pc + BitVec.ofNat 64 n, walk := none }

/-- Control goes to a header (R129, R130). -/
def Strand.goto (t : Strand) (hdr : Word) (w : EntryWay) : Strand := { t with pc := hdr, way := some w, walk := none }

def isReplay : Phase → Bool
  | .replay => true
  | _ => false

def isFaulted : Phase → Bool
  | .faulted _ => true
  | _ => false

def isWalking : Phase → Bool
  | .walking _ => true
  | _ => false

/-- An access of the strand waits for its translation walk (R72). -/
def Strand.walking (t : Strand) : Bool := t.queue.any fun e => isWalking e.phase

/-- Whether the strand may issue its next instruction, registers apart (R72, R272, R344). -/
def Strand.ready (t : Strand) : Bool :=
  t.active && t.edge.isNone && t.wait.isNone && t.trap.isNone && t.queue.length < 16 &&
    !(t.queue.any fun e => isReplay e.phase || isFaulted e.phase) &&
    (match t.walk with
     | some w => !w.busy
     | none => true)

/-! Launches' ends. -/

/-- A ready launch ends with a status (R313). -/
def State.endLaunch (s : State) (n : Option Nat) (status : Nat) : State :=
  match n with
  | none => s
  | some n =>
    match s.launches.find n with
    | some l => if l.state = .ready then { s with launches := s.launches.put n { l with state := .ended status } } else s
    | none => s

/-! The range scoreboard (R65). -/

def overlaps (a n b m : Nat) : Bool := a < b + m && b < a + n

/-- Whether a stretch meets the scoreboard: `store` counts sources too. -/
def Cluster.boardMem (k : Cluster) (a n : Nat) (store : Bool) : Bool :=
  k.board.any fun e =>
    (e.dstMem.any fun r => overlaps a n r.1 r.2) || (store && e.srcMem.any fun r => overlaps a n r.1 r.2)

/-- Scratch is compared by bank and line (R65). -/
def Cluster.boardScratch (k : Cluster) (a n : Nat) (store : Bool) : Bool :=
  let l := linesOf a n
  let meets := fun (r : Nat × Nat) => overlaps l.1 l.2 (linesOf r.1 r.2).1 (linesOf r.1 r.2).2
  k.board.any fun e => e.dstScratch.any meets || (store && e.srcScratch.any meets)

/-! Emission (R243, R244). -/

/-- The synthesis mode of a descriptor (R235). -/
def synOf (desc : Word) : Syn :=
  match bits desc.toNat 0 4 with
  | 0 => .fp64s | 1 => .fp32s | _ => .native

def MatCtx.cf (m : MatCtx) : Nat := bits m.descA.toNat 8 2
def MatCtx.pitch (m : MatCtx) : Nat := bits m.descA.toNat 32 16
/-- The size of an accumulator element (R237). -/
def MatCtx.esize (m : MatCtx) : Nat := if m.cf = 3 then 8 else 4
/-- The address of element (i, j) (R237). -/
def MatCtx.elem (m : MatCtx) (a : Word) (i j : Nat) : Word := a + BitVec.ofNat 64 (4 * m.pitch * i + m.esize * j)

/-- The core's slot is the setter of its matrix context (R233). -/
def MatCtx.setBy (m : MatCtx) (slot ctx : Nat) : Bool := m.setter == some (slot, ctx)

/-- Increments at a place go straight home (R36, R54, R59): they are never held in an A line. -/
def State.incDirect (s : State) (w : Who) (p : Place) : Bool :=
  p.remote w.die || p.unc || p.cmp || !(s.cluster w.clus).caches

/-- One increment of an element (R59): into an A line, or straight home. `comp` is the companion's place. -/
def State.increment (s : State) (w : Who) (p : Place) (va : Word) (f : IncFmt) (v : Nat) (comp : Nat) : State :=
  let l := p.pa / 128
  let off := p.pa % 128
  if s.incDirect w p then
    let s := if p.remote w.die then s else s.evictLine w l
    s.postNew w va l
      (if f == .f32c then .incrc off (BitVec.ofNat 32 v) comp else .incr f (lineAt v off) (byteMask off f.bytes)) []
  else s.addLocal w p va l f (lineAt v off) (byteMask off f.bytes)

/-- The format of a context's increments in a range (R244). -/
def MatCtx.incFmt (m : MatCtx) (p : Place) : IncFmt :=
  match m.cf with
  | 2 => .s32
  | 3 => .s64
  | _ => if p.cmp then .f32c else .f32

/-- R106: an FP64s element as the increments hi and lo. -/
def hiLo (w : Nat) : List Nat :=
  let hi := (fpConvert .f64 .f32 rneEnv false w).code
  let back := (fpConvert .f32 .f64 rneEnv false hi).code
  [hi, (fpConvert .f64 .f32 rneEnv false (subRne .f64 w back).1).code]

/-- What an element of the buffer sends (R106, R244). -/
def MatCtx.parts (m : MatCtx) (w : Nat) : List Nat := if m.syn = .fp64s then hiLo w else [w]

/-- The places of a touched element, with its companion's address for f32c (R58, R244). -/
def MatCtx.places (m : MatCtx) (b : CoalBuf) (key : Nat) : Option (Word × Place × Nat) :=
  let va := m.elem b.addr (key / 16) (key % 16)
  match spotOf b.spots va.toNat with
  | none => none
  | some p =>
    if m.incFmt p = .f32c then (spotOf b.spots (va.toNat + p.cstr)).map fun q => (va, p, q.pa) else some (va, p, 0)

/-- Delivers the touched elements of a buffer, row by row (R244). A key is 16 i + j. -/
def State.emitBuf (s : State) (w : Who) (m : MatCtx) (b : CoalBuf) : State :=
  b.sums.foldl (fun s e =>
    match m.places b e.1 with
    | some (va, p, comp) => (m.parts e.2.toNat).foldl (fun s v => s.increment w p va (m.incFmt p) v comp) s
    | none => s) s

def State.mat (s : State) (core : Nat) : MatCtx := (s.cluster (coreClus core)).mats.get (core % 32) .reset
def State.setMat (s : State) (core : Nat) (m : MatCtx) : State :=
  let k := s.cluster (coreClus core)
  s.setCluster (coreClus core) { k with mats := k.mats.put (core % 32) m }

/-- An emission that a commit caused is issued by the strand of the MMA or MMAT (R245). -/
def CoalBuf.issuer (b : CoalBuf) (w : Who) : Who := { w with ctx := b.ctx, slot := b.slot }

/-- Emits what the core's context holds: an emission under way first (R243). -/
def State.emit (s : State) (w : Who) : State :=
  let m := s.mat w.core
  let m' := { m with buf := none, emitting := none }
  match m.emitting, m.buf with
  | none, none => s
  | some e, none => (s.setMat w.core m').emitBuf (e.issuer w) m e
  | none, some b => (s.setMat w.core m').emitBuf w m b
  | some e, some b => ((s.setMat w.core m').emitBuf (e.issuer w) m e).emitBuf w m b

/-- The increments of a buffer meet the range scoreboard (R65), or a way under remap (R386). -/
def State.boardBuf (s : State) (kn : Nat) (m : MatCtx) (b : CoalBuf) : Bool :=
  let k := s.cluster kn
  b.sums.any fun e =>
    match m.places b e.1 with
    | some (_, p, comp) => s.wayBusy kn (p.pa / 128) || k.boardMem p.pa m.esize true || (m.incFmt p == .f32c && k.boardMem comp 4 true)
    | none => false

/-- An emission of the core may be made: no copy in flight holds a line of it (R65). -/
def State.emitFree (s : State) (core : Nat) : Bool :=
  let m := s.mat core
  !((m.emitting.toList ++ m.buf.toList).any fun b => s.boardBuf (coreClus core) m b)

/-- The core's queue of matrix requests is empty (R243). -/
def State.matIdle (s : State) (core : Nat) : Bool := (s.mat core).reqs.isEmpty

/-- A saved setter's restore is under way in the core: its context waits in the shadow bank (R233). -/
def Core.restoring (c : Core) : Bool :=
  match c.shadow with
  | some b => !b.outgoing && b.mat.isSome
  | none => false

/-! Fresh strands (R291, R95, R108, R170, R197). -/

/-- The binding nk that a launch gives (R309). -/
def Launch.binding (l : Launch) (k : Nat) : Word := l.word (256 + 8 * k) &&& 0xFFFFFF

def State.launchBindings (s : State) (n : Option Nat) : Tab Word :=
  match n.bind fun n => s.launches.find n with
  | some l => (List.range 16).filterMap fun k => if l.binding k = 0 then none else some (k, l.binding k)
  | none => []

/-- The strand that an activation begins with (R291): registers 0 and full. -/
def Strand.fresh (ctx : Nat) (launch : Option Nat) (func : Nat) (wid hdr : Word) (way : EntryWay) (cls : SlotClass)
    (prio type : BitVec 8) (n : Tab Word) : Strand :=
  { Strand.idle with
    active := true, ctx := ctx, launch := launch, func := func, wid := wid, pc := hdr, way := some way, cls := cls,
    prio := prio, type := type, n := n, frm := frmAt wid, enable := BitVec.allOnes 64 }

/-! Vector-table entries (R10, R11). -/

def vecHandler (e : BitVec 128) : Word := e.extractLsb' 0 64 &&& 0x03FFFFFFFFFFFFF8
def vecPrio (e : BitVec 128) : BitVec 8 := e.extractLsb' 64 8
def vecClass (e : BitVec 128) : SlotClass := SlotClass.ofCode (e.extractLsb' 72 3).toNat
/-- V is 1, CLASS is legal and no reserved bit is set (R11). -/
def vecValid (e : BitVec 128) : Bool :=
  e.getLsbD 75 && (e.extractLsb' 72 3).toNat < 3 && e.extractLsb' 0 3 == 0 && e.extractLsb' 58 6 == 0 &&
    e.extractLsb' 76 52 == 0

/-! Moving a context out of its slot (R233, R351, R355). -/

/-- An entry that reads and changes nothing: a load, GET or ACCRD. -/
def Entry.reads (e : Entry) : Bool :=
  match decode e.iword (some e.lit) with
  | .ok (.ld ..) | .ok (.ldg ..) | .ok (.ldp ..) | .ok (.ldv ..) | .ok (.get ..) | .ok (.accrd ..) => true
  | _ => false

/-- Entries of a context that leaves its slot: an access that still waits for its walk is walked anew at re-injection, and a read
that is on its way is made anew, under the serial `n`, so that its old answer finds no entry. An atomic or a delegation that is
on its way performs once, and its answer fills the image (R82, R355; log 19). -/
def leaveEntry (e : Entry) (n : Nat) : Entry :=
  match e.phase with
  | .walking _ => { e with phase := .replay }
  | .flight => if e.reads then { e with phase := .replay, serial := n } else e
  | _ => e

/-- The replay queue of a context that leaves its slot. -/
def leaveQueue (q : List Entry) (n : Nat) : List Entry := q.zipIdx.map fun (e, i) => leaveEntry e (n + i)

/-- The context of a slot still has a trap to take. -/
def State.leaving (s : State) (k ctx : Nat) : Bool :=
  let t := s.strand k
  t.active && t.ctx == ctx && (t.trap.isSome || t.queue.any fun e => isFaulted e.phase)

/-- The moves that a core still has to serve, in the order of their arrival (R352). -/
def State.requests (s : State) (c : Nat) : List CtxMove :=
  (s.core c).moves.filter fun m => !m.out || s.leaving (slotKey c m.slot) m.saved

/-- The shadow bank is free for the context of a slot: no move that came before is waiting (R352). -/
def State.bankFree (s : State) (k : Nat) : Bool :=
  let c := slotCore k
  (s.core c).shadow.isNone && match s.requests c with
    | [] => true
    | m :: _ => m.out && m.slot == slotIdx k

/-- A slot's context goes to the empty shadow bank, to be spilled. The setter's buffer is emitted. The answer is none
while the setter's requests are queued or its emission is held (R65, R243). -/
def State.moveOut (s : State) (k : Nat) (why : SavedWhy) (header : List Word) : Option State :=
  let c := slotCore k
  let t := s.strand k
  let m := s.mat c
  let set := m.setBy (slotIdx k) t.ctx
  if (s.core c).shadow.isSome || (set && !(m.reqs.isEmpty && s.emitFree c)) then none
  else
    let mat : Option MatSave := if set then some ⟨m.descA, m.descB, m.kpos, m.key, m.held⟩ else none
    let s := if set then s.emit (s.whoAt k) else s
    let t := { s.strand k with queue := leaveQueue (s.strand k).queue s.serial, walk := none, trap := none }
    let s := { s.setStrand k .idle with serial := s.serial + 16 }
    let co := s.core c
    some (s.setCore c { co with
      moves := co.moves.filter fun m => !(m.out && m.slot == slotIdx k)
      shadow := some { slot := slotIdx k, strand := t, outgoing := true, why := why, header := header, mat := mat, said := false,
                       acq := none } })

/-- A slot's context leaves it in its turn (R351, R352). -/
def State.swapOut (s : State) (k : Nat) (why : SavedWhy) (header : List Word) : Option State :=
  if s.bankFree k then s.moveOut k why header else none

/-- The trap-frame header of a context (R269). -/
def State.headerOf (s : State) (k : Nat) (cause detail : Nat) (pc faddr : Word) (iword : BitVec 32) : List Word :=
  let t := s.strand k
  frameHeader cause detail t.queue.length (slotIdx k) pc faddr iword t.wid t.fflags t.frm (s.die (coreDie (slotCore k))).ptc

/-- A strand ends, and its slot is idle (R7). -/
def State.endStrand (s : State) (k : Nat) : State := s.setStrand k .idle

/-! TAKING A TRAP: the one operation (R343 to R348). -/

/-- Registers of the handler at its activation (R346): x1-x8 hold the header. -/
def handlerRegs (header : List Word) : Tab Word := (header.zipIdx.map fun (w, i) => (i + 1, w)).filter fun e => e.2 != 0

/-- A trap for the launch's handler. `pc`, `faddr` and `iword` go into the trap frame. The answer is none
while the trap must wait (R344, R352). -/
def State.toHandler (s : State) (k : Nat) (t : Trap) (pc faddr : Word) (iword : BitVec 32) : Option State :=
  let c := slotCore k
  let u := s.strand k
  let e := (s.core c).vtab.get 9 0
  if u.bound.isSome || !vecValid e then
    -- a trap in a handler, or no valid handler: the launch ends with FAULT (R313, R347)
    some ((s.endLaunch u.launch 7).endStrand k)
  else
    let header := s.headerOf k t.code t.detail pc faddr iword
    if slotIdx k = 4 then
      -- a delegated routine: its handler waits for a general slot (R348), and before that for room in the queue (R12)
      (s.swapOut k .bound header).map fun s =>
        let co := s.core c
        let a : Activation :=
          { type := 9, sender := c, target := c, wid := u.wid, words := header, payload := 0, hdr := vecHandler e,
            prio := vecPrio e, launch := u.launch, frame := none, saved := some u.ctx, reply := none,
            origin := u.ctx, order := s.serial }
        let s := if 16 ≤ co.actq.length then { s with transit := s.transit ++ [a] } else s.setCore c { co with actq := co.actq ++ [a] }
        { s with serial := s.serial + 1 }
    else (s.swapOut k .bound header).map fun s =>
      let h := { Strand.fresh s.serial u.launch u.func u.wid (vecHandler e) .handler (vecClass e) (vecPrio e) 9
          (s.launchBindings u.launch) with x := handlerRegs header, bound := some u.ctx }
      { s.setStrand k h with serial := s.serial + 1 }

/-- A TRANSLATION or FOREIGN_DIE fault: the slot is freed, and the fault goes to the die's fault unit (R334,
R343). -/
def State.toFaultUnit (s : State) (k : Nat) (t : Trap) (pc faddr : Word) (iword : BitVec 32) : Option State :=
  let u := s.strand k
  let die := coreDie (slotCore k)
  let f : PageFault := match t with
    | .foreignDie write va pa => ⟨2, 0, write, paDie pa, u.func, va, pa, u.ctx⟩
    | .translation r write va => ⟨1, r, write, 0, u.func, va, 0, u.ctx⟩
    | _ => ⟨1, 0, false, 0, u.func, faddr, 0, u.ctx⟩
  (s.swapOut k .fault (s.headerOf k t.code t.detail pc faddr iword)).map fun s =>
    let s := if f.kind = 2 then s.countAccess (slotCore k) u.func f.va.toNat f.pa else s
    let d := s.die die
    s.setDie die { d with faultq := d.faultq ++ [f] }

/-- Takes a trap of the strand in slot `k` (R343). -/
def State.takeTrap (s : State) (k : Nat) (t : Trap) (pc faddr : Word) (iword : BitVec 32) : Option State :=
  match t with
  | .translation .. | .foreignDie .. => s.toFaultUnit k t pc faddr iword
  | _ => s.toHandler k t pc faddr iword

/-- A context whose trap is due takes its place among the moves that wait for the bank (R352). None where it has one, or
needs none. -/
def State.askBank (s : State) (k : Nat) : Option State :=
  let c := slotCore k
  let co := s.core c
  if s.bankFree k || co.moves.any (fun m => m.out && m.slot == slotIdx k && m.saved == (s.strand k).ctx) then none
  else some (s.setCore c { co with moves := co.moves ++ [⟨slotIdx k, (s.strand k).ctx, true, []⟩] })

/-- A trap that cannot be taken yet stays with the strand, which issues nothing further (R344). -/
def State.latchTrap (s : State) (k : Nat) (l : Latched) : State :=
  let s := s.setStrand k { s.strand k with trap := some l }
  if (s.strand k).queue.isEmpty then (s.askBank k).getD s else s

/-- A precise trap at issue is taken once no entry stands in the replay queue (R344). -/
def State.trapAtIssue (s : State) (k : Nat) (t : Trap) (pc faddr : Word) (iword : BitVec 32) : State :=
  match (if (s.strand k).queue.isEmpty then s.takeTrap k t pc faddr iword else none) with
  | some s => s
  | none => s.latchTrap k ⟨t, pc, faddr, iword⟩

/-! RETURNING FROM A TRAP (R273, R346, R348). -/

def State.savedOf (s : State) (ctx : Nat) : Option Saved := s.saved.find? fun v => v.ctx == ctx

/-- A frame goes onto the free list of a die; where that is full it is dropped, with a record (R353). -/
def State.pushFrame (s : State) (die a : Nat) : State :=
  let d := s.die die
  let r := d.save
  let n := 2 ^ bits r.sflctl.toNat 0 4
  if n ≤ r.sflcnt.toNat then s.error 9 1 die 0 1 a 0
  else
    let s := s.writeSys (bits r.sflbase.toNat 3 49 * 8 + 8 * r.sflcnt.toNat) a 8
    s.setDie die { d with save := { r with sflcnt := r.sflcnt + 1 } }

/-- The save frames of a context go back to the free list of its die (R346, R353). -/
def State.freeFrames (s : State) (v : Saved) : State :=
  [v.frame1, v.frame2].foldl (fun s a => s.pushFrame (coreDie (slotCore v.slot)) a) s

def State.dropSaved (s : State) (ctx : Nat) : State :=
  match s.savedOf ctx with
  | some v =>
    let s := if v.spilled then s.freeFrames v else s
    { s with saved := s.saved.filter fun v => v.ctx != ctx }
  | none => s

/-- Who acts for a cluster as a whole. -/
def State.whoFor (s : State) (k : Nat) : Who :=
  ⟨32 * k, 0, ((((s.cluster k).holder).bind fun n => s.launches.find n).map fun l => l.func).getD 0, 5⟩

/-- The acquire of a context that comes from another cluster (R82). -/
def Saved.acquire (v : Saved) (c : Nat) : Option Dom :=
  let old := coreClus (slotCore v.slot)
  if old = coreClus c then none else some (distance old (coreClus c))

/-- A saved context is to be moved back into a slot of a core; one of another cluster comes after a release there (R82,
R351). -/
def State.moveBack (s : State) (c slot : Nat) (v : Saved) : State :=
  let r := match v.acquire c with
    | some d => s.releaseCluster (s.whoFor (coreClus (slotCore v.slot))) d
    | none => (s, [])
  let co := r.1.core c
  r.1.setCore c { co with moves := co.moves ++ [⟨slot, v.ctx, false, r.2⟩] }

/-- RTE: the handler's context is discarded and its bound context waits to be moved back, a routine into the
SERVER slot of its own core (R346, R348). The answer is none until the image is spilled (R351). -/
def State.returnTrap (s : State) (k : Nat) : Option State :=
  match (s.strand k).bound.bind s.savedOf with
  | some v =>
    if !v.spilled then none
    else
      let to' := if slotIdx v.slot = 4 then v.slot else k
      some ((s.endStrand k).moveBack (slotCore to') (slotIdx to') v)
  | none => none

/-! Issuing. -/

/-- What the issue of an instruction comes to: it is issued, it is held (R72), it waits for a translation, or it
traps. The address of a trap is FADDR; for BLOCK_FRAMING it is the header that PC names (R269). -/
inductive Res where
  | done (s : State)
  | hold
  | walk (va : Word) (write exec : Bool)
  | trap (t : Trap) (faddr : Word)
  deriving DecidableEq, Repr

/-- The word of an instruction, for trap frames and replay entries. -/
def wordOf (i : Instr) : BitVec 32 :=
  match i with
  | .illegalInstruction w => w
  | _ => match encode i with
    | some (w, _) => w
    | none => 0

def litOf (i : Instr) : BitVec 32 :=
  match encode i with
  | some (_, some l) => l
  | _ => 0

/-- Starts a walk that holds the instruction in issue (R175). -/
def Strand.startWalk (t : Strand) (va : Word) (write exec : Bool) : Strand :=
  let got := match t.walk with
    | some w => w.got
    | none => []
  { t with walk := some { va := va, write := write, exec := exec, busy := true, waiting := none, got := got } }

def Res.out (r : Res) (s : State) (i : Instr) : Host.Outcome State Fault Refusal :=
  match r with
  | .done s' => .next s'.ran
  | .hold => .next s.waits
  | .walk va w x => .next (s.setMe (s.me.startWalk va w x)).waits
  | .trap .framing a => .next (s.trapAtIssue s.here .framing a 0 (wordOf i)).ran
  | .trap t a => .next (s.trapAtIssue s.here t s.me.pc a (wordOf i)).ran

/-- ISSUE (R70): the holds of R72, the rules of R131 for the register fields, then the instruction's own
part. -/
def issue (i : Instr) (ops : List Opnd) (f : Strand → Res) (s : State) : Host.Outcome State Fault Refusal :=
  let t := s.me
  if !t.ready then .next s.waits
  else match t.gate ops with
    | .stall => .next s.waits
    | .trap => (Res.trap .empty 0).out s i
    | .ok => (f t).out s i

/-- An instruction of one word that changes only its strand. -/
def issueReg (i : Instr) (ops : List Opnd) (g : Strand → Strand) (s : State) : Host.Outcome State Fault Refusal :=
  issue i ops (fun t => .done (s.setMe ((g t).advance 4))) s

/-- Marks a trap of cause PROTECTION. -/
def Res.prot (cause : Nat) (a : Word) : Res := .trap (.protection cause) a

/-! Translation at issue (R175, R327). -/

/-- What the tables that an instruction looks up in the issue clk give: the µTLB and the translations taken for
it. -/
def State.lookup (s : State) (t : Strand) (core : Nat) (va : Nat) : Option Xlat :=
  match t.walk.bind fun w => xlatFind w.got t.func va with
  | some x => some x
  | none => xlatFind (s.core core).utlb t.func va

/-- The place of an address through a translation (R49, R331). -/
def State.placeBy (s : State) (core : Nat) (x : Xlat) (va : Nat) : Place :=
  placeOf (coreDie core) ((s.core core).region va) (x.pa va) x.log

/-- Whether a bank's MODE is in progress (R40, R72). -/
def Cluster.busyBank (k : Cluster) (b : Nat) : Bool := k.changing.any fun c => c.bank == b

def Cluster.busyBanks (k : Cluster) (at' n : Nat) : Bool := (banksOf at' n).any fun b => k.busyBank b

/-- An emission that a commit caused, and that is not delivered yet, has an element on a line. -/
def MatCtx.emitsOn (m : MatCtx) (line : Nat) : Bool :=
  match m.emitting with
  | none => false
  | some b => b.sums.any fun e =>
    match spotOf b.spots (m.elem b.addr (e.1 / 16) (e.1 % 16)).toNat with
    | some p => p.pa / 128 == line
    | none => false

/-- An ACCCVT of the context still has to write to the home slice of a line (R47, R248). -/
def Cvt.writes (c : Cvt) (ctx line : Nat) : Bool :=
  c.ctx == ctx && c.homes.contains (homeSlice (128 * line)) && servedAt c.die line == c.die

/-- The strand has a pending fetch on a line (R72), or its emission of the line, or a write of its ACCCVT to the
line's slice, stands before what it issues next (R47, R245). -/
def Cluster.pendingOn (k : Cluster) (ctx line : Nat) : Bool :=
  (k.fetches.any fun f => f.line == line &&
    (f.ctx == ctx || (f.loads.any fun l => l.ctx == ctx) || (f.atoms.any fun a => a.ctx == ctx))) ||
  (k.mats.any fun e => (e.2.emitting.map fun b => b.ctx) == some ctx && e.2.emitsOn line) ||
  k.cvts.any fun c => c.writes ctx line

/-- An ACCCVT of the context still has to write to a bank that these bytes of SRAM touch (R37). -/
def Cluster.cvtOn (k : Cluster) (ctx b n : Nat) : Bool :=
  k.cvts.any fun c => c.ctx == ctx &&
    match c.sram with
    | some r => (banksOf r.1 r.2).any fun i => (banksOf b n).contains i
    | none => false

end Sys2Proof.Machine
end

