-- ==== Sys2Proof/Machine/Access.lean ====
section
/-! DEFINITION. Accesses that take a replay-queue entry: their checks, their effect, their issue and their
re-injection (spec/08_isa_memory.md R173 to R189, spec/11_isa_matrix.md R246 to R248,
spec/12_isa_engines.md R272, R273). -/

namespace Sys2Proof.Machine

/-- The accesses by form; `home` marks LDG and STS. -/
inductive MemOp where
  | load (z : Size) (d : RegNo) (home : Bool)
  | loadV (d : RegNo)
  | store (z : Size) (home : Bool)
  | storeV
  | ldp (z : Size) (d : RegNo) (k : BitVec 3)
  | amo (op : AtomOp) (ty : NumTy) (d : Option RegNo)
  | cas (ty : NumTy) (d : RegNo)
  | famo (op : AtomOp) (ty : NumTy) (d : Option RegNo)
  | get (z : Size) (d : RegNo)
  | put (z : Size) (ordered : Bool)
  | prefetch
  | flush
  | invl
  | accz
  | accrd (d : RegNo)
  | acccvt (src : AccTy) (dst : Elem) (sat : Bool) (rnd : Round)
  | donate
  | trec (d : RegNo)
  deriving DecidableEq, Repr

/-- The operands captured at issue (R271), and what an accumulator instruction takes of its context (R246 to R248). -/
structure Cap where
  addr : Word
  opa : Word := 0
  opb : Word := 0
  opd : Word := 0
  vop : Vec := 0
  acc : AccCap := {}
  deriving DecidableEq, Repr

/-- What an access comes to when it is tried: it is handed on, it is held, a translation is missing, it traps, or
its entry faults. -/
inductive AccRes where
  | done (s : State)
  | hold
  | walk (va : Word) (write : Bool)
  | trap (t : Trap) (faddr : Word)
  | fault (t : Trap)
  deriving DecidableEq, Repr

def AccRes.prot (c : Nat) (a : Word) : AccRes := .trap (.protection c) a

/-- Bytes of one access; 0 where no alignment is asked (R174). -/
def MemOp.bytes : MemOp → Nat
  | .load z _ _ | .store z _ | .get z _ | .put z _ | .ldp z _ _ => z.w.bytes
  | .loadV _ | .storeV => 64
  | .amo _ t _ | .cas t _ | .famo _ t _ => t.bytes
  | .donate => 16
  | .trec _ => 4
  | _ => 0

/-- Whether the access needs the right W (R324). -/
def MemOp.writes : MemOp → Bool
  | .store .. | .storeV | .amo .. | .cas .. | .famo .. | .put .. | .accz | .trec _ => true
  | _ => false

/-- The x or v register that the access leaves empty (R131), and the answer that DONATE and TREC wait for (R272). TREC,
which R131 does not list, empties xd too, and a fault of its entry leaves it empty (DESIGN CHOICE, log 44). -/
def MemOp.pend (o : MemOp) (t : Strand) : Strand :=
  match o with
  | .load _ d _ | .ldp _ d _ | .get _ d | .cas _ d | .accrd d => t.pendDestX d
  | .trec d => { t.pendDestX d with wait := some .trec }
  | .donate => { t with wait := some .donate }
  | .amo _ _ (some d) | .famo _ _ (some d) => t.pendDestX d
  | .loadV d => t.pendDestV d
  | _ => t

/-- The atomic that the captured operands describe; the mode and the draw of FAMO.ADD stand in OPD (R184,
R271). -/
def MemOp.request (o : MemOp) (c : Cap) : AtomReq :=
  match o with
  | .amo op ty d => ⟨.amo op ty, c.opb, 0, d.isSome⟩
  | .cas ty _ => ⟨.cas ty, c.opb, c.opd, true⟩
  | .famo op ty d => ⟨.famo op ty (frmMode c.opd) (c.opd.extractLsb' 32 24), c.opb, 0, d.isSome⟩
  | _ => ⟨.dec, 0, 0, false⟩

/-- Where an atomic's old value goes; an .f32 result clears bits [63:32] (R184). -/
def MemOp.sink (o : MemOp) (c : Cap) (ctx e : Nat) : Sink :=
  match o with
  | .load z d _ | .get z d => .x ctx e d z
  | .loadV d => .v ctx e d
  | .amo _ ty (some d) | .famo _ ty (some d) | .cas ty d => .x ctx e d ty.size
  | .donate => .donate ctx e (c.opa.extractLsb' 0 3)
  | _ => .discard

/-! Flags of a scratch bank's atomic unit (R186). -/

def Cluster.countBank (k : Cluster) (b fl : Nat) : Cluster :=
  { k with bankCtr := [0, 1, 2, 3, 4].foldl (fun t i =>
      if bits fl i 1 = 1 then
        let v := t.get (8 * b + i) 0
        t.put (8 * b + i) (if v = BitVec.allOnes 32 then v else v + 1)
      else t) k.bankCtr }

/-- Frees an entry of a slot's queue. -/
def State.freeAt (s : State) (k e : Nat) : State := s.setStrand k ((s.strand k).free e)

/-- A tile access that takes the bytes it finds. -/
def MemOp.readsTile (o : MemOp) : Bool :=
  match o with
  | .store .. | .storeV => false
  | _ => true

/-! Tile accesses, made in order at the bank (R37, R43, R71). -/

/-- Where a tile access goes, or why it does not yet: a bank whose MODE is in progress stalls it (R40), then R43 is
checked, and a copy in flight or the strand's ACCCVT into the bank stands before it (R37, R65). -/
inductive TileSpot where
  | at (b : Nat)
  | hold
  | bounds
  deriving DecidableEq, Repr

def Cluster.tileAt (k : Cluster) (ctx : Nat) (n : Word) (off len : Nat) (write : Bool) : TileSpot :=
  match tileByte n off len with
  | none => .bounds
  | some b =>
    if k.busyBanks b len then .hold
    else if !k.inScratch b len then .bounds
    else if k.boardScratch b len write || k.cvtOn ctx b len then .hold
    else .at b

def tileAccess (s : State) (k : Nat) (o : MemOp) (c : Cap) (e : Nat) (n : BitVec 4) (off : Nat) : AccRes :=
  let t := s.strand k
  let kn := coreClus (slotCore k)
  let cl := s.cluster kn
  let len := o.bytes
  match cl.tileAt t.ctx (t.nr n) off len o.writes with
  | .bounds => .prot Cause.tileBounds c.addr
  | .hold => .hold
  | .at b =>
    if s.sramBusy kn b len then .hold
    else if o.readsTile && cl.badAt b len then
      -- poison that an engine wrote (R62, R252): a reader takes POISON, and a no-return atomic is discarded
      (match o with
       | .amo _ _ none | .famo _ _ none => .done (s.freeAt k e)
       | _ => .fault .poison)
    else
      let old := cl.readSram b len
      match o with
      | .store .. => .done ((s.setCluster kn (cl.writeSram b (c.opb.toNat % 2 ^ (8 * len)) len)).freeAt k e)
      | .storeV => .done ((s.setCluster kn (cl.writeSram b c.vop.toNat 64)).freeAt k e)
      | .amo .. | .cas .. | .famo .. =>
        let r := o.request c
        let v := r.apply old
        let cl := cl.writeSram b v.1 len
        let cl := if r.returning then cl else cl.countBank (b / 16384) v.2
        let s := s.setCluster kn cl
        if r.returning then .done ((s.deliver (o.sink c t.ctx e) old).sinkFlags (o.sink c t.ctx e) v.2)
        else .done (s.freeAt k e)
      | _ => .done (s.deliver (o.sink c t.ctx e) old)

/-! Pages of accesses that cover more than one. -/

/-- The pieces of `n` bytes from `a` that lie in one line each. -/
def pieces (a n : Nat) : List (Nat × Nat) :=
  if n = 0 then []
  else if a % 128 + n ≤ 128 then [(a, n)]
  else if a % 128 + n ≤ 256 then [(a, 128 - a % 128), (a + (128 - a % 128), n - (128 - a % 128))]
  else [(a, 128 - a % 128), (a + (128 - a % 128), 128), (a + (256 - a % 128), n - (256 - a % 128))]

def pagesOf (l : List (Nat × Nat)) : List Nat :=
  (l.flatMap fun r => [r.1 / 16384, (r.1 + r.2 - 1) / 16384]).eraseDups

/-- Translations of a list of pages: their places, the first that is missing, or the first without the right
W. -/
inductive Resolved where
  | ok (spots : List (Nat × Place))
  | walk (va : Word)
  | noWrite (va : Word)
  deriving DecidableEq, Repr

def State.resolve (s : State) (t : Strand) (core : Nat) (got : List Xlat) (write : Bool) : List Nat → Resolved
  | [] => .ok []
  | p :: r =>
    let va := p * 16384
    let x := match xlatFind got t.func va with
      | some x => some x
      | none => s.lookup t core va
    match x with
    | none => .walk (BitVec.ofNat 64 va)
    | some x =>
      if write && !x.w then .noWrite (BitVec.ofNat 64 va)
      else match s.resolve t core got write r with
        | .ok l => .ok ((p, s.placeBy core x va) :: l)
        | o => o

/-- The rows of an accumulator footprint: address and bytes (R237). A row past the end of the address space lies in no range
(R330). -/
def footprint (m : MatCtx) (a dims : Word) : List (Nat × Nat) :=
  (List.range (bits dims.toNat 0 5)).map fun i => ((m.elem a i 0).toNat, m.esize * bits dims.toNat 8 5)

/-- The region checks of a footprint (R238 orders 7 and 9), and whether it is compensated. -/
def State.regionsOf (s : State) (core : Nat) (pages : List Nat) : List (Option (BitVec 128)) :=
  pages.map fun p => (s.core core).region (p * 16384)

def accOk (l : List (Option (BitVec 128))) : Bool := l.all fun e => match e with
  | some e => rgnAcc e
  | none => false

def anyRo (l : List (Option (BitVec 128))) : Bool := l.any fun e => match e with
  | some e => rgnRo e
  | none => false

def allCmp (l : List (Option (BitVec 128))) : Bool := l.all fun e => match e with
  | some e => rgnCmp e
  | none => false

/-- A stretch of bytes cut at pages of 16 KiB, so that each part lies in one range (R49). -/
def pageParts (a n : Nat) : List (Nat × Nat) :=
  let k := 16384 - a % 16384
  if n ≤ k then [(a, n)] else [(a, k), (a + k, n - k)]

/-- The companions of stretches that lie in one range each (R58): the address plus the range's stride, where that is
compensated. -/
def State.companions (s : State) (core : Nat) (l : List (Nat × Nat)) : List (Nat × Nat) :=
  l.filterMap fun r =>
    match (s.core core).region r.1 with
    | some g => if rgnCmp g then some (r.1 + rgnCstr g, r.2) else none
    | none => none

/-- Every companion lies in a compensated range (R58). -/
def State.compOk (s : State) (core : Nat) (l : List (Nat × Nat)) : Bool := allCmp (s.regionsOf core (pagesOf l))

/-- The dims register is legal (R237, R238 order 5). `kmax` is the tile depth and `mmat` admits KT. -/
def dimsOk (dims : Word) (kmax : Nat) (kv mmat : Bool) : Bool :=
  let d := dims.toNat
  1 ≤ bits d 0 5 && bits d 0 5 ≤ 16 && bits d 5 3 == 0 && 1 ≤ bits d 8 5 && bits d 8 5 ≤ 16 && bits d 13 3 == 0 &&
    bits d 23 1 == 0 && bits d 32 32 == 0 &&
    (!kv || (1 ≤ bits d 16 7 && bits d 16 7 ≤ kmax && (mmat || bits d 24 8 == 0)))

/-- A read as LDG makes it, or as GET for memory of another die (R177, R188), into one place of a collected
read. -/
def State.readHome (s : State) (w : Who) (p : Place) (va : Word) (n : Nat) (k : Sink) : State :=
  let l := p.pa / 128
  let s := if p.remote w.die then s else s.evictLine w l
  s.fresh.post w va l (.read (p.pa % 128) n k) s.serial [] true

/-- Stretches of memory, each in one line, that an instruction of a context names wait for its pending fetches (R72) or
for a copy in flight, whose intervals are compared byte by byte (R65). -/
def Cluster.blocks (k : Cluster) (ctx : Nat) (spots : List (Nat × Place)) (write : Bool) (l : List (Nat × Nat)) : Bool :=
  l.any fun q => (spotOf spots q.1).any fun p => k.pendingOn ctx (p.pa / 128) || k.boardMem p.pa q.2 write

/-! ACCZ, ACCRD and ACCCVT (R246 to R248) act at ADDR, which is xa at issue and may be edited before a re-injection (R273).
`first` is the issue, at which the buffer is emitted. -/

def acczAccess (s : State) (k : Nat) (c : Cap) (e : Nat) (got : List Xlat) : AccRes :=
  let t := s.strand k
  let core := slotCore k
  let rows := (footprint { s.mat core with descA := c.acc.desc } c.addr c.opb).flatMap fun r => pageParts r.1 r.2
  let regions := s.regionsOf core (pagesOf rows)
  let comp := s.companions core rows
  if !accOk regions then .prot Cause.notAccumulate c.addr
  else if anyRo regions then .prot Cause.readOnly c.addr
  else if !s.compOk core comp then .prot Cause.notCompensated c.addr
  else
    let all := rows ++ comp
    match s.resolve t core got true (pagesOf all) with
    | .walk va => .walk va true
    | .noWrite va => .fault (.translation 2 true va)
    | .ok spots =>
      let ps := all.flatMap fun r => pieces r.1 r.2
      if (s.cluster (coreClus core)).blocks t.ctx spots true ps then .hold
      else
        let w := s.whoAt k
        .done ((ps.foldl (fun s q =>
          match spotOf spots q.1 with
          | some p => s.storeHome w p (BitVec.ofNat 64 q.1) 0 q.2 []
          | none => s) s).freeAt k e)

/-- ACCRD after issue (R247, R273): one read, or one of each of the pair of f32c. Device-homed SYSTEM memory of another
die is read at its home as PACKAGE memory is (DESIGN CHOICE, log 44). -/
def accrdAccess (s : State) (k : Nat) (d : RegNo) (c : Cap) (e : Nat) (got : List Xlat) : AccRes :=
  let t := s.strand k
  let core := slotCore k
  let m : MatCtx := { s.mat core with descA := c.acc.desc }
  let a := c.addr.toNat
  let comp := m.cf == 1
  let e' := s.companions core [(a, 4)]
  if comp && (e'.isEmpty || !s.compOk core e') then .prot Cause.notCompensated c.addr
  else
    let cells := if comp then (a, 4) :: e' else [(a, m.esize)]
    match s.resolve t core got false (pagesOf cells) with
    | .walk va => .walk va false
    | .noWrite va => .walk va false
    | .ok spots =>
      if (s.cluster (coreClus core)).blocks t.ctx spots false cells then .hold
      else
        let w := s.whoAt k
        let fin : GatherEnd := if comp then .accrd t.ctx e d
          else .x t.ctx e d (if m.cf = 3 then ⟨.w64, true⟩ else ⟨.w32, m.cf == 2⟩) false
        let s := { s with gathers := s.gathers.put e ⟨e, cells.length, [], none, fin⟩ }
        .done (cells.zipIdx.foldl (fun s (q, i) =>
          match spotOf spots q.1 with
          | some p => s.readHome w p (BitVec.ofNat 64 q.1) q.2 (.gather e i)
          | none => s) s)

def AccTy.bytes : AccTy → Nat
  | .s64 => 8
  | _ => 4

/-- The rounding mode of ACCCVT (R248). -/
def cvtMode (m : MatCtx) (t : Strand) (rnd : Round) : Round :=
  if rnd = .dyn then
    (match bits m.descA.toNat 26 3 with
     | 1 => .rne | 2 => .rtz | 3 => .rdn | 4 => .rup | 5 => .sr | _ => frmMode t.frm)
  else rnd

/-- The writes that an ACCCVT still has to make count as its accesses from its issue on (R37, R47, R75): `parts` of memory, or
`sram` of a bank. -/
def State.cvtPending (s : State) (w : Who) (core e n : Nat) (target : Word) (stores : List Nat) (sram : Option Nat) (writes : List Nat) :
    State :=
  let s := writes.foldl (fun s n =>
    { s.addLive ⟨n, w.ctx, slotKey core w.slot, w.clus, false, false, false, w.die, w.func, target⟩ with
      serial := s.serial + 1 }) s
  let k := s.cluster w.clus
  s.setCluster w.clus { k with
    cvts := ⟨e, w.ctx, w.die, stores.map fun l => homeSlice (128 * l), sram.map fun b => (b, n)⟩ :: k.cvts }

def cvtAccess (s : State) (k : Nat) (src : AccTy) (dst : Elem) (sat : Bool) (c : Cap) (e : Nat)
    (got : List Xlat) : AccRes :=
  let t := s.strand k
  let core := slotCore k
  let cl := s.cluster (coreClus core)
  let a := c.addr.toNat
  let n := 2 * dst.bits
  let sb := AccTy.bytes src
  let tile := match addrKind c.opb with
    | .tile _ off => some (cl.tileAt t.ctx c.acc.bind off n true)
    | _ => none
  let bad := addrKind c.opb == .badForm
  let ro := tile.isNone && anyRo (s.regionsOf core (pagesOf [(c.opb.toNat, n)]))
  let elems := (List.range 16).map fun i => (a + sb * i, sb)
  let comps := if src == .f32 then s.companions core elems else []
  if bad then .prot Cause.addressForm c.opb
  else if tile == some .bounds then .prot Cause.tileBounds c.opb
  else if ro then .prot Cause.readOnly c.opb
  else if !s.compOk core comps then .prot Cause.notCompensated c.addr
  else
    match s.resolve t core got false (pagesOf (elems ++ comps)) with
    | .walk va | .noWrite va => .walk va false
    | .ok rs =>
      match (if tile.isSome then .ok [] else s.resolve t core got true (pagesOf [(c.opb.toNat, n)])) with
      | .walk va => .walk va true
      | .noWrite va => .fault (.translation 2 true va)
      | .ok ws =>
        match ws.find? fun q => q.2.remote (coreDie core) with
        | some q => .fault (.foreignDie true c.opb q.2.pa)
        | none =>
          let parts := if tile.isSome then [] else pieces c.opb.toNat n
          let stores := parts.filterMap fun q => (spotOf ws q.1).map fun p => p.pa / 128
          if tile == some .hold || cl.blocks t.ctx rs false (elems ++ comps) || cl.blocks t.ctx ws true parts then .hold
          else
            let w := s.whoAt k
            let sram := match tile with
              | some (.at b) => some b
              | _ => none
            let writes := (List.range parts.length).map fun i => s.serial + i
            let fin : GatherEnd := .acccvt t.ctx core src dst sat c.acc.mode c.opb sram ws writes
            let cells := (elems.zipIdx.map fun (q, i) => (q, 2 * i)) ++
              elems.zipIdx.filterMap fun (q, i) => (s.companions core (if comps.isEmpty then [] else [q])).head?.map fun r => (r, 2 * i + 1)
            let s := s.cvtPending w core e n c.opb stores sram writes
            let s := { s with gathers := s.gathers.put e ⟨e, cells.length, [], none, fin⟩ }
            .done (cells.foldl (fun s q =>
              match spotOf rs q.1.1 with
              | some p => s.readHome w p (BitVec.ofNat 64 q.1.1) q.1.2 (.gather e q.2)
              | none => s) s)

/-- The checks of ACCZ, ACCRD and ACCCVT that come before translation, and the emission (R238, R243). -/
def accChecks (s : State) (k : Nat) (o : MemOp) (c : Cap) (first : Bool) (f : State → AccRes) : AccRes :=
  let t := s.strand k
  let core := slotCore k
  let m : MatCtx := { s.mat core with descA := c.acc.desc }
  let es := match o with
    | .acccvt src _ _ _ => AccTy.bytes src
    | _ => m.esize
  let outBad := match o with
    | .acccvt _ dst _ _ => c.opb.toNat % (if dst.bits = 6 then 4 else 2 * dst.bits) != 0
    | _ => false
  let tile := match addrKind c.addr with
    | .tile _ _ => true
    | _ => false
  if c.addr.toNat % es ≠ 0 then .trap .alignment c.addr
  else if outBad then .trap .alignment c.opb
  else if first && !m.setBy (slotIdx k) t.ctx then .prot Cause.noFormat 0
  else if o == .accz && !dimsOk c.opb 0 false true then .prot Cause.badDims 0
  else if tile then .prot (if o == .accz then Cause.notAccumulate else Cause.accTile) c.addr
  else if addrKind c.addr == .badForm then .prot (if o == .accz then Cause.notAccumulate else Cause.addressForm) c.addr
  else if first && (!s.matIdle core || !s.emitFree core || (s.core core).restoring) then .hold
  else f (if first then s.emit (s.whoAt k) else s)

/-! LDP (R44, R178). -/

/-- The serials of a strand's atomics that wait at a fabric port on a line. -/
def State.portOps (s : State) (ctx line : Nat) : List Nat :=
  [0, 1].flatMap fun p =>
    ((s.port p).queue.filter fun o => o.ctx == ctx && o.pa / 128 == line).map fun o => o.serial

/-- Base and bound of window pk: the task's argument line, or the launch's (R309, R321). -/
def State.window (s : State) (t : Strand) (k : BitVec 3) : Nat × Nat :=
  match (if k = 0 then t.p0 else none) with
  | some (b, n) => (b.toNat, n)
  | none =>
    match s.launchOf t with
    | some l => ((l.word (128 + 16 * k.toNat)).toNat, (l.word (136 + 16 * k.toNat)).toNat)
    | none => (0, 0)

/-- The offset into its window that an LDP's ADDR names (R178, R271). -/
def ldpOffset (base : Nat) (addr : Word) : Nat := (addr - BitVec.ofNat 64 base).toNat

/-- One stretch of an LDP (R178): read as LD reads, or at its home, and behind the strand's own atomics at a fabric port
(R72). -/
def State.readCell (s : State) (w : Who) (p : Place) (va : Word) (n : Nat) (behind : List Nat) (sink : Sink) : State :=
  let l := p.pa / 128
  let direct := p.remote w.die || p.unc || !(s.cluster w.clus).caches
  if direct || !behind.isEmpty then
    let s := if direct then s else s.evictLine w l
    s.fresh.post w va l (.read (p.pa % 128) n sink) s.serial behind true
  else s.fresh.loadCached w p va l (p.pa % 128) n s.serial sink

def ldpAccess (s : State) (k : Nat) (z : Size) (d : RegNo) (pk : BitVec 3) (c : Cap) (e : Nat) (got : List Xlat) :
    AccRes :=
  let t := s.strand k
  let core := slotCore k
  let win := s.window t pk
  let o := ldpOffset win.1 c.addr
  if win.2 = 0 then .trap .window c.addr
  else
    let n := min z.w.bytes (win.2 - o)
    let pwb := n < z.w.bytes
    let a := (win.1 + o) % 2 ^ 58
    let cells := pieces a n
    match s.resolve t core got false (pagesOf cells) with
    | .walk va | .noWrite va => .walk va false
    | .ok spots =>
      if (s.cluster (coreClus core)).blocks t.ctx spots false cells ||
          cells.any fun q => (spotOf spots q.1).any fun p => s.wayBusy (coreClus core) (p.pa / 128) then .hold
      else
        let w := s.whoAt k
        let s := { s with gathers := s.gathers.put e ⟨e, cells.length, [], none, .x t.ctx e d z pwb⟩ }
        .done ((cells.foldl (fun s q =>
          match spotOf spots q.1 with
          | some p => s.readCell w p (BitVec.ofNat 64 q.1) q.2 (s.portOps t.ctx (p.pa / 128)) (.gather e (q.1 - a))
          | none => s) s).sweep)

/-! Accesses to one line at a translated address. -/

/-- The items that a PUTF follows: the strand's earlier ones to memory of the same die (R189). -/
def State.before (s : State) (ctx die : Nat) : List Nat :=
  (s.live.filter fun l => l.ctx == ctx && l.home == die).map fun l => l.serial

/-- Sends a SYSTEM atomic to the fabric port of the link that the host's decoder assigns (R55, R71). -/
def State.toPort (s : State) (w : Who) (p : Place) (va : Word) (r : AtomReq) (sink : Sink) (e : Nat) : State :=
  let l := p.pa / 128
  let s := if p.remote w.die then s else s.evictLine w l
  let n := s.linkTo l
  let after := s.ahead w.clus l w.ctx false
  let s := s.addLive ⟨e, w.ctx, slotKey w.core w.slot, w.clus, false, r.returning, false, servedAt w.die l, w.func, va⟩
  let f := s.port n
  s.setPort n { f with queue := f.queue ++ [⟨e, w.ctx, p.pa, r, sink, after⟩] }

/-- An atomic where its domain places it (R55, R181). A no-return atomic takes a serial of its own. -/
def State.atomAt (s : State) (w : Who) (p : Place) (va : Word) (r : AtomReq) (sink : Sink) (e : Nat) : State :=
  let l := p.pa / 128
  let off := p.pa % 128
  if p.dom = .system then s.toPort w p va r sink e
  else if p.dom = .cluster && !p.unc && (s.cluster w.clus).caches then s.atomCluster w p va l off e r sink
  else
    let s := if p.remote w.die then s else s.evictLine w l
    s.post w va l (.atomic r off sink) e [] r.returning

def lineAccess (s : State) (k : Nat) (o : MemOp) (c : Cap) (e : Nat) (p : Place) : AccRes :=
  let t := s.strand k
  let w := s.whoAt k
  let l := p.pa / 128
  let off := p.pa % 128
  let n := o.bytes
  let cl := s.cluster w.clus
  let plain := match o with
    | .load .. | .loadV _ | .store .. | .storeV | .donate => true
    | _ => false
  let ctl := o == .prefetch || o == .flush || o == .invl
  let remote := p.remote w.die
  if plain && remote then .fault (.foreignDie o.writes c.addr p.pa)
  else if cl.pendingOn t.ctx l || (!ctl && cl.boardMem p.pa n o.writes) || s.wayBusy w.clus l then .hold
  else
    let direct := p.unc || !cl.caches
    let behind := s.portOps t.ctx l
    let store := fun (s : State) (v : Nat) (home : Bool) (after : List Nat) =>
      if remote || home || direct || !behind.isEmpty then s.storeHome w p c.addr v n (after ++ behind)
      else s.storeCached w p c.addr l off n v
    match o with
    | .load _ _ home =>
      if home || direct || !behind.isEmpty then
        .done ((if direct && !home then s else s.evictLine w l).post w c.addr l (.read off n (o.sink c t.ctx e)) e behind true)
      else .done (s.loadCached w p c.addr l off n e (o.sink c t.ctx e))
    | .loadV _ | .donate =>
      if direct || !behind.isEmpty then
        .done ((if direct then s else s.evictLine w l).post w c.addr l (.read off n (o.sink c t.ctx e)) e behind true)
      else .done (s.loadCached w p c.addr l off n e (o.sink c t.ctx e))
    | .store _ home => .done ((store s (c.opb.toNat % 2 ^ (8 * n)) home []).freeAt k e)
    | .storeV => .done ((store s c.vop.toNat false []).freeAt k e)
    | .get .. =>
      .done ((if remote then s else s.evictLine w l).post w c.addr l (.read off n (o.sink c t.ctx e)) e behind true)
    | .put _ ordered =>
      let after := if ordered then s.before t.ctx (servedAt w.die l) else []
      .done ((store s (c.opb.toNat % 2 ^ (8 * n)) true after).freeAt k e)
    | .amo .. | .cas .. | .famo .. =>
      let r := o.request c
      if r.returning then .done (s.atomAt w p c.addr r (o.sink c t.ctx e) e)
      else .done ((s.fresh.atomAt w p c.addr r .discard s.serial).freeAt k e)
    | .trec d =>
      let s := if remote then s else s.evictLine w l
      .done (s.post w c.addr l
        (.atomic ⟨.dec, 0, 0, true⟩ off (.trec t.ctx e w.die d (c.opb ++ c.opa) c.addr)) e [] true)
    | .prefetch =>
      if remote || direct || (cl.findLine l).isSome then .done (s.freeAt k e)
      else .done ((s.queueFetch w p c.addr l [] []).freeAt k e)
    | .flush => .done ((if remote || direct then s else s.evictLine w l).freeAt k e)
    | .invl =>
      let drop := match cl.findLine l with
        | some x => x.st != .a
        | none => false
      .done ((if remote || direct || !drop then s else s.evictLine w l).freeAt k e)
    | _ => .done s

/-- An access from ALIGNMENT on (R175, R273). `got` are the translations already taken for it, `first` marks its
issue. -/
def access (s : State) (k : Nat) (o : MemOp) (c : Cap) (e : Nat) (got : List Xlat) (first : Bool) : AccRes :=
  let t := s.strand k
  let core := slotCore k
  let n := o.bytes
  match o with
  | .accz => accChecks s k o c first fun s => acczAccess s k c e got
  | .accrd d => accChecks s k o c first fun s => accrdAccess s k d c e got
  | .acccvt src dst sat _ => accChecks s k o c first fun s => cvtAccess s k src dst sat c e got
  | .ldp z d pk =>
    if ldpOffset (s.window t pk).1 c.addr % n ≠ 0 then .trap .alignment c.addr else ldpAccess s k z d pk c e got
  | _ =>
    let ctl := o == .prefetch || o == .flush || o == .invl
    if n ≠ 0 ∧ c.addr.toNat % n ≠ 0 then .trap .alignment c.addr
    else match addrKind c.addr with
      | .badForm => if o == .prefetch then .done (s.freeAt k e) else .prot Cause.addressForm c.addr
      | .tile b off =>
        if ctl then .done (s.freeAt k e)
        else (match o with
          | .get .. | .put .. | .trec _ => .prot Cause.remoteScope c.addr
          | _ => tileAccess s k o c e b off)
      | .virtual =>
        let a := c.addr.toNat
        let r := (s.core core).region a
        let scope : Bool := match o with
          | .get .. | .put .. => (r.map fun g => rgnDom g == .cluster).getD false
          | _ => false
        if scope then .prot Cause.remoteScope c.addr
        else if o.writes && anyRo [r] then .prot Cause.readOnly c.addr
        else match s.resolve t core got o.writes [a / 16384] with
          | .walk _ => .walk c.addr o.writes
          | .noWrite _ => .fault (.translation 2 true c.addr)
          | .ok spots =>
            match spotOf spots a with
            | some p => lineAccess s k o c e p
            | none => .hold

/-! Issue, walks and re-injection. -/

/-- The entry of an access that issues (R271). -/
def Cap.entry (c : Cap) (i : Instr) (t : Strand) (serial : Nat) (ph : Phase) : Entry :=
  { serial := serial, iword := wordOf i, lit := 0, pc := t.pc, addr := c.addr, opa := c.opa, opb := c.opb,
    opd := c.opd, vop := c.vop, phase := ph, acc := c.acc }

/-- The state in which an access has issued: its entry stands in the queue, its destination is empty. -/
def State.enter (s : State) (i : Instr) (o : MemOp) (c : Cap) (ph : Phase) (u : Strand) : State :=
  let e := c.entry i u s.serial ph
  let v := (o.pend { u with queue := u.queue ++ [e] }).advance 4
  { s.setMe (if isFaulted ph then { v with wait := none } else v) with serial := s.serial + 1 }

/-- What an access takes of its format context at issue (R246 to R248). -/
def State.accCap (s : State) (k : Nat) (o : MemOp) (c : Cap) : AccCap :=
  let m := s.mat (slotCore k)
  let t := s.strand k
  match o with
  | .accz | .accrd _ => { desc := m.descA }
  | .acccvt _ _ _ rnd =>
    { desc := m.descA, mode := cvtMode m t rnd
      bind := match addrKind c.opb with
        | .tile b _ => t.nr b
        | _ => 0 }
  | _ => {}

/-- Issues an access: `u` is the strand with what the issue itself changes. -/
def issueMem (s : State) (i : Instr) (o : MemOp) (c : Cap) (u : Strand) : Res :=
  if s.me.walking then .hold
  else
    let c : Cap := { c with acc := s.accCap s.here o c }
    let s1 := s.enter i o c .flight u
    let s' := match o with
      | .accz | .accrd _ | .acccvt .. => s.emit (s.whoAt s.here)
      | _ => s
    match access s1 s.here o c s.serial [] true with
    | .done s2 => .done s2
    | .hold => .hold
    | .trap t a => .trap t a
    | .fault t => .done (s'.enter i o c (.faulted t) u)
    | .walk va w =>
      .done (s'.enter i o c
        (.walking { va := va, write := w, exec := false, busy := true, waiting := none, got := [] }) u)

/-- The form of an instruction that takes a replay-queue entry and may fault after issue. -/
def memOpOf (i : Instr) : Option MemOp :=
  match i with
  | .ld z d _ _ => some (.load z d false)
  | .ldg z d _ _ => some (.load z d true)
  | .st z _ _ _ => some (.store z false)
  | .sts z _ _ _ => some (.store z true)
  | .ldp z d k _ _ => some (.ldp z d k)
  | .ldv v _ _ => some (.loadV v)
  | .stv _ _ _ => some .storeV
  | .pf _ _ => some .prefetch
  | .flush _ _ => some .flush
  | .invl _ _ => some .invl
  | .amo op ty d _ _ => some (.amo op ty (some d))
  | .red op ty _ _ => some (.amo op ty none)
  | .cas ty d _ _ => some (.cas ty d)
  | .famo op ty d _ _ => some (.famo op ty (some d))
  | .fredMinmax op ty _ _ => some (.famo op ty none)
  | .get z d _ => some (.get z d)
  | .put z _ _ => some (.put z false)
  | .putf z _ _ => some (.put z true)
  | .accz _ _ => some .accz
  | .accrd d _ => some (.accrd d)
  | .acccvt src dst sat rnd _ _ => some (.acccvt src dst sat rnd)
  | .donate _ _ => some .donate
  | .trec d _ _ => some (.trec d)
  | _ => none

/-- The register that a delegation's entry fills. -/
def Entry.dlgDest (e : Entry) : Option RegNo :=
  match decode e.iword none with
  | .ok (.dlg d _ _) => some d
  | _ => none

def Entry.cap (e : Entry) : Cap := ⟨e.addr, e.opa, e.opb, e.opd, e.vop, e.acc⟩

/-- The form of an entry, from its word. -/
def Entry.memOp (e : Entry) : Option MemOp :=
  match decode e.iword (some e.lit) with
  | .ok i => memOpOf i
  | .error _ => none

/-- An entry of the queue gets another phase. -/
def Strand.setPhase (t : Strand) (e : Nat) (ph : Phase) : Strand :=
  { t with
    queue := t.queue.map fun q => if q.serial = e then { q with phase := ph } else q
    wait := if isFaulted ph then none else t.wait }

/-- An entry that issues again takes its format context anew (R82). -/
def Strand.recap (t : Strand) (e : Nat) (a : AccCap) : Strand :=
  { t with queue := t.queue.map fun q => if q.serial = e then { q with acc := a } else q }

/-- Tries the access of an entry: after its walk, or at its re-injection (R82, R273). None while it is held. -/
def State.retry (s : State) (k : Nat) (e : Entry) (got : List Xlat) (first : Bool) : Option State :=
  let set := fun (s : State) (ph : Phase) => s.setStrand k ((s.strand k).setPhase e.serial ph)
  match e.memOp with
  | none => some (s.freeAt k e.serial)
  | some o =>
    let acc := if first then s.accCap k o e.cap else e.acc
    let c : Cap := { e.cap with acc := acc }
    let s := if first then s.setStrand k ((s.strand k).recap e.serial acc) else s
    let awaits : Option Await := match o with
      | .donate => some .donate
      | .trec _ => some .trec
      | _ => (s.strand k).wait
    let s1 := set (s.setStrand k { s.strand k with wait := awaits }) .flight
    match access s1 k o c e.serial got first with
    | .done s2 => some s2
    | .hold => none
    | .trap t _ => some (set s (.faulted t))
    | .fault t => some (set s (.faulted t))
    | .walk va w =>
      some (set s (.walking { va := va, write := w, exec := false, busy := true, waiting := none, got := got }))

end Sys2Proof.Machine
end

