-- ==== Sys2Proof/Machine/Fetch.lean ====
section
/-! DEFINITION. Entering a header and fetching an instruction (spec/06_encoding.md R127 to R130,
spec/21_translation.md R324). -/

namespace Sys2Proof.Machine

/-- The bytes of a code line through the instruction cache of 256 lines (R1, R300; log 16). -/
def State.codeLine (s : State) (core func : Nat) (va : Word) (line : Nat) : State × Line :=
  let c := s.core core
  match c.icache.find? fun e => e.1 == line with
  | some e => (s, e.2)
  | none =>
    let r := s.homeRead core func va (servedAt (coreDie core) line) line
    let c := r.1.core core
    let kept := if c.icache.length < 256 then c.icache
      else c.icache.eraseIdx (Config.icacheVictim c.icache.length % c.icache.length)
    (r.1.setCore core { c with icache := (line, r.2) :: kept }, r.2)

/-- What a fetch gives: bytes, a translation to be walked for, a trap, or none of them while the line's home does not serve
it (R73, R386). -/
inductive CodeRes where
  | ok (s : State) (v : Nat)
  | walk (va : Word)
  | trap (t : Trap)
  | wait
  deriving DecidableEq, Repr

/-- `n` bytes of code at an address; they lie in one line. -/
def State.code (s : State) (t : Strand) (core : Nat) (va : Word) (n : Nat) : CodeRes :=
  match s.lookup t core va.toNat with
  | none => .walk va
  | some x =>
    if !x.x then .trap (.translation 3 false va)
    else
      let pa := x.pa va.toNat
      let die := servedAt (coreDie core) (pa / 128)
      let here := (s.core core).icache.any fun e => e.1 == pa / 128
      if !here && (s.heldOn (64 * die + homeSlice pa) (pa / 128) || !s.lineReady die (pa / 128)) then .wait
      else if s.poison.contains (pa / 128) then .trap .poison
      else
        let r := s.codeLine core t.func va (pa / 128)
        .ok r.1 (lineBytes r.2 (pa % 128) n)

/-- What the fetch of an instruction comes to. -/
inductive Fetched where
  | instr (s : State) (i : Instr)
  | walk (va : Word)
  | trap (t : Trap) (pc : Word) (iword : BitVec 32)
  | wait
  deriving DecidableEq, Repr

/-- The header that a fetch fault of a block is charged to where the page may not be executed (R324); another fault of the
fetch stands at the word. -/
def Strand.charged (t : Strand) : Trap → Word
  | .translation _ _ _ => t.hdr
  | _ => t.pc

/-- The word at the program counter, inside a block that has been entered (R127, R129, R130). -/
def State.fetchWord (s : State) (k : Nat) : Fetched :=
  let t := s.strand k
  let core := slotCore k
  match s.code t core t.pc 4 with
  | .walk va => .walk va
  | .trap tr => .trap tr (t.charged tr) 0
  | .wait => .wait
  | .ok s v =>
    let w := BitVec.ofNat 32 v
    if t.hword.getLsbD 14 then .instr s (.illegalInstruction w)
    else match decode w none with
      | .ok i => .instr s i
      | .error .literalMissing =>
        if t.pc + 4 = t.nextHeader then .instr s (.illegalInstruction w)
        else (match s.code t core (t.pc + 4) 4 with
          | .walk va => .walk va
          | .trap tr => .trap tr (t.charged tr) 0
          | .wait => .wait
          | .ok s l =>
            (match decode w (some (BitVec.ofNat 32 l)) with
             | .ok i => .instr s i
             | .error _ => .instr s (.illegalInstruction w)))
      | .error _ => .instr s (.illegalInstruction w)

/-- Checks a header that is entered (R129), and enters its block. -/
def State.enterHeader (s : State) (k : Nat) (hdr : Word) (way : EntryWay) : Fetched :=
  let t := s.strand k
  let core := slotCore k
  if !headerAddr hdr then .trap .framing hdr 0
  else match s.code t core hdr 8 with
    | .walk va => .walk va
    | .trap tr => .trap tr hdr 0
    | .wait => .wait
    | .ok s v =>
      let h := BitVec.ofNat 64 v
      let bad := !hdrFramed h || (way == .continuation && !hdrC h) || (way == .handler && !hdrH h)
      if bad then .trap .framing hdr (h.extractLsb' 0 32)
      else
        -- a block that reaches into the next page needs its translation too; a failure is charged to the header
        match s.code t core (hdr + 4 + 4 * BitVec.ofNat 64 (hdrLength h)) 4 with
        | .walk va => .walk va
        | .trap tr => .trap tr hdr 0
        | .wait => .wait
        | .ok s _ =>
          let s := s.setStrand k { t with hdr := hdr, hword := h, way := none, pc := hdr + 8 }
          s.fetchWord k

/-- The next instruction of a strand: the header is entered first where control has come to one, by a branch, an
activation or fall-through (R129, R130). -/
def State.fetch (s : State) (k : Nat) : Fetched :=
  let t := s.strand k
  match t.way with
  | some w => s.enterHeader k t.pc w
  | none => if t.pc = t.nextHeader then s.enterHeader k t.pc .branch else s.fetchWord k

end Sys2Proof.Machine
end

