-- ==== Sys2Proof/Machine/Place.lean ====
section
/-! DEFINITION. An instruction placed where the machine fetches its next one (log 6): what a loader, a launch
and an activation would have set up. -/

namespace Sys2Proof.Machine

/-- Where the placed block stands, as an offset on the die of the core that issues. -/
def placedAt : Nat := 0x10000

/-- The placed block's header: MAJOR 0x3F and two words (R128). -/
def placedHeader : Word := 0xFC080000

/-- The translation of the placed block: the first 64 GiB of the die, mapped on itself (R324). -/
def placedXlat (die : Nat) : Xlat := ⟨0, 0, 36, die * 2 ^ 37, true, true⟩

/-- The strand that stands before the placed instruction. -/
def placedStrand (ctx : Nat) : Strand :=
  { Strand.fresh ctx none 0 0 0 .branch .load 0 1 [] with
    way := none, hdr := BitVec.ofNat 64 placedAt, hword := placedHeader, pc := BitVec.ofNat 64 (placedAt + 8) }

/-- The state with a word and its literal at the program counter of the slot that issues next. -/
def State.placeWord (s : State) (word lit : BitVec 32) : State :=
  let c := slotCore s.here
  let die := coreDie c
  let base := die * 2 ^ 37 + placedAt
  let s := { s with agenda := [], stalled := false, poison := s.poison.filter fun l => l != base / 128 }
  let s := s.writeMem base (placedHeader.toNat + word.toNat * 2 ^ 64 + lit.toNat * 2 ^ 96) 16
  let co := s.core c
  let s := s.setCore c { co with utlb := [placedXlat die], icache := [], shadow := none }
  let s := s.setDie die { s.die die with power := .on }
  let s := [0, 1, 2, 3, 4].foldl (fun s n => s.setStrand (slotKey c n) .idle) s
  { s.setStrand s.here (placedStrand s.serial) with serial := s.serial + 1 }

end Sys2Proof.Machine
end

