-- ==== Sys2Proof/Machine/Frames.lean ====
section
/-! DEFINITION. Frame names and records, join counters, ready queues, deques and the resumption of
continuations (spec/01_execution.md R15 to R22, spec/09_isa_tasks.md R194 to R206). -/

namespace Sys2Proof.Machine

/-! Frame names (R194). -/

def fnOff (f : Word) : Nat := bits f.toNat 0 19
def fnClus (f : Word) : Nat := bits f.toNat 19 11
def fnSpill (f : Word) : Bool := f.getLsbD 30
def fnCtr (f : Word) : BitVec 24 := f.extractLsb' 31 24

/-- A frame name's counter by bits [54:31] (R194, R196). -/
def ctrIdx (c : BitVec 24) : Nat := bits c.toNat 0 12
def ctrSpilled (c : BitVec 24) : Bool := c.getLsbD 12
def ctrClus (c : BitVec 24) : Nat := bits c.toNat 13 11

/-- Whether a frame name is legal for a strand (R194). -/
def State.nameOk (s : State) (t : Strand) (f : Word) : Bool :=
  bits f.toNat 55 9 == 0 && fnOff f % 128 == 0 && (ctrSpilled (fnCtr f) || ctrIdx (fnCtr f) < 512) &&
    s.inLaunch t (fnClus f) && s.inLaunch t (ctrClus (fnCtr f))

/-- Where a frame record lies (R194, R195). -/
structure Rec where
  clus : Nat
  spill : Bool
  off : Nat
  deriving DecidableEq, Repr

def recOf (f : Word) : Rec := ⟨fnClus f, fnSpill f, fnOff f⟩

/-- A frame name with its record at another place (R204). -/
def fnMoved (f : Word) (r : Rec) : Word :=
  BitVec.ofNat 64 (f.toNat / 2 ^ 31 * 2 ^ 31 + bitsOf r.spill * 2 ^ 30 + r.clus % 2 ^ 11 * 2 ^ 19 + r.off % 2 ^ 19)

/-! A launch's cluster: while it is saved whole, its parts are in the saved image (R357). -/

def State.clusterOf (s : State) (ln : Option Nat) (k : Nat) : Cluster :=
  match s.savedClusters.find? fun v => v.clus == k && some v.launch == ln with
  | some v => v.cluster
  | none => s.cluster k

def State.setClusterOf (s : State) (ln : Option Nat) (k : Nat) (c : Cluster) : State :=
  if s.savedClusters.any fun v => v.clus == k && some v.launch == ln then
    { s with savedClusters := s.savedClusters.map fun v =>
        if v.clus == k && some v.launch == ln then { v with cluster := c } else v }
  else s.setCluster k c

def State.coreOf (s : State) (ln : Option Nat) (c : Nat) : Core :=
  match s.savedClusters.find? fun v => v.clus == coreClus c && some v.launch == ln with
  | some v => v.cores.get c .reset
  | none => s.core c

def State.setCoreOf (s : State) (ln : Option Nat) (c : Nat) (t : Core) : State :=
  if s.savedClusters.any fun v => v.clus == coreClus c && some v.launch == ln then
    { s with savedClusters := s.savedClusters.map fun v =>
        if v.clus == coreClus c && some v.launch == ln then { v with cores := v.cores.put c t } else v }
  else s.setCore c t

/-- Whether a launch's cluster is saved, so that messages to it wait (R357). -/
def State.isSaved (s : State) (ln : Option Nat) (k : Nat) : Bool :=
  s.savedClusters.any fun v => v.clus == k && some v.launch == ln

/-! Records in the frame area and in the frame spill area (R195; log 25). The answers are none where the spill
area's page has no translation, where its home does not serve the line (R73), or where a row of SRAM is being remapped (R386):
then the walker waits. -/

def State.recPa (s : State) (ln : Option Nat) (r : Rec) (o : Nat) (write : Bool) : Option Nat :=
  match ln.bind fun n => s.launches.find n with
  | some l =>
    let va := (l.word 384).toNat + 524288 * l.rank r.clus + r.off + o
    if write then s.translateW l.func va else s.translate l.func va
  | none => none

/-- Where a byte of the SRAM of a launch's cluster lies while the cluster is saved: in its save frames (R356, R357). -/
def State.savedPa (s : State) (ln : Option Nat) (k b : Nat) : Option Nat :=
  (s.savedClusters.find? fun v => v.clus == k && some v.launch == ln).map fun v =>
    (v.frames[b / 4096]?).getD 0 + b % 4096

def State.readRec (s : State) (ln : Option Nat) (r : Rec) (o n : Nat) : Option Nat :=
  if r.spill then (s.recPa ln r o false).bind fun pa => s.sysGet pa n
  else match s.savedPa ln r.clus (r.off + o) with
  | some pa => s.sysGet pa n
  | none => if s.sramBusy r.clus (r.off + o) n then none else some ((s.clusterOf ln r.clus).readSram (r.off + o) n)

def State.writeRec (s : State) (ln : Option Nat) (r : Rec) (o v n : Nat) : Option State :=
  if r.spill then (s.recPa ln r o true).bind fun pa => s.sysPut pa v n
  else match s.savedPa ln r.clus (r.off + o) with
  | some pa => s.sysPut pa v n
  | none =>
    if s.sramBusy r.clus (r.off + o) n then none
    else some (s.setClusterOf ln r.clus ((s.clusterOf ln r.clus).writeSram (r.off + o) v n))

/-- Writes fields given as offset, size and value. -/
def State.writeFields (s : State) (ln : Option Nat) (r : Rec) (l : List ImageField) : Option State :=
  l.foldl (fun o f => o.bind fun s => s.writeRec ln r f.off f.value f.bytes) (some s)

/-- PLINK and PV of a join link (R196). -/
def linkWord : Option JoinLink → Word
  | none => 0
  | some .seed => 0xC000000000000000
  | some (.counter c) => 0x8000000000000000 ||| (c.zeroExtend 64 <<< 31)

/-- The join link of PLINK and PV (R197). -/
def linkOf (w : Word) : Option JoinLink :=
  if !w.getLsbD 63 then none else if w.getLsbD 62 then some .seed else some (.counter (w.extractLsb' 31 24))

/-- The word of a record's fixed part at bit 192 (R196). -/
def recInfo (prio : BitVec 8) (cls : SlotClass) (fnreg : Nat) (tm : BitVec 16) (size : Nat) : Nat :=
  prio.toNat + cls.code * 2 ^ 8 + fnreg % 32 * 2 ^ 11 + tm.toNat * 2 ^ 16 + size % 32 * 2 ^ 32

def infoPrio (w : Nat) : BitVec 8 := BitVec.ofNat 8 w
def infoClass (w : Nat) : SlotClass := SlotClass.ofCode (bits w 8 3)
def infoReg (w : Nat) : Nat := bits w 11 5
def infoTmask (w : Nat) : Nat := bits w 16 16
def infoSize (w : Nat) : Nat := bits w 32 5

/-- The x registers and vector groups that a header names live (R128). -/
def liveX (h : Word) : List Nat := ((List.range 24).map fun i => i + 1).filter fun i => (hdrLivex h).getLsbD (i - 1)
def liveG (h : Word) : List Nat := (List.range 8).filter fun g => (hdrLivev h).getLsbD g
def liveV (h : Word) : List Nat := (liveG h).flatMap fun g => [4 * g, 4 * g + 1, 4 * g + 2, 4 * g + 3]
/-- The lines that a record needs for a header (R196). -/
def liveLines (h : Word) : Nat := (liveG h).foldl (fun n g => max n (3 + 2 * (g + 1))) 3

def tmaskList (m : Nat) : List Nat := (List.range 16).filter fun k => bits m k 1 == 1

/-- What PUBF and SYNC write into a record of `size` lines (R200, R203). -/
def publishFields (t : Strand) (fnreg : Nat) (hdr live : Word) (size : Nat) : List ImageField :=
  [⟨0, 8, hdr.toNat⟩, ⟨8, 8, (linkWord t.jl).toNat⟩, ⟨16, 8, t.wid.toNat⟩,
   ⟨24, 8, recInfo t.prio t.cls fnreg t.tm size⟩] ++
  ((tmaskList t.tm.toNat).map fun k => ⟨64 + 4 * k, 4, (t.n.get k 0).toNat % 2 ^ 24⟩) ++
  ((liveX live).map fun i => ⟨128 + 8 * (i - 1), 8, (t.x.get i 0).toNat⟩) ++
  ((liveV live).map fun i => ⟨384 + 64 * i, 64, (t.v.get i 0).toNat⟩)

/-- The register fields that a publication reads: each live one, which stalls while empty (R131, R200). -/
def liveOpnds (h : Word) : List Opnd :=
  ((liveX h).map fun i => .xs (BitVec.ofNat 5 i) false) ++ ((liveV h).map fun i => .vs (BitVec.ofNat 5 i) false)

/-! Resuming a continuation (R17, R197, R291). -/

/-- Reloads the registers that a header names live. -/
def State.reloadLive (s : State) (ln : Option Nat) (r : Rec) (h : Word) (t : Strand) : Option Strand :=
  let x := (liveX h).foldl (fun o i => o.bind fun (t : Strand) =>
    (s.readRec ln r (128 + 8 * (i - 1)) 8).map fun v => { t with x := t.x.put i (BitVec.ofNat 64 v) }) (some t)
  (liveV h).foldl (fun o i => o.bind fun (t : Strand) =>
    (s.readRec ln r (384 + 64 * i) 64).map fun v => { t with v := t.v.put i (BitVec.ofNat 512 v) }) x

/-- The header word at an address as hardware reads it (log 20). -/
def State.headerWord (s : State) (f : Nat) (hdr : Word) : Option Word :=
  (s.translate f hdr.toNat).bind fun pa => (s.sysGet pa 8).map fun v => BitVec.ofNat 64 v

/-- Resumes a continuation in an idle slot. Where its header cannot be read yet, the live registers are reloaded
when it is entered (log 25). -/
def State.resume (s : State) (k : Nat) (r : Rec) (hdr : Word) (ln : Option Nat) (func : Nat) : Option State :=
  match s.readRec ln r 8 8, s.readRec ln r 16 8, s.readRec ln r 24 8, s.readRec ln r 32 8, s.readRec ln r 64 64 with
  | some link, some wid, some info, some self, some binds =>
    let n := (tmaskList (infoTmask info)).map fun i => (i, BitVec.ofNat 64 (binds / 2 ^ (32 * i) % 2 ^ 24))
    let t : Strand := { Strand.fresh s.serial ln func (BitVec.ofNat 64 wid) hdr .continuation (infoClass info)
        (infoPrio info) 2 n with
      jl := linkOf (BitVec.ofNat 64 link), tm := BitVec.ofNat 16 (infoTmask info) }
    let u := match s.headerWord func hdr with
      | some h => s.reloadLive ln r h t
      | none => some { t with reload := some (fnMoved (BitVec.ofNat 64 self) r) }
    u.map fun u => { s.setStrand k u with serial := s.serial + 1 }
  | _, _, _, _, _ => none

/-! Room in frame areas (R195, R198, R204). -/

/-- Banks of a launch's frame area (R195, R309). -/
def State.fareaLen (s : State) (ln : Option Nat) : Nat :=
  match ln.bind fun n => s.launches.find n with
  | some l => if l.byteBits 120 48 4 = 0 then 2 else l.byteBits 120 48 4
  | none => 2

def meets (a n : Nat) (used : List (Nat × Nat)) : Bool := used.any fun u => overlaps a n u.1 u.2

/-- First fit of `n` lines in [lo, hi) (R198). -/
def firstFit (lo hi n : Nat) (used : List (Nat × Nat)) : Option Nat :=
  let ends := (used.map fun u => u.1 + u.2).filter fun a => lo ≤ a
  let ok := (lo :: ends).filter fun a => a + n ≤ hi && !meets a n used
  ok.foldl (fun b a => match b with
    | none => some a
    | some b => some (min a b)) none

/-- The lines of a cluster's frame area. -/
def State.fareaLo (s : State) (ln : Option Nat) : Nat := 128 * (24 - s.fareaLen ln)

/-- Room for a record: first in the frame area, then in the frame spill area (R198). -/
def State.findRoom (s : State) (ln : Option Nat) (k n : Nat) (taken : List (Nat × Nat)) : Option (Bool × Nat) :=
  let c := s.clusterOf ln k
  match firstFit (s.fareaLo ln) 3072 n (taken ++ c.frames) with
  | some a => some (false, a)
  | none => if ln.isNone then none else (firstFit 0 4096 n c.spillFrames).map fun a => (true, a)

/-- Lines in banks that are not in SCRATCH mode. -/
def Cluster.notScratch (c : Cluster) : List (Nat × Nat) :=
  ((List.range 24).filter fun b => c.mode b != .scratch).map fun b => (128 * b, 128)

/-- Room for the tiles of a moved frame, one after the other. -/
def State.tileRoom (s : State) (ln : Option Nat) (k : Nat) (used : List (Nat × Nat)) :
    List (Nat × Nat) → Option (List (Nat × Nat))
  | [] => some []
  | (i, n) :: r =>
    match firstFit (s.fareaLo ln) 3072 n used with
    | none => none
    | some a => (s.tileRoom ln k ((a, n) :: used) r).map fun l => (i, a) :: l

/-- The bindings of a record's TMASK that name a tile. -/
def State.recTiles (s : State) (ln : Option Nat) (r : Rec) : Option (List (Nat × Word)) :=
  match s.readRec ln r 24 8, s.readRec ln r 64 64 with
  | some info, some binds =>
    some (((tmaskList (infoTmask info)).map fun i => (i, BitVec.ofNat 64 (binds / 2 ^ (32 * i) % 2 ^ 24))).filter
      fun e => bindSize e.2 != 0)
  | _, _ => none

/-- Places for a record and its tiles in another cluster: its area, its line and the line of each tile (R204). -/
def State.planMove (s : State) (ln : Option Nat) (r : Rec) (dst : Nat) : Option (Bool × Nat × List (Nat × Nat)) :=
  match s.readRec ln r 24 8, s.recTiles ln r with
  | some info, some tiles =>
    let c := s.clusterOf ln dst
    (s.findRoom ln dst (infoSize info) []).bind fun p =>
      let used := (if p.1 then [] else [(p.2, infoSize info)]) ++ c.frames ++ c.notScratch
      (s.tileRoom ln dst used (tiles.map fun e => (e.1, bindSize e.2))).map fun t => (p.1, p.2, t)
  | _, _ => none

/-- The size of each tile of a plan, at its new line. -/
def State.tileSizes (s : State) (ln : Option Nat) (r : Rec) (tiles : List (Nat × Nat)) : List (Nat × Nat) :=
  match s.recTiles ln r with
  | some l => tiles.map fun e => (e.2, ((l.find? fun q => q.1 == e.1).map fun q => bindSize q.2).getD 0)
  | none => []

/-- Takes the room of a plan. -/
def State.takeRoom (s : State) (ln : Option Nat) (k : Nat) (spill : Bool) (line size : Nat) (tiles : List (Nat × Nat)) : State :=
  let c := s.clusterOf ln k
  s.setClusterOf ln k { c with
    frames := (if spill then [] else [(line, size)]) ++ tiles ++ c.frames
    spillFrames := if spill then (line, size) :: c.spillFrames else c.spillFrames }

def Cluster.giveLine (c : Cluster) (spill : Bool) (line : Nat) : Cluster :=
  if spill then { c with spillFrames := c.spillFrames.filter fun u => u.1 != line }
  else { c with frames := c.frames.filter fun u => u.1 != line }

/-- Copies lines of one record place to another. -/
def State.copyRec (s : State) (ln : Option Nat) (a b : Rec) : Nat → Option State
  | 0 => some s
  | n + 1 =>
    (s.copyRec ln a b n).bind fun s => (s.readRec ln a (128 * n) 128).bind fun v => s.writeRec ln b (128 * n) v 128

/-- Copies tiles of one cluster to their new lines in another; the SRAM of a cluster that is saved is in its save frames
(R204, R357). -/
def State.copyTiles (s : State) (ln : Option Nat) (from' to' : Nat) (tiles : List (Nat × Nat)) : List (Nat × Word) → Option State
  | [] => some s
  | e :: r =>
    (s.copyRec ln ⟨from', false, (bindBank e.2 * 128 + bindOff e.2) * 128⟩ ⟨to', false, 128 * Tab.get tiles e.1 0⟩
      (bindSize e.2)).bind fun s => s.copyTiles ln from' to' tiles r

/-- Moves a record and its tiles to the room that was taken, and frees the old place (R204). -/
def State.moveRec (s : State) (ln : Option Nat) (r dst : Rec) (tiles : List (Nat × Nat)) : Option State :=
  match s.readRec ln r 24 8, s.readRec ln r 32 8, s.recTiles ln r with
  | some info, some self, some old =>
    ((s.copyRec ln r dst (infoSize info)).bind fun s => s.copyTiles ln r.clus dst.clus tiles old).bind fun s =>
      let name := fnMoved (BitVec.ofNat 64 self) dst
      let newBind := fun (e : Nat × Word) =>
        let a := Tab.get tiles e.1 0
        bindSize e.2 * 2 ^ 12 + a % 128 * 2 ^ 5 + a / 128
      let fields : List ImageField := [⟨32, 8, name.toNat⟩] ++
        (if 1 ≤ infoReg info ∧ infoReg info ≤ 24 then [⟨128 + 8 * (infoReg info - 1), 8, name.toNat⟩] else []) ++
        (old.map fun e => ⟨64 + 4 * e.1, 4, newBind e⟩)
      (s.writeFields ln dst fields).map fun s =>
        let c := (s.clusterOf ln r.clus).giveLine r.spill (r.off / 128)
        let c := old.foldl (fun (c : Cluster) e => c.giveLine false (bindBank e.2 * 128 + bindOff e.2)) c
        s.setClusterOf ln r.clus c
  | _, _, _ => none

/-! Join counters (R21, R22). -/

def JoinCounter.none : JoinCounter := ⟨0, false, false, Option.none, 0⟩

def State.ctr (s : State) (ln : Option Nat) (c : BitVec 24) : JoinCounter :=
  let k := s.clusterOf ln (ctrClus c)
  (if ctrSpilled c then k.spilled else k.counters).get (ctrIdx c) .none

/-- An entry of a cluster's spill table is written, at its place in memory (R195, R309; log 43). -/
def State.spillWrite (s : State) (ln : Option Nat) (k i : Nat) : State :=
  match ln.bind fun n => s.launches.find n with
  | some l =>
    (match s.translateW l.func ((l.word 392).toNat + 65536 * l.rank k + 16 * i) with
     | some pa => s.writeSys pa (Config.spillEntry i s.serial) 16
     | none => s)
  | none => s

def State.setCtr (s : State) (ln : Option Nat) (c : BitVec 24) (j : JoinCounter) : State :=
  let k := s.clusterOf ln (ctrClus c)
  if ctrSpilled c then
    (s.setClusterOf ln (ctrClus c) { k with spilled := k.spilled.put (ctrIdx c) j }).spillWrite ln (ctrClus c) (ctrIdx c)
  else s.setClusterOf ln (ctrClus c) { k with counters := k.counters.put (ctrIdx c) j }

/-- Barrier registrations of a cluster's cores: they occupy join-area entries (R29). -/
def State.registrations (s : State) (ln : Option Nat) (k : Nat) : Nat :=
  let cores := match s.savedClusters.find? fun v => v.clus == k && some v.launch == ln with
    | some v => v.cores
    | none => s.cores
  (cores.filter fun e => coreClus e.1 == k).foldl
    (fun n e => e.2.barriers.foldl (fun n b => n + b.2.waiting.length) n) 0

def allocated (t : Tab JoinCounter) : Nat := (t.filter fun e => e.2.allocated).length

/-- Entries of a cluster's spill table in use: counters, and what the join area and the ready queue cannot hold
(R22, R206). -/
def State.spillUsed (s : State) (ln : Option Nat) (k : Nat) : Nat :=
  let c := s.clusterOf ln k
  allocated c.spilled + (c.ready.length - 64) + (allocated c.counters + s.registrations ln k - 512)

/-- Places a frame on a cluster's ready queue, or in the spill table where that is full; none where both are
(R22, R206). -/
def State.placeReady (s : State) (ln : Option Nat) (k : Nat) (frame : Word) (prio : BitVec 8) : Option State :=
  let c := s.clusterOf ln k
  let put := { s.setClusterOf ln k { c with ready := c.ready ++ [⟨frame, prio, s.serial⟩] } with serial := s.serial + 1 }
  if c.ready.length < 64 then some put
  else if s.spillUsed ln k < 4096 then some (put.spillWrite ln k (4095 - (c.ready.length - 64)))
  else none

/-- A counter at zero gives up its parked frame (R22, R204). A frame that is being moved waits for the end of its
move. -/
def State.giveParked (s : State) (ln : Option Nat) (c : BitVec 24) : State :=
  let j := s.ctr ln c
  match j.parked with
  | none => s
  | some f =>
    if j.value ≠ 0 || j.reserved || s.parks.any fun p => p.frame == f then s
    else if fnClus f = ctrClus c then
      (match s.placeReady ln (fnClus f) f j.prio with
       | some s => s.setCtr ln c { s.ctr ln c with parked := none }
       | none => s)
    else
      let r := s.releaseCluster (s.whoFor (ctrClus c)) (distance (ctrClus c) (fnClus f))
      let s := r.1.setCtr ln c { r.1.ctr ln c with parked := none }
      { s with decs := s.decs ++ [⟨ctrClus c, ln, c, .place f j.prio, r.2⟩] }

/-- The function of a launch. -/
def State.funcOf (s : State) (ln : Option Nat) : Nat := ((ln.bind fun n => s.launches.find n).map fun l => l.func).getD 0

/-- A decrement reaches a counter (R21); an underflow is charged to the function of the counter's launch (R383). -/
def State.decrement (s : State) (ln : Option Nat) (c : BitVec 24) : State :=
  let j := s.ctr ln c
  if j.value = 0 then
    s.error 2 2 (clusDie (ctrClus c)) (s.funcOf ln) 1 (c.toNat * 2 ^ 31) 0
  else (s.setCtr ln c { j with value := j.value - 1 }).giveParked ln c

/-- Frames that wait for room of a ready queue are placed as soon as there is some (R206). -/
def State.placeWaiting (s : State) (ln : Option Nat) (k : Nat) : State :=
  let c := s.clusterOf ln k
  let of := fun (sp : Bool) (t : Tab JoinCounter) =>
    (t.filter fun e => e.2.value == 0 && e.2.parked.isSome).map fun e =>
      BitVec.ofNat 24 (e.1 + bitsOf sp * 2 ^ 12 + k * 2 ^ 13)
  (of false c.counters ++ of true c.spilled).foldl (fun s n => s.giveParked ln n) s

/-- The frame that a ready queue serves next: the highest priority, the oldest among equals (R22). The frames of the
spill table compete with the 64 of the queue (DESIGN CHOICE, log 39). -/
def bestReady (l : List Ready) : Option Ready :=
  l.foldl (fun b r => match b with
    | none => some r
    | some q => if q.prio.toNat < r.prio.toNat || (q.prio == r.prio && r.order < q.order) then some r else some q) none

/-! The deque (R15, R18). -/

def entChdr (e : BitVec 128) : Word := (e.extractLsb' 0 58).zeroExtend 64
def entRec (e : BitVec 128) : Rec := ⟨(e.extractLsb' 83 11).toNat, e.getLsbD 98, (e.extractLsb' 64 19).toNat⟩
def entStag (e : BitVec 128) : Nat := (e.extractLsb' 94 3).toNat
def entPub (e : BitVec 128) : Bool := e.getLsbD 97

/-- A deque entry (R15, R201). -/
def entOf (hdr frame : Word) (slot : Nat) (pub : Bool) : BitVec 128 :=
  BitVec.ofNat 128 (hdr.toNat % 2 ^ 58 + fnOff frame * 2 ^ 64 + fnClus frame * 2 ^ 83 + slot * 2 ^ 94 +
    bitsOf pub * 2 ^ 97 + bitsOf (fnSpill frame) * 2 ^ 98)

/-- An entry whose record has moved (R204). -/
def entMoved (e : BitVec 128) (r : Rec) : BitVec 128 :=
  BitVec.ofNat 128 ((entChdr e).toNat + r.off * 2 ^ 64 + r.clus * 2 ^ 83 + entStag e * 2 ^ 94 +
    bitsOf (entPub e) * 2 ^ 97 + bitsOf r.spill * 2 ^ 98)

/-- Groups of a core's backing store (R205, R309). -/
def State.groupsOf (s : State) (ln : Option Nat) : Nat :=
  match ln.bind fun n => s.launches.find n with
  | some l => (l.word 408).toNat
  | none => 0

/-- What the owner finds at the tail (R18 to R20). -/
inductive Tail where
  | entry (e : BitVec 128)
  | wait
  | notMine
  | empty
  deriving DecidableEq, Repr

/-- The tail for a slot. While a spill is under way its 16 entries are not the tail's. -/
def Core.tail (c : Core) (slot : Nat) : Tail :=
  if c.spilling && c.deque.length ≤ 16 then .wait
  else match c.deque.getLast? with
    | some e => if entPub e || entStag e == slot then .entry e else .notMine
    | none => if c.groups = 0 then .empty else .wait

/-- The entries of a group of the backing store (R205, R356). -/
def Core.groupSize (c : Core) (n : Nat) : Nat := c.short.get n 16

/-- Local work ends the wait of a core's steal engine (R25). -/
def Core.worked (c : Core) : Core := { c with engine := { c.engine with empties := 0, waiting := false, running := false } }

/-- Whether a slot may take a continuation that is popped, which needs no shadow bank (R7, R351): one that waits for a
refill is not free for anything else (R20). -/
def State.freeSlot (s : State) (k : Nat) : Bool :=
  let c := s.core (slotCore k)
  !(s.strand k).active && !(c.moves.any fun m => m.slot == slotIdx k && !m.out) && c.refilling != some (slotIdx k) &&
    slotIdx k < 5 && (s.die (coreDie (slotCore k))).power == .on && (s.cluster (coreClus (slotCore k))).save == .off

/-- Whether a slot may take a strand through the shadow bank, in its turn (R351, R352). -/
def State.idleSlot (s : State) (k : Nat) : Bool :=
  s.freeSlot k && (s.core (slotCore k)).shadow.isNone && (s.requests (slotCore k)).isEmpty

/-- The launch whose work a cluster runs now: its holder while it is ready (R317). -/
def State.running (s : State) (k : Nat) : Option Nat :=
  ((s.cluster k).holder).filter fun n =>
    match s.launches.find n with
    | some l => l.state == .ready && (s.cluster k).started && (s.cluster k).save == .off
    | none => false

end Sys2Proof.Machine
end

