-- ==== Sys2Proof/Machine/Joins.lean ====
section
/-! DEFINITION. What happens when an edge of a strand completes: acquires, retiring and popping, joining,
barriers, messages and task records (spec/01_execution.md R19 to R22, R29, spec/03_ordering.md R77, R78,
spec/09_isa_tasks.md R202 to R214). -/

namespace Sys2Proof.Machine

/-! Messages on their way (R12, R211). -/

/-- A core's activation queue and the path to it have room, and the launch's cluster is not saved (R12, R357). -/
def State.pathRoom (s : State) (ln : Option Nat) (target : Nat) : Bool :=
  (s.core target).actq.length + (s.transit.filter fun a => a.target == target).length < 16 &&
    !s.isSaved ln (coreClus target)

/-- Sends an activation. -/
def State.sendAct (s : State) (a : Activation) : State :=
  { s with transit := s.transit ++ [{ a with order := s.serial }], serial := s.serial + 1 }

/-- The die links that a message from a die to another passes, at most `n` of them. -/
def pathLinks (a b : Nat) : Nat → List Nat
  | 0 => []
  | n + 1 => if a = b then [] else linkKey a (nextDie a b) :: pathLinks (nextDie a b) b n

def Activation.path (m : Activation) : List Nat := pathLinks (coreDie m.sender) (coreDie m.target) 8

/-- A message that a lost link stops (R343): the entry of a DLG raises LINK_LOST, and any other is dropped with a
REMOTE_LOST record. -/
def State.loseMsg (s : State) (m : Activation) (link : Nat) : State :=
  match m.reply with
  | some (ctx, _, _) => s.onCtx ctx fun t => t.faultEntry m.order .linkLost
  | none => s.error 25 2 (link / 8 % 8) (s.funcOf m.launch) 1 0 link

/-- Sends a message of a strand (R190, R211); a DLG holds an entry until its target has it (R272). -/
def State.sendMsg (s : State) (k : Nat) (m : Activation) (word : BitVec 32) (opa opb : Word) : State :=
  let t := s.strand k
  let m := { m with order := s.serial }
  let e : Entry := { serial := s.serial, iword := word, lit := 0, pc := t.pc, addr := 0, opa := opa, opb := opb, opd := 0,
                     vop := 0, phase := .flight, sent := m.words }
  let s := if m.reply.isSome then s.setStrand k { t with queue := t.queue ++ [e] } else s
  match m.path.find? fun l => (s.link l).state == .down with
  | some l => { s.loseMsg m l with serial := s.serial + 1 }
  | none => s.sendAct m

/-- Links that sleep begin to wake (R362). -/
def State.wakeLinks (s : State) (l : List Nat) : State :=
  l.foldl (fun s i =>
    match (s.link i).state with
    | .asleep none slow => s.setLink i { s.link i with state := .asleep (some s.now) slow }
    | _ => s) s

/-- A die link carries nothing now: it sleeps or retrains (R362, R387). -/
def State.linkHeld (s : State) (l : Nat) : Bool :=
  match (s.link l).state with
  | .asleep .. | .retraining => true
  | _ => false

/-- What the links between two dies allow a message of the hardware (R343, R362, R387). -/
inductive Way where
  | clear
  | held
  | lost (link : Nat)
  deriving DecidableEq, Repr

def State.way (s : State) (a b : Nat) : Way :=
  let p := pathLinks a b 8
  match p.find? fun l => (s.link l).state == .down with
  | some l => .lost l
  | none => if p.any s.linkHeld then .held else .clear

/-- A message of the hardware comes from one die to another, and `arrive` takes it. A retraining link holds it, and a sleeping one
begins to wake. One that a lost link stops has no entry that could fault: `lose` takes it out, with a REMOTE_LOST record, as R343
gives for the operations that return nothing (DESIGN CHOICE, log 32). -/
def State.across (s : State) (a b : Nat) (ln : Option Nat) (arrive : Unit → Option State) (lose : Unit → Option State) :
    Option State :=
  match s.way a b with
  | .clear => arrive ()
  | .held =>
    let u := s.wakeLinks (pathLinks a b 8)
    if u.links = s.links then none else some u
  | .lost l => (lose ()).map fun s => s.error 25 2 (l / 8 % 8) (s.funcOf ln) 1 0 l

/-- Counts a discarded message and writes its record (R11). -/
def State.discardMsg (s : State) (a : Activation) : State :=
  let c := s.core a.target
  (s.setCore a.target { c with discards := c.discards + 1 }).error 1 0 (coreDie a.target)
    (((a.launch.bind fun n => s.launches.find n).map fun l => l.func).getD 0) 1 a.target a.type.toNat

/-- The vector-table entry of a message type (R10); firmware's entry for an arriving donation is a free value (log 26). -/
def Core.vector (c : Core) (type : BitVec 8) : BitVec 128 :=
  if type = 3 then Config.firmwareVector else c.vtab.get type.toNat 0

/-- The class of an activation's strand (R9). -/
def SlotClass.ofType (c : Core) (a : Activation) : SlotClass :=
  if a.type = 4 then .server else vecClass (c.vector a.type)

/-! Acquires (R76). -/

/-- The strand goes on: at the next word, or at a header. -/
def State.goOn (s : State) (k : Nat) (hdr : Option Word) : State :=
  let t := { s.strand k with edge := none, wait := none }
  s.setStrand k (match hdr with
    | none => t.advance 4
    | some h => t.goto h .branch)

def State.endAcquire (s : State) (k : Nat) (reach : Dom) (hdr : Option Word) : State :=
  (s.invalidate (s.whoAt k) reach).goOn k hdr

/-- Begins an acquire; with no load to wait for it ends at once. -/
def State.beginAcquire (s : State) (k : Nat) (reach : Dom) (hdr : Option Word) : State :=
  let w := if reach = .cluster then [] else s.loadsOf (s.strand k).ctx
  if s.allDone false w then s.endAcquire k reach hdr
  else s.setStrand k { s.strand k with edge := some ⟨w, false, .acquire reach hdr⟩, wait := none }

/-! Retiring (R19, R202, R313, R346, R348). -/

/-- A strand's join link is decremented. -/
def State.decLink (s : State) (clus : Nat) (t : Strand) : State :=
  match t.jl with
  | none => s
  | some .seed =>
    (match t.launch.bind fun n => s.launches.find n with
     | some l =>
       let s := { s with launches := s.launches.put (t.launch.getD 0) { l with seedCtr := l.seedCtr - 1 } }
       if l.seedCtr = 1 then s.endLaunch t.launch 0 else s
     | none => s)
  | some (.counter c) =>
    if ctrClus c = clus then s.decrement t.launch c else { s with decs := s.decs ++ [⟨clus, t.launch, c, .decrement, []⟩] }

/-- The reach of RETIRE's release, if it takes one (R77; log 11). -/
def retireReach (clus : Nat) (j : Option JoinLink) : Option Dom :=
  match j with
  | none => none
  | some .seed => some .package
  | some (.counter c) => if ctrClus c = clus then none else some (distance clus (ctrClus c))

/-- The pop of R19 in the slot of a strand that has ended. None while the record cannot be read. -/
def State.popAt (s : State) (k : Nat) : Option State :=
  let c := slotCore k
  let t := s.strand k
  let co := s.core c
  match co.tail (slotIdx k) with
  | .entry e =>
    (s.setCore c { co with deque := co.deque.dropLast }).resume k (entRec e) (entChdr e) t.launch t.func
  | .wait =>
    let co := if co.deque.isEmpty then { co with refilling := some (slotIdx k) } else co
    some ((s.setCore c co).setStrand k { t with edge := some ⟨[], false, .pop⟩ })
  | _ => some (s.endStrand k)

/-- The routine that a SERVER context runs ends with a value (R192, R348). -/
def State.answerCaller (s : State) (server : Nat) (caller : Option (Nat × RegNo × Nat)) (v : Word) : State :=
  match caller with
  | some (ctx, d, core) => { s with replies := s.replies ++ [⟨ctx, d, core, server, v⟩] }
  | none => s

/-- The bound context of a handler stands in its image, so that the handler may end (R346, R351). -/
def State.boundReady (s : State) (t : Strand) : Bool :=
  match t.bound with
  | some b => (s.savedOf b).any fun v => v.spilled
  | none => true

/-- RETIRE takes effect. In a handler the bound context ends too, and no pop is made (R346, R348). -/
def State.retireAt (s : State) (k : Nat) : Option State :=
  let t := s.strand k
  let c := slotCore k
  match t.bound with
  | some b =>
    let s := match s.savedOf b with
      | some v =>
        let s := if v.spilled then s.dropSaved b else s
        if v.shell.cls = SlotClass.server then s.answerCaller c v.shell.caller (BitVec.allOnes 64)
        else s.decLink (coreClus c) v.shell
      | none => s
    some (s.endStrand k)
  | none =>
    let s := s.decLink (coreClus c) t
    let s := s.setStrand k { s.strand k with edge := some ⟨[], false, .pop⟩, jl := none }
    some ((s.popAt k).getD s)

/-- HALT takes effect (R268, R313, R346, R348). -/
def State.haltAt (s : State) (k : Nat) : State :=
  let t := s.strand k
  let c := slotCore k
  let s := match t.bound with
    | some b =>
      let s := match s.savedOf b with
        | some v => if v.shell.cls = SlotClass.server then s.answerCaller c v.shell.caller (BitVec.allOnes 64) else s
        | none => s
      s.dropSaved b
    | none => if slotIdx k = 4 then s.answerCaller c t.caller (BitVec.allOnes 64) else s
  (s.endLaunch t.launch 5).endStrand k

/-! Joining (R203, R204). -/

/-- A handler's strand that parks or waits at a barrier ends its launch (R346, R348). -/
def State.endParked (s : State) (k : Nat) : State :=
  let t := s.strand k
  let s := match t.bound with
    | some b => (s.endLaunch t.launch 7).dropSaved b
    | none => s
  s.endStrand k

/-- An access of a strand of the cluster has issued and waits for its walk (R175). -/
def State.clusWalking (s : State) (clus : Nat) : Bool :=
  s.strands.any fun e => coreClus (slotCore e.1) == clus && e.2.active && e.2.walking

/-- The release of R78 at the counter's cluster: it covers what its strands issue until nothing is left to release, and
then the answer comes. It begins once no access of the cluster waits for its walk. -/
def State.syncRelease (s : State) (k clus : Nat) (reach : Dom) (hdr : Word) : State :=
  let r := if s.clusWalking clus then (s, []) else s.releaseCluster (s.whoFor clus) reach
  if !s.clusWalking clus && r.1.allDone false r.2 then r.1.beginAcquire k reach (some hdr)
  else r.1.setStrand k { r.1.strand k with edge := some ⟨r.2, false, .syncRelease clus reach hdr⟩ }

/-- The write and the check of SYNC. None while the record cannot be written. -/
def State.syncAt (s : State) (k : Nat) (a : RegNo) (f hdr live : Word) : Option State :=
  let t := s.strand k
  let c := fnCtr f
  let here := coreClus (slotCore k)
  let ln := t.launch
  (s.readRec ln (recOf f) 24 8).bind fun info =>
    (s.writeFields ln (recOf f) (publishFields t a.toNat hdr live (infoSize info))).map fun s =>
      let j : JoinCounter := { s.ctr ln c with reserved := false }
      if j.value = 0 then
        let s := s.setCtr ln c j
        if ctrClus c = here then s.beginAcquire k .die (some hdr)
        else
          s.syncRelease k (ctrClus c) (distance (ctrClus c) here) hdr
      else
        let s := s.setCtr ln c { j with parked := some f, prio := t.prio }
        let s := if ctrClus c = fnClus f then s else { s with parks := s.parks ++ [⟨f, ln⟩] }
        s.endParked k

/-- A park's move is over, and the frame stays where it is (R204). -/
def State.parkStays (s : State) (p : Park) : State :=
  State.giveParked { s with parks := s.parks.filter fun q => q.frame != p.frame } p.launch (fnCtr p.frame)

/-- The end of a park's move (R204): the frame is known by its new place, or stays where it is. None while a
record cannot be read. -/
def State.parkAt (s : State) (p : Park) : Option State :=
  let c := fnCtr p.frame
  let dst := ctrClus c
  let gone := { s with parks := s.parks.filter fun q => q.frame != p.frame }
  match s.readRec p.launch (recOf p.frame) 24 8 with
  | none => none
  | some info =>
    match s.planMove p.launch (recOf p.frame) dst with
    | none => some (s.parkStays p)
    | some (sp, line, tiles) =>
      let to' : Rec := ⟨dst, sp, 128 * line⟩
      ((gone.takeRoom p.launch dst sp line (infoSize info) (gone.tileSizes p.launch (recOf p.frame) tiles)).moveRec p.launch (recOf p.frame) to' tiles).map fun s =>
        let j := s.ctr p.launch c
        (s.setCtr p.launch c { j with parked := j.parked.map fun f => if f = p.frame then fnMoved f to' else f }).giveParked
          p.launch c

/-! Barriers (R208, R209). -/

def barCore (b : Word) : Nat := bits b.toNat 0 16
def barIdx (b : Word) : Nat := bits b.toNat 16 6
def Core.barrier (c : Core) (i : Nat) : Barrier := c.barriers.get i .reset

/-- Releases the registrations of a barrier as type 0x08, and re-arms it (R29). -/
def State.completeBarrier (s : State) (ln : Option Nat) (b : Word) : State :=
  let c := barCore b
  let co := s.coreOf ln c
  let x := co.barrier (barIdx b)
  let s := s.setCoreOf ln c { co with
    barriers := co.barriers.put (barIdx b) { x with arrived := 0, episode := x.episode + 1, waiting := [] } }
  (x.waiting.foldl (fun s w =>
    s.sendAct { type := 8, sender := c, target := w.2, wid := 0, words := [], payload := 0, hdr := 0, prio := 0,
                launch := ln, frame := some w.1, saved := none, reply := none, origin := 0, order := 0 }) s).placeWaiting
    ln (coreClus c)

/-- The cluster of a context that stands out of its slot. -/
def State.savedClus (s : State) (ctx : Nat) : Nat :=
  match s.findCtx ctx with
  | .slot k => coreClus (slotCore k)
  | .shadow c => coreClus c
  | .saved i => ((s.saved[i]?).map fun v => coreClus (slotCore v.slot)).getD 0
  | .gone => 0

/-- The strand of a context, wherever it is kept, learns that its arrival was the last, and acquires (R77, R209). -/
def State.barLast (s : State) (ctx : Nat) (reach : Dom) (hdr : Word) : State :=
  match s.findCtx ctx with
  | .slot k => s.beginAcquire k reach (some hdr)
  | _ =>
    let s := s.invalidate { s.whoFor (s.savedClus ctx) with ctx := ctx } reach
    s.onCtx ctx fun t => { t with wait := none }.goto hdr .branch

/-- The context of a shadow bank is not kept. -/
def State.dropShadow (s : State) (ctx : Nat) : State :=
  match s.findCtx ctx with
  | .shadow c => s.setCore c { s.core c with shadow := none }
  | _ => s.dropSaved ctx

/-- The strand of a context learns that it waits: it ends (R209), and so does the launch of a handler (R346). -/
def State.barWait (s : State) (ctx : Nat) : State :=
  match s.findCtx ctx with
  | .slot k => s.endParked k
  | _ =>
    let t := (s.ctxStrand ctx).getD .idle
    let s := match t.bound with
      | some b => (s.endLaunch t.launch 7).dropSaved b
      | none => s
    s.dropShadow ctx

/-- An arrival reaches its barrier (R209). None while the join area and the spill table are full (R206). -/
def State.arriveAt (s : State) (a : Arrival) : Option State :=
  let c := barCore a.barrier
  let co := s.coreOf a.launch c
  let x := co.barrier (barIdx a.barrier)
  let k := s.clusterOf a.launch (coreClus c)
  if x.arrived + 1 = x.count then
    let s := s.completeBarrier a.launch a.barrier
    let hdr := match (s.ctxStrand a.ctx).bind fun t => t.wait with
      | some (.barrier h) => h
      | _ => 0
    some (s.barLast a.ctx (distance (coreClus a.core) (coreClus c)) hdr)
  else if 512 + 4096 ≤ allocated k.counters + allocated k.spilled + s.registrations a.launch (coreClus c) +
      (k.ready.length - 64) then none
  else
    let s := s.setCoreOf a.launch c { co with
      barriers := co.barriers.put (barIdx a.barrier)
        { x with arrived := x.arrived + 1, waiting := x.waiting ++ [(a.frame, a.core)] } }
    -- a registration beyond the join area is an entry of the spill table (R206)
    let s := if allocated k.counters + s.registrations a.launch (coreClus c) ≤ 512 then s
      else s.spillWrite a.launch (coreClus c) (4095 - (s.spillUsed a.launch (coreClus c) - allocated k.spilled - 1))
    some (s.barWait a.ctx)

/-- BAR's arrival is sent; at a barrier of its own core it is served at once (R209). -/
def State.barSend (s : State) (k : Nat) (b frame hdr : Word) : State :=
  let t := { s.strand k with edge := none, wait := some (.barrier hdr) }
  let s := s.setStrand k t
  let a : Arrival := ⟨t.launch, b, slotCore k, t.ctx, slotIdx k, frame⟩
  let q := { s with arrivals := s.arrivals ++ [a] }
  if barCore b = slotCore k then (s.arriveAt a).getD q else q

/-! Task records (R212, R213). -/

def taskNode (t : BitVec 128) : Nat := (t.extractLsb' 48 16).toNat
def taskInst (t : BitVec 128) : Nat := (t.extractLsb' 0 48).toNat
def taskTmpl (t : BitVec 128) : Nat := (t.extractLsb' 64 24).toNat
def taskPrio (t : BitVec 128) : BitVec 8 := t.extractLsb' 88 8
/-- No reserved bit is set, and neither PF nor DN (R212). -/
def taskOk (t : BitVec 128) : Bool := t.extractLsb' 97 31 == 0

/-- TREC's decrement goes to the home of the counter; the strand waits for the answer (R213). The access issues now, and its
translation is that of now (R328). -/
def State.trecSend (s : State) (k : Nat) (d : RegNo) (task : BitVec 128) (p : Place) (addr opa opb : Word) (word : BitVec 32) : State :=
  let t := s.strand k
  let w := s.whoAt k
  let e : Entry :=
    { serial := s.serial, iword := word, lit := 0, pc := t.pc, addr := addr, opa := opa,
      opb := opb, opd := 0, vop := 0, phase := .flight }
  let u := { (t.pendDestX d).advance 4 with edge := none, wait := some .trec, queue := t.queue ++ [e] }
  let s := { s.setStrand k u with serial := s.serial + 1 }
  let l := p.pa / 128
  let s := if p.remote w.die then s else s.evictLine w l
  s.post w addr l (.atomic ⟨.dec, 0, 0, true⟩ (p.pa % 128) (.trec t.ctx e.serial w.die d task addr)) e.serial [] true

/-- TREC after its release. A translation that has gone in the meantime is walked for anew (R328), and where the page has gone to
another die the release is made over with reach PACKAGE. None while the walk is under way. -/
def State.trecAt (s : State) (k : Nat) (d : RegNo) (task : BitVec 128) (far : Bool) (va opa opb : Word) (word : BitVec 32) :
    Option State :=
  let t := s.strand k
  let core := slotCore k
  match s.lookup t core va.toNat with
  | none => if (t.walk.map fun w => w.busy) = some true then none else some (s.setStrand k (t.startWalk va true false))
  | some x =>
    if !x.w then some ((s.setStrand k { t with edge := none }).trapAtIssue k (.translation 2 true va) t.pc va word)
    else
      let p := s.placeBy core x va.toNat
      if p.remote (coreDie core) && !far then
        let r := s.release (s.whoAt k) .package
        some (r.1.setStrand k { r.1.strand k with edge := some ⟨r.2, false, .trec d task true va opa opb word⟩ })
      else some (s.trecSend k d task p va opa opb word)

/-! The end of an edge (R77). -/

/-- Edges that end their strand, or may: in a handler they wait for the image of the bound context (R346). -/
def After.ends : After → Bool
  | .retire | .halt | .sync .. | .barArrive .. => true
  | _ => false

/-- What an edge instruction does once its release or acquire is complete. None while it must wait. -/
def State.finish (s : State) (k : Nat) (a : After) : Option State :=
  let t := s.strand k
  match a with
  | .advance => some (s.goOn k none)
  | .thenAcquire reach hdr => some (s.beginAcquire k reach hdr)
  | .syncRelease clus reach hdr => if s.clusWalking clus then none else some (s.syncRelease k clus reach hdr)
  | .acquire reach hdr => some (s.endAcquire k reach hdr)
  | .retire => s.retireAt k
  | .pop => s.popAt k
  | .sync a f hdr live => s.syncAt k a f hdr live
  | .halt => some (s.haltAt k)
  | .barArrive b f hdr => some (s.barSend k b f hdr)
  | .send m word opa opb =>
    if s.pathRoom m.launch m.target then some ((s.sendMsg k m word opa opb).goOn k none) else none
  | .dret v => some ((s.answerCaller (slotCore k) t.caller v).endStrand k)
  | .tenq task => some ((s.enqueueTask (coreDie (slotCore k)) task t.func).goOn k none)
  | .trec d task far addr opa opb word => s.trecAt k d task far addr opa opb word
  | .shoot entry image =>
    let s := s.goOn k none
    some ((s.setStrand k { s.strand k with wait := some .shootdown }).startShoot t.func entry image (some t.ctx) false none)

def State.finishEdge (s : State) (k : Nat) (a : After) : Option State :=
  if a.ends && !s.boundReady (s.strand k) then none else s.finish k a

/-- Begins an edge that waits; where it waits for nothing it is complete at once (R72, R77). -/
def State.beginEdge (s : State) (k : Nat) (waits : List Nat) (system : Bool) (a : After) : State :=
  let q := s.setStrand k { s.strand k with edge := some ⟨waits, system, a⟩, walk := none }
  if s.allDone system waits then (s.finishEdge k a).getD q else q

/-- A release by the strand in slot `k`, and what follows it; the buffered sums of its core are emitted first
(R243). -/
def State.releaseThen (s : State) (k : Nat) (reach : Dom) (a : After) : State :=
  let s := s.emit (s.whoAt k)
  let r := s.release (s.whoAt k) reach
  r.1.beginEdge k r.2 (reach == .system) a

/-- A release by a FENCE, which leaves every increment of the strand performed at its home (R79), and what follows
it. -/
def State.fenceThen (s : State) (k : Nat) (reach : Dom) (a : After) : State :=
  let s := s.emit (s.whoAt k)
  let r := s.release (s.whoAt k) reach
  r.1.beginEdge k (r.2 ++ r.1.increments (s.strand k).ctx reach) (reach == .system) a

/-- A handler's RETIRE: the release that its bound context's own RETIRE takes, or the DRET of a routine (R77, R346,
R348). -/
def State.boundRelease (s : State) (k b : Nat) : State :=
  let clus := coreClus (slotCore k)
  let u := (s.ctxStrand b).getD .idle
  let reach := if u.cls = SlotClass.server then u.caller.map fun q => distance clus (coreClus q.2.2) else retireReach clus u.jl
  match reach with
  | some d =>
    let s := s.emit (s.whoAt k)
    let r := s.release (s.whoAt k) d
    r.1.beginEdge k (r.2 ++ r.1.issuedBy b d) false .retire
  | none => (s.emit (s.whoAt k)).beginEdge k [] false .retire

/-- Whether a release may be taken at issue: the strand's accesses are translated, the matrix queue of its core is
empty, and no copy holds its buffered sums (R65, R72, R243; log 7). -/
def State.edgeReady (s : State) (t : Strand) : Bool :=
  !t.walking && s.matIdle (slotCore s.here) && s.emitFree (slotCore s.here)

end Sys2Proof.Machine
end

