-- ==== Sys2Proof/Machine/Atomics.lean ====
section
/-! DEFINITION. Atomics and increments (spec/08_isa_memory.md R181 to R186, spec/02_memory.md R57 to R59). -/

namespace Sys2Proof.Machine

/-- An atomic on [xa] with operand xb (R173, R182). -/
def atomic (i : Instr) (o : MemOp) (ops : List Opnd) (a b : Src) (opd : Strand → Word) (s : State) :
    Host.Outcome State Fault Refusal :=
  issue i (a.x :: b.x :: ops) (fun t =>
    issueMem s i o { addr := t.xr a.r, opa := t.xr a.r, opb := t.xr b.r, opd := opd t } t) s

/-- AMO (R182). -/
def execAmo (op : AtomOp) (ty : NumTy) (d : RegNo) (a b : Src) (s : State) : Host.Outcome State Fault Refusal :=
  atomic (.amo op ty d a b) (.amo op ty (some d)) [.xd d] a b (fun _ => 0) s
/-- RED (R182). -/
def execRed (op : AtomOp) (ty : NumTy) (a b : Src) (s : State) : Host.Outcome State Fault Refusal :=
  atomic (.red op ty a b) (.amo op ty none) [] a b (fun _ => 0) s

/-- CAS (R183): xd is read as the compare value and then marked empty. -/
def execCas (ty : NumTy) (d : RegNo) (a b : Src) (s : State) : Host.Outcome State Fault Refusal :=
  atomic (.cas ty d a b) (.cas ty d) [.xs d false, .xd d] a b (fun t => t.xr d) s

/-- The mode and the draw that a FAMO.ADD keeps (R184, R271). -/
def famoOpd (t : Strand) : Word :=
  let m := frmMode t.frm
  let code : Nat := match m with
    | .rtz => 2 | .rdn => 3 | .rup => 4 | .sr => 5 | _ => 1
  BitVec.ofNat 64 (code + (if m = .sr then lfsrDraw (frmLfsr t.frm) * 2 ^ 32 else 0))

/-- FAMO (R184): in mode 5 an ADD steps the LFSR once, at its first issue. -/
def execFamo (op : AtomOp) (ty : NumTy) (d : RegNo) (a b : Src) (s : State) : Host.Outcome State Fault Refusal :=
  issue (.famo op ty d a b) [a.x, b.x, .xd d] (fun t =>
    let add := op == .add
    let u := if add && frmMode t.frm == .sr then { t with frm := frmWithLfsr t.frm (lfsrStep (frmLfsr t.frm)) } else t
    issueMem s (.famo op ty d a b) (.famo op ty (some d))
      { addr := t.xr a.r, opa := t.xr a.r, opb := t.xr b.r, opd := if add then famoOpd t else 0 } u) s

/-- FRED.MIN and FRED.MAX (R184). -/
def execFredMinmax (op : AtomOp) (ty : NumTy) (a b : Src) (s : State) : Host.Outcome State Fault Refusal :=
  atomic (.fredMinmax op ty a b) (.famo op ty none) [] a b (fun _ => 0) s

/-! Increments (R185). -/

/-- The issue of an increment: `n` bytes of elements of a format at a virtual address. It is translated, its
companion with it, before it issues (R57, R175). -/
def incrementAt (s : State) (t : Strand) (va : Word) (n : Nat) (f : IncFmt) (v : Nat) : Res :=
  let core := slotCore s.here
  let a := va.toNat
  match addrKind va with
  | .tile _ _ => Res.prot Cause.notAccumulate va
  | .badForm => Res.prot Cause.addressForm va
  | .virtual =>
    match (s.core core).region a with
    | none => Res.prot Cause.notAccumulate va
    | some g =>
      if !rgnAcc g then Res.prot Cause.notAccumulate va
      else if rgnRo g then Res.prot Cause.readOnly va
      else if t.walking then .hold
      else
        let comp := rgnCmp g && f == .f32
        let comps := if comp then [(a + rgnCstr g, n)] else []
        let pages := pagesOf ((a, n) :: comps)
        if !s.compOk core comps then Res.prot Cause.notCompensated va
        else match s.resolve t core [] true pages with
        | .walk p => .walk (if p.toNat = a / 16384 * 16384 then va else p) true false
        | .noWrite p => .trap (.translation 2 true (if p.toNat = a / 16384 * 16384 then va else p)) va
        | .ok spots =>
          match spotOf spots a with
          | none => .hold
          | some p =>
            let cl := s.cluster (coreClus core)
            if cl.blocks t.ctx spots true ((a, n) :: comps) ||
                (!s.incDirect (s.whoAt s.here) p && s.wayBusy (coreClus core) (p.pa / 128)) then .hold
            else
              let w := s.whoAt s.here
              let s := if comp then
                (List.range (n / 4)).foldl (fun s i =>
                  match spotOf spots (a + 4 * i), spotOf spots (a + 4 * i + rgnCstr g) with
                  | some q, some c => s.increment w q (va + BitVec.ofNat 64 (4 * i)) .f32c (v / 2 ^ (32 * i) % 2 ^ 32) c.pa
                  | _, _ => s) s
              else
                let l := p.pa / 128
                let off := p.pa % 128
                if s.incDirect w p then
                  (if p.remote w.die then s else s.evictLine w l).postNew w va l
                    (.incr f (lineAt v off) (byteMask off n)) []
                else s.addLocal w p va l f (lineAt v off) (byteMask off n)
              .done (s.setMe (t.advance 4))

/-- FRED.ADD.f32 (R185). -/
def execFredAdd (a b : Src) (s : State) : Host.Outcome State Fault Refusal :=
  issue (.fredAdd a b) [a.x, b.x] (fun t =>
    let va := t.xr a.r
    if va.toNat % 4 ≠ 0 then .trap .alignment va
    else incrementAt s t va 4 .f32 ((t.xr b.r).toNat % 2 ^ 32)) s

/-- The format of VRED's increments (R185). -/
def vredFmt : NumTy → IncFmt
  | .f32 => .f32
  | .s64 => .s64
  | _ => .s32

/-- VRED (R185): all lanes of the vector are delivered. -/
def execVred (ty : NumTy) (a b : Src) (s : State) : Host.Outcome State Fault Refusal :=
  issue (.vred ty a b) [a.x, b.v] (fun t =>
    let va := t.xr a.r
    if va.toNat % 64 ≠ 0 then .trap .alignment va
    else incrementAt s t va 64 (vredFmt ty) (t.vr b.r).toNat) s

end Sys2Proof.Machine
end

