-- ==== Sys2Proof/Machine/LoadStore.lean ====
section
/-! DEFINITION. Loads, stores, line control, bank modes and fences (spec/08_isa_memory.md R176 to R180, R187). -/

namespace Sys2Proof.Machine

/-! Loads and stores (R176 to R178). -/

/-- An M-format load or line-control form: the address is xa + sext(off) x unit (R173). -/
def memLoad (i : Instr) (o : MemOp) (ops : List Opnd) (a : Src) (off : BitVec 12) (unit : Nat) (s : State) :
    Host.Outcome State Fault Refusal :=
  issue i (a.x :: ops) (fun t => issueMem s i o { addr := mAddr (t.xr a.r) off unit, opa := t.xr a.r } t) s

/-- An M-format store: the source is read at issue (R176). -/
def memStore (i : Instr) (o : MemOp) (z : Size) (src : RegNo) (a : Src) (off : BitVec 12) (s : State) :
    Host.Outcome State Fault Refusal :=
  issue i [a.x, .xs src false] (fun t =>
    issueMem s i o { addr := mAddr (t.xr a.r) off z.w.bytes, opa := t.xr a.r, opb := t.xr src } t) s

/-- LD (R176). -/
def execLd (z : Size) (d : RegNo) (a : Src) (off : BitVec 12) (s : State) : Host.Outcome State Fault Refusal :=
  memLoad (.ld z d a off) (.load z d false) [.xd d] a off z.w.bytes s
/-- ST (R176). -/
def execSt (z : Size) (src : RegNo) (a : Src) (off : BitVec 12) (s : State) : Host.Outcome State Fault Refusal :=
  memStore (.st z src a off) (.store z false) z src a off s
/-- LDG (R177). -/
def execLdg (z : Size) (d : RegNo) (a : Src) (off : BitVec 12) (s : State) : Host.Outcome State Fault Refusal :=
  memLoad (.ldg z d a off) (.load z d true) [.xd d] a off z.w.bytes s
/-- STS (R177). -/
def execSts (z : Size) (src : RegNo) (a : Src) (off : BitVec 12) (s : State) : Host.Outcome State Fault Refusal :=
  memStore (.sts z src a off) (.store z true) z src a off s

/-- LDP (R178): ADDR is the virtual address that the offset names in the window (R271). -/
def execLdp (z : Size) (d : RegNo) (k : BitVec 3) (a : Src) (off : BitVec 9) (s : State) :
    Host.Outcome State Fault Refusal :=
  issue (.ldp z d k a off) [a.x, .xd d] (fun t =>
    issueMem s (.ldp z d k a off) (.ldp z d k)
      { addr := BitVec.ofNat 64 (s.window t k).1 + (t.xr a.r + BitVec.ofNat 64 (off.toNat * z.w.bytes)), opa := t.xr a.r } t) s

/-- LDV (R176). -/
def execLdv (v : RegNo) (a : Src) (off : BitVec 12) (s : State) : Host.Outcome State Fault Refusal :=
  memLoad (.ldv v a off) (.loadV v) [.vd v] a off 64 s
/-- STV (R176). -/
def execStv (v : RegNo) (a : Src) (off : BitVec 12) (s : State) : Host.Outcome State Fault Refusal :=
  issue (.stv v a off) [a.x, .vs v false] (fun t =>
    issueMem s (.stv v a off) .storeV { addr := mAddr (t.xr a.r) off 64, opa := t.xr a.r, vop := t.vr v } t) s

/-! Line control (R179). -/

/-- PF (R179). -/
def execPf (a : Src) (off : BitVec 12) (s : State) : Host.Outcome State Fault Refusal :=
  memLoad (.pf a off) .prefetch [] a off 128 s
/-- FLUSH (R179). -/
def execFlush (a : Src) (off : BitVec 12) (s : State) : Host.Outcome State Fault Refusal :=
  memLoad (.flush a off) .flush [] a off 128 s
/-- INVL (R179). -/
def execInvl (a : Src) (off : BitVec 12) (s : State) : Host.Outcome State Fault Refusal :=
  memLoad (.invl a off) .invl [] a off 128 s

/-! Fences (R79, R187). -/

/-- The reach of a FENCE, by the domain of its address (R79). -/
inductive Reach where
  | at (d : Dom)
  | walk (va : Word)
  | bad
  deriving DecidableEq, Repr

def State.reachOf (s : State) (t : Strand) (va : Word) : Reach :=
  match addrKind va with
  | .tile _ _ => .at .cluster
  | .badForm => .bad
  | .virtual =>
    match s.lookup t (slotCore s.here) va.toNat with
    | some x => .at (s.placeBy (slotCore s.here) x va.toNat).dom
    | none => .walk va

/-- A FENCE: it does not issue until it is translated, and holds issue until it is complete (R175, R187). -/
def fence (i : Instr) (rel acq : Bool) (a : Src) (off : BitVec 12) (s : State) : Host.Outcome State Fault Refusal :=
  issue i [a.x] (fun t =>
    let va := mAddr (t.xr a.r) off 128
    match s.reachOf t va with
    | .bad => Res.prot Cause.addressForm va
    | .walk va => if t.walking then .hold else .walk va false false
    | .at d =>
      if t.walking || (rel && !s.edgeReady t) then .hold
      else if rel then .done (s.fenceThen s.here d (if acq then .thenAcquire d none else .advance))
      else .done (s.beginAcquire s.here d none)) s

/-- FENCE.acq (R79). -/
def execFenceAcq (a : Src) (off : BitVec 12) (s : State) : Host.Outcome State Fault Refusal :=
  fence (.fenceAcq a off) false true a off s
/-- FENCE.rel (R79). -/
def execFenceRel (a : Src) (off : BitVec 12) (s : State) : Host.Outcome State Fault Refusal :=
  fence (.fenceRel a off) true false a off s
/-- FENCE.full (R79). -/
def execFenceFull (a : Src) (off : BitVec 12) (s : State) : Host.Outcome State Fault Refusal :=
  fence (.fenceFull a off) true true a off s

/-! Bank modes (R35, R39, R40, R180). -/

/-- A FIFO that holds data, a half entry and a partly read scale entry included (R39). -/
def Fifo.busy (f : Fifo) : Bool := !f.entries.isEmpty || f.low.isSome || f.popHigh || f.readBytes != 0

/-- A bank takes a mode: SCRATCH bytes are zero, a FIFO is empty (R39). -/
def Cluster.enterMode (k : Cluster) (b : Nat) (m : BankMode) : Cluster :=
  { k with
    modes := k.modes.put b m
    sram := k.sram.filter fun e => e.1 / 128 != b
    badSram := k.badSram.filter fun e => e.1 / 128 != b
    fifos := k.fifos.del b
    changing := k.changing.filter fun c => c.bank != b }

/-- The lines of a way leave: D and A lines go home, S lines are dropped (R39). -/
def State.emptyWay (s : State) (w : Who) (b : Nat) : State × List Nat :=
  ((s.cluster w.clus).lines.filter fun c => c.bank == b).foldl (fun (a : State × List Nat) c =>
    let n := a.1.serial
    let s := a.1.evictLine w c.line
    (s, if c.st = LState.s then a.2 else a.2 ++ [n])) (s, [])

/-- The issue of a MODE (R39, R40): the way leaves allocation, and the change completes once what it sent home
has been accepted. -/
def State.changeMode (s : State) (w : Who) (b : Nat) (m : BankMode) : State :=
  let k := s.cluster w.clus
  if k.mode b = m then s
  else if k.mode b = .cache then
    let r := ((s.setCluster w.clus { k with changing := k.changing ++ [⟨b, m, []⟩] }).emptyWay w b)
    let k := r.1.cluster w.clus
    if r.2.isEmpty then r.1.setCluster w.clus (k.enterMode b m)
    else r.1.setCluster w.clus { k with changing := k.changing.map fun c => if c.bank = b then { c with waits := r.2 } else c }
  else s.setCluster w.clus (k.enterMode b m)

/-- A queued matrix request names a bank (R251). -/
def Cluster.matNames (k : Cluster) (b : Nat) : Bool :=
  k.mats.any fun e => e.2.reqs.any fun r =>
    let d := e.2.descA.toNat
    r.fa == b || r.fb == b || (bits d 10 2 != 0 && bits d 16 5 == b) || (!r.mmat && bits d 12 2 != 0 && bits d 21 5 == b)

/-- MODE (R39, R40, R180, R195, R251): the strand's ACCCVT into the bank stands before it (R37). -/
def execMode (bank : BitVec 5) (m : BankMode) (s : State) : Host.Outcome State Fault Refusal :=
  issue (.mode bank m) [] (fun t =>
    let w := s.whoAt s.here
    let k := s.cluster w.clus
    let b := bank.toNat
    if 128 * b ≥ s.fareaLo t.launch then Res.prot Cause.frameArea 0
    else if k.busyBank b || k.matNames b || k.boardScratch (16384 * b) 16384 true || k.cvtOn t.ctx (16384 * b) 16384 then .hold
    else if k.mode b = .fifo ∧ m ≠ .fifo ∧ (k.fifos.get b .reset).busy then Res.prot Cause.fifoNotEmpty 0
    else .done ((s.changeMode w b m).setMe (t.advance 4))) s

/-- MODE_COMPLETE (R40). -/
def execModeComplete (clus bank : Nat) (s : State) : Host.Outcome State Fault Refusal :=
  let k := s.cluster clus
  event s (match k.changing.find? fun c => c.bank == bank with
    | some c => if s.allDone false c.waits then some (s.setCluster clus (k.enterMode bank c.mode)) else none
    | none => none)

end Sys2Proof.Machine
end

