-- ==== Sys2Proof/Machine/Remote.lean ====
section
/-! DEFINITION. Remote operations and delegation (spec/08_isa_memory.md R188 to R193). -/

namespace Sys2Proof.Machine

/-! Remote operations (R188, R189). -/

/-- GET (R188). -/
def execGet (z : Size) (d : RegNo) (a : Src) (s : State) : Host.Outcome State Fault Refusal :=
  issue (.get z d a) [a.x, .xd d] (fun t => issueMem s (.get z d a) (.get z d) { addr := t.xr a.r, opa := t.xr a.r } t) s

/-- A PUT of xb to [xa] (R188). -/
def putTo (i : Instr) (z : Size) (ordered : Bool) (a b : Src) (s : State) : Host.Outcome State Fault Refusal :=
  issue i [a.x, b.x] (fun t =>
    issueMem s i (.put z ordered) { addr := t.xr a.r, opa := t.xr a.r, opb := t.xr b.r } t) s

/-- PUT (R188). -/
def execPut (z : Size) (a b : Src) (s : State) : Host.Outcome State Fault Refusal := putTo (.put z a b) z false a b s
/-- PUTF (R189). -/
def execPutf (z : Size) (a b : Src) (s : State) : Host.Outcome State Fault Refusal := putTo (.putf z a b) z true a b s

/-! Core names (R190). -/

/-- A core name's core. -/
def nameCore (v : Word) : Nat := bits v.toNat 0 16

/-- Reserved bits are 0 and the core lies in the caller's launch (R190). -/
def State.coreOk (s : State) (t : Strand) (v : Word) : Bool := v.toNat < 2 ^ 16 && s.inLaunch t (coreClus (nameCore v))

/-! Delegation (R191, R192). -/

/-- The registers that a request carries (R191). -/
def requestRegs : List RegNo := [1, 2, 3, 4, 5, 6]

/-- DLG and DLGN: the request is sent after a release by distance (R77, R191). -/
def delegate (i : Instr) (d : Option RegNo) (a b : Src) (s : State) : Host.Outcome State Fault Refusal :=
  issue i (a.x :: b.x :: (requestRegs.map fun r => .xs r false) ++ (match d with
      | some d => [.xd d]
      | none => [])) (fun t =>
    let v := t.xr a.r
    let core := slotCore s.here
    let target := nameCore v
    if !s.coreOk t v then Res.prot Cause.badTarget 0
    else if d.isSome && slotIdx s.here = 4 && target = core then Res.prot Cause.selfDelegate 0
    else if !s.edgeReady t || !s.pathRoom t.launch target then .hold
    else
      let m : Activation :=
        { type := 4, sender := core, target := target, wid := t.wid, words := requestRegs.map fun r => t.xr r, payload := 0,
          hdr := t.xr b.r, prio := 0, launch := t.launch, frame := none, saved := none,
          reply := d.map fun d => (t.ctx, d, core), origin := t.ctx, order := 0 }
      let s := match d with
        | some d => s.setMe (t.pendDestX d)
        | none => s
      .done (s.releaseThen s.here (distance (coreClus core) (coreClus target)) (.send m (wordOf i) v (t.xr b.r)))) s

/-- DLG (R191). -/
def execDlg (d : RegNo) (a b : Src) (s : State) : Host.Outcome State Fault Refusal := delegate (.dlg d a b) (some d) a b s
/-- DLGN (R191). -/
def execDlgn (a b : Src) (s : State) : Host.Outcome State Fault Refusal := delegate (.dlgn a b) none a b s

/-- A delegation that RTE re-injects issues again (R82, R273): the release, and then the request is sent. None while it must
wait. -/
def State.redelegate (s : State) (k : Nat) (e : Entry) (d : RegNo) : Option State :=
  let t := s.strand k
  let core := slotCore k
  let target := nameCore e.opa
  if !s.coreOk t e.opa then some (s.setStrand k (t.setPhase e.serial (.faulted (.protection Cause.badTarget))))
  else if !s.matIdle core || !s.emitFree core || !s.pathRoom t.launch target then none
  else
    let r := (s.emit (s.whoAt k)).release (s.whoAt k) (distance (coreClus core) (coreClus target))
    let s := r.1
    if !s.allDone false (r.2.filter fun n => n != e.serial) then some s
    else
      let m : Activation :=
        { type := 4, sender := core, target := target, wid := t.wid, words := e.sent, payload := 0, hdr := e.opb, prio := 0,
          launch := t.launch, frame := none, saved := none, reply := some (t.ctx, d, core), origin := t.ctx, order := e.serial }
      let s := s.setStrand k ((s.strand k).setPhase e.serial .flight)
      match m.path.find? fun l => (s.link l).state == .down with
      | some l => some (s.loseMsg m l)
      | none => some { s with transit := s.transit ++ [m] }

/-- DRET (R192, R193): a release by distance to the caller, and then the value is sent. -/
def execDret (b : Src) (s : State) : Host.Outcome State Fault Refusal :=
  issue (.dret b) [b.x] (fun t =>
    if slotIdx s.here ≠ 4 then Res.prot Cause.notServer 0
    else if !t.filled || !s.edgeReady t then .hold
    else
      match t.caller with
      | some (_, _, core) =>
        .done (s.releaseThen s.here (distance (coreClus (slotCore s.here)) (coreClus core)) (.dret (t.xr b.r)))
      | none => .done ((s.emit (s.whoAt s.here)).beginEdge s.here [] false (.dret (t.xr b.r)))) s

/-- DLG_REPLY (R192): the value fills the caller's register where its context is kept, and the caller acquires by
distance once its earlier loads are performed (R76, R77). After a reply that a lost link stops, no producer of the register is
left (R131, R387; log 32). -/
def execDlgReply (i : Nat) (s : State) : Host.Outcome State Fault Refusal :=
  event s (match s.replies[i]? with
    | none => none
    | some r =>
      let core := match s.findCtx r.ctx with
        | .slot k => slotCore k
        | .shadow c => c
        | _ => r.core
      let reach := distance (coreClus core) (coreClus r.server)
      if reach ≠ .cluster && !s.allDone false (s.loadsOf r.ctx) then none
      else
        let func := ((s.ctxStrand r.ctx).map fun t => t.func).getD 0
        let launch := (s.ctxStrand r.ctx).bind fun t => t.launch
        let s' := { s with replies := s.replies.eraseIdx i }
        s.across (coreDie r.server) (coreDie core) launch
          (fun _ => some ((s'.onCtx r.ctx fun t => t.setX r.d r.value).invalidate ⟨core, r.ctx, func, 5⟩ reach))
          fun _ => some (s'.onCtx r.ctx fun t => t.unpendX r.d))

end Sys2Proof.Machine
end

