-- ==== Sys2Proof/Machine/Scalar.lean ====
section
/-! DEFINITION. Integer instructions, immediates, literals and state registers (spec/07_isa_scalar.md R151 to
R161). -/

namespace Sys2Proof.Machine

/-! Major 0x01 (R151). -/

/-- R151 for an operation of two sources: operands read by the size code, the exact result taken mod 2^w and
extended. -/
def alu2 (i : Instr) (z : Size) (d : RegNo) (a b : Src) (f : Int → Int → Int) (s : State) :
    Host.Outcome State Fault Refusal :=
  issueReg i [a.x, b.x, .xd d] (fun t =>
    t.setX d (extendTo z.signed z.w.bits
      (f (readAs z.signed z.w.bits (t.xr a.r).toNat) (readAs z.signed z.w.bits (t.xr b.r).toNat)))) s

/-- R151 for an operation of one source. -/
def alu1 (i : Instr) (z : Size) (d : RegNo) (a : Src) (f : Int → Int) (s : State) : Host.Outcome State Fault Refusal :=
  issueReg i [a.x, .xd d] (fun t =>
    t.setX d (extendTo z.signed z.w.bits (f (readAs z.signed z.w.bits (t.xr a.r).toNat)))) s

/-- R151 for an operation on the bits of one source: a result at width w, extended. -/
def aluBits (i : Instr) (z : Size) (d : RegNo) (a : Src) (f : Nat → Nat → Nat) (s : State) :
    Host.Outcome State Fault Refusal :=
  issueReg i [a.x, .xd d] (fun t =>
    t.setX d (extendTo z.signed z.w.bits (f z.w.bits ((t.xr a.r).toNat % 2 ^ z.w.bits) : Nat))) s

/-- R151 for a count: it is written as it is. -/
def aluCount (i : Instr) (z : Size) (d : RegNo) (a : Src) (f : Nat → Nat → Nat) (s : State) :
    Host.Outcome State Fault Refusal :=
  issueReg i [a.x, .xd d] (fun t =>
    t.setX d (BitVec.ofNat 64 (f z.w.bits ((t.xr a.r).toNat % 2 ^ z.w.bits)))) s

/-- R154: a shift or rotate; the count is the whole of xb. -/
def aluShift (i : Instr) (z : Size) (d : RegNo) (a b : Src) (f : Nat → Int → Nat → Int) (s : State) :
    Host.Outcome State Fault Refusal :=
  issueReg i [a.x, b.x, .xd d] (fun t =>
    t.setX d (extendTo z.signed z.w.bits
      (f z.w.bits (readAs z.signed z.w.bits (t.xr a.r).toNat) (t.xr b.r).toNat))) s

/-- R152 CMP: 1 or 0. -/
def aluCmp (i : Instr) (z : Size) (d : RegNo) (a b : Src) (f : Int → Int → Bool) (s : State) :
    Host.Outcome State Fault Refusal :=
  issueReg i [a.x, b.x, .xd d] (fun t =>
    t.setX d (if f (readAs z.signed z.w.bits (t.xr a.r).toNat) (readAs z.signed z.w.bits (t.xr b.r).toNat)
      then 1 else 0)) s

/-- The ends of a size code's range (R152). -/
def Size.lo (z : Size) : Int := if z.signed then -(2 ^ (z.w.bits - 1) : Nat) else 0
def Size.hi (z : Size) : Int := if z.signed then (2 ^ (z.w.bits - 1) : Nat) - 1 else (2 ^ z.w.bits : Nat) - 1

/-- A bit operation on two operands of width w. -/
def bitOp (z : Size) (f : Nat → Nat → Nat) (a b : Int) : Int :=
  (f (a % (2 ^ z.w.bits : Nat)).toNat (b % (2 ^ z.w.bits : Nat)).toNat : Nat)

/-- R153: the quotient toward zero; all ones for b = 0. -/
def divide (a b : Int) : Int := if b = 0 then -1 else a.tdiv b
/-- R153: a - b x DIV(a, b); a for b = 0. -/
def remainder (a b : Int) : Int := if b = 0 then a else a.tmod b

def countOnes : Nat → Nat → Nat
  | 0, _ => 0
  | n + 1, v => v % 2 + countOnes n (v / 2)

def trailingZeros : Nat → Nat → Nat
  | 0, _ => 0
  | n + 1, v => if v % 2 = 1 then 0 else 1 + trailingZeros n (v / 2)

/-- The bits w-1 to 0 of a value in reverse (R155). -/
def reverseBits : Nat → Nat → Nat
  | 0, _ => 0
  | n + 1, v => v % 2 * 2 ^ n + reverseBits n (v / 2)

def leadingZeros (w v : Nat) : Nat := w - countOnesTop w v
where
  /-- The number of bits from the highest one bit down. -/
  countOnesTop : Nat → Nat → Nat
    | 0, _ => 0
    | n + 1, v => if v = 0 then 0 else 1 + countOnesTop n (v / 2)

def shiftLeft (w : Nat) (a : Int) (c : Nat) : Int := if w ≤ c then 0 else a * (2 ^ c : Nat)
/-- Zeros or copies of the sign come in, as the operand was read (R154). -/
def shiftRight (w : Nat) (a : Int) (c : Nat) : Int := if w ≤ c then (if a < 0 then -1 else 0) else a / (2 ^ c : Nat)
def rotate (w : Nat) (a : Int) (c : Nat) : Int :=
  let v := (a % (2 ^ w : Nat)).toNat
  let k := c % w
  (v * 2 ^ k % 2 ^ w + v / 2 ^ (w - k) : Nat)

/-- ADD (R152). -/
def execAdd (z : Size) (d : RegNo) (a b : Src) (s : State) := alu2 (.add z d a b) z d a b (fun x y => x + y) s
/-- ADDS (R152): clamped to the code's range. -/
def execAdds (z : Size) (d : RegNo) (a b : Src) (s : State) :=
  alu2 (.adds z d a b) z d a b (fun x y => max (Size.lo z) (min (Size.hi z) (x + y))) s
/-- SUB (R152). -/
def execSub (z : Size) (d : RegNo) (a b : Src) (s : State) := alu2 (.sub z d a b) z d a b (fun x y => x - y) s
/-- MUL (R152). -/
def execMul (z : Size) (d : RegNo) (a b : Src) (s : State) := alu2 (.mul z d a b) z d a b (fun x y => x * y) s
/-- MULH (R152): floor(a x b / 2^w). -/
def execMulh (z : Size) (d : RegNo) (a b : Src) (s : State) :=
  alu2 (.mulh z d a b) z d a b (fun x y => x * y / (2 ^ z.w.bits : Nat)) s
/-- DIV (R153). -/
def execDiv (z : Size) (d : RegNo) (a b : Src) (s : State) := alu2 (.div z d a b) z d a b divide s
/-- REM (R153). -/
def execRem (z : Size) (d : RegNo) (a b : Src) (s : State) := alu2 (.rem z d a b) z d a b remainder s
/-- NEG (R152). -/
def execNeg (z : Size) (d : RegNo) (a : Src) (s : State) := alu1 (.neg z d a) z d a (fun x => -x) s
/-- AND (R152). -/
def execAnd (z : Size) (d : RegNo) (a b : Src) (s : State) :=
  alu2 (.and z d a b) z d a b (bitOp z fun x y => x &&& y) s
/-- ANDN (R152): a and not b. -/
def execAndn (z : Size) (d : RegNo) (a b : Src) (s : State) :=
  alu2 (.andn z d a b) z d a b (bitOp z fun x y => x &&& (2 ^ z.w.bits - 1 - y)) s
/-- OR (R152). -/
def execOr (z : Size) (d : RegNo) (a b : Src) (s : State) :=
  alu2 (.or z d a b) z d a b (bitOp z fun x y => x ||| y) s
/-- XOR (R152). -/
def execXor (z : Size) (d : RegNo) (a b : Src) (s : State) :=
  alu2 (.xor z d a b) z d a b (bitOp z fun x y => x ^^^ y) s
/-- SHL (R154). -/
def execShl (z : Size) (d : RegNo) (a b : Src) (s : State) := aluShift (.shl z d a b) z d a b shiftLeft s
/-- SHR (R154). -/
def execShr (z : Size) (d : RegNo) (a b : Src) (s : State) := aluShift (.shr z d a b) z d a b shiftRight s
/-- ROT (R154). -/
def execRot (z : Size) (d : RegNo) (a b : Src) (s : State) := aluShift (.rot z d a b) z d a b rotate s
/-- CLZ (R155). -/
def execClz (z : Size) (d : RegNo) (a : Src) (s : State) := aluCount (.clz z d a) z d a leadingZeros s
/-- CTZ (R155). -/
def execCtz (z : Size) (d : RegNo) (a : Src) (s : State) := aluCount (.ctz z d a) z d a trailingZeros s
/-- POPC (R155). -/
def execPopc (z : Size) (d : RegNo) (a : Src) (s : State) := aluCount (.popc z d a) z d a countOnes s
/-- BREV (R155). -/
def execBrev (z : Size) (d : RegNo) (a : Src) (s : State) := aluBits (.brev z d a) z d a reverseBits s
/-- MIN (R152). -/
def execMin (z : Size) (d : RegNo) (a b : Src) (s : State) := alu2 (.min z d a b) z d a b (fun x y => min x y) s
/-- MAX (R152). -/
def execMax (z : Size) (d : RegNo) (a b : Src) (s : State) := alu2 (.max z d a b) z d a b (fun x y => max x y) s
/-- SEL (R152): xd is read whole, without a t bit (R131). -/
def execSel (z : Size) (d : RegNo) (a b : Src) (s : State) :=
  issueReg (.sel z d a b) [a.x, b.x, .xs d false, .xd d] (fun t =>
    t.setX d (extendTo z.signed z.w.bits
      (readAs z.signed z.w.bits (if t.xr d ≠ 0 then t.xr a.r else t.xr b.r).toNat))) s
/-- MOV (R152). -/
def execMov (z : Size) (d : RegNo) (a : Src) (s : State) := alu1 (.mov z d a) z d a (fun x => x) s
/-- CMP.eq (R152). -/
def execCmpEq (z : Size) (d : RegNo) (a b : Src) (s : State) :=
  aluCmp (.cmpEq z d a b) z d a b (fun x y => x == y) s
/-- CMP.ne (R152). -/
def execCmpNe (z : Size) (d : RegNo) (a b : Src) (s : State) :=
  aluCmp (.cmpNe z d a b) z d a b (fun x y => x != y) s
/-- CMP.lt (R152). -/
def execCmpLt (z : Size) (d : RegNo) (a b : Src) (s : State) :=
  aluCmp (.cmpLt z d a b) z d a b (fun x y => decide (x < y)) s
/-- CMP.le (R152). -/
def execCmpLe (z : Size) (d : RegNo) (a b : Src) (s : State) :=
  aluCmp (.cmpLe z d a b) z d a b (fun x y => decide (x ≤ y)) s
/-- CMP.gt (R152). -/
def execCmpGt (z : Size) (d : RegNo) (a b : Src) (s : State) :=
  aluCmp (.cmpGt z d a b) z d a b (fun x y => decide (y < x)) s
/-- CMP.ge (R152). -/
def execCmpGe (z : Size) (d : RegNo) (a b : Src) (s : State) :=
  aluCmp (.cmpGe z d a b) z d a b (fun x y => decide (y ≤ x)) s

/-! Immediate forms (R156). -/

/-- One source and an immediate, on the full 64 bits. -/
def aluImm (i : Instr) (d : RegNo) (a : Src) (f : Word → Word) (s : State) : Host.Outcome State Fault Refusal :=
  issueReg i [a.x, .xd d] (fun t => t.setX d (f (t.xr a.r))) s

/-- ADDI (R156). -/
def execAddi (d : RegNo) (a : Src) (e : BitVec 15) (s : State) :=
  aluImm (.addi d a e) d a (fun x => x + e.signExtend 64) s
/-- ANDI (R156). -/
def execAndi (d : RegNo) (a : Src) (e : BitVec 15) (s : State) :=
  aluImm (.andi d a e) d a (fun x => x &&& e.signExtend 64) s
/-- ORI (R156). -/
def execOri (d : RegNo) (a : Src) (e : BitVec 15) (s : State) :=
  aluImm (.ori d a e) d a (fun x => x ||| e.signExtend 64) s
/-- XORI (R156). -/
def execXori (d : RegNo) (a : Src) (e : BitVec 15) (s : State) :=
  aluImm (.xori d a e) d a (fun x => x ^^^ e.signExtend 64) s
/-- SHLI (R156). -/
def execShli (d : RegNo) (a : Src) (n : BitVec 6) (s : State) := aluImm (.shli d a n) d a (fun x => x <<< n.toNat) s
/-- SHRI.n64 (R156). -/
def execShriN64 (d : RegNo) (a : Src) (n : BitVec 6) (s : State) :=
  aluImm (.shriN64 d a n) d a (fun x => x >>> n.toNat) s
/-- SHRI.s64 (R156). -/
def execShriS64 (d : RegNo) (a : Src) (n : BitVec 6) (s : State) :=
  aluImm (.shriS64 d a n) d a (fun x => x.sshiftRight n.toNat) s

/-- A condition of CMPI on two words, signed or unsigned (R156). -/
def condHolds (c : Cond) (unsigned : Bool) (x y : Word) : Bool :=
  let lt := fun a b : Word => if unsigned then a.ult b else a.slt b
  match c with
  | .eq => x == y
  | .ne => x != y
  | .lt => lt x y
  | .le => !lt y x
  | .gt => lt y x
  | .ge => !lt x y

/-- CMPI (R156). -/
def execCmpi (c : Cond) (unsigned : Bool) (d : RegNo) (a : Src) (e : BitVec 11) (s : State) :=
  aluImm (.cmpi c unsigned d a e) d a (fun x => if condHolds c unsigned x (e.signExtend 64) then 1 else 0) s
/-- EXTR (R156). -/
def execExtr (signed : Bool) (d : RegNo) (a : Src) (lsb wm1 : BitVec 6) (s : State) :=
  aluImm (.extr signed d a lsb wm1) d a
    (fun x => extendTo signed (wm1.toNat + 1) (x >>> lsb.toNat).toNat) s
/-- INSR (R156): reads xd without a t bit (R131). -/
def execInsr (d : RegNo) (a : Src) (lsb wm1 : BitVec 6) (s : State) :=
  issueReg (.insr d a lsb wm1) [a.x, .xs d false, .xd d] (fun t =>
    let m : Word := BitVec.ofNat 64 ((2 ^ (wm1.toNat + 1) - 1) * 2 ^ lsb.toNat)
    t.setX d ((t.xr d &&& ~~~m) ||| ((t.xr a.r <<< lsb.toNat) &&& m))) s

/-! Literals (R157). -/

/-- An instruction of two words that writes xd. -/
def issueLit (i : Instr) (ops : List Opnd) (d : RegNo) (f : Strand → Word) (s : State) :
    Host.Outcome State Fault Refusal :=
  issue i (ops ++ [.xd d]) (fun t => .done (s.setMe ((t.setX d (f t)).advance 8))) s

/-- LI (R157). -/
def execLi (d : RegNo) (lit : BitVec 32) (s : State) := issueLit (.li d lit) [] d (fun _ => lit.signExtend 64) s
/-- LIH (R157): reads xd without a t bit. -/
def execLih (d : RegNo) (lit : BitVec 32) (s : State) :=
  issueLit (.lih d lit) [.xs d false] d (fun t => lit ++ (t.xr d).extractLsb' 0 32) s
/-- LEA (R157): relative to its own first word. -/
def execLea (d : RegNo) (lit : BitVec 32) (s : State) :=
  issueLit (.lea d lit) [] d (fun t => t.pc + lit.signExtend 64) s

/-! State registers (R158 to R161). -/

/-- The width of field k in a launch, 0 where it defines none (R31, R158). -/
def Launch.width (l : Launch) (k : Nat) : Nat := if k < l.nfield then l.fieldWidth k else 0

/-- R158: field k of a work identifier under a launch. -/
def widField (l : Option Launch) (wid : Word) (k : Nat) : Word :=
  match l with
  | none => 0
  | some l =>
    let at' := (List.range k).foldl (fun n i => n + l.width i) 0
    BitVec.ofNat 64 (bits wid.toNat at' (l.width k))

/-- WIDF (R158). -/
def execWidf (d : RegNo) (k : BitVec 3) (s : State) :=
  issueReg (.widf d k) [.xd d] (fun t => t.setX d (widField (s.launchOf t) t.wid k.toNat)) s

/-- An older instruction that can set a flag has not committed: a FAMO or an LDP in flight (R44, R109, R184). -/
def Strand.flagsPending (t : Strand) : Bool :=
  t.queue.any fun e => match e.memOp with
    | some (.famo _ _ (some _)) | some (.ldp _ _ _) => true
    | _ => false

/-- The value of a state register where a strand runs (R160, R95, R108, R14). -/
def State.readState (s : State) (k : Nat) (r : StateReg) : Word :=
  let t := s.strand k
  let c := slotCore k
  let die := s.die (coreDie c)
  match r with
  | .wid => t.wid
  | .core => BitVec.ofNat 64 (c % 32)
  | .clus => BitVec.ofNat 64 (coreClus c % 256)
  | .die => BitVec.ofNat 64 (coreDie c + 8 * s.pkg.toNat)
  | .slot => BitVec.ofNat 64 (slotIdx k)
  | .ptc => die.ptc
  | .ptcskew => BitVec.ofNat 64 (die.pkgSkew.toNat + 2 ^ 16 * die.grpSkew.toNat)
  | .fflags => t.fflags
  | .frm => t.frm
  | .age => (s.core c).age.zeroExtend 64

/-- RDS (R159). -/
def execRds (d : RegNo) (r : StateReg) (s : State) : Host.Outcome State Fault Refusal :=
  issue (.rds d r) [.xd d] (fun t =>
    if r == .fflags && t.flagsPending then .hold
    else .done (s.setMe ((t.setX d (s.readState s.here r)).advance 4))) s

/-- A write of AGE: a counter above it comes down to it (R14). -/
def Core.setAge (c : Core) (v : Word) : Core :=
  let a := ageStored v
  { c with age := a, pass := c.pass.map fun e => (e.1, min e.2 a.toNat) }

/-- WRS (R159): writes to read-only registers are ignored. -/
def execWrs (r : StateReg) (a : Src) (s : State) : Host.Outcome State Fault Refusal :=
  issue (.wrs r a) [a.x] (fun t =>
    let v := t.xr a.r
    if r == .fflags && t.flagsPending then .hold
    else
      let u := t.advance 4
      match r with
      | .fflags => .done (s.setMe { u with fflags := fflagsStored v })
      | .frm => .done (s.setMe { u with frm := frmStored v })
      | .age => .done ((s.setMe u).setCore (slotCore s.here) ((s.core (slotCore s.here)).setAge v))
      | _ => .done (s.setMe u)) s

end Sys2Proof.Machine
end

