-- ==== Sys2Proof/Machine/ScalarFloat.lean ====
section
/-! DEFINITION. Scalar floating point on x registers (spec/07_isa_scalar.md R162 to R166). -/

namespace Sys2Proof.Machine

/-- The operand of a float type in a register: the low bits (R162). -/
def fbits (p : FTy) (v : Word) : Nat := v.toNat % 2 ^ p.fmt.width

/-- A result that rounds: it is written with its upper bits cleared, its flags join %fflags and the LFSR is kept
(R95, R109, R162). -/
def Strand.putFloat (t : Strand) (d : RegNo) (r : FRes) : Strand :=
  (t.setX d (BitVec.ofNat 64 r.code)).commit r.flags r.lfsr

/-- A result that does not round. -/
def Strand.putFlags (t : Strand) (d : RegNo) (v : Nat) (fl : Flags) : Strand :=
  (t.setX d (BitVec.ofNat 64 v)).orFlags fl

def float2 (i : Instr) (p : FTy) (rnd : Round) (d : RegNo) (a b : Src) (f : Fmt → REnv → FVal → FVal → FRes)
    (s : State) : Host.Outcome State Fault Refusal :=
  issueReg i [a.x, b.x, .xd d] (fun t =>
    t.putFloat d (f p.fmt (t.env rnd) (unpack p.fmt (fbits p (t.xr a.r))) (unpack p.fmt (fbits p (t.xr b.r))))) s

/-- An operation on two operands that does not round (R164). -/
def floatPlain (i : Instr) (p : FTy) (d : RegNo) (a b : Src) (f : Fmt → Nat → Nat → Nat × Flags) (s : State) :
    Host.Outcome State Fault Refusal :=
  issueReg i [a.x, b.x, .xd d] (fun t =>
    let r := f p.fmt (fbits p (t.xr a.r)) (fbits p (t.xr b.r))
    t.putFlags d r.1 r.2) s

/-- R164 FCMP.eq. -/
def cmpEqual (f : Fmt) (x y : Nat) : Nat × Flags :=
  let a := unpack f x
  let b := unpack f y
  (if a.isNan || b.isNan then 0 else if fpEq a b then 1 else 0, sigFlags a b)

/-- R164 FCMP.lt and FCMP.le: any NaN gives 0 and NV. -/
def cmpOrder (le : Bool) (f : Fmt) (x y : Nat) : Nat × Flags :=
  let a := unpack f x
  let b := unpack f y
  if a.isNan || b.isNan then (0, flagNV) else (if fpLt a b || (le && fpEq a b) then 1 else 0, 0)

/-- R164 FCMP.un. -/
def cmpUnordered (f : Fmt) (x y : Nat) : Nat × Flags :=
  let a := unpack f x
  let b := unpack f y
  (if a.isNan || b.isNan then 1 else 0, sigFlags a b)

/-- FADD (R163). -/
def execFadd (p : FTy) (rnd : Round) (d : RegNo) (a b : Src) (s : State) :=
  float2 (.fadd p rnd d a b) p rnd d a b fpAdd s
/-- FSUB (R163). -/
def execFsub (p : FTy) (rnd : Round) (d : RegNo) (a b : Src) (s : State) :=
  float2 (.fsub p rnd d a b) p rnd d a b fpSub s
/-- FMUL (R163). -/
def execFmul (p : FTy) (rnd : Round) (d : RegNo) (a b : Src) (s : State) :=
  float2 (.fmul p rnd d a b) p rnd d a b fpMul s
/-- FDIV (R163). -/
def execFdiv (p : FTy) (rnd : Round) (d : RegNo) (a b : Src) (s : State) :=
  float2 (.fdiv p rnd d a b) p rnd d a b fpDiv s
/-- FSQRT (R163). -/
def execFsqrt (p : FTy) (rnd : Round) (d : RegNo) (a : Src) (s : State) : Host.Outcome State Fault Refusal :=
  issueReg (.fsqrt p rnd d a) [a.x, .xd d] (fun t =>
    t.putFloat d (fpSqrt p.fmt (t.env rnd) (unpack p.fmt (fbits p (t.xr a.r))))) s
/-- FFMA (R163): reads xd as the addend, without a t bit (R131). -/
def execFfma (p : FTy) (rnd : Round) (d : RegNo) (a b : Src) (s : State) : Host.Outcome State Fault Refusal :=
  issueReg (.ffma p rnd d a b) [a.x, b.x, .xs d false, .xd d] (fun t =>
    t.putFloat d (fpFma p.fmt (t.env rnd) (unpack p.fmt (fbits p (t.xr a.r))) (unpack p.fmt (fbits p (t.xr b.r)))
      (unpack p.fmt (fbits p (t.xr d))))) s
/-- FMIN (R164). -/
def execFmin (p : FTy) (d : RegNo) (a b : Src) (s : State) :=
  floatPlain (.fmin p d a b) p d a b (fun f => fpMinMax f false) s
/-- FMAX (R164). -/
def execFmax (p : FTy) (d : RegNo) (a b : Src) (s : State) :=
  floatPlain (.fmax p d a b) p d a b (fun f => fpMinMax f true) s
/-- FCMP.eq (R164). -/
def execFcmpEq (p : FTy) (d : RegNo) (a b : Src) (s : State) := floatPlain (.fcmpEq p d a b) p d a b cmpEqual s
/-- FCMP.lt (R164). -/
def execFcmpLt (p : FTy) (d : RegNo) (a b : Src) (s : State) :=
  floatPlain (.fcmpLt p d a b) p d a b (cmpOrder false) s
/-- FCMP.le (R164). -/
def execFcmpLe (p : FTy) (d : RegNo) (a b : Src) (s : State) :=
  floatPlain (.fcmpLe p d a b) p d a b (cmpOrder true) s
/-- FCMP.un (R164). -/
def execFcmpUn (p : FTy) (d : RegNo) (a b : Src) (s : State) :=
  floatPlain (.fcmpUn p d a b) p d a b cmpUnordered s
/-- FCLASS (R165). -/
def execFclass (p : FTy) (d : RegNo) (a : Src) (s : State) : Host.Outcome State Fault Refusal :=
  issueReg (.fclass p d a) [a.x, .xd d] (fun t =>
    t.setX d (BitVec.ofNat 64 (fpClass p.fmt (fbits p (t.xr a.r))))) s

/-- R166: converts between the types of R139. -/
def convertNum (src dst : NumTy) (env : REnv) (sat : Bool) (v : Word) : Word × Flags × BitVec 32 :=
  let x := v.toNat % 2 ^ src.bits
  if src.isFloat then
    if dst.isFloat then
      let r := fpConvert (NumTy.fmt src) (NumTy.fmt dst) env sat x
      (BitVec.ofNat 64 r.code, r.flags, r.lfsr)
    else
      let g := intRange dst.signed dst.bits
      let r := fpToInt (NumTy.fmt src) env g.1 g.2 x
      (extendTo dst.signed dst.bits r.1, r.2.1, r.2.2)
  else
    let r := fpFromInt (NumTy.fmt dst) env sat (readAs src.signed src.bits x)
    (BitVec.ofNat 64 r.code, r.flags, r.lfsr)

/-- FCVT (R166). -/
def execFcvt (src dst : NumTy) (rnd : Round) (sat : Bool) (d : RegNo) (a : Src) (s : State) :
    Host.Outcome State Fault Refusal :=
  issueReg (.fcvt src dst rnd sat d a) [a.x, .xd d] (fun t =>
    let r := convertNum src dst (t.env rnd) sat (t.xr a.r)
    (t.setX d r.1).commit r.2.1 r.2.2) s

end Sys2Proof.Machine
end

