-- ==== Sys2Proof/Machine/Approx.lean ====
section
/-! DEFINITION. VRCP, VRSQ, VEXP2 and VLOG2 on one element (spec/10_isa_vector.md R222): the exact result, the
set of results that the rule allows, and the member that the device produces (log 12). -/

namespace Sys2Proof.Machine

/-- A result y that is positive or negative: (-1)^neg x m x 2^e, exactly, or a value that lies in the same gaps
between numbers as y does, which no format represents. -/
structure Exact where
  neg : Bool
  m : Nat
  e : Int
  deriving DecidableEq, Repr

/-- The greatest code of a magnitude at most |y|, and whether it is y. -/
def lowerCode (f : Fmt) (y : Exact) : Nat × Bool :=
  let r := roundTo f .rtz 0 false false y.m y.e
  (r.code, r.flags == 0)

/-- The finite value of a code that may lie below zero: the value of code -k is that of k, negated. -/
def codeVal (f : Fmt) (c : Int) : FVal :=
  match unpack f c.natAbs with
  | .fin _ m e => .fin (decide (c < 0)) m e
  | v => v

/-- |a - b| ≤ 2 x (p - q) for finite values. -/
def withinTwo (a b p q : FVal) : Bool :=
  match a, b, p, q with
  | .fin n1 m1 e1, .fin n2 m2 e2, .fin _ m3 e3, .fin _ m4 e4 =>
    let d := addFin n1 m1 e1 (!n2) m2 e2
    let g := addFin false m3 e3 true m4 e4
    let b := min d.2.2 g.2.2
    decide (d.2.1 * 2 ^ (d.2.2 - b).toNat ≤ 2 * g.2.1 * 2 ^ (g.2.2 - b).toNat)
  | _, _, _, _ => false

/-- The codes of a type for an integer that numbers its values in order, with the sign of y: 0 has two. -/
def signedCodes (f : Fmt) (neg : Bool) (c : Int) : List Nat :=
  let s := fun (b : Bool) => if b then f.signBit else 0
  if c = 0 then [s neg, s !neg] else [s (neg != decide (c < 0)) + c.natAbs]

/-- R222: the codes allowed for a y that no code of the type represents, `lo` being the code below |y|: the two
neighbours, or (`wide`) the values within 2 ulp. -/
def allowedCodes (f : Fmt) (wide : Bool) (y : Exact) (lo : Nat) : List Nat :=
  let s := if y.neg then f.signBit else 0
  if wide then
    let near := ([-3, -2, -1, 0, 1, 2, 3] : List Int).filter fun k =>
      (lo : Int) + k ≤ f.maxFinite &&
        withinTwo (codeVal f (lo + k)) (.fin false y.m y.e) (codeVal f (lo + 1)) (codeVal f lo)
    (near.map fun k => signedCodes f y.neg (lo + k)).flatten
  else [s + lo, s + lo + 1]

/-- R222: the result for a finite y that is not zero. `pick` is the device's choice (log 12). -/
def approxOf (f : Fmt) (wide : Bool) (pick : Nat) (y : Exact) : Nat × Flags :=
  let s := if y.neg then f.signBit else 0
  let r := roundTo f .rtz 0 false false y.m y.e
  let lo := lowerCode f y
  if lo.2 then (s + lo.1, 0)
  else if r.flags &&& flagOF != 0 || lo.1 = f.maxFinite then (s + f.inf.getD 0, flagOF ||| flagNX)
  else
    let l := allowedCodes f wide y lo.1
    let c := l.getD (pick % l.length) (s + lo.1)
    let mag := c % f.signBit
    (c, flagNX ||| (if mag != 0 && mag < 2 ^ f.mw then flagUF else 0))

/-- 1 / (m x 2^e). -/
def recipExact (neg : Bool) (m : Nat) (e : Int) : Exact :=
  let q := quotient 1 0 m e
  ⟨neg, q.1, q.2⟩

/-- 1 / sqrt(m x 2^e). -/
def rsqrtExact (m : Nat) (e : Int) : Exact :=
  let m1 := if e % 2 = 0 then m else 2 * m
  let e1 := if e % 2 = 0 then e else e - 1
  let r := isqrt (2 ^ 400 / m1)
  ⟨false, 2 * r + (if r * r * m1 = 2 ^ 400 then 0 else 1), -(e1 / 2) - 200 - 1⟩

/-- The product of the roots 2^(2^-1), 2^(2^-2), … of the set bits of a fraction of `n` bits, in units of
2^-320. -/
def rootProduct (frac : Nat) : Nat → Nat → Nat → Nat
  | 0, _, acc => acc
  | n + 1, r, acc =>
    rootProduct frac n (isqrt (r * 2 ^ 320)) (if bits frac n 1 = 1 then acc * r / 2 ^ 320 else acc)

/-- 2^x for a finite x other than 0. -/
def exp2Exact (neg : Bool) (m : Nat) (e : Int) : Exact :=
  if (bitLength m : Int) + e > 12 then (if neg then ⟨false, 1, -4000⟩ else ⟨false, 1, 4000⟩)
  else if (bitLength m : Int) + e < -60 then ⟨false, if neg then 2 ^ 200 - 1 else 2 ^ 200 + 1, -200⟩
  else if 0 ≤ e then ⟨false, 1, if neg then -((m * 2 ^ e.toNat : Nat) : Int) else (m * 2 ^ e.toNat : Nat)⟩
  else
    let n := (-e).toNat
    let v : Int := if neg then -(m : Int) else m
    let k := v / (2 ^ n : Nat)
    let frac := (v % (2 ^ n : Nat)).toNat
    if frac = 0 then ⟨false, 1, k⟩
    else ⟨false, 2 * rootProduct frac n (isqrt (2 ^ 641)) (2 ^ 320) + 1, k - 321⟩

/-- The first `n` bits of the fraction of log2 of v / 2^512, for 1 ≤ v / 2^512 < 2. -/
def logBits : Nat → Nat → Nat → Nat
  | 0, _, acc => acc
  | n + 1, v, acc =>
    let w := v * v / 2 ^ 512
    if 2 ^ 513 ≤ w then logBits n (w / 2) (2 * acc + 1) else logBits n w (2 * acc)

/-- log2 of m x 2^e, for a value other than 1. -/
def log2Exact (m : Nat) (e : Int) : Exact :=
  let k : Int := (bitLength m : Int) - 1 + e
  if m = 2 ^ (bitLength m - 1) then ⟨decide (k < 0), k.natAbs, 0⟩
  else
    let num : Int := 2 * (k * (2 ^ 200 : Nat) + logBits 200 (m * 2 ^ (513 - bitLength m)) 0) + 1
    ⟨decide (num < 0), num.natAbs, -201⟩

/-- The type codes of `Config.approxPick` (log 12). -/
def pickType : VTy → Nat
  | .f32 => 0 | .f64 => 1 | .bf16 => 2 | .f16 => 3

/-- Whether a type's VEXP2 and VLOG2 may lie within 2 ulp (R222). -/
def VTy.wide : VTy → Bool
  | .f32 | .f64 => true
  | _ => false

def approxPick (op : Nat) (p : VTy) (x : Nat) : Nat := Config.approxPick op (pickType p) x

/-- VRCP of an element (R222). -/
def vrcpElem (p : VTy) (x : Nat) : Nat × Flags :=
  let f := p.fmt
  let s := fun (n : Bool) => if n then f.signBit else 0
  match unpack f x with
  | .nan _ _ g => (f.nan.getD 0, if g then flagNV else 0)
  | .inf n => (s n, 0)
  | .fin n m e =>
    if m = 0 then (s n + f.inf.getD 0, flagDZ) else approxOf f false (approxPick 0 p x) (recipExact n m e)

/-- VRSQ of an element (R222). -/
def vrsqElem (p : VTy) (x : Nat) : Nat × Flags :=
  let f := p.fmt
  match unpack f x with
  | .nan _ _ g => (f.nan.getD 0, if g then flagNV else 0)
  | .inf n => if n then (f.nan.getD 0, flagNV) else (0, 0)
  | .fin n m e =>
    if m = 0 then ((if n then f.signBit else 0) + f.inf.getD 0, flagDZ)
    else if n then (f.nan.getD 0, flagNV)
    else approxOf f false (approxPick 1 p x) (rsqrtExact m e)

/-- VEXP2 of an element (R222). -/
def vexp2Elem (p : VTy) (x : Nat) : Nat × Flags :=
  let f := p.fmt
  match unpack f x with
  | .nan _ _ g => (f.nan.getD 0, if g then flagNV else 0)
  | .inf n => (if n then 0 else f.inf.getD 0, 0)
  | .fin n m e =>
    if m = 0 then (f.bias * 2 ^ f.mw, 0) else approxOf f (VTy.wide p) (approxPick 2 p x) (exp2Exact n m e)

/-- VLOG2 of an element (R222). -/
def vlog2Elem (p : VTy) (x : Nat) : Nat × Flags :=
  let f := p.fmt
  match unpack f x with
  | .nan _ _ g => (f.nan.getD 0, if g then flagNV else 0)
  | .inf n => if n then (f.nan.getD 0, flagNV) else (f.inf.getD 0, 0)
  | .fin n m e =>
    if m = 0 then (f.signBit + f.inf.getD 0, flagDZ)
    else if n then (f.nan.getD 0, flagNV)
    else if x = f.bias * 2 ^ f.mw then (0, 0)
    else approxOf f (VTy.wide p) (approxPick 3 p x) (log2Exact m e)

end Sys2Proof.Machine
end

