-- ==== Sys2Proof/Machine/Vector.lean ====
section
/-! DEFINITION. Vector and mask instructions (spec/10_isa_vector.md R216 to R232). The occupancy of the unit and
its interlocks are timing (log 5). -/

namespace Sys2Proof.Machine

/-! Lanes and masks (R216, R217). -/

/-- Lane `i` of width `w`. -/
def lane (v : Vec) (w i : Nat) : Nat := v.toNat / 2 ^ (w * i) % 2 ^ w

/-- The value whose lanes of width `w` are a list's, lane 0 first; the rest is 0. -/
def packNat (w : Nat) : List Nat → Nat
  | [] => 0
  | x :: r => x % 2 ^ w + 2 ^ w * packNat w r

def packLanes (w : Nat) (l : List Nat) : Vec := BitVec.ofNat 512 (packNat w l)

/-- Lanes of width `w` in a register. -/
def laneCount (w : Nat) : Nat := 512 / w

/-- Whether lane `i` is active under mask `m` (R217). -/
def Strand.lit (t : Strand) (m : BitVec 3) (i : Nat) : Bool := (t.mr m &&& t.enable).getLsbD i

/-- The active lanes among the first `n`. -/
def Strand.litLanes (t : Strand) (m : BitVec 3) (n : Nat) : List Nat := (List.range n).filter fun i => t.lit m i

/-- A result of lanes: their values, the union of the flags, the LFSR. -/
structure LaneRes where
  vals : List Nat
  flags : Flags
  lfsr : BitVec 32
  deriving DecidableEq, Repr

/-- Lanes in rising order, each active one computed by `f` with the LFSR as the lanes before it left it (R217,
R220); an inactive one keeps its old value. -/
def mapLanes (mode : Round) (act : Nat → Bool) (old : Nat → Nat) (f : REnv → Nat → FRes) :
    List Nat → BitVec 32 → LaneRes
  | [], l => ⟨[], 0, l⟩
  | i :: r, l =>
    if act i then
      let a := f ⟨mode, l⟩ i
      let b := mapLanes mode act old f r a.lfsr
      ⟨a.code :: b.vals, a.flags ||| b.flags, b.lfsr⟩
    else
      let b := mapLanes mode act old f r l
      ⟨old i :: b.vals, b.flags, b.lfsr⟩

/-- All lanes of width `w` of a destination. -/
def Strand.vecLanes (t : Strand) (w : Nat) (mode : Round) (m : BitVec 3) (d : RegNo) (f : REnv → Nat → FRes) :
    LaneRes :=
  mapLanes mode (t.lit m) (lane (t.vr d) w) f (List.range (laneCount w)) (frmLfsr t.frm)

/-- Writes lanes of width `w`; the flags join %fflags once and the LFSR is kept (R109, R217, R220). -/
def Strand.putLanes (t : Strand) (d : RegNo) (w : Nat) (r : LaneRes) : Strand :=
  (t.setV d (packLanes w r.vals)).commit r.flags r.lfsr

/-- A lane result that draws nothing. -/
def REnv.plain (env : REnv) (r : Nat × Flags) : FRes := env.exact r.1 r.2

/-- A lane operation on up to three sources at a float type in %frm.MODE (R220, R221). -/
def vecFloat (i : Instr) (p : VTy) (ops : List Opnd) (d : RegNo) (m : BitVec 3) (f : Strand → REnv → Nat → FRes)
    (s : State) : Host.Outcome State Fault Refusal :=
  issueReg i ops (fun t => t.putLanes d p.fmt.width (t.vecLanes p.fmt.width (frmMode t.frm) m d (f t))) s

/-- An operation on the values of two lanes. -/
def vecFloat2 (i : Instr) (p : VTy) (d : RegNo) (a b : Src) (m : BitVec 3)
    (f : Fmt → REnv → FVal → FVal → FRes) (s : State) : Host.Outcome State Fault Refusal :=
  vecFloat i p [a.v, b.v, .vd d] d m (fun t env k =>
    f p.fmt env (unpack p.fmt (lane (t.vr a.r) p.fmt.width k)) (unpack p.fmt (lane (t.vr b.r) p.fmt.width k))) s

/-- An operation on the code of one lane. -/
def vecFloat1 (i : Instr) (p : VTy) (d : RegNo) (a : Src) (m : BitVec 3) (f : REnv → Nat → FRes) (s : State) :
    Host.Outcome State Fault Refusal :=
  vecFloat i p [a.v, .vd d] d m (fun t env k => f env (lane (t.vr a.r) p.fmt.width k)) s

/-- VMIN and VMAX on codes (R164). -/
def vecMinMax (i : Instr) (p : VTy) (big : Bool) (d : RegNo) (a b : Src) (m : BitVec 3) (s : State) :
    Host.Outcome State Fault Refusal :=
  vecFloat i p [a.v, b.v, .vd d] d m (fun t env k =>
    env.plain (fpMinMax p.fmt big (lane (t.vr a.r) p.fmt.width k) (lane (t.vr b.r) p.fmt.width k))) s

/-! Floating-point arithmetic (R221, R222). -/

/-- VADD (R221). -/
def execVadd (p : VTy) (d : RegNo) (a b : Src) (m : BitVec 3) (s : State) :=
  vecFloat2 (.vadd p d a b m) p d a b m fpAdd s
/-- VSUB (R221). -/
def execVsub (p : VTy) (d : RegNo) (a b : Src) (m : BitVec 3) (s : State) :=
  vecFloat2 (.vsub p d a b m) p d a b m fpSub s
/-- VMUL (R221). -/
def execVmul (p : VTy) (d : RegNo) (a b : Src) (m : BitVec 3) (s : State) :=
  vecFloat2 (.vmul p d a b m) p d a b m fpMul s
/-- VDIV (R221). -/
def execVdiv (p : VTy) (d : RegNo) (a b : Src) (m : BitVec 3) (s : State) :=
  vecFloat2 (.vdiv p d a b m) p d a b m fpDiv s
/-- VMIN (R221). -/
def execVmin (p : VTy) (d : RegNo) (a b : Src) (m : BitVec 3) (s : State) :=
  vecMinMax (.vmin p d a b m) p false d a b m s
/-- VMAX (R221). -/
def execVmax (p : VTy) (d : RegNo) (a b : Src) (m : BitVec 3) (s : State) :=
  vecMinMax (.vmax p d a b m) p true d a b m s
/-- A lane of VABS or VNEG: a NaN passes bit for bit (R221). -/
def signElem (p : VTy) (f : Nat → Nat) (x : Nat) : Nat := if (unpack p.fmt x).isNan then x else f x

/-- VABS: the sign bit is cleared (R221). -/
def execVabs (p : VTy) (d : RegNo) (a : Src) (m : BitVec 3) (s : State) :=
  vecFloat1 (.vabs p d a m) p d a m (fun env x => env.exact (signElem p (fun x => x % p.fmt.signBit) x) 0) s
/-- VNEG: the sign bit is inverted (R221). -/
def execVneg (p : VTy) (d : RegNo) (a : Src) (m : BitVec 3) (s : State) :=
  vecFloat1 (.vneg p d a m) p d a m (fun env x => env.exact (signElem p (fun x => x ^^^ p.fmt.signBit) x) 0) s
/-- VSQRT (R221). -/
def execVsqrt (p : VTy) (d : RegNo) (a : Src) (m : BitVec 3) (s : State) :=
  vecFloat1 (.vsqrt p d a m) p d a m (fun env x => fpSqrt p.fmt env (unpack p.fmt x)) s

/-- VRCP (R222). -/
def execVrcp (p : VTy) (d : RegNo) (a : Src) (m : BitVec 3) (s : State) :=
  vecFloat1 (.vrcp p d a m) p d a m (fun env x => env.plain (vrcpElem p x)) s
/-- VRSQ (R222). -/
def execVrsq (p : VTy) (d : RegNo) (a : Src) (m : BitVec 3) (s : State) :=
  vecFloat1 (.vrsq p d a m) p d a m (fun env x => env.plain (vrsqElem p x)) s
/-- VEXP2 (R222). -/
def execVexp2 (p : VTy) (d : RegNo) (a : Src) (m : BitVec 3) (s : State) :=
  vecFloat1 (.vexp2 p d a m) p d a m (fun env x => env.plain (vexp2Elem p x)) s
/-- VLOG2 (R222). -/
def execVlog2 (p : VTy) (d : RegNo) (a : Src) (m : BitVec 3) (s : State) :=
  vecFloat1 (.vlog2 p d a m) p d a m (fun env x => env.plain (vlog2Elem p x)) s

/-! Reductions (R107, R223). -/

/-- One step of the tree: the first half of a list with the second. -/
def pairStep (f : BitVec 32 → Nat → Nat → FRes) : List Nat → List Nat → BitVec 32 → LaneRes
  | x :: xs, y :: ys, l =>
    let a := f l x y
    let b := pairStep f xs ys a.lfsr
    ⟨a.code :: b.vals, a.flags ||| b.flags, b.lfsr⟩
  | _, _, l => ⟨[], 0, l⟩

/-- The pairwise tree of R107 over 2^n lanes. -/
def reduceTree (f : BitVec 32 → Nat → Nat → FRes) : Nat → LaneRes → LaneRes
  | 0, r => r
  | n + 1, r =>
    let a := pairStep f (r.vals.take (2 ^ n)) (r.vals.drop (2 ^ n)) r.lfsr
    reduceTree f n ⟨a.vals, r.flags ||| a.flags, a.lfsr⟩

/-- A reduction: inactive lanes enter as `off`; the result goes to lane 0 and 0 to every other. -/
def vecReduce (i : Instr) (p : VTy) (d : RegNo) (a : Src) (m : BitVec 3) (off : Nat)
    (f : Round → BitVec 32 → Nat → Nat → FRes) (s : State) : Host.Outcome State Fault Refusal :=
  issueReg i [a.v, .vd d] (fun t =>
    let w := p.fmt.width
    let vals := (List.range (laneCount w)).map fun k => if t.lit m k then lane (t.vr a.r) w k else off
    t.putLanes d w (reduceTree (f (frmMode t.frm)) (Nat.log2 (laneCount w)) ⟨vals, 0, frmLfsr t.frm⟩)) s

/-- VSUM (R107, R223). An inactive lane counts as -0; under RDN that makes a sum of +0 into -0, although R107 says that it
leaves every sum as it is: the model adds as R163 does (DESIGN CHOICE, log 38). -/
def execVsum (p : VTy) (d : RegNo) (a : Src) (m : BitVec 3) (s : State) :=
  vecReduce (.vsum p d a m) p d a m p.fmt.signBit
    (fun mode l x y => fpAdd p.fmt ⟨mode, l⟩ (unpack p.fmt x) (unpack p.fmt y)) s
/-- VRMAX (R107, R223). -/
def execVrmax (p : VTy) (d : RegNo) (a : Src) (m : BitVec 3) (s : State) :=
  vecReduce (.vrmax p d a m) p d a m (p.fmt.nan.getD 0)
    (fun mode l x y => REnv.plain ⟨mode, l⟩ (fpMinMax p.fmt true x y)) s
/-- VRMIN (R107, R223). -/
def execVrmin (p : VTy) (d : RegNo) (a : Src) (m : BitVec 3) (s : State) :=
  vecReduce (.vrmin p d a m) p d a m (p.fmt.nan.getD 0)
    (fun mode l x y => REnv.plain ⟨mode, l⟩ (fpMinMax p.fmt false x y)) s

/-! Operations that neither round nor raise flags. -/

/-- Each active lane of width `w` becomes `f k`; an inactive one keeps its value. -/
def Strand.setLanes (t : Strand) (w : Nat) (m : BitVec 3) (d : RegNo) (f : Nat → Nat) : Strand :=
  t.setV d (packLanes w ((List.range (laneCount w)).map fun k => if t.lit m k then f k else lane (t.vr d) w k))

/-- An integer operation on two lanes, taken modulo 2^w (R224). -/
def vecInt2 (i : Instr) (w : Nat) (d : RegNo) (a b : Src) (m : BitVec 3) (f : Nat → Nat → Int) (s : State) :
    Host.Outcome State Fault Refusal :=
  issueReg i [a.v, b.v, .vd d] (fun t =>
    t.setLanes w m d fun k => (f (lane (t.vr a.r) w k) (lane (t.vr b.r) w k) % (2 ^ w : Nat)).toNat) s


/-- VADD, integer (R224). -/
def execVaddInt (w : Width) (d : RegNo) (a b : Src) (m : BitVec 3) (s : State) :=
  vecInt2 (.vaddInt w d a b m) w.bits d a b m (fun x y => (x : Int) + y) s
/-- VSUB, integer (R224). -/
def execVsubInt (w : Width) (d : RegNo) (a b : Src) (m : BitVec 3) (s : State) :=
  vecInt2 (.vsubInt w d a b m) w.bits d a b m (fun x y => (x : Int) - y) s
/-- VMUL, integer: the low half (R224). -/
def execVmulInt (w : Width) (d : RegNo) (a b : Src) (m : BitVec 3) (s : State) :=
  vecInt2 (.vmulInt w d a b m) w.bits d a b m (fun x y => (x : Int) * y) s
/-- VMIN.s (R224). -/
def execVminS (w : Width) (d : RegNo) (a b : Src) (m : BitVec 3) (s : State) :=
  vecInt2 (.vminS w d a b m) w.bits d a b m (fun x y => min (signedOf x w.bits) (signedOf y w.bits)) s
/-- VMIN.n (R224). -/
def execVminN (w : Width) (d : RegNo) (a b : Src) (m : BitVec 3) (s : State) :=
  vecInt2 (.vminN w d a b m) w.bits d a b m (fun x y => (min x y : Nat)) s
/-- VMAX.s (R224). -/
def execVmaxS (w : Width) (d : RegNo) (a b : Src) (m : BitVec 3) (s : State) :=
  vecInt2 (.vmaxS w d a b m) w.bits d a b m (fun x y => max (signedOf x w.bits) (signedOf y w.bits)) s
/-- VMAX.n (R224). -/
def execVmaxN (w : Width) (d : RegNo) (a b : Src) (m : BitVec 3) (s : State) :=
  vecInt2 (.vmaxN w d a b m) w.bits d a b m (fun x y => (max x y : Nat)) s
/-- VSHL (R224). -/
def execVshl (w : Width) (d : RegNo) (a b : Src) (m : BitVec 3) (s : State) :=
  vecInt2 (.vshl w d a b m) w.bits d a b m (fun x y => (if w.bits ≤ y then 0 else x * 2 ^ y : Nat)) s
/-- VSHR.s: a shift by w or more leaves copies of the sign bit (R224). -/
def execVshrS (w : Width) (d : RegNo) (a b : Src) (m : BitVec 3) (s : State) :=
  vecInt2 (.vshrS w d a b m) w.bits d a b m (fun x y => signedOf x w.bits / (2 ^ min y w.bits : Nat)) s
/-- VSHR.n (R224). -/
def execVshrN (w : Width) (d : RegNo) (a b : Src) (m : BitVec 3) (s : State) :=
  vecInt2 (.vshrN w d a b m) w.bits d a b m (fun x y => (if w.bits ≤ y then 0 else x / 2 ^ y : Nat)) s
/-- VNEG, integer (R224). -/
def execVnegInt (w : Width) (d : RegNo) (a : Src) (m : BitVec 3) (s : State) : Host.Outcome State Fault Refusal :=
  issueReg (.vnegInt w d a m) [a.v, .vd d] (fun t =>
    t.setLanes w.bits m d fun k => 2 ^ w.bits - lane (t.vr a.r) w.bits k) s
/-- VIMAD (R224): reads vd without a t bit. -/
def execVimad (w : Width) (d : RegNo) (a b : Src) (m : BitVec 3) (s : State) : Host.Outcome State Fault Refusal :=
  issueReg (.vimad w d a b m) [a.v, b.v, .vs d false, .vd d] (fun t =>
    t.setLanes w.bits m d fun k =>
      lane (t.vr a.r) w.bits k * lane (t.vr b.r) w.bits k + lane (t.vr d) w.bits k) s
/-- VSUM, integer (R223). -/
def execVsumInt (w : Width) (d : RegNo) (a : Src) (m : BitVec 3) (s : State) : Host.Outcome State Fault Refusal :=
  issueReg (.vsumInt w d a m) [a.v, .vd d] (fun t =>
    t.setV d (packLanes w.bits
      [((t.litLanes m (laneCount w.bits)).map fun k => lane (t.vr a.r) w.bits k).sum])) s

/-! Comparisons into masks (R225). -/

/-- A mask of the bits for which `f` holds, of the first `n`. -/
def maskOf (n : Nat) (f : Nat → Bool) : Word :=
  BitVec.ofNat 64 (packNat 1 ((List.range n).map fun i => if f i then 1 else 0))

/-- An integer comparison. -/
def vecCmpInt (i : Instr) (w : Nat) (k : BitVec 3) (a b : Src) (m : BitVec 3) (f : Nat → Nat → Bool) (s : State) :
    Host.Outcome State Fault Refusal :=
  issueReg i [a.v, b.v] (fun t =>
    t.setM k (maskOf (laneCount w) fun j => t.lit m j && f (lane (t.vr a.r) w j) (lane (t.vr b.r) w j))) s

/-- VCMP.eq, integer (R225). -/
def execVcmpEqInt (w : Width) (k : BitVec 3) (a b : Src) (m : BitVec 3) (s : State) :=
  vecCmpInt (.vcmpEqInt w k a b m) w.bits k a b m (fun x y => x == y) s
/-- VCMP.lt.s (R225). -/
def execVcmpLtS (w : Width) (k : BitVec 3) (a b : Src) (m : BitVec 3) (s : State) :=
  vecCmpInt (.vcmpLtS w k a b m) w.bits k a b m (fun x y => signedOf x w.bits < signedOf y w.bits) s
/-- VCMP.lt.n (R225). -/
def execVcmpLtN (w : Width) (k : BitVec 3) (a b : Src) (m : BitVec 3) (s : State) :=
  vecCmpInt (.vcmpLtN w k a b m) w.bits k a b m (fun x y => x < y) s

/-- A float condition on two codes (R164, R225). -/
def vecCond (c : VCond) (f : Fmt) (x y : Nat) : Nat × Flags :=
  match c with
  | .eq => cmpEqual f x y
  | .ne => let r := cmpEqual f x y; (1 - r.1, r.2)
  | .lt => cmpOrder false f x y
  | .le => cmpOrder true f x y

/-- VCMP, float (R225). -/
def execVcmp (p : VTy) (c : VCond) (k : BitVec 3) (a b : Src) (m : BitVec 3) (s : State) :
    Host.Outcome State Fault Refusal :=
  issueReg (.vcmp p c k a b m) [a.v, b.v] (fun t =>
    let w := p.fmt.width
    let r := mapLanes (frmMode t.frm) (t.lit m) (fun _ => 0)
      (fun env j => env.plain (vecCond c p.fmt (lane (t.vr a.r) w j) (lane (t.vr b.r) w j)))
      (List.range (laneCount w)) (frmLfsr t.frm)
    (t.setM k (BitVec.ofNat 64 (packNat 1 r.vals))).orFlags r.flags) s

/-! Bitwise and selection (R226): 16 lanes of 32 bits. -/

/-- A bitwise operation. -/
def vecBits (i : Instr) (ops : List Opnd) (d : RegNo) (m : BitVec 3) (f : Strand → Vec) (s : State) :
    Host.Outcome State Fault Refusal :=
  issueReg i ops (fun t => t.setLanes 32 m d fun k => lane (f t) 32 k) s

/-- VAND (R226). -/
def execVand (d : RegNo) (a b : Src) (m : BitVec 3) (s : State) :=
  vecBits (.vand d a b m) [a.v, b.v, .vd d] d m (fun t => t.vr a.r &&& t.vr b.r) s
/-- VOR (R226). -/
def execVor (d : RegNo) (a b : Src) (m : BitVec 3) (s : State) :=
  vecBits (.vor d a b m) [a.v, b.v, .vd d] d m (fun t => t.vr a.r ||| t.vr b.r) s
/-- VXOR (R226). -/
def execVxor (d : RegNo) (a b : Src) (m : BitVec 3) (s : State) :=
  vecBits (.vxor d a b m) [a.v, b.v, .vd d] d m (fun t => t.vr a.r ^^^ t.vr b.r) s
/-- VNOT (R226). -/
def execVnot (d : RegNo) (a : Src) (m : BitVec 3) (s : State) :=
  vecBits (.vnot d a m) [a.v, .vd d] d m (fun t => ~~~(t.vr a.r)) s
/-- VMOV (R226). -/
def execVmov (d : RegNo) (a : Src) (m : BitVec 3) (s : State) :=
  vecBits (.vmov d a m) [a.v, .vd d] d m (fun t => t.vr a.r) s
/-- VSEL (R226): where E is 1, the mask selects. -/
def execVsel (d : RegNo) (a b : Src) (m : BitVec 3) (s : State) : Host.Outcome State Fault Refusal :=
  issueReg (.vsel d a b m) [a.v, b.v, .vd d] (fun t =>
    t.setLanes 32 0 d fun k => if (t.mr m).getLsbD k then lane (t.vr a.r) 32 k else lane (t.vr b.r) 32 k) s

/-! Mask operations (R227): they ignore E. -/

/-- MAND (R227). -/
def execMand (k i j : BitVec 3) (s : State) : Host.Outcome State Fault Refusal :=
  issueReg (.mand k i j) [] (fun t => t.setM k (t.mr i &&& t.mr j)) s
/-- MOR (R227). -/
def execMor (k i j : BitVec 3) (s : State) : Host.Outcome State Fault Refusal :=
  issueReg (.mor k i j) [] (fun t => t.setM k (t.mr i ||| t.mr j)) s
/-- MXOR (R227). -/
def execMxor (k i j : BitVec 3) (s : State) : Host.Outcome State Fault Refusal :=
  issueReg (.mxor k i j) [] (fun t => t.setM k (t.mr i ^^^ t.mr j)) s
/-- MNOT (R227). -/
def execMnot (k i : BitVec 3) (s : State) : Host.Outcome State Fault Refusal :=
  issueReg (.mnot k i) [] (fun t => t.setM k (~~~(t.mr i))) s
/-- MPOP (R227). -/
def execMpop (d : RegNo) (i : BitVec 3) (s : State) : Host.Outcome State Fault Refusal :=
  issueReg (.mpop d i) [.xd d] (fun t =>
    t.setX d (BitVec.ofNat 64 ((List.range 64).filter fun k => (t.mr i).getLsbD k).length)) s
/-- MFIRST (R227). -/
def execMfirst (d : RegNo) (i : BitVec 3) (s : State) : Host.Outcome State Fault Refusal :=
  issueReg (.mfirst d i) [.xd d] (fun t =>
    t.setX d (BitVec.ofNat 64 (((List.range 64).find? fun k => (t.mr i).getLsbD k).getD 64))) s
/-- MSET (R227). -/
def execMset (k : BitVec 3) (a : Src) (s : State) : Host.Outcome State Fault Refusal :=
  issueReg (.mset k a) [a.x] (fun t => t.setM k (t.xr a.r)) s
/-- MMOVX (R227). -/
def execMmovx (d : RegNo) (i : BitVec 3) (s : State) : Host.Outcome State Fault Refusal :=
  issueReg (.mmovx d i) [.xd d] (fun t => t.setX d (t.mr i)) s

/-! Permutes (R228). -/

/-- VPERM (R228). -/
def execVperm (w : Width) (d : RegNo) (a b : Src) (m : BitVec 3) (s : State) : Host.Outcome State Fault Refusal :=
  issueReg (.vperm w d a b m) [a.v, b.v, .vd d] (fun t =>
    t.setLanes w.bits m d fun k =>
      lane (t.vr a.r) w.bits (lane (t.vr b.r) w.bits k % laneCount w.bits)) s
/-- VSHUF (R228): vd is read before any write, without a t bit. -/
def execVshuf (w : Width) (d : RegNo) (a b : Src) (m : BitVec 3) (s : State) : Host.Outcome State Fault Refusal :=
  issueReg (.vshuf w d a b m) [a.v, b.v, .vs d false, .vd d] (fun t =>
    t.setLanes w.bits m d fun k =>
      let l := laneCount w.bits
      let j := lane (t.vr d) w.bits k % (2 * l)
      if j < l then lane (t.vr a.r) w.bits j else lane (t.vr b.r) w.bits (j - l)) s
/-- VBCAST (R228). -/
def execVbcast (w : Width) (d : RegNo) (a : Src) (m : BitVec 3) (s : State) : Host.Outcome State Fault Refusal :=
  issueReg (.vbcast w d a m) [a.x, .vd d] (fun t => t.setLanes w.bits m d fun _ => lowBits (t.xr a.r) w.bits) s
/-- VIOTA (R228). -/
def execViota (w : Width) (d : RegNo) (m : BitVec 3) (s : State) : Host.Outcome State Fault Refusal :=
  issueReg (.viota w d m) [.vd d] (fun t => t.setLanes w.bits m d fun k => k) s
/-- VCMPR (R228). -/
def execVcmpr (w : Width) (d : RegNo) (a : Src) (m : BitVec 3) (s : State) : Host.Outcome State Fault Refusal :=
  issueReg (.vcmpr w d a m) [a.v, .vd d] (fun t =>
    t.setV d (packLanes w.bits
      ((t.litLanes m (laneCount w.bits)).map fun k => lane (t.vr a.r) w.bits k))) s
/-- VEXPD (R228): the k-th active lane takes va[k]. -/
def execVexpd (w : Width) (d : RegNo) (a : Src) (m : BitVec 3) (s : State) : Host.Outcome State Fault Refusal :=
  issueReg (.vexpd w d a m) [a.v, .vd d] (fun t =>
    t.setLanes w.bits m d fun k => lane (t.vr a.r) w.bits (t.litLanes m k).length) s
/-- VINS (R228). -/
def execVins (w : Width) (d : RegNo) (a b : Src) (m : BitVec 3) (s : State) : Host.Outcome State Fault Refusal :=
  issueReg (.vins w d a b m) [a.x, b.x, .vd d] (fun t =>
    t.setLanes w.bits m d fun k =>
      if (t.xr b.r).toNat = k then lowBits (t.xr a.r) w.bits else lane (t.vr d) w.bits k) s
/-- VEXT (R228). -/
def execVext (w : Width) (d : RegNo) (a b : Src) (s : State) : Host.Outcome State Fault Refusal :=
  issueReg (.vext w d a b) [a.v, b.x, .xd d] (fun t =>
    let k := (t.xr b.r).toNat
    t.setX d (if k < laneCount w.bits then BitVec.ofNat 64 (lane (t.vr a.r) w.bits k) else 0)) s

/-! Conversions and quantisation (R229 to R231). -/

/-- The width of an element's lane (R216). -/
def laneBits (e : Elem) : Nat := max 8 e.bits

/-- VCVT (R229). -/
def execVcvt (src dst : Elem) (sat : Bool) (d : RegNo) (a : Src) (m : BitVec 3) (s : State) :
    Host.Outcome State Fault Refusal :=
  issueReg (.vcvt src dst sat d a m) [a.v, .vd d] (fun t =>
    let ws := laneBits src
    let wd := laneBits dst
    t.putLanes d wd (mapLanes (frmMode t.frm) (t.lit m) (lane (t.vr d) wd)
      (fun env k => convertElem src dst env sat (lane (t.vr a.r) ws k % 2 ^ src.bits))
      (List.range (512 / max ws wd)) (frmLfsr t.frm))) s

/-- The element type of a narrow code (R135). -/
def narrowElem : Narrow → Elem
  | .e5m2 => .e5m2 | .e4m3 => .e4m3 | .e3m2 => .e3m2 | .e2m3 => .e2m3 | .e2m1 => .e2m1
  | .t8 => .t8 | .t6 => .t6 | .s8 => .s8

/-- maxN of R230 in halves. -/
def narrowMax2 : Narrow → Nat
  | .e5m2 => 114688 | .e4m3 => 896 | .e3m2 => 56 | .e2m3 => 15 | .e2m1 => 12
  | .t8 => 8192 | .t6 => 32 | .s8 => 254

/-- The greatest of a list of magnitudes m x 2^e. -/
def maxMag : List (Nat × Int) → Nat × Int
  | [] => (0, 0)
  | (m, e) :: r => let b := maxMag r; if magLt b.1 b.2 m e then (m, e) else b

/-- The least e from `lo` on, among `n` of them, with m x 2^x ≤ maxN x 2^e; the last where there is none. -/
def leastExp (m : Nat) (x : Int) (max2 : Nat) (lo : Int) : Nat → Int
  | 0 => lo
  | n + 1 => if magLt max2 (lo - 1) m x then leastExp m x max2 (lo + 1) n else lo

/-- The least E4M3 code from `c` on, among `n` of them, whose value times maxN is at least m x 2^x. -/
def leastE4m3 (m : Nat) (x : Int) (max2 c : Nat) : Nat → Nat
  | 0 => c
  | n + 1 =>
    match unpack .e4m3 c with
    | .fin _ v e => if magLt (v * max2) (e - 1) m x then leastE4m3 m x max2 (c + 1) n else c
    | _ => c

/-- R230: the FP32 value and the code of the scale of a list of FP32 codes. -/
def blockScale (n : Narrow) (e4m3 : Bool) (xs : List Nat) : Nat × Nat :=
  let vals := xs.map fun x => unpack .f32 x
  let mag := maxMag (vals.filterMap fun v =>
    match v with
    | .fin _ m e => some (m, e)
    | _ => none)
  let inf := vals.any fun v => match v with
    | .inf _ => true
    | _ => false
  if vals.any FVal.isNan then (0x7FC00000, if e4m3 then 0x7F else 0xFF)
  else if !inf && mag.1 == 0 then (0x3F800000, if e4m3 then 0x38 else 127)
  else if e4m3 then
    let c := if inf then 0x7E else leastE4m3 mag.1 mag.2 (narrowMax2 n) 1 0x7D
    ((fpConvert .e4m3 .f32 rneEnv false c).code, c)
  else
    let e := if inf then 127 else leastExp mag.1 mag.2 (narrowMax2 n) (-127) 254
    ((roundTo .f32 .rne 0 false false 1 e).code, (e + 127).toNat)

/-- VSCALE (R230). -/
def execVscale (n : Narrow) (e4m3 : Bool) (d : RegNo) (a : Src) (m : BitVec 3) (s : State) :
    Host.Outcome State Fault Refusal :=
  issueReg (.vscale n e4m3 d a m) [a.v, .vd d] (fun t =>
    let r := blockScale n e4m3 ((t.litLanes m 16).map fun k => lane (t.vr a.r) 32 k)
    t.setV d (packLanes 32 [r.1, r.2])) s

/-- R100, R231: what a narrow format has for a NaN: its canonical NaN, or 0 with NV. -/
def nanOrZero (e : Elem) : Nat × Flags :=
  match e.fmt.bind Fmt.nan with
  | some c => (c, 0)
  | none => (0, flagNV)

/-- R231: a nonzero value rounded to INT8, clamped with OF and NX. -/
def quantInt8 (env : REnv) (neg : Bool) (m : Nat) (e : Int) : FRes :=
  let r := roundInt env.mode (lfsrDraw env.lfsr) neg m e
  let v : Int := if neg then -(r.1 : Int) else r.1
  let l := if r.2 && env.mode == .sr then lfsrStep env.lfsr else env.lfsr
  if v < -128 then ⟨0x80, flagOF ||| flagNX, l⟩
  else if 127 < v then ⟨0x7F, flagOF ||| flagNX, l⟩
  else ⟨(BitVec.ofInt 8 v).toNat, if r.2 then flagNX else 0, l⟩

/-- R231: one element over a scale. -/
def quantElem (n : Narrow) (sc : FVal) (env : REnv) (x : Nat) : FRes :=
  let e := narrowElem n
  let bad := match sc with
    | .fin neg m _ => neg || m == 0
    | _ => true
  if bad then env.exact (nanOrZero e).1 flagNV
  else match unpack .f32 x, sc with
    | .nan .., _ => env.plain (nanOrZero e)
    | .inf neg, _ =>
      env.exact (match e.fmt with
        | some f => (if neg then f.signBit else 0) + f.maxFinite
        | none => if neg then 0x80 else 0x7F) (flagOF ||| flagNX)
    | .fin neg m x, .fin _ m2 e2 =>
      if m = 0 then env.exact (match e.fmt with
        | some f => zeroCode f neg
        | none => 0) 0
      else
        let q := quotient m x m2 e2
        match e.fmt with
        | some f => env.finish fun d => roundTo f env.mode d true neg q.1 q.2
        | none => quantInt8 env neg q.1 q.2
    | .fin .., _ => env.exact 0 0

/-- VQNT (R231). -/
def execVqnt (n : Narrow) (d : RegNo) (a b : Src) (m : BitVec 3) (s : State) : Host.Outcome State Fault Refusal :=
  issueReg (.vqnt n d a b m) [a.v, b.v, .vd d] (fun t =>
    t.putLanes d 8 (mapLanes (frmMode t.frm) (t.lit m) (lane (t.vr d) 8)
      (fun env k => quantElem n (unpack .f32 (lane (t.vr b.r) 32 0)) env (lane (t.vr a.r) 32 k))
      (List.range 16) (frmLfsr t.frm))) s

/-- R231: one element times a scale, saturating; a NaN gives the canonical NaN and no flag. 0 times an infinite scale, or
an infinity times 0, gives the canonical NaN with NV, as FMUL does (R163; DESIGN CHOICE, log 38). -/
def dequantElem (n : Narrow) (sc : FVal) (env : REnv) (x : Nat) : FRes :=
  let e := narrowElem n
  let v := match e.fmt with
    | some f => unpack f (x % 2 ^ e.bits)
    | none => let z := signedOf x 8; .fin (decide (z < 0)) z.natAbs 0
  if v.isNan || sc.isNan then env.exact 0x7FC00000 0 else fpMulSat .f32 true env v sc

/-- VDQNT (R231). -/
def execVdqnt (n : Narrow) (d : RegNo) (a b : Src) (m : BitVec 3) (s : State) : Host.Outcome State Fault Refusal :=
  issueReg (.vdqnt n d a b m) [a.v, b.v, .vd d] (fun t =>
    t.putLanes d 32 (t.vecLanes 32 (frmMode t.frm) m d fun env k =>
      dequantElem n (unpack .f32 (lane (t.vr b.r) 32 0)) env (lane (t.vr a.r) 8 k))) s

/-! Fused multiply-add (R232). -/

/-- VFMA and VFMS at a type: every source stalls while empty (R131). -/
def vecFma (i : Instr) (p : VTy) (sub : Bool) (d a b c : RegNo) (m : BitVec 2) (rnd : Round) (s : State) :
    Host.Outcome State Fault Refusal :=
  issueReg i [.vs a false, .vs b false, .vs c false, .vd d] (fun t =>
    let f := p.fmt
    t.putLanes d f.width (t.vecLanes f.width (t.mode rnd) (m.zeroExtend 3) d fun env k =>
      let z := unpack f (lane (t.vr c) f.width k)
      fpFma f env (unpack f (lane (t.vr a) f.width k)) (unpack f (lane (t.vr b) f.width k))
        (if sub && !z.isNan then z.negate else z))) s


/-- VFMA at F32F64 (R232). -/
def execVfmaF32F64 (wide : Bool) (d a b c : RegNo) (m : BitVec 2) (rnd : Round) (s : State) :=
  vecFma (.vfmaF32F64 wide d a b c m rnd) (if wide then .f64 else .f32) false d a b c m rnd s
/-- VFMA at BF16F16 (R232). -/
def execVfmaBf16F16 (wide : Bool) (d a b c : RegNo) (m : BitVec 2) (rnd : Round) (s : State) :=
  vecFma (.vfmaBf16F16 wide d a b c m rnd) (if wide then .f16 else .bf16) false d a b c m rnd s
/-- VFMS at F32F64 (R232). -/
def execVfmsF32F64 (wide : Bool) (d a b c : RegNo) (m : BitVec 2) (rnd : Round) (s : State) :=
  vecFma (.vfmsF32F64 wide d a b c m rnd) (if wide then .f64 else .f32) true d a b c m rnd s
/-- VFMS at BF16F16 (R232). -/
def execVfmsBf16F16 (wide : Bool) (d a b c : RegNo) (m : BitVec 2) (rnd : Round) (s : State) :=
  vecFma (.vfmsBf16F16 wide d a b c m rnd) (if wide then .f16 else .bf16) true d a b c m rnd s

end Sys2Proof.Machine
end

