-- ==== Sys2Proof/Machine/Engines.lean ====
section
/-! DEFINITION. Engine operations: copies, the static schedule, ring bindings, near-memory operations and their
accesses (spec/12_isa_engines.md R252 to R258, spec/02_memory.md R64 to R66, spec/03_ordering.md R80,
spec/20_launch.md R320). -/

namespace Sys2Proof.Machine

/-! Completion codes (R252). -/

def codePoison : Nat := 1
def codeCrc : Nat := 2
def codeLink : Nat := 3
def codeResidual : Nat := 4
def codeRange : Nat := 5
def codeNotScratch : Nat := 6
def codeSplit : Nat := 7

/-- The lowest code that applies. -/
def lowestCode (l : List Nat) : Nat := l.foldl (fun a c => if a = 0 || c < a then c else a) 0

/-- Bits [63:0] of a completion record: the status word (R252). -/
def statusWord (code kind : Nat) (tag : BitVec 16) (bytes : Nat) : Nat :=
  code + kind * 2 ^ 8 + tag.toNat * 2 ^ 16 + bytes % 2 ^ 32 * 2 ^ 32

/-- A completion record without its phase bit (R252). -/
def recordBits (code kind : Nat) (tag : BitVec 16) (bytes aux aux2 : Nat) (time : Word) : Nat :=
  statusWord code kind tag bytes + aux % 2 ^ 32 * 2 ^ 64 + aux2 % 2 ^ 32 * 2 ^ 96 + time.toNat * 2 ^ 128

/-! Bytes at homes and through a cluster cache (R80). -/

/-- Fetches of the cluster that have read the line at its home take the bytes that its engine writes there, so that a FILL
after the completion object installs no older ones (R80). -/
def State.patchFetches (s : State) (kn l : Nat) (d : Line) (m : ByteMask) (poisoned : Bool) : State :=
  let k := s.cluster kn
  if k.fetches.any fun f => f.line == l && f.got.isSome then
    s.setCluster kn { k with fetches := k.fetches.map fun f =>
      if f.line = l && f.got.isSome then
        { f with got := f.got.map fun g => (g.1, mergeBytes g.2 d m), poisoned := f.poisoned || poisoned }
      else f }
  else s

/-- A write of an engine at the home of its line (R51, R62, R73), in the name of operation `w.ctx`. -/
def State.engWriteHome (s : State) (w : Who) (va : Word) (pa v n : Nat) (poisoned : Bool) : State :=
  let l := pa / 128
  let d := lineAt v (pa % 128)
  let m := byteMask (pa % 128) n
  let it : Item := { serial := s.serial, ctx := w.ctx, die := servedAt w.die l, line := l,
                     act := .write d m false, after := [], func := w.func, va := va, core := w.core, wb := false, ctxs := [] }
  let s := (s.fresh.addLive ⟨it.serial, w.ctx, slotKey w.core 5, w.clus, false, false, false, it.die, w.func, va⟩).performWrite it d m false
  (if poisoned then s.poisonLine l 1 it.die else s).patchFetches w.clus l d m poisoned

/-- A write of the operation is still queued, or held at a slice (R73): its completion object waits (R80). -/
def State.engHeld (s : State) (op : Nat) : Bool := (s.hostLive.any fun l => l.ctx == op) || s.live.any fun l => l.ctx == op

/-- An engine's read or write of a stretch of memory: it is performed, or the issuing cluster's own copy goes
home first, or it waits. -/
inductive EngRes (α : Type) where
  | done (s : State) (v : α)
  | first (s : State)
  | wait
  deriving Repr

/-- Whether the home serves a line now: no held write stands before a read (R73), and the line can be served. -/
def State.homeFree (s : State) (die l : Nat) : Bool :=
  !s.heldOn (64 * servedAt die l + homeSlice (128 * l)) l && s.lineReady (servedAt die l) l

/-- The cluster has the line on its way home (R80). -/
def State.goingHome (s : State) (k l : Nat) : Bool := (s.queuedOn k l).any fun it => it.wb

/-- Reads bytes of one line at their home (R80). -/
def State.engReadHome (s : State) (core func : Nat) (va : Word) (pa n : Nat) : EngRes (Nat × Bool) :=
  let l := pa / 128
  let die := coreDie core
  if !s.homeFree die l then .wait
  else
    let r := s.homeRead core func va (servedAt die l) l
    .done r.1 (lineBytes r.2 (pa % 128) n, s.poison.contains l)

/-- Reads bytes of one line through the issuing cluster's cache, as a load does (R80). -/
def State.engReadCache (s : State) (w : Who) (p : Place) (va : Word) (n : Nat) : EngRes (Nat × Bool) :=
  let l := p.pa / 128
  let off := p.pa % 128
  if p.remote w.die || p.unc then s.engReadHome w.core w.func va p.pa n
  else if s.wayBusy w.clus l then .wait
  else
    let miss : EngRes (Nat × Bool) :=
      if s.goingHome w.clus l || !s.homeFree w.die l then .wait
      else
        let r := s.homeRead w.core w.func va (servedAt w.die l) l
        if s.poison.contains l then .done r.1 (lineBytes r.2 off n, true)
        else
          let i := r.1.install w l r.2 p va []
          let d := match i.2 with
            | some c => c.data
            | none => r.2
          .done i.1 (lineBytes d off n, false)
    match (s.cluster w.clus).findLine l with
    | some c =>
      if c.st = LState.a || !c.behind.isEmpty then .first (s.evictLine w l)
      else if byteMask off n &&& ~~~c.valid = 0 then .done s (lineBytes c.data off n, false)
      else miss
    | none => miss

/-- Writes bytes of one line at their home. The issuing cluster's copy is invalidated first: R80 says so of the copy
engine, and of every engine that the cluster sees its writes once it has observed the completion object. -/
def State.engWrite (s : State) (w : Who) (pa : Nat) (va : Word) (v n : Nat) (poisoned : Bool) : EngRes Unit :=
  let l := pa / 128
  let own := paHost pa || paDie pa == w.die
  if own && ((s.cluster w.clus).findLine l).isSome then .first (s.evictLine w l)
  else if (own && s.goingHome w.clus l) || !s.lineReady (servedAt w.die l) l then .wait
  else .done (s.engWriteHome w va pa v n poisoned) ()

/-- Reads `n` bytes that may lie in several lines. -/
def State.engReadAll (s : State) (f : State → Nat → Nat → EngRes (Nat × Bool)) :
    List (Nat × Nat) → EngRes (Nat × Bool)
  | [] => .done s (0, false)
  | (a, n) :: r =>
    match f s a n with
    | .done s v =>
      (match s.engReadAll f r with
       | .done s u => .done s (v.1 + 2 ^ (8 * n) * u.1, v.2 || u.2)
       | .first s => .first s
       | .wait => .wait)
    | .first s => .first s
    | .wait => .wait

/-- Writes a value whose bytes may lie in several lines: every line is free of the cluster's copy first. -/
def State.engWriteAll (s : State) (f : State → Nat → Nat → Nat → EngRes Unit) (v : Nat) :
    List (Nat × Nat) → EngRes Unit
  | [] => .done s ()
  | (a, n) :: r =>
    match s.engWriteAll f (v / 2 ^ (8 * n)) r with
    | .done s _ => f s a v n
    | o => o

/-! Rings (R253). -/

def ringLog (img : Word) : Nat := bits img.toNat 0 5
def ringNote (img : Word) : Bool := img.getLsbD 7
def ringTarget (img : Word) : Nat := nameCore (img >>> 16)

/-- The launch whose operations a cluster runs. -/
def State.holderOf (s : State) (clus : Nat) : Option Nat := (s.cluster clus).holder

/-- Writes a completion record to a ring of a cluster, and sends its note (R252, R253). An unbound ring takes
none. -/
def State.writeRecord (s : State) (clus core ring r : Nat) : EngRes Unit :=
  match (s.cluster clus).rings.find ring with
  | none => .done s ()
  | some g =>
    let ln := s.holderOf clus
    let func := s.funcOf ln
    let n := 2 ^ ringLog g.image
    let va := g.base.toNat + 32 * (g.w.toNat % n)
    let ph := if bits g.w.toNat (ringLog g.image) 1 = 0 then 2 ^ 255 else 0
    let target := ringTarget g.image
    if ringNote g.image && !s.pathRoom ln target then .wait
    else match s.translateW func va with
      | none => .wait
      | some pa =>
        let w : Who := ⟨core, 0, func, 5⟩
        match s.engWrite w pa (BitVec.ofNat 64 va) (r + ph) 32 false with
        | .done s _ =>
          let k := s.cluster clus
          let s := s.setCluster clus { k with rings := k.rings.put ring { g with w := g.w + 1 } }
          let word := BitVec.ofNat 64 (g.w.toNat + ring * 2 ^ 48 + clus % 256 * 2 ^ 50)
          .done (if ringNote g.image then
            s.sendAct
              { type := 5, sender := core, target := target, wid := 0, words := [word], payload := 0, hdr := 0, prio := 0,
                launch := ln, frame := none, saved := none, reply := none, origin := 0, order := 0 }
          else s) ()
        | o => o

/-- CRING (R253). -/
def execCring (a b : Src) (s : State) : Host.Outcome State Fault Refusal :=
  issue (.cring a b) [a.x, b.x] (fun t =>
    let core := slotCore s.here
    let base := t.xr a.r
    let img := t.xr b.r
    let kn := coreClus core
    let ring := bits img.toNat 5 2
    let target := ringTarget img
    let tile := match addrKind base with
      | .tile _ _ => true
      | _ => false
    let bad := bits img.toNat 8 8 != 0 || bits img.toNat 32 32 != 0 || 16 < ringLog img ||
      base.toNat % (32 * 2 ^ ringLog img) != 0 || tile ||
      (ringNote img && !s.inLaunch t (coreClus target))
    let bind := fun (s : State) =>
      let k := s.cluster kn
      Res.done ((s.setCluster kn { k with
        rings := if base = 0 then k.rings.del ring else k.rings.put ring ⟨base, img, 0⟩ }).setMe (t.advance 4))
    if bad then Res.prot Cause.badRing base
    else if base = 0 then bind s
    else if addrKind base = .badForm then Res.prot Cause.addressForm base
    else if t.walking then .hold
    else match s.resolve t core [] true [base.toNat / 16384] with
      | .walk _ => .walk base true false
      | .noWrite _ => .trap (.translation 2 true base) base
      | .ok spots =>
        match spotOf spots base.toNat with
        | none => .hold
        | some p => if p.dom == .package && p.remote (coreDie core) then Res.prot Cause.badRing base else bind s) s

/-! Copies (R254 to R256). -/

/-- Geometry fields before the addresses are known. -/
structure GeomBits where
  esz : Nat
  rag : Bool
  tofifo : Bool
  fbank : Nat
  ring : Nat
  rrec : Bool
  mask : Nat
  n0 : Nat
  n1 : Nat
  n2 : Nat
  tag : BitVec 16
  bad : Bool
  deriving DecidableEq, Repr

/-- A field of a descriptor in a vector register. -/
def vbits (v : Vec) (lo n : Nat) : Nat := bits v.toNat lo n

def geomBits (v : Vec) : GeomBits where
  esz := 2 ^ vbits v 0 2
  rag := vbits v 2 1 == 1
  tofifo := vbits v 3 1 == 1
  fbank := vbits v 4 5
  ring := vbits v 9 2
  rrec := vbits v 11 1 == 1
  mask := vbits v 16 16
  n0 := vbits v 32 32
  n1 := vbits v 64 32
  n2 := vbits v 96 32
  tag := BitVec.ofNat 16 (vbits v 176 16)
  bad := vbits v 12 4 != 0 || vbits v 240 16 != 0 || vbits v 304 16 != 0 || vbits v 368 16 != 0 ||
    vbits v 506 6 != 0

/-- The clusters of a multicast mask; no mask names the issuing cluster (R66). -/
def castList (clus mask : Nat) : List Nat :=
  if mask = 0 then [clus] else ((List.range 16).filter fun i => mask.testBit i).map fun i => clus / 16 * 16 + i

/-- A bounding interval of a box, relative to its base (R256). -/
def boxBounds (g : GeomBits) (s1 s2 : Int) : Int × Int :=
  let a := ((g.n1 : Int) - 1) * s1
  let b := ((g.n2 : Int) - 1) * s2
  (min 0 a + min 0 b, max 0 a + max 0 b + (g.n0 * g.esz : Nat))

/-- An interval of an operation: its base, its bounds relative to the base, and whether it is written. -/
structure Interval where
  base : Word
  lo : Int
  hi : Int
  write : Bool
  deriving DecidableEq, Repr

def Interval.tile (v : Interval) : Option (BitVec 4 × Nat) :=
  match addrKind v.base with
  | .tile n off => some (n, off)
  | _ => none

/-- First byte and length of a memory interval. -/
def Interval.first (v : Interval) : Int := (v.base.toNat : Int) + v.lo
def Interval.len (v : Interval) : Nat := (v.hi - v.lo).toNat

/-- A memory interval stays in the address space. -/
def Interval.formOk (v : Interval) : Bool :=
  v.tile.isSome || (addrKind v.base == .virtual && 0 ≤ v.first && v.first + (v.len : Nat) ≤ (2 ^ 58 : Nat))

/-- Pages of a memory interval (R256). -/
def Interval.pages (v : Interval) : List Nat :=
  if v.tile.isSome || v.len = 0 then []
  else
    let a := v.first.toNat / 16384
    (List.range ((v.first.toNat + v.len - 1) / 16384 + 1 - a)).map fun i => a + i

def Interval.tooLong (v : Interval) : Bool :=
  v.tile.isNone && v.len != 0 && 64 < (v.first.toNat + v.len - 1) / 16384 + 1 - v.first.toNat / 16384

/-- Where an interval begins in the cluster's SRAM, or none where R43 fails. -/
def Interval.spot (v : Interval) (k : Cluster) (bind : BitVec 4 → Word) : Option Nat :=
  match v.tile with
  | none => none
  | some (n, off) => if (off : Int) + v.lo < 0 then none else tileSpot k (bind n) ((off : Int) + v.lo).toNat v.len

/-- Some bank of a tile interval has a MODE in progress (R40). -/
def Interval.busy (v : Interval) (k : Cluster) (bind : BitVec 4 → Word) : Bool :=
  match v.tile with
  | none => false
  | some (n, off) =>
    match tileByte (bind n) ((off : Int) + v.lo).toNat v.len with
    | some b => 0 ≤ (off : Int) + v.lo && k.busyBanks b v.len
    | none => false

/-- The base of an interval's elements. -/
def Interval.home (v : Interval) (k : Cluster) (bind : BitVec 4 → Word) : EngBase :=
  match v.spot k bind with
  | some b => .sram ((b : Int) - v.lo).toNat
  | none => .mem v.base.toNat

/-- What the checks of an operation come to. -/
inductive Plan where
  | ok (spots : List (Nat × Place))
  | trap (t : Trap) (a : Word)
  | walk (va : Word) (write : Bool)
  deriving DecidableEq, Repr

/-- Translates the pages of intervals, each with its right (R256, R340). -/
def translateAll (f : Nat → Bool → Resolved) : List Interval → Plan
  | [] => .ok []
  | v :: r =>
    let one := v.pages.foldl (fun (a : Plan) p =>
      match a with
      | .ok l =>
        (match f p v.write with
         | .ok q => .ok (l ++ q)
         | .walk va => .walk va v.write
         | .noWrite va => .trap (.translation 2 true va) va)
      | o => o) (.ok [])
    match one with
    | .ok l =>
      (match translateAll f r with
       | .ok q => .ok (l ++ q)
       | o => o)
    | o => o

/-- The stretches of physical memory of an interval, page by page. -/
def Interval.stretches (v : Interval) (spots : List (Nat × Place)) : List (Nat × Nat) :=
  v.pages.filterMap fun p =>
    let a := max v.first.toNat (p * 16384)
    let e := min (v.first.toNat + v.len) ((p + 1) * 16384)
    (spotOf spots a).map fun q => (q.pa, e - a)

/-- The scoreboard entry of an operation (R65). -/
def boardOf (id : Nat) (k : Cluster) (bind : BitVec 4 → Word) (spots : List (Nat × Place)) (ivs : List Interval) :
    BoardEntry :=
  let mem := fun (w : Bool) => (ivs.filter fun v => v.write == w).flatMap fun v => v.stretches spots
  let scr := fun (w : Bool) => (ivs.filter fun v => v.write == w).filterMap fun v => (v.spot k bind).map fun b => (b, v.len)
  ⟨id, mem false, mem true, scr false, scr true⟩

/-- The intervals of a copy (R256): source, row offsets, destination. -/
def copyIntervals (g : GeomBits) (v : Vec) (xa xb : Word) : List Interval :=
  let sb := boxBounds g (signedOf (vbits v 128 48) 48) (signedOf (vbits v 192 48) 48)
  let db := boxBounds g (signedOf (vbits v 256 48) 48) (signedOf (vbits v 320 48) 48)
  (if g.rag then
    [⟨xa, 0, (g.esz * vbits v 128 48 : Nat), false⟩,
     ⟨BitVec.ofNat 64 (vbits v 448 58), 0, (4 * (g.n1 * g.n2 + 1) : Nat), false⟩]
   else [⟨xa, sb.1, sb.2, false⟩]) ++
  (if g.tofifo then [] else [⟨xb, db.1, db.2, true⟩])

/-- The checks of R256 before translation, in the order of R175. -/
def copyChecks (g : GeomBits) (v : Vec) (xa xb : Word) (k : Cluster) (co : Core) (bind : BitVec 4 → Word) :
    Option (Trap × Word) :=
  let ivs := copyIntervals g v xa xb
  let total := g.n0 * g.n1 * g.n2 * g.esz
  let range := fun n => 1 ≤ n && n ≤ 65536
  let tiled := match addrKind xb with
    | .tile _ _ => true
    | _ => false
  if xa.toNat % g.esz ≠ 0 then some (.alignment, xa)
  else if !g.tofifo && xb.toNat % g.esz != 0 then some (.alignment, xb)
  else if g.rag && vbits v 448 58 % 4 != 0 then some (.alignment, BitVec.ofNat 64 (vbits v 448 58))
  else if g.bad || !range g.n0 || !range g.n1 || !range g.n2 || 23 < g.fbank ||
      (g.tofifo && (total % 128 != 0 || g.mask != 0)) || (g.mask != 0 && !g.tofifo && !tiled) ||
      ivs.any Interval.tooLong then some (.protection Cause.badGeometry, 0)
  else match ivs.find? fun v => !v.formOk with
    | some v => some (.protection Cause.addressForm, v.base)
    | none =>
      if g.tofifo && k.mode g.fbank != .fifo && !k.busyBank g.fbank then some (.protection Cause.notFifo, 0)
      else match ivs.find? fun v => v.tile.isSome && (v.spot k bind).isNone && !v.busy k bind with
        | some v => some (.protection Cause.tileBounds, v.base)
        | none =>
          match ivs.find? fun v => v.write && v.pages.any fun p => anyRo [co.region (p * 16384)] with
          | some v => some (.protection Cause.readOnly, v.base)
          | none => none

/-- The geometry with its ends resolved. -/
def geometryOf (g : GeomBits) (v : Vec) (xa xb : Word) (clus : Nat) (k : Cluster) (bind : BitVec 4 → Word) :
    Geometry :=
  let ivs := copyIntervals g v xa xb
  { esz := g.esz, rag := g.rag, fifo := if g.tofifo then some g.fbank else none, n0 := g.n0, n1 := g.n1, n2 := g.n2,
    ss1 := signedOf (vbits v 128 48) 48, ss2 := signedOf (vbits v 192 48) 48,
    ds1 := signedOf (vbits v 256 48) 48, ds2 := signedOf (vbits v 320 48) 48,
    pad := vbits v 384 64 % 2 ^ (8 * g.esz), span := vbits v 128 48, roff := vbits v 448 58,
    src := match ivs.head? with
      | some i => i.home k bind
      | none => .mem 0
    dst := match ivs.getLast? with
      | some i => if g.tofifo then .mem 0 else i.home k bind
      | none => .mem 0
    mcast := castList clus g.mask }

/-! The elements of a copy (R255). -/

def Geometry.rows (g : Geometry) : Nat := g.n1 * g.n2
def Geometry.elems (g : Geometry) : Nat := g.n0 * g.rows

/-- Length, base relative to the source, and RANGE of row `r`. -/
def Geometry.row (g : Geometry) (offs : Tab Nat) (r : Nat) : Nat × Int × Bool :=
  if g.rag then
    let o := offs.get r 0
    let e := offs.get (r + 1) 0
    let len := e - o
    let bad := e < o
    if o + len > g.span then (g.span - o, (g.esz * o : Nat), true) else (len, (g.esz * o : Nat), bad)
  else (g.n0, (r / g.n1 : Nat) * g.ss2 + (r % g.n1 : Nat) * g.ss1, false)

/-- Byte offset of element `i` at the source and at the destination. -/
def Geometry.srcOff (g : Geometry) (offs : Tab Nat) (i : Nat) : Int :=
  (g.row offs (i / g.n0)).2.1 + (g.esz * (i % g.n0) : Nat)

def Geometry.dstOff (g : Geometry) (i : Nat) : Int :=
  let r := i / g.n0
  (r / g.n1 : Nat) * g.ds2 + (r % g.n1 : Nat) * g.ds1 + (g.esz * (i % g.n0) : Nat)

/-- The elements once the rows are known: reads, and for a destination that is no FIFO the pads as writes. -/
def Geometry.start (g : Geometry) (offs : Tab Nat) : List EngAcc :=
  (List.range g.elems).filterMap fun i =>
    if i % g.n0 < (g.row offs (i / g.n0)).1 then some (.read i 0)
    else if g.fifo.isSome then none
    else some (.write i g.pad false)

def Geometry.truncated (g : Geometry) (offs : Tab Nat) : Nat :=
  ((List.range g.rows).filter fun r => g.n0 < (g.row offs r).1).length

def Geometry.anyRange (g : Geometry) (offs : Tab Nat) : Bool :=
  (List.range g.rows).any fun r => (g.row offs r).2.2

/-- The value of a FIFO entry of the stream. -/
def Geometry.entry (g : Geometry) (got : Tab (Nat × Bool)) (j : Nat) : Line :=
  let per := 128 / g.esz
  BitVec.ofNat 1024 (packNat (8 * g.esz) ((List.range per).map fun i => (got.get (j * per + i) (g.pad, false)).1))


/-- The bytes of a FIFO entry of the stream that are poison (R252 CODE 1). -/
def Geometry.badEntry (g : Geometry) (got : Tab (Nat × Bool)) (j : Nat) : ByteMask :=
  let per := 128 / g.esz
  (List.range per).foldl (fun (m : ByteMask) i =>
    if (got.get (j * per + i) (0, false)).2 then m ||| byteMask (g.esz * i) g.esz else m) 0

/-! Forking (R80). -/

/-- A copy as an engine operation. -/
def copyEngine (id kind clus core func : Nat) (g : Geometry) (spots : List (Nat × Place)) (ring : Option Nat)
    (status : Option (Nat × RegNo)) (tag : BitVec 16) : Engine :=
  { id := id, kind := kind, clus := clus, core := core, func := func, job := .copy g, spots := spots, ready := true,
    todo := if g.rag then (List.range (g.rows + 1)).map .offset else g.start [], got := [], offs := [], ring := ring,
    status := status, tag := tag, codes := [], bytes := g.elems * g.esz, aux := 0, aux2 := 0 }

/-- Room for a scoreboard entry in every named cluster (R65, R66). -/
def State.boardFree (s : State) (l : List Nat) : Bool := l.all fun k => (s.cluster k).board.length < 32

/-- An operation that names a line of a pending fetch of its strand waits (R72), and one that names a bank into which an ACCCVT
of the strand still has to write (R37). -/
def Cluster.forkHeld (k : Cluster) (ctx : Nat) (b : BoardEntry) : Bool :=
  ((b.srcMem ++ b.dstMem).any fun r => (List.range (linesOf r.1 r.2).2).any fun i => k.pendingOn ctx ((linesOf r.1 r.2).1 + i)) ||
    (b.srcScratch ++ b.dstScratch).any fun r => k.cvtOn ctx r.1 r.2

/-- Puts an operation and its scoreboard entries in place. -/
def State.fork (s : State) (e : Engine) (b : BoardEntry) (others : List Nat) : State :=
  let k := s.cluster e.clus
  let s := s.setCluster e.clus { k with board := k.board ++ [b] }
  let s := (others.filter fun c => c != e.clus).foldl (fun s c =>
    let k := s.cluster c
    s.setCluster c { k with board := k.board ++ [⟨b.engine, [], [], [], b.dstScratch⟩] }) s
  { s with engines := s.engines ++ [e], serial := s.serial + 1 }

/-- CPY (R254, R256). -/
def execCpy (d : RegNo) (a b : Src) (e : RegNo) (s : State) : Host.Outcome State Fault Refusal :=
  issue (.cpy d a b e) [a.x, b.x, .vs e false, .xd d] (fun t =>
    let core := slotCore s.here
    let kn := coreClus core
    let k := s.cluster kn
    let v := t.vr e
    let g := geomBits v
    let xa := t.xr a.r
    let xb := t.xr b.r
    let ivs := copyIntervals g v xa xb
    let cast := castList kn g.mask
    match copyChecks g v xa xb k (s.core core) t.nr with
    | some (tr, va) => .trap tr va
    | none =>
      if t.walking || !s.boardFree (kn :: cast) || (g.tofifo && k.busyBank g.fbank) ||
          (ivs.any fun v => v.busy k t.nr) then .hold
      else match translateAll (fun p w => s.resolve t core [] w [p]) ivs with
        | .walk va w => .walk va w false
        | .trap tr va => .trap tr va
        | .ok spots =>
          let job := copyEngine s.serial 1 kn core t.func (geometryOf g v xa xb kn k t.nr) spots
            (if g.rrec then some g.ring else none) (if d = 0 then none else some (t.ctx, d)) g.tag
          let b := boardOf s.serial k t.nr spots ivs
          if k.forkHeld t.ctx b then .hold else .done ((s.fork job b cast).setMe ((t.pendDestX d).advance 4))) s

/-! The static schedule (R257, R320). -/

/-- CSTG (R257). -/
def execCstg (a : Src) (s : State) : Host.Outcome State Fault Refusal :=
  issue (.cstg a) [a.x] (fun t =>
    let v := t.xr a.r
    let kn := coreClus (slotCore s.here)
    let k := s.cluster kn
    if v.extractLsb' 32 32 ≠ 0 then Res.prot Cause.reservedBits 0
    else if t.walking then .hold
    else
      let n := v.extractLsb' 0 32
      .done ((s.setCluster kn { k with sc := if k.sc < n then n else k.sc }).setMe (t.advance 4))) s

/-- A page as hardware translates it for a schedule entry. -/
def State.walkPage (s : State) (core f p : Nat) (write : Bool) : Resolved :=
  match s.pageWalk f (p * 16384) with
  | .ok x => if write && !x.w then .noWrite 0 else .ok [(p, s.placeBy core x (p * 16384))]
  | .wait _ | .held => .walk 0
  | .fail _ => .noWrite 0

/-- SCHEDULE_ENTRY_START (R257, R320): the next entry starts; one that fails a check completes with RANGE. -/
def execScheduleEntryStart (clus : Nat) (s : State) : Host.Outcome State Fault Refusal :=
  let k := s.cluster clus
  event s (match (k.holder.bind fun n => (s.launches.find n).map fun l => (n, l)) with
    | none => none
    | some (_, l) =>
      let core := 32 * clus
      let at' := (l.word 424).toNat + l.rank clus * (l.word 440).toNat + 128 * k.sched
      if bits (l.word 432).toNat 0 16 ≤ k.sched || !k.started then none
      else match s.readVa l.func at' 128 with
        | none => none
        | some r =>
          if k.sc.toNat < bits r 0 32 || 32 ≤ k.board.length then none
          else
            let v : Vec := BitVec.ofNat 512 (bits r 512 512)
            let g := geomBits v
            let xa := BitVec.ofNat 64 (bits r 64 64)
            let xb := BitVec.ofNat 64 (bits r 128 64)
            let bind := fun (n : BitVec 4) => l.binding n.toNat
            let ring := bits r 32 2
            let ivs := copyIntervals g v xa xb
            let cast := castList clus g.mask
            let s1 := s.setCluster clus { k with sched := k.sched + 1 }
            let dead : State := { s1 with
              engines := s1.engines ++ [{ copyEngine s.serial 2 clus core l.func
                  ⟨1, false, none, 1, 1, 0, 0, 0, 0, 0, 0, 0, 0, .mem 0, .mem 0, []⟩ [] (some ring) none g.tag with
                codes := [codeRange] }]
              serial := s1.serial + 1 }
            if bits r 34 30 ≠ 0 || bits r 192 320 ≠ 0 || (k.rings.find ring).isNone ||
                (copyChecks g v xa xb k (s.core core) bind).isSome then some dead
            else if !s.boardFree (clus :: cast) || (g.tofifo && k.busyBank g.fbank) || (ivs.any fun v => v.busy k bind) then none
            else match translateAll (s.walkPage core l.func) ivs with
              | .walk _ _ => none
              | .trap _ _ => some dead
              | .ok spots =>
                some (s1.fork (copyEngine s.serial 2 clus core l.func (geometryOf g v xa xb clus k bind) spots
                  (some ring) none g.tag) (boardOf s.serial k bind spots ivs) cast))

/-! Near-memory operations (R64, R258). -/

/-- The formats of NMR. -/
def reducible : Elem → Bool
  | .f32 | .f64 | .bf16 | .s32 | .s64 => true
  | _ => false

/-- Bytes of `n` elements packed by R90. -/
def packedBytes (e : Elem) (n : Nat) : Nat := (n * e.bits + 7) / 8

/-- The descriptor of R258, or none where BAD_DESC applies. -/
def nearOf (kind : Nat) (v : Vec) (mode : Round) (xa xb : Word) : Option Near :=
  let rnd := vbits v 20 3
  match Elem.ofCode (BitVec.ofNat 5 (vbits v 8 5)), Elem.ofCode (BitVec.ofNat 5 (vbits v 13 5)) with
  | some st, some dt =>
    let bad := vbits v 2 6 != 0 || vbits v 24 8 != 0 || vbits v 122 6 != 0 || bits v.toNat 208 304 != 0 || 5 ≤ rnd ||
      vbits v 32 32 == 0 || 1048576 < vbits v 32 32 ||
      (kind == 3 && (st != dt || st.bits < 8)) ||
      (kind == 4 && (st != dt || !reducible st || vbits v 18 2 == 3 || vbits v 128 16 < 2 || 256 < vbits v 128 16)) ||
      (kind == 5 && st == dt)
    if bad then none
    else some
      { kind := kind, set := st, det := dt, op := vbits v 18 2,
        mode := (match rnd with
          | 1 => .rne | 2 => .rtz | 3 => .rdn | 4 => .rup | _ => mode)
        sat := vbits v 23 1 == 1, count := vbits v 32 32, idx := vbits v 64 58,
        nsrc := if kind = 4 then vbits v 128 16 else 1, sstr := vbits v 160 48, src := xa.toNat, dst := xb.toNat }
  | _, _ => none

/-- The intervals of a near-memory operation: source, index array, destination. -/
def nearIntervals (n : Near) : List Interval :=
  let sz := n.set.bits / 8
  let b := BitVec.ofNat 64 n.src
  let last := ((n.nsrc : Int) - 1) * signedOf n.sstr 48
  [match n.kind with
   | 3 => ⟨b, 0, (max 1 (n.sstr * sz) : Nat), false⟩
   | 4 => ⟨b, min 0 last, max 0 last + (n.count * sz : Nat), false⟩
   | _ => ⟨b, 0, (packedBytes n.set n.count : Nat), false⟩] ++
  (if n.kind = 3 then [⟨BitVec.ofNat 64 n.idx, 0, (4 * n.count : Nat), false⟩] else []) ++
  [⟨BitVec.ofNat 64 n.dst, 0, (packedBytes n.det n.count : Nat), true⟩]

/-- Bytes to which a type's arrays are aligned. -/
def elemAlign (e : Elem) : Nat := max 1 (e.bits / 8)

/-- The address is not aligned to the type of a code, where the code is legal. -/
def offType (code : Nat) (a : Word) : Bool :=
  (Elem.ofCode (BitVec.ofNat 5 code)).any fun e => a.toNat % elemAlign e != 0

/-- The first misaligned address of a near-memory operation (R258), which comes before BAD_DESC (R175); an illegal type asks
for no alignment. -/
def nearAlign (kind : Nat) (v : Vec) (xa xb : Word) : Option Word :=
  if offType (vbits v 8 5) xa then some xa
  else if offType (vbits v 13 5) xb then some xb
  else if kind = 3 ∧ vbits v 64 58 % 4 ≠ 0 then some (BitVec.ofNat 64 (vbits v 64 58))
  else none

/-- NMG, NMR and NMC at issue (R256, R258). -/
def nearIssue (i : Instr) (kind : Nat) (a b : Src) (e : RegNo) (s : State) : Host.Outcome State Fault Refusal :=
  issue i [a.x, b.x, .vs e false] (fun t =>
    let core := slotCore s.here
    let kn := coreClus core
    let k := s.cluster kn
    let v := t.vr e
    let ring := vbits v 0 2
    let xa := t.xr a.r
    let xb := t.xr b.r
    match nearAlign kind v xa xb, nearOf kind v (frmMode t.frm) xa xb with
    | some a, _ => .trap .alignment a
    | none, none => Res.prot Cause.badDesc 0
    | none, some n =>
      let ivs := nearIntervals n
      if (k.rings.find ring).isNone then Res.prot Cause.noRing 0
      else match ivs.find? fun v => !v.formOk || v.tile.isSome with
        | some v => Res.prot Cause.addressForm v.base
        | none =>
          if ivs.any Interval.tooLong then Res.prot Cause.badGeometry 0
          else match ivs.find? fun v => v.write && v.pages.any fun p => anyRo [(s.core core).region (p * 16384)] with
            | some v => Res.prot Cause.readOnly v.base
            | none =>
              if t.walking || !s.boardFree [kn] then .hold
              else match translateAll (fun p w => s.resolve t core [] w [p]) ivs with
                | .walk va w => .walk va w false
                | .trap tr va => .trap tr va
                | .ok spots =>
                  let job : Engine :=
                    { id := s.serial, kind := kind, clus := kn, core := core, func := t.func, job := .near n, spots := spots,
                      ready := false, todo := [], got := [], offs := [], ring := some ring, status := none,
                      tag := BitVec.ofNat 16 (vbits v 144 16), codes := [], bytes := 0, aux := 0, aux2 := 0 }
                  let b := boardOf s.serial k t.nr spots ivs
                  if k.forkHeld t.ctx b then .hold else .done ((s.fork job b []).setMe (t.advance 4))) s

/-- NMG (R258). -/
def execNmg (a b : Src) (e : RegNo) (s : State) := nearIssue (.nmg a b e) 3 a b e s
/-- NMR (R258). -/
def execNmr (a b : Src) (e : RegNo) (s : State) := nearIssue (.nmr a b e) 4 a b e s
/-- NMC (R258). -/
def execNmc (a b : Src) (e : RegNo) (s : State) := nearIssue (.nmc a b e) 5 a b e s

/-- The stack of a physical address (R323): die and stack. -/
def stackOf (pa : Nat) : Nat := if paHost pa then 16 else 2 * paDie pa + bits pa 14 1

def State.setEngine (s : State) (e : Engine) : State :=
  { s with engines := s.engines.map fun o => if o.id = e.id then e else o }

def State.engine (s : State) (id : Nat) : Option Engine := s.engines.find? fun e => e.id == id

/-- NEAR_MEMORY_EXEC (R64): the base die acts once the home slices have written back; data on two stacks
completes with SPLIT_STACK and nothing acts. -/
def execNearMemoryExec (id : Nat) (s : State) : Host.Outcome State Fault Refusal :=
  event s (match s.engine id with
    | none => none
    | some e =>
      match e.job with
      | .copy _ => none
      | .near n =>
        if e.ready then none
        else
          let sides := e.spots.map fun p => stackOf p.2.pa
          let first := ((spotOf e.spots n.src).map fun p => stackOf p.pa).getD 16
          if first = 16 || sides.any (fun x => x != first) then
            some (s.setEngine { e with ready := true, codes := [codeSplit] })
          else
            some (s.setEngine { e with
              ready := true, bytes := packedBytes n.det n.count
              todo := (List.range n.count).flatMap fun i => (List.range n.nsrc).map fun k => .read i k }))

/-! Results of near-memory elements (R258). -/

/-- The rounding of an operation's step: stochastic draws are the device's (log 27). -/
def drawEnv (mode : Round) (op step : Nat) : REnv :=
  ⟨mode, drawLfsr (BitVec.ofNat 24 (Config.engineDraw op step))⟩

/-- One step of NMR on codes. -/
def nearStep (n : Near) (env : REnv) (x y : Nat) : Nat × Flags :=
  match n.set.fmt with
  | some f =>
    (match n.op with
     | 0 => let r := fpAdd f env (unpack f x) (unpack f y); (r.code, r.flags)
     | 1 => fpMinMax f false x y
     | _ => fpMinMax f true x y)
  | none =>
    let w := n.set.bits
    (match n.op with
     | 0 => ((x + y) % 2 ^ w, 0)
     | 1 => (if signedOf x w ≤ signedOf y w then x else y, 0)
     | _ => (if signedOf x w ≤ signedOf y w then y else x, 0))

/-- The result of element `i` from its sources in order. -/
def nearResult (n : Near) (op i : Nat) (xs : List Nat) : Nat × Flags :=
  match n.kind with
  | 5 =>
    let r := convertElem n.set n.det (drawEnv n.mode op i) n.sat (xs.headD 0)
    (r.code, r.flags)
  | 4 =>
    (xs.drop 1).zipIdx.foldl (fun a (y, k) =>
      let r := nearStep n (drawEnv n.mode op (256 * i + k + 1)) a.1 y
      (r.1, a.2 ||| r.2)) (xs.headD 0, 0)
  | _ => (xs.headD 0, 0)

/-! Performing accesses (R80). -/

/-- Bytes of the SRAM of a cluster at an offset that may be negative only for an operation that failed. -/
def sramAt (b : Nat) (off : Int) : Nat := ((b : Int) + off).toNat

/-- The pieces of a stretch of virtual memory. -/
def vaPieces (b : Nat) (off : Int) (n : Nat) : List (Nat × Nat) := pieces ((b : Int) + off).toNat n

/-- A read of the operation's memory at the places it translated. -/
def State.engRead (s : State) (e : Engine) (copy : Bool) (l : List (Nat × Nat)) : EngRes (Nat × Bool) :=
  let w : Who := ⟨e.core, e.id, e.func, 5⟩
  s.engReadAll (fun s a n =>
    match spotOf e.spots a with
    | none => .wait
    | some p =>
      if copy then s.engReadCache w p (BitVec.ofNat 64 a) n
      else s.engReadHome e.core e.func (BitVec.ofNat 64 a) p.pa n) l

def State.engStore (s : State) (e : Engine) (v : Nat) (bad : Bool) (l : List (Nat × Nat)) : EngRes Unit :=
  let w : Who := ⟨e.core, e.id, e.func, 5⟩
  s.engWriteAll (fun s a v n =>
    match spotOf e.spots a with
    | none => .wait
    | some p => s.engWrite w p.pa (BitVec.ofNat 64 a) (v % 2 ^ (8 * n)) n bad) v l

/-- The bytes of the destination's bounding interval, relative to its base: the first and the number (R65, R256). -/
def Geometry.dstBounds (g : Geometry) : Int × Nat :=
  let a := ((g.n1 : Int) - 1) * g.ds1
  let b := ((g.n2 : Int) - 1) * g.ds2
  (min 0 a + min 0 b, (max 0 a + max 0 b - (min 0 a + min 0 b)).toNat + g.n0 * g.esz)

/-- A named cluster receives nothing: it is held by another launch, or a bank of the destination is not in SCRATCH mode
(R66, R357, R380). -/
def State.castMisses (s : State) (e : Engine) (g : Geometry) (c b : Nat) : Bool :=
  let k := s.cluster c
  let d := g.dstBounds
  e.aux2.testBit (c % 16) || k.holder != (s.cluster e.clus).holder || !k.inScratch ((b : Int) + d.1).toNat d.2

/-- Writes element bytes at `at'` into the scratch of every named cluster; `b` is the base of the destination. Poison goes
with the bytes (R252 CODE 1). -/
def State.castWrite (s : State) (e : Engine) (g : Geometry) (b at' v : Nat) (bad : Bool) : State × Engine :=
  g.mcast.foldl (fun a c =>
    if a.1.castMisses a.2 g c b then
      (a.1, { a.2 with aux2 := a.2.aux2 ||| 2 ^ (c % 16), codes := codeNotScratch :: a.2.codes.filter fun x => x != codeNotScratch })
    else
      let k := (a.1.cluster c).writeSram at' v g.esz
      (a.1.setCluster c (if bad then k.markSram at' g.esz true else k), a.2)) (s, e)

/-- An access is done: it leaves the list. -/
def Engine.without (e : Engine) (i : Nat) : Engine := { e with todo := e.todo.eraseIdx i }

/-- The value of a read of a copy joins the operation. -/
def Engine.copyGot (e : Engine) (g : Geometry) (i v : Nat) (bad : Bool) : Engine :=
  let e := if bad then { e with codes := codePoison :: e.codes.filter fun x => x != codePoison } else e
  match g.fifo with
  | none => { e with todo := e.todo ++ [.write i v bad] }
  | some _ => { e with got := e.got.put i (v, bad) }

/-- What follows once a stage of a copy has ended: rows after offsets, pushes after the reads of a stream. -/
def Engine.stage (e : Engine) (g : Geometry) (was : EngAcc) : Engine :=
  if !e.todo.isEmpty then e
  else match was with
    | .offset _ =>
      let e := { e with
        todo := g.start e.offs, aux := g.truncated e.offs
        codes := if g.anyRange e.offs then codeRange :: e.codes else e.codes }
      if e.todo.isEmpty && g.fifo.isSome then { e with todo := (List.range (g.elems * g.esz / 128)).map .push } else e
    | .read _ _ => if g.fifo.isSome then { e with todo := (List.range (g.elems * g.esz / 128)).map .push } else e
    | _ => e

/-- One access of a copy (R255). -/
def State.copyAccess (s : State) (e : Engine) (g : Geometry) (i : Nat) (a : EngAcc) : EngRes Engine :=
  match a with
  | .offset r =>
    (match s.engRead e true (pieces (g.roff + 4 * r) 4) with
     | .done s v =>
       let e := { e.without i with offs := e.offs.put r v.1 }
       .done s ((if v.2 then { e with codes := codePoison :: e.codes.filter fun x => x != codePoison } else e).stage g a)
     | .first s => .first s
     | .wait => .wait)
  | .read j _ =>
    let off := g.srcOff e.offs j
    (match g.src with
     | .sram b =>
       let k := s.cluster e.clus
       if s.sramBusy e.clus (sramAt b off) g.esz then .wait else .done s (((e.without i).copyGot g j (k.readSram (sramAt b off) g.esz) (k.badAt (sramAt b off) g.esz)).stage g a)
     | .mem b =>
       match s.engRead e true (vaPieces b off g.esz) with
       | .done s v => .done s (((e.without i).copyGot g j v.1 v.2).stage g a)
       | .first s => .first s
       | .wait => .wait)
  | .write j v bad =>
    let off := g.dstOff j
    (match g.dst with
     | .sram b =>
       let r := s.castWrite (e.without i) g b (sramAt b off) v bad
       if g.mcast.any fun c => s.sramBusy c (sramAt b off) g.esz then .wait else .done r.1 r.2
     | .mem b =>
       match s.engStore e v bad (vaPieces b off g.esz) with
       | .done s _ => .done s (e.without i)
       | .first s => .first s
       | .wait => .wait)
  | .push j =>
    match g.fifo with
    | none => .done s (e.without i)
    | some bank =>
      let k := s.cluster e.clus
      let f := k.fifos.get bank .reset
      if i ≠ 0 || k.mode bank != .fifo || k.busyBank bank || f.low.isSome || 128 ≤ f.entries.length ||
          s.sramBusy e.clus (16384 * bank) 16384 then .wait
      else
        .done (s.setCluster e.clus { k with fifos := k.fifos.put bank { f with entries := f.entries ++ [g.entry e.got j], bad := f.bad ++ [g.badEntry e.got j] } })
          (e.without i)

/-- Byte and bit where a packed element lies, and the bytes that hold it (R90). -/
def packedAt (t : Elem) (i : Nat) : Nat × Nat × Nat :=
  let b := t.bits * i
  (b / 8, b % 8, (b % 8 + t.bits + 7) / 8)

/-- One access of a near-memory operation (R258). -/
def State.nearAccess (s : State) (e : Engine) (n : Near) (i : Nat) (a : EngAcc) : EngRes Engine :=
  let poison := fun (e : Engine) (bad : Bool) =>
    if bad then { e with codes := codePoison :: e.codes.filter fun x => x != codePoison } else e
  let range := fun (e : Engine) => { e with codes := codeRange :: e.codes.filter fun x => x != codeRange }
  match a with
  | .read j k =>
    if n.kind = 3 && k = 0 then
      -- the index of a gather
      (match s.engRead e false (pieces (n.idx + 4 * j) 4) with
       | .done s v =>
         let e := poison (e.without i) v.2
         .done s (if n.sstr ≤ v.1 then range { e with todo := e.todo ++ [.write j 0 v.2] }
           else { e with todo := e.todo ++ [.read j 1], got := e.got.put j v })
       | .first s => .first s
       | .wait => .wait)
    else
      let x := e.got.get j (0, false)
      let q := packedAt n.set (if n.kind = 3 then x.1 else j)
      let off : Int := (q.1 : Int) + (if n.kind = 4 then (k : Int) * signedOf n.sstr 48 else 0)
      match s.engRead e false (vaPieces n.src off q.2.2) with
      | .done s v =>
        let val := v.1 / 2 ^ q.2.1 % 2 ^ n.set.bits
        let e := poison (e.without i) v.2
        let key := 256 * j + k
        let got := if n.kind = 3 then e.got.del j else e.got.put key (val, v.2)
        let have' := if n.kind = 3 then [(val, v.2 || x.2)]
          else (List.range n.nsrc).filterMap fun m => got.find (256 * j + m)
        if n.kind ≠ 3 && have'.length < n.nsrc then .done s { e with got := got }
        else
          let r := nearResult n e.id j (have'.map fun h => h.1)
          .done s { e with
            got := (List.range n.nsrc).foldl (fun t m => t.del (256 * j + m)) got
            todo := e.todo ++ [.write j r.1 (have'.any fun h => h.2)]
            aux := e.aux ||| r.2 }
      | .first s => .first s
      | .wait => .wait
  | .write j v bad =>
    let q := packedAt n.det j
    let whole := n.det.bits % 8 = 0
    (match s.engRead e false (vaPieces n.dst q.1 q.2.2) with
     | .done s1 old =>
       let m := (2 ^ n.det.bits - 1) * 2 ^ q.2.1
       let new := if whole then v else (old.1 - (old.1 &&& m)) + v % 2 ^ n.det.bits * 2 ^ q.2.1
       (match (if whole then s else s1).engStore e new bad (vaPieces n.dst q.1 q.2.2) with
        | .done s _ => .done s (e.without i)
        | .first s => .first s
        | .wait => .wait)
     | .first s => .first s
     | .wait => .wait)
  | _ => .done s (e.without i)

/-- After the last access the entries retire and the completion objects are written (R80, R252). -/
def State.finishEngine (s : State) (e : Engine) : Option State :=
  if !e.ready || !e.todo.isEmpty || s.engHeld e.id then none
  else
    let code := lowestCode e.codes
    let r := recordBits code e.kind e.tag e.bytes e.aux e.aux2 (s.die (coreDie e.core)).ptc
    let rec' := match e.ring with
      | some g => s.writeRecord e.clus e.core g r
      | none => .done s ()
    match rec' with
    | .wait => none
    | .first s => some s
    | .done s _ =>
      let s := match e.status with
        | some (ctx, d) => s.onCtx ctx fun t => t.setX d (BitVec.ofNat 64 (statusWord code e.kind e.tag e.bytes))
        | none => s
      some { s with
        engines := s.engines.filter fun o => o.id != e.id
        clusters := s.clusters.map fun c => (c.1, { c.2 with board := c.2.board.filter fun b => b.engine != e.id }) }

/-- ENG of a copy or a near-memory operation (R70, R80): access `i` of what is left; after the last, its completion
object. -/
def State.engStep (s : State) (e : Engine) (i : Nat) : Option State :=
  match e.todo[i]? with
  | none => s.finishEngine e
  | some a =>
    let r := match e.job with
      | .copy g => s.copyAccess e g i a
      | .near n => s.nearAccess e n i a
    match r with
    | .wait => none
    | .first s => some s
    | .done s e =>
      let s := s.setEngine e
      some (((s.finishEngine e).getD s).sweep)

end Sys2Proof.Machine
end

