-- ==== Sys2Proof/Machine/Control.lean ====
section
/-! DEFINITION. Branches, calls, loops and vector-predicated regions (spec/07_isa_scalar.md R167 to R171). -/

namespace Sys2Proof.Machine

/-- A displacement target (R130). -/
def Strand.target {n : Nat} (t : Strand) (j : BitVec n) : Word := relTarget t.pc j.toInt

/-- BR (R167). -/
def execBr (j : BitVec 26) (s : State) : Host.Outcome State Fault Refusal :=
  issue (.br j) [] (fun t => .done (s.setMe (t.goto (t.target j) .branch))) s

/-- The link register (R169, R289). -/
def linkReg : RegNo := 24

/-- The core's return stack after a call and after a return (R167, R300). -/
def State.pushReturn (s : State) (hdr : Word) : State :=
  let c := slotCore s.here
  let co := s.core c
  s.setCore c { co with rstack := (hdr :: co.rstack).take 8 }

def State.popReturn (s : State) : State :=
  let c := slotCore s.here
  let co := s.core c
  s.setCore c { co with rstack := co.rstack.drop 1 }

/-- CALL (R169). -/
def execCall (j : BitVec 26) (s : State) : Host.Outcome State Fault Refusal :=
  issue (.call j) [.xd linkReg] (fun t =>
    .done ((s.pushReturn t.nextHeader).setMe ((t.setX linkReg t.nextHeader).goto (t.target j) .branch))) s

def brHolds (c : BrCond) (x y : Word) : Bool :=
  match c with
  | .eq => x == y
  | .ne => x != y
  | .lt => x.slt y
  | .ge => !x.slt y
  | .lo => x.ult y
  | .hs => !x.ult y

/-- BRC (R167). -/
def execBrc (c : BrCond) (a b : RegNo) (j : BitVec 12) (s : State) : Host.Outcome State Fault Refusal :=
  issue (.brc c a b j) [.xs a false, .xs b false] (fun t =>
    .done (s.setMe (if brHolds c (t.xr a) (t.xr b) then t.goto (t.target j) .branch else t.advance 4))) s

/-- LOOPN (R168). -/
def execLoopn (a : RegNo) (j : BitVec 12) (s : State) : Host.Outcome State Fault Refusal :=
  issue (.loopn a j) [.xs a false, .xd a] (fun t =>
    let v := t.xr a - 1
    let u := t.setX a v
    .done (s.setMe (if v ≠ 0 then u.goto (t.target j) .branch else u.advance 4))) s

/-- A register target: bits [2:0] and [63:58] must be 0 (R130). -/
def toRegister (v : Word) (f : Unit → Res) : Res := if headerAddr v then f () else .trap .framing v

/-- BRI (R167). -/
def execBri (a : Src) (s : State) : Host.Outcome State Fault Refusal :=
  issue (.bri a) [a.x] (fun t =>
    toRegister (t.xr a.r) fun _ => .done (s.setMe (t.goto (t.xr a.r) .branch))) s

/-- CALLI (R169): xa is read before the link register is written. -/
def execCalli (a : Src) (s : State) : Host.Outcome State Fault Refusal :=
  issue (.calli a) [a.x, .xd linkReg] (fun t =>
    toRegister (t.xr a.r) fun _ =>
      .done ((s.pushReturn t.nextHeader).setMe ((t.setX linkReg t.nextHeader).goto (t.xr a.r) .branch))) s

/-- RET (R167). -/
def execRet (a : Src) (s : State) : Host.Outcome State Fault Refusal :=
  issue (.ret a) [a.x] (fun t =>
    toRegister (t.xr a.r) fun _ => .done ((s.popReturn).setMe (t.goto (t.xr a.r) .branch))) s

/-- NOP (R167). -/
def execNop (s : State) : Host.Outcome State Fault Refusal := issueReg .nop [] (fun t => t) s

/-! Regions (R170, R171). -/

/-- Whether the words of a rejoin header pass the first two rows of R129. -/
def rejoinOf (t : Strand) : Word := t.hdr + BitVec.ofInt 64 (8 * hdrRejoin t.hword)

/-- VIF (R129, R171): the rejoin header is tested first, then the depth. -/
def execVif (k : BitVec 3) (s : State) : Host.Outcome State Fault Refusal :=
  issue (.vif k) [] (fun t =>
    if hdrRejoin t.hword = 0 then .trap .framing t.hdr
    else match s.code t (slotCore s.here) (rejoinOf t) 8 with
      | .walk va => .walk va false true
      | .trap tr => .trap tr (rejoinOf t)
      | .wait => .hold
      | .ok s' v =>
        if !headerAddr (rejoinOf t) || !hdrFramed (BitVec.ofNat 64 v) then .trap .framing t.hdr
        else if t.region.length = 4 then Res.prot Cause.regionDepth 0
        else
          let e := t.enable &&& t.mr k
          let u := { t with region := (t.enable, t.mr k) :: t.region, enable := e }
          .done (s'.setMe (if e = 0 then u.goto (rejoinOf t) .branch else u.advance 4))) s

/-- VELSE (R171). -/
def execVelse (s : State) : Host.Outcome State Fault Refusal :=
  issue .velse [] (fun t =>
    match t.region with
    | [] => Res.prot Cause.regionNone 0
    | (o, n) :: _ => .done (s.setMe ({ t with enable := o &&& ~~~n }.advance 4))) s

/-- VEND (R171). -/
def execVend (s : State) : Host.Outcome State Fault Refusal :=
  issue .vend [] (fun t =>
    match t.region with
    | [] => Res.prot Cause.regionNone 0
    | (o, _) :: r => .done (s.setMe ({ t with enable := o, region := r }.advance 4))) s

end Sys2Proof.Machine
end

