-- ==== Sys2Proof/Machine/Tasks.lean ====
section
/-! DEFINITION. Task, frame, barrier and binding instructions (spec/09_isa_tasks.md R194 to R213). -/

namespace Sys2Proof.Machine

/-- The strand stands in the SERVER slot (R192). -/
def State.inServer (s : State) : Bool := slotIdx s.here == 4

/-! Frames (R198 to R201). -/

/-- The lowest free counter of a table of `n` (R198). -/
def freeCounter (t : Tab JoinCounter) (n : Nat) : Option Nat :=
  (List.range n).find? fun i => !(t.get i .none).allocated

/-- A counter for a new frame: in the join area, and in the spill table when that is full (R198). It takes the lowest
index that no counter has: which entries registrations occupy is not said, and they are only counted (R29; DESIGN CHOICE,
log 43). -/
def State.newCounter (s : State) (ln : Option Nat) (k : Nat) : Option (BitVec 24) :=
  let c := s.clusterOf ln k
  let area := allocated c.counters + s.registrations ln k < 512
  match (if area then freeCounter c.counters 512 else none) with
  | some i => some (BitVec.ofNat 24 (i + k * 2 ^ 13))
  | none =>
    if ln.isSome && s.spillUsed ln k < 4096 then
      (freeCounter c.spilled 4096).map fun i => BitVec.ofNat 24 (i + 2 ^ 12 + k * 2 ^ 13)
    else none

/-- JCTR that allocates (R198). -/
def State.allocFrame (s : State) (t : Strand) (d : RegNo) (size : Nat) : Res :=
  let k := coreClus (slotCore s.here)
  match s.newCounter t.launch k, s.findRoom t.launch k size [] with
  | some c, some (sp, line) =>
    let r : Rec := ⟨k, sp, 128 * line⟩
    let name := fnMoved (c.zeroExtend 64 <<< 31) r
    let s := (s.setCtr t.launch c ⟨0, true, false, none, 0⟩).takeRoom t.launch k sp line size []
    (match s.writeFields t.launch r
        [⟨0, 8, 0⟩, ⟨8, 8, (linkWord t.jl).toNat⟩, ⟨16, 8, t.wid.toNat⟩, ⟨24, 8, recInfo t.prio t.cls 0 0 size⟩,
         ⟨32, 8, name.toNat⟩, ⟨40, 24, 0⟩] with
     | some s => .done (s.setMe ((t.setX d name).advance 4))
     | none => .hold)
  | _, _ => Res.prot Cause.frameExhausted 0

/-- JCTR that frees (R198). -/
def State.freeFrame (s : State) (t : Strand) (d : RegNo) (f : Word) : Res :=
  let k := coreClus (slotCore s.here)
  let c := fnCtr f
  let j := s.ctr t.launch c
  if !s.nameOk t f then Res.prot Cause.badFrame 0
  else if fnClus f ≠ k ∨ ctrClus c ≠ k then Res.prot Cause.frameRemote 0
  else if j.value ≠ 0 || j.parked.isSome then Res.prot Cause.frameBusy 0
  else
    let s := s.setCtr t.launch c .none
    let s := s.setClusterOf t.launch k ((s.clusterOf t.launch k).giveLine (fnSpill f) (fnOff f / 128))
    .done ((s.placeWaiting t.launch k).setMe ((t.setX d 0).advance 4))

/-- JCTR (R198). -/
def execJctr (d : RegNo) (a : Src) (s : State) : Host.Outcome State Fault Refusal :=
  issue (.jctr d a) [a.x, .xd d] (fun t =>
    let v := t.xr a.r
    if t.walking then .hold
    else if v.getLsbD 63 then s.freeFrame t d (v &&& 0x7FFFFFFFFFFFFFFF)
    else if 3 ≤ v.toNat ∧ v.toNat ≤ 19 then s.allocFrame t d v.toNat
    else Res.prot Cause.badFrame 0) s

/-- The register that carries a frame name (R200). -/
def frameReg (a : RegNo) : Bool := a.toNat != 0 && a.toNat < 25

/-- The continuation header's word, read as code is (R197, R200). -/
def State.contHeader (s : State) (t : Strand) (f : State → Word → Res) : Res :=
  if !headerAddr t.nextHeader then f s 0
  else match s.code t (slotCore s.here) t.nextHeader 8 with
    | .walk va => .walk va false true
    | .trap tr => .trap tr t.nextHeader
    | .wait => .hold
    | .ok s v => f s (BitVec.ofNat 64 v)

/-- The live registers of a publication are full, and its record holds them (R131, R200). -/
def publishable (t : Strand) (h : Word) (size : Nat) (f : Unit → Res) : Res :=
  match t.gate (liveOpnds h) with
  | .trap => .trap .empty 0
  | .stall => .hold
  | .ok => if size < liveLines h then Res.prot Cause.badFrame 0 else f ()

/-- PUBF (R200). -/
def execPubf (a : Src) (s : State) : Host.Outcome State Fault Refusal :=
  issue (.pubf a) [a.x] (fun t =>
    let f := t.xr a.r
    let r := recOf f
    if !s.nameOk t f then Res.prot Cause.badFrame 0
    else if !frameReg a.r then Res.prot Cause.frameReg 0
    else if r.clus ≠ coreClus (slotCore s.here) then Res.prot Cause.frameRemote 0
    else if t.walking then .hold
    else s.contHeader t fun s h =>
      match s.readRec t.launch r 24 8 with
      | none => .hold
      | some info =>
        publishable t h (infoSize info) fun _ =>
          match s.writeFields t.launch r (publishFields t a.r.toNat t.nextHeader h (infoSize info)) with
          | some s => .done (s.setMe ({ t with lp := some f }.advance 4))
          | none => .hold) s

/-- PUBT (R199). -/
def execPubt (a : Src) (s : State) : Host.Outcome State Fault Refusal :=
  issue (.pubt a) [a.x] (fun t =>
    let v := t.xr a.r
    if 2 ^ 16 ≤ v.toNat then Res.prot Cause.reservedBits 0
    else .done (s.setMe ({ t with tm := BitVec.ofNat 16 v.toNat }.advance 4))) s

/-- SPAWN (R16, R18, R201): it reads the record, and so it waits for the walk of an earlier access (R72, R175). -/
def execSpawn (a : Src) (lit : BitVec 32) (s : State) : Host.Outcome State Fault Refusal :=
  issue (.spawn a lit) [a.x] (fun t =>
    let f := t.xr a.r
    let core := slotCore s.here
    let co := s.core core
    let c := fnCtr f
    if s.inServer then Res.prot Cause.serverSlot 0
    else if !s.nameOk t f then Res.prot Cause.badFrame 0
    else if !frameReg a.r then Res.prot Cause.frameReg 0
    else if 31 ≤ co.deque.length ∧ s.groupsOf t.launch ≤ co.groups then Res.prot Cause.dequeOverflow 0
    else if 32 ≤ co.deque.length || t.walking then .hold
    else match s.readRec t.launch (recOf f) 0 8 with
      | none => .hold
      | some chdr =>
        let pub := t.lp == some f && BitVec.ofNat 64 (chdr % 2 ^ 58) == t.nextHeader
        let j := s.ctr t.launch c
        let s := s.setCtr t.launch c { j with value := j.value + 1 }
        let s := s.setCore core { co with
          deque := co.deque ++ [entOf t.nextHeader f (slotIdx s.here) pub], spilling := co.spilling || co.deque.length == 31 }
        let u := { t with jl := some (.counter c), lp := none }
        .done (s.setMe (u.goto (t.target lit) .branch))) s

/-! Bindings (R207). -/

/-- BIND (R207). -/
def execBind (k : BitVec 4) (a : Src) (s : State) : Host.Outcome State Fault Refusal :=
  issue (.bind k a) [a.x] (fun t =>
    let v := t.xr a.r
    if 2 ^ 24 ≤ v.toNat then Res.prot Cause.reservedBits 0 else .done (s.setMe ((t.setN k v).advance 4))) s

/-- UNBIND (R207). -/
def execUnbind (k : BitVec 4) (s : State) : Host.Outcome State Fault Refusal :=
  issueReg (.unbind k) [] (fun t => t.setN k 0) s

/-! Retiring and joining (R202, R203). -/

/-- RETIRE (R19, R193, R202): a release where the counter is elsewhere, and then the decrement and the pop; in a handler
its bound context's (R346, R348). -/
def execRetire (s : State) : Host.Outcome State Fault Refusal :=
  issue .retire [] (fun t =>
    let clus := coreClus (slotCore s.here)
    if s.inServer then Res.prot Cause.serverSlot 0
    else if !t.filled || !s.edgeReady t then .hold
    else match t.bound, retireReach clus t.jl with
      | some b, _ => .done (s.boundRelease s.here b)
      | none, some r => .done (s.releaseThen s.here r .retire)
      | none, none => .done ((s.emit (s.whoAt s.here)).beginEdge s.here [] false .retire)) s

/-- SYNC (R203): its reservation; the write and the check follow at EDGE. -/
def execSync (a : Src) (s : State) : Host.Outcome State Fault Refusal :=
  issue (.sync a) [a.x] (fun t =>
    let f := t.xr a.r
    let c := fnCtr f
    if s.inServer then Res.prot Cause.serverSlot 0
    else if !s.nameOk t f then Res.prot Cause.badFrame 0
    else if !frameReg a.r then Res.prot Cause.frameReg 0
    else if !t.filled || t.walking then .hold
    else s.contHeader t fun s h =>
      match s.readRec t.launch (recOf f) 24 8 with
      | none => .hold
      | some info =>
        let j := s.ctr t.launch c
        if j.parked.isSome || j.reserved then Res.prot Cause.frameBusy 0
        else publishable t h (infoSize info) fun _ =>
          let s := s.setCtr t.launch c { j with reserved := true }
          .done (s.setMe { t with edge := some ⟨[], false, .sync a.r f t.nextHeader h⟩, walk := none })) s

/-! Barriers (R208 to R210). -/

/-- A barrier name is legal (R208). -/
def State.barOk (s : State) (t : Strand) (b : Word) : Bool := b.toNat < 2 ^ 22 && s.inLaunch t (coreClus (barCore b))

/-- BARI (R208). -/
def execBari (a b : Src) (s : State) : Host.Outcome State Fault Refusal :=
  issue (.bari a b) [a.x, b.x] (fun t =>
    let n := t.xr a.r
    let v := (t.xr b.r).toNat
    if !s.barOk t n then Res.prot Cause.badTarget 0
    else if v = 0 ∨ 65535 < v then Res.prot Cause.badCount 0
    else
      let c := s.coreOf t.launch (barCore n)
      let x := c.barrier (barIdx n)
      let s := s.setCoreOf t.launch (barCore n) { c with
        barriers := c.barriers.put (barIdx n) { x with count := BitVec.ofNat 16 v } }
      let s := if v ≤ x.arrived.toNat then s.completeBarrier t.launch n else s
      .done (s.setMe (s.me.advance 4))) s

/-- BAR (R209): a release by distance, and then the arrival is sent. -/
def execBar (a : Src) (s : State) : Host.Outcome State Fault Refusal :=
  issue (.bar a) [a.x] (fun t =>
    let b := t.xr a.r
    if s.inServer then Res.prot Cause.serverSlot 0
    else if !s.barOk t b then Res.prot Cause.badTarget 0
    else match t.lp with
      | none => Res.prot Cause.notPublished 0
      | some f =>
        match s.readRec t.launch (recOf f) 0 8 with
        | none => .hold
        | some chdr =>
          if BitVec.ofNat 64 (chdr % 2 ^ 58) ≠ t.nextHeader then Res.prot Cause.notPublished 0
          else if !t.filled || !s.edgeReady t then .hold
          else .done (s.releaseThen s.here (distance (coreClus (slotCore s.here)) (coreClus (barCore b)))
            (.barArrive b f t.nextHeader))) s

/-- BARQ (R210). -/
def execBarq (d : RegNo) (a : Src) (s : State) : Host.Outcome State Fault Refusal :=
  issue (.barq d a) [a.x, .xd d] (fun t =>
    let b := t.xr a.r
    if 2 ^ 22 ≤ b.toNat then Res.prot Cause.badTarget 0
    else if barCore b ≠ slotCore s.here then
      (if s.barOk t b then Res.prot Cause.barRemote 0 else Res.prot Cause.badTarget 0)
    else
      let x := (s.core (barCore b)).barrier (barIdx b)
      .done (s.setMe ((t.setX d (x.episode ++ (x.count ++ x.arrived))).advance 4))) s

/-! Tasks (R212, R213). -/

/-- The record that TENQ and TREC name: low half xa, high half xb. -/
def taskOf (lo hi : Word) : BitVec 128 := hi ++ lo

/-- TENQ (R213): a release of reach DIE, and then the record is placed. -/
def execTenq (a b : Src) (s : State) : Host.Outcome State Fault Refusal :=
  issue (.tenq a b) [a.x, b.x] (fun t =>
    let r := taskOf (t.xr a.r) (t.xr b.r)
    if !taskOk r then Res.prot Cause.badTask 0
    else if !s.edgeReady t then .hold
    else .done (s.releaseThen s.here .die (.tenq r))) s

/-- The launch whose template a record names: the strand's own, or a ready one of its function (R212, R321). -/
def State.templateOf (s : State) (t : Strand) (r : BitVec 128) : Option Launch :=
  let fits := fun (l : Launch) => l.graph && l.tmpl == (r.extractLsb' 64 24).toNat
  match (s.launchOf t).filter fits with
  | some l => some l
  | none => (s.launches.find? fun e => e.2.func == t.func && e.2.state == .ready && fits e.2).map fun e => e.2

/-- The address of a record's dependence counter: word INST of the counters of its node in its template (R213, R321). Where
no launch has the template, or the template no such node, the rules name no word: a free value (log 44). -/
def State.depCounter (s : State) (t : Strand) (r : BitVec 128) : Word :=
  match (s.templateOf t r).bind fun l => l.nodes[taskNode r]? with
  | some n => ((n[3]?).getD 0) + BitVec.ofNat 64 (4 * taskInst r)
  | none => (Config.depCounter r).zeroExtend 64 <<< 2

/-- TREC (R213): a release, and then the decrement at the counter's home slice. -/
def execTrec (d : RegNo) (a b : Src) (s : State) : Host.Outcome State Fault Refusal :=
  issue (.trec d a b) [a.x, b.x, .xd d] (fun t =>
    let lo := t.xr a.r
    let hi := t.xr b.r
    let r := taskOf lo hi
    let va := s.depCounter t r &&& 0x03FFFFFFFFFFFFFF
    if !taskOk r then Res.prot Cause.badTask 0
    else match s.lookup t (slotCore s.here) va.toNat with
      | none => if t.walking then .hold else .walk va true false
      | some x =>
        if !x.w then .trap (.translation 2 true va) va
        else if !s.edgeReady t then .hold
        else
          let far := (s.placeBy (slotCore s.here) x va.toNat).remote (coreDie (slotCore s.here))
          .done (s.releaseThen s.here (if far then .package else .die) (.trec d r far va lo hi (wordOf (.trec d a b))))) s

end Sys2Proof.Machine
end

