-- ==== Sys2Proof/Machine/Messages.lean ====
section
/-! DEFINITION. Messages, donation and FIFO banks (spec/09_isa_tasks.md R211, R214, R215). -/

namespace Sys2Proof.Machine

/-! Messages (R211). -/

/-- The issue of a message: a release by distance to the target, and then the message is sent (R12, R77). -/
def message (i : Instr) (a : Src) (src : Opnd) (type : BitVec 8) (words : Strand → List Word) (payload : Strand → Vec)
    (s : State) : Host.Outcome State Fault Refusal :=
  issue i [a.x, src] (fun t =>
    let v := t.xr a.r
    let core := slotCore s.here
    let target := nameCore v
    if !s.coreOk t v then Res.prot Cause.badTarget 0
    else if !s.edgeReady t || !s.pathRoom t.launch target then .hold
    else
      let m : Activation :=
        { type := type, sender := core, target := target, wid := t.wid, words := words t, payload := payload t, hdr := 0,
          prio := 0, launch := t.launch, frame := none, saved := none, reply := none, origin := t.ctx, order := 0 }
      .done (s.releaseThen s.here (distance (coreClus core) (coreClus target)) (.send m 0 0 0))) s

/-- The second word that a program message gives (R291): the sender's core name, and the mark of MSGV. -/
def senderWord (core : Nat) (vector : Bool) : Word := BitVec.ofNat 64 (core + bitsOf vector * 2 ^ 16)

/-- MSG (R211). -/
def execMsg (a : Src) (payload : RegNo) (type : BitVec 8) (s : State) : Host.Outcome State Fault Refusal :=
  message (.msg a payload type) a (.xs payload false) type
    (fun t => [t.xr payload, senderWord (slotCore s.here) false]) (fun _ => 0) s
/-- MSGV (R211). -/
def execMsgv (a : Src) (payload : RegNo) (type : BitVec 8) (s : State) : Host.Outcome State Fault Refusal :=
  message (.msgv a payload type) a (.vs payload false) type
    (fun _ => [0, senderWord (slotCore s.here) true]) (fun t => t.vr payload) s

/-! Donation (R214). -/

/-- Whether a package has a member in the exchange group (R369). -/
def State.inGroup (s : State) (pkg : Nat) : Bool := bits s.cg.cgmem.toNat (8 * pkg) 8 != 0

/-- DONATE (R214): the record is read as LD reads, and then it is sent. A nonzero xa[63:3] raises BAD_TARGET, since the
rule names no trap of its own for it (DESIGN CHOICE, log 44). -/
def execDonate (a b : Src) (s : State) : Host.Outcome State Fault Refusal :=
  issue (.donate a b) [a.x, b.x] (fun t =>
    let p := t.xr a.r
    let va := t.xr b.r
    if va.toNat % 16 ≠ 0 then .trap .alignment va
    else if 8 ≤ p.toNat || p.toNat == s.pkg.toNat || !s.inGroup p.toNat then Res.prot Cause.badTarget 0
    else issueMem s (.donate a b) .donate { addr := va, opa := p, opb := va } t) s

/-! FIFO banks (R38, R215). -/

/-- FPUSH (R215): the low half, then the high half that completes an entry. -/
def execFpush (bank : BitVec 5) (b : Src) (s : State) : Host.Outcome State Fault Refusal :=
  issue (.fpush bank b) [b.v] (fun t =>
    let kn := coreClus (slotCore s.here)
    let k := s.cluster kn
    let n := bank.toNat
    let f := k.fifos.get n .reset
    if k.busyBank n || s.sramBusy kn (16384 * n) 16384 then .hold
    else if k.mode n ≠ .fifo then Res.prot Cause.notFifo 0
    else match f.low with
      | none =>
        if 128 ≤ f.entries.length then .hold
        else .done ((s.setCluster kn { k with fifos := k.fifos.put n { f with low := some (t.vr b.r) } }).setMe (t.advance 4))
      | some low =>
        .done ((s.setCluster kn { k with
          fifos := k.fifos.put n { f with entries := f.entries ++ [t.vr b.r ++ low], bad := f.bad ++ [0], low := none } }).setMe (t.advance 4))) s

/-- FPOP (R215): the next half of the oldest entry; the high half frees it. Bytes that are poison (R252) come as they are:
R343 raises POISON for a fill from a line alone (log 38). -/
def execFpop (d : RegNo) (bank : BitVec 5) (s : State) : Host.Outcome State Fault Refusal :=
  issue (.fpop d bank) [.vd d] (fun t =>
    let kn := coreClus (slotCore s.here)
    let k := s.cluster kn
    let n := bank.toNat
    let f := k.fifos.get n .reset
    if k.busyBank n || s.sramBusy kn (16384 * n) 16384 then .hold
    else if k.mode n ≠ .fifo then Res.prot Cause.notFifo 0
    else match f.entries with
      | [] => .hold
      | e :: r =>
        if f.readBytes ≠ 0 then .hold
        else
          let v : Vec := if f.popHigh then e.extractLsb' 512 512 else e.extractLsb' 0 512
          let f' : Fifo := if f.popHigh then { f with entries := r, bad := f.bad.drop 1, popHigh := false } else { f with popHigh := true }
          .done ((s.setCluster kn { k with fifos := k.fifos.put n f' }).setMe ((t.setV d v).advance 4))) s

end Sys2Proof.Machine
end

