-- ==== Sys2Proof/Machine/Exchange.lean ====
section
/-! DEFINITION. Phased exchange and expert routing at the endpoints (spec/12_isa_engines.md R259 to R267,
spec/17_prog_experts.md R286, spec/24_centroid.md R373, R374; log 23, log 28). -/

namespace Sys2Proof.Machine

/-! Endpoints (R260). -/

/-- The endpoint of a die. -/
def State.endpoint (s : State) (die : Nat) : Nat := 8 * s.pkg.toNat + die

/-- The die of an endpoint in this package. -/
def State.dieOf (s : State) (e : Nat) : Option Nat := if e / 8 = s.pkg.toNat then some (e % 8) else none

def State.xu (s : State) (die : Nat) : Exchange := (s.die die).xu
def State.setXu (s : State) (die : Nat) (x : Exchange) : State := s.setDie die { s.die die with xu := x }

/-- Whether an endpoint is a member of the group (R369). -/
def State.member (s : State) (e : Nat) : Bool := s.cg.cgmem.getLsbD e

/-- A set of codes with one more. -/
def addCode (c : Nat) (l : List Nat) : List Nat := c :: l.filter fun x => x != c

/-! CRC-32C (R265; log 15). -/

def crcBit (c : Nat) : Nat := if c % 2 = 1 then c / 2 ^^^ 0x82F63B78 else c / 2

def crcByte (c b : Nat) : Nat :=
  crcBit (crcBit (crcBit (crcBit (crcBit (crcBit (crcBit (crcBit (c ^^^ b))))))))

def crcLine (c : Nat) (d : Line) : Nat := (List.range 128).foldl (fun c i => crcByte c (lineBytes d i 1)) c

/-- CRC-32C of the bytes of lines. -/
def crc32c (l : List Line) : Nat := l.foldl crcLine 0xFFFFFFFF ^^^ 0xFFFFFFFF

/-! Tables and blocks that the unit reads at issue (R262, R266). -/

/-- Words of 8 bytes of a number. -/
def wordsOf (v n : Nat) : List Word := (List.range n).map fun i => BitVec.ofNat 64 (v / 2 ^ (64 * i))

/-- Reads `n` bytes at a 128-byte aligned address at their homes. -/
def State.readTable (s : State) (t : Strand) (core : Nat) (spots : List (Nat × Place)) (va n : Nat) : EngRes (Nat × Bool) :=
  s.engReadAll (fun s a m =>
    match spotOf spots a with
    | none => .wait
    | some p => s.engReadHome core t.func (BitVec.ofNat 64 a) p.pa m)
    ((List.range ((n + 127) / 128)).map fun i => (va + 128 * i, min 128 (n - 128 * i)))

/-- The issue of XARM and ICFG up to the reading of their bytes: R175's order. -/
def tableIssue (i : Instr) (a : Src) (n : Nat) (f : State → Strand → Nat → Nat → Res) (s : State) :
    Host.Outcome State Fault Refusal :=
  issue i [a.x] (fun t =>
    let core := slotCore s.here
    let va := t.xr a.r
    if va.toNat % 128 ≠ 0 then .trap .alignment va
    else if (s.xu (coreDie core)).state = .running then Res.prot Cause.xchgBusy 0
    else if addrKind va != .virtual then Res.prot Cause.addressForm va
    else if t.walking then .hold
    else match s.resolve t core [] false (pagesOf [(va.toNat, n)]) with
      | .walk w | .noWrite w => .walk w false false
      | .ok spots =>
        match s.readTable t core spots va.toNat n with
        | .done s v => if v.2 then .trap .poison va else f s t core v.1
        | _ => .hold) s

/-! Arm tables (R262). -/

def XTable.bits (x : XTable) (lo n : Nat) : Nat :=
  let v := (List.range ((lo % 64 + n + 63) / 64)).foldl
    (fun v i => v + ((x.words[lo / 64 + i]?).getD 0).toNat * 2 ^ (64 * i)) 0
  v / 2 ^ (lo % 64) % 2 ^ n

/-- A field of the entry of a source endpoint. -/
def XTable.arm (x : XTable) (e lo n : Nat) : Nat := x.bits (512 + 128 * e + lo) n
def XTable.base (x : XTable) (e : Nat) : Nat := x.arm e 0 58
def XTable.limit (x : XTable) (e : Nat) : Nat := x.arm e 64 32
def XTable.ing (x : XTable) (e : Nat) : Bool := x.arm e 96 1 == 1

/-- A bad field of an arm table. -/
def XTable.armBad (x : XTable) : Bool :=
  x.bits 17 47 != 0 || (List.range 7).any (fun i => x.bits (64 + 64 * i) 64 != 0) ||
    (List.range 64).any fun e => x.arm e 58 6 != 0 || x.arm e 99 13 != 0

/-- XARM (R262, R340): the bases are translated at issue. -/
def execXarm (a : Src) (s : State) : Host.Outcome State Fault Refusal :=
  tableIssue (.xarm a) a 1088 (fun s t core v =>
    let x : XTable := ⟨wordsOf v 136, core, t.func, t.launch, []⟩
    if x.armBad then Res.prot Cause.badDesc 0
    else
      let armed := (List.range 64).filter fun e => x.base e != 0 && !x.ing e
      let ivs : List Interval := armed.map fun e => ⟨BitVec.ofNat 64 (x.base e), 0, 1, true⟩
      match ivs.find? fun v => v.pages.any fun p => anyRo [(s.core core).region (p * 16384)] with
      | some v => Res.prot Cause.readOnly v.base
      | none =>
        match translateAll (fun p w => s.resolve t core [] w [p]) ivs with
        | .walk va w => .walk va w false
        | .trap tr va => .trap tr va
        | .ok spots =>
          let die := coreDie core
          .done ((s.setXu die { s.xu die with arm := some { x with spots := spots }, armPins := true }).setMe (t.advance 4))) s

/-! Expert map blocks (R266). -/

def XTable.epg (x : XTable) : Nat := x.bits 0 5
def XTable.topk (x : XTable) : Nat := x.bits 5 5
def XTable.rowl (x : XTable) : Nat := x.bits 16 6
def XTable.etag (x : XTable) (j : Nat) : Nat := x.bits (256 + 16 * j) 16

/-- A bad field of an expert map block. -/
def XTable.mapBad (x : XTable) : Bool :=
  x.bits 12 4 != 0 || x.bits 22 10 != 0 || x.bits 122 6 != 0 || x.bits 202 54 != 0 ||
    (List.range 24).any (fun i => x.bits (528 + 64 * i) (if i = 23 then 48 else 64) != 0) ||
    x.epg == 0 || 16 < x.epg || x.topk == 0 || x.epg < x.topk || x.rowl == 0

/-- ICFG (R266, R286). -/
def execIcfg (a : Src) (s : State) : Host.Outcome State Fault Refusal :=
  tableIssue (.icfg a) a 256 (fun s t core v =>
    let x : XTable := ⟨wordsOf v 32, core, t.func, t.launch, []⟩
    if x.mapBad then Res.prot Cause.badDesc 0
    else
      let die := coreDie core
      .done ((s.setXu die { s.xu die with emap := some x, iw := 0, dw := 0, dups := 0, deferred := 0 }).setMe
        (t.advance 4))) s

/-! Posting and sending (R260, R261). -/

/-- A unit sends its row to the Centroid (R260, R370, R377). -/
def State.sendPost (s : State) (die : Nat) : State :=
  let e := s.endpoint die
  let x := s.xu die
  let late := s.cg.calendars.any fun c => c.1 == e && c.2.gen == x.known
  { s with cg := { s.cg with posts := s.cg.posts ++ [⟨e, x.known, x.row, late⟩] } }

/-- The counts of DPOST (R260). -/
def demand (lo hi : Vec) (own : Nat) : List Nat :=
  (List.range 64).map fun d =>
    if d = own then 0 else if d < 32 then vbits lo (16 * d) 16 else vbits hi (16 * (d - 32)) 16

/-- DPOST (R260). -/
def execDpost (e : RegNo) (s : State) : Host.Outcome State Fault Refusal :=
  issue (.dpost e) [.vs e false, .vs (e + 1) false] (fun t =>
    let die := coreDie (slotCore s.here)
    let x := s.xu die
    let row := demand (t.vr e) (t.vr (e + 1)) (s.endpoint die)
    if x.state ≠ .idle then Res.prot Cause.xchgBusy 0
    else if row.zipIdx.any fun c => c.1 != 0 && !s.member c.2 then Res.prot Cause.badDemand 0
    else .done (((s.setXu die { x with state := .posted, row := row }).sendPost die).setMe (t.advance 4))) s

/-- XSEND (R261, R340). -/
def execXsend (a : Src) (e : RegNo) (s : State) : Host.Outcome State Fault Refusal :=
  issue (.xsend a e) [a.x, .vs e false] (fun t =>
    let core := slotCore s.here
    let die := coreDie core
    let x := s.xu die
    let v := t.vr e
    let dest := (t.xr a.r).toNat
    let rows := vbits v 2 1 == 1
    let bytes := vbits v 32 32
    let buf := BitVec.ofNat 64 (vbits v 64 58)
    let rowl := (x.emap.map XTable.rowl).getD 0
    let iv : Interval := ⟨buf, 0, (bytes : Nat), rows⟩
    if buf.toNat % 128 ≠ 0 then .trap .alignment buf
    else if vbits v 3 13 ≠ 0 ∨ vbits v 122 390 ≠ 0 ∨ 63 < dest ∨ bytes % 128 ≠ 0 ∨ 8388480 < bytes ∨
        (rows ∧ (x.emap.isNone ∨ bytes % (128 * (1 + rowl)) ≠ 0)) then Res.prot Cause.badDesc 0
    else if x.state = .idle then Res.prot Cause.xchgIdle 0
    else if x.sends.any fun d => d.dest == dest then Res.prot Cause.xchgBusy 0
    else if !iv.formOk then Res.prot Cause.addressForm buf
    else if rows && iv.pages.any fun p => anyRo [(s.core core).region (p * 16384)] then Res.prot Cause.readOnly buf
    else if t.walking then .hold
    else match translateAll (fun p w => s.resolve t core [] w [p]) [iv] with
      | .walk va w => .walk va w false
      | .trap tr va => .trap tr va
      | .ok spots =>
        let d : Send :=
          { dest := dest, ring := vbits v 0 2, core := core, func := t.func, tag := BitVec.ofNat 16 (vbits v 16 16),
            rows := rows, rowl := rowl, bytes := bytes, buf := buf.toNat, spots := spots, issued := (s.die die).ptc,
            sent := 0, failed := [], row := [], codes := [], lost := false, reported := false }
        .done ((s.setXu die { x with sends := x.sends ++ [d] }).setMe (t.advance 4))) s

/-! Reading the unit (R263). -/

def XState.code : XState → Nat
  | .idle => 0 | .posted => 1 | .granted => 2 | .running => 3

/-- A calendar entry (R373). -/
def Grant.entry (g : Grant) : Nat :=
  g.phase + bitsOf g.rx * 2 ^ 8 + g.partner * 2 ^ 9 + g.lines % 2 ^ 16 * 2 ^ 16 + g.offset % 2 ^ 32 * 2 ^ 32

def Exchange.grants (x : Exchange) : List Grant := (x.cal.map fun c => c.grants).getD []

/-- Bytes granted toward (or, with `rx`, from) an endpoint. -/
def Exchange.granted (x : Exchange) (rx : Bool) (e : Nat) : Nat :=
  (x.grants.filter fun g => g.rx == rx && g.partner == e).foldl (fun n g => n + 128 * g.lines) 0

/-- An item of XSTAT, or none for BAD_STAT (R263). -/
def Exchange.item (x : Exchange) (own v : Nat) : Option Nat :=
  let e := bits v 4 6
  let n := bits v 10 8
  if v / 2 ^ 18 ≠ 0 then none
  else match v % 16 with
    | 0 =>
      if e ≠ 0 ∨ n ≠ 0 then none
      else some (x.state.code + own * 2 ^ 2 + ((x.cal.map fun c => c.phases).getD 0) * 2 ^ 8 +
        x.gen.toNat % 2 ^ 16 * 2 ^ 16 + x.round.toNat * 2 ^ 32)
    | 1 => if n ≠ 0 then none else some (x.granted false e)
    | 2 => if n ≠ 0 then none else some (x.granted true e)
    | 3 => if e ≠ 0 then none else some ((x.grants[n]?.map Grant.entry).getD 0)
    | 4 => if e ≠ 0 ∨ n ≠ 0 then none else some x.lastResidual
    | 5 => if e ≠ 0 ∨ n ≠ 0 then none else some (x.dups.toNat + x.deferred.toNat * 2 ^ 32)
    | _ => none

/-- XSTAT (R263). -/
def execXstat (d : RegNo) (a : Src) (s : State) : Host.Outcome State Fault Refusal :=
  issue (.xstat d a) [a.x, .xd d] (fun t =>
    let die := coreDie (slotCore s.here)
    match (s.xu die).item (s.endpoint die) (t.xr a.r).toNat with
    | none => Res.prot Cause.badStat 0
    | some v => .done (s.setMe ((t.setX d (BitVec.ofNat 64 v)).advance 4))) s

/-! ROUTE (R264). -/

def nan32 (v : Nat) : Bool := 0x7F800000 < v % 2 ^ 31

/-- The rank of an FP32 code: NaN lowest, then by value, −0 below +0 (R88). -/
def rankKey (v : Nat) : Int := if nan32 v then -(2 ^ 32) else if v < 2 ^ 31 then (v : Nat) else -((v : Nat) - 2 ^ 31 : Int) - 1

/-- Indexes below `n`, the highest key first and lower indexes first among equals. -/
def rankBy (key : Nat → Int) (n : Nat) : List Nat :=
  (List.range n).foldl (fun l i =>
    (l.takeWhile fun j => key i ≤ key j) ++ [i] ++ (l.dropWhile fun j => key i ≤ key j)) []

/-- The maximum of group `g` (R264). -/
def groupMax (v : Vec) (epg g : Nat) : Nat :=
  ((List.range epg).drop 1).foldl (fun m j => (fpMinMax .f32 true m (lane v 32 (g * epg + j))).1) (lane v 32 (g * epg))

/-- ROUTE (R264). -/
def execRoute (d : RegNo) (a b : Src) (s : State) : Host.Outcome State Fault Refusal :=
  issue (.route d a b) [a.v, b.x, .vd d] (fun t =>
    let x := (t.xr b.r).toNat
    let epg := bits x 0 5
    let topg := bits x 5 5
    if x / 2 ^ 10 ≠ 0 ∨ epg = 0 ∨ 16 < epg ∨ topg = 0 ∨ 16 < topg ∨ 16 / epg < topg then Res.prot Cause.badDesc 0
    else
      let best := (rankBy (fun g => rankKey (groupMax (t.vr a.r) epg g)) (16 / epg)).take topg
      .done (s.setMe ((t.setV d (packLanes 32 (best ++ List.replicate (16 - topg) 0xFFFFFFFF))).advance 4))) s

/-! Landing (R262, R265). -/

/-- Where an address lies by pages that an instruction translated at issue: a page of any size covers each of its addresses
(R327, R340). -/
def pinnedPa (spots : List (Nat × Place)) (va : Nat) : Option Nat :=
  (spots.find? fun q => q.1 * 16384 / 2 ^ q.2.log == va / 2 ^ q.2.log).map fun q => q.2.pa / 2 ^ q.2.log * 2 ^ q.2.log + va % 2 ^ q.2.log

/-- Where a byte of a table's function lies: by the translation taken at issue, else by a walk (log 20). -/
def State.landPa (s : State) (x : XTable) (va : Nat) : Option Nat :=
  match pinnedPa x.spots va with
  | some pa => some pa
  | none =>
    match s.pageWalk x.func va with
    | .ok t => if t.w then some (t.pa (va % 2 ^ 58)) else none
    | _ => none

/-- The number under which the writes of a die's exchange unit are live while a slice holds them (R73, R80). -/
def xuOp (die : Nat) : Nat := 2 ^ 40 + die

/-- What the exchange unit does to a line at its home: `direct` at once, and `queued` behind what the issuing cluster has on
its way there. The cluster's copy leaves its cache, so that a strand which has seen the record sees the bytes (R80). -/
def State.xuActs (s : State) (w : Who) (va : Word) (l : Nat) (direct : State → State) (queued : List Act) : State :=
  let own := servedAt w.die l = w.die
  let s := if own then s.evictLine w l else s
  if own && (s.queuedOn w.clus l).any fun it => it.wb || it.ctx == w.ctx then queued.foldl (fun s a => s.postNew w va l a []) s
  else direct s

/-- Writes bytes of one line at its home for the exchange unit. -/
def State.xuWrite (s : State) (core func : Nat) (va : Word) (pa v n : Nat) (poisoned : Bool) : Option State :=
  let w : Who := ⟨core, xuOp (coreDie core), func, 5⟩
  let l := pa / 128
  if !s.lineReady (servedAt w.die l) l then none
  else some (s.xuActs w va l (fun s => s.engWriteHome w va pa v n poisoned)
    (.write (lineAt v (pa % 128)) (byteMask (pa % 128) n) false :: if poisoned then [.poison (some 1)] else []))

/-- A line whose CRC failed becomes poison at its home, with the record of the die that received it (R252, R384). -/
def State.xuBad (s : State) (core func : Nat) (va : Word) (pa endpoint : Nat) : State :=
  let w : Who := ⟨core, xuOp (coreDie core), func, 5⟩
  let l := pa / 128
  let mark := fun (s : State) => if s.poison.contains l then s else { s with poison := l :: s.poison }
  (s.error 16 2 w.die 0 1 (128 * l) endpoint).xuActs w va l (fun s => (mark s).patchFetches w.clus l 0 0 true) [.poison none]

/-- Writes `n` bytes of a line at a virtual address of a table's function, at their homes; none where a page has no
translation, or where a home does not serve the line now. A line whose CRC failed becomes poison (R252). -/
def State.land (s : State) (x : XTable) (va n : Nat) (l : XLine) (endpoint : Nat) : Option State :=
  (pieces va n).foldl (fun o q => o.bind fun (s : State) =>
    (s.landPa x q.1).bind fun pa =>
      if l.bad then some (s.xuBad x.core x.func (BitVec.ofNat 64 q.1) pa endpoint)
      else s.xuWrite x.core x.func (BitVec.ofNat 64 q.1) pa (lineBytes l.data (q.1 - va) q.2) q.2 l.poison) (some s)

def Receive.reset : Receive := ⟨0, 0, [], none, [], [], false⟩

/-- A row is complete and not yet taken. -/
def Exchange.rowHeld (x : Exchange) (e : Nat) : Bool :=
  match x.emap with
  | some m => 1 + m.rowl ≤ ((Tab.get x.receives e .reset : Receive)).lines.length
  | none => false

/-- A line from endpoint `e` reaches die `die` (R262, R267). None while it is held back. -/
def State.receiveLine (s : State) (die e : Nat) (l : XLine) : Option State :=
  let x := s.xu die
  let r : Receive := Tab.get x.receives e .reset
  let r1 : Receive := { r with bytes := r.bytes + 128, codes := if l.poison then addCode codePoison r.codes else r.codes }
  let out : Receive := { r1 with codes := addCode codeRange r1.codes }
  let keep := fun (s : State) (r : Receive) => s.setXu die { s.xu die with receives := (s.xu die).receives.put e r }
  match x.arm with
  | none => some (keep s out)
  | some a =>
    if a.ing e then
      match x.emap with
      | none => some (keep s out)
      | some m => if 1 + m.rowl ≤ r.lines.length then none else some (keep s { r1 with lines := r.lines ++ [l] })
    else if a.base e = 0 then some (keep s out)
    else
      let n := min 128 (a.limit e - r.bytes)
      let r2 : Receive := if n < 128 then out else r1
      let r3 : Receive := { r2 with put := r.put + n, codes := if l.bad then addCode codeCrc r2.codes else r2.codes }
      if n = 0 then some (keep s out)
      else (s.land a (a.base e + r.bytes) n l e).map fun s => keep s r3

/-! The ingress unit (R267). -/

/-- A ring of the ingress unit: its base, the log of its slots, and its W. -/
structure IRing where
  base : Nat
  log : Nat
  w : Word
  deriving DecidableEq, Repr

def Exchange.inRing (x : Exchange) (m : XTable) : IRing := ⟨m.bits 64 58, m.bits 128 4, x.iw⟩
def Exchange.deferRing (x : Exchange) (m : XTable) : IRing := ⟨m.bits 144 58, m.bits 132 4, x.dw⟩

/-- The address of a slot (R266). -/
def IRing.slot (r : IRing) (m : XTable) (w : Word) : Nat := r.base + 128 + w.toNat % 2 ^ r.log * 128 * (1 + m.rowl)

/-- Room for one more row in a ring: the consumer's CI is read at the ring's home. None while it is full (R266). -/
def State.ringRoom (s : State) (m : XTable) (r : IRing) : Option State :=
  match (s.landPa m r.base).map fun pa => s.engReadHome m.core m.func (BitVec.ofNat 64 r.base) pa 8 with
  | some (.done s v) => if (r.w - BitVec.ofNat 64 v.1).toNat < 2 ^ r.log then some s else none
  | _ => none

/-- Writes a row into a slot. -/
def State.putRow (s : State) (m : XTable) (va : Nat) (row : List XLine) (e : Nat) : Option State :=
  row.zipIdx.foldl (fun o l => o.bind fun (s : State) => s.land m (va + 128 * l.2) 128 l.1 e) (some s)

/-- A field of a row's header. -/
def rowBits (h : Line) (lo n : Nat) : Nat := bits h.toNat lo n

/-- A header with a field replaced. -/
def rowSet (h : Line) (lo n v : Nat) : Line := BitVec.ofNat 1024 (h.toNat - rowBits h lo n * 2 ^ lo + v % 2 ^ n * 2 ^ lo)

/-- The key of a score: NaN lowest, the zeros equal. -/
def scoreKey (v : Nat) : Int := if nan32 v then -(2 ^ 32) else if v < 2 ^ 31 then (v : Nat) else -((v : Nat) - 2 ^ 31 : Int)

/-- A row was seen among the last 4,096 of its source, or lies before them. -/
def seenRow (l : List Nat) (seq : Nat) : Bool :=
  l.contains seq || (match l.max? with
    | some h => seq + 4095 < h
    | none => false)

/-- A duplicate is dropped and counted. -/
def Exchange.dropDup (x : Exchange) : Exchange :=
  { x with dups := if x.dups = BitVec.allOnes 32 then x.dups else x.dups + 1, roundDups := x.roundDups + 1 }

/-- Writes a row once for a chosen expert. None while its ring is full. -/
def State.putCopy (s : State) (die e : Nat) (m : XTable) (row : List XLine) (j : Nat) : Option State :=
  let h := ((row.head?).map fun l => l.data).getD 0
  let x := s.xu die
  let res := m.bits (512 + j) 1 == 1
  let defer := !res && m.bits 136 8 == 0
  let h := rowSet (rowSet (rowSet h 616 16 (m.etag j)) 640 32 (rowBits h (32 * j) 32)) 704 1 (bitsOf (!res && !defer))
  let q := if defer then x.deferRing m else x.inRing m
  let row' := match row with
    | l :: t => { l with data := h } :: t
    | [] => []
  ((s.ringRoom m q).bind fun s => s.putRow m (q.slot m q.w) row' e).map fun s =>
    let x := s.xu die
    s.setXu die (if defer then
        { x with dw := x.dw + 1, roundDeferred := x.roundDeferred + 1,
                 deferred := if x.deferred = BitVec.allOnes 32 then x.deferred else x.deferred + 1 }
      else { x with iw := x.iw + 1 })

/-- Replaces what a die has received from an endpoint. -/
def State.setReceive (s : State) (die e : Nat) (r : Receive) : State :=
  s.setXu die { s.xu die with receives := (s.xu die).receives.put e r }

/-- Writes the copies of a row that are left, in order, as far as their rings have room; after the last the row is
accepted (R267). None where the first finds no room. -/
def State.spread (s : State) (die e : Nat) (m : XTable) : List Nat → Option State
  | [] =>
    let x := s.xu die
    let r : Receive := Tab.get x.receives e .reset
    let h := ((r.lines.head?).map fun l => l.data).getD 0
    let src := rowBits h 608 6
    let seen := (rowBits h 576 32 :: Tab.get x.seen src []).take 4096
    some ((s.setXu die { x with accepted := x.accepted + 1, seen := x.seen.put src seen }).setReceive die e
      { r with lines := [], copies := none, put := r.put + 128 * r.lines.length, last := r.lines })
  | j :: l =>
    let r : Receive := Tab.get (s.xu die).receives e .reset
    (s.putCopy die e m r.lines j).map fun s =>
      let s := s.setReceive die e { r with copies := some l }
      (s.spread die e m l).getD s

/-- The ingress unit takes up the row that has come from an endpoint, or goes on with it, copy by copy (R267). None while a
full ring holds it back. -/
def State.ingressRow (s : State) (die e : Nat) : Option State :=
  let x := s.xu die
  let r : Receive := Tab.get x.receives e .reset
  match x.emap with
  | none => none
  | some m =>
    if !x.rowHeld e then none
    else match r.copies with
      | some l => s.spread die e m l
      | none =>
        let h := ((r.lines.head?).map fun l => l.data).getD 0
        if r.lines.any (fun l => l.bad) || crc32c ((r.lines.drop 1).map fun l => l.data) != rowBits h 672 32 then
          -- CHK fails: the lines where the row would stand, once the ring has room, are poison, with one record (log 28)
          let va := (x.inRing m).slot m x.iw
          (s.ringRoom m (x.inRing m)).map fun s =>
            let s := r.lines.zipIdx.foldl (fun (s : State) l =>
              match s.landPa m (va + 128 * l.2) with
              | some pa => if l.2 = 0 then s.crcPoison (pa / 128) e die else s.poisonLine (pa / 128) 1 die
              | none => s) s
            s.setReceive die e { r with lines := [], codes := addCode codeCrc r.codes }
        else if seenRow (Tab.get x.seen (rowBits h 608 6) []) (rowBits h 576 32) then
          some ((s.setXu die x.dropDup).setReceive die e { r with lines := [], put := r.put + 128 * r.lines.length })
        else
          let chosen := (rankBy (fun j => scoreKey (rowBits h (32 * j) 32)) m.epg).take m.topk
          let s := s.setReceive die e { r with copies := some chosen }
          some ((s.spread die e m chosen).getD s)

/-- INGRESS_ROW (R267). -/
def execIngressRow (die endpoint : Nat) (s : State) : Host.Outcome State Fault Refusal :=
  event s (s.ingressRow die endpoint)

/-- A link-level retry delivers the last row of a pair again: it is dropped (R267; log 23). -/
def State.rowAgain (s : State) (die e : Nat) : Option State :=
  let x := s.xu die
  let r : Receive := Tab.get x.receives e .reset
  match r.last with
  | l :: _ =>
    if x.state = .running && seenRow (Tab.get x.seen (rowBits l.data 608 6) []) (rowBits l.data 576 32) then
      some (s.setXu die x.dropDup)
    else none
  | [] => none

/-! Sending (R261, R265). -/

/-- Whether some die link between two dies is down. -/
def State.routeDown (s : State) (a b : Nat) : Nat → Bool
  | 0 => false
  | n + 1 => a != b && ((s.link (linkKey a (nextDie a b))).state == .down || s.routeDown (nextDie a b) b n)

/-- Some die link between two dies is retraining: what travels there waits (R387). -/
def State.routeHeld (s : State) (a b : Nat) : Nat → Bool
  | 0 => false
  | n + 1 => a != b && ((s.link (linkKey a (nextDie a b))).state == .retraining || s.routeHeld (nextDie a b) b n)

/-- The Tuzel port on the way between a die and an endpoint of a peer package, as a link (log 32). -/
def tuzelLink (die e : Nat) : Nat := 66 + Config.tuzelPort die e % 18

/-- The way between a die and an endpoint is down: a die link, or the port to a peer package (R261, R387). -/
def State.wayDown (s : State) (die e : Nat) : Bool :=
  match s.dieOf e with
  | some y => s.routeDown die y 8
  | none => (s.link (tuzelLink die e)).state == .down

/-- The way between a die and an endpoint is held (R387). -/
def State.wayHeld (s : State) (die e : Nat) : Bool :=
  match s.dieOf e with
  | some y => s.routeHeld die y 8
  | none => (s.link (tuzelLink die e)).state == .retraining

/-- The grant of a phase in a direction, if it is not void (R374). -/
def Exchange.grantIn (x : Exchange) (p : Nat) (rx : Bool) : Option Grant :=
  (x.grants.zipIdx.find? fun g => g.1.phase == p && g.1.rx == rx && !x.voided.contains g.2).map fun g => g.1

/-- Lines that later phases grant to a pair. -/
def Exchange.later (x : Exchange) (e : Nat) : Nat :=
  (x.grants.zipIdx.filter fun g => g.1.partner == e && !g.1.rx && x.phase < g.1.phase && !x.voided.contains g.2).foldl
    (fun n g => n + g.1.lines) 0

def Exchange.sendTo (x : Exchange) (e : Nat) : Option Send := x.sends.find? fun d => d.dest == e

def Exchange.putSend (x : Exchange) (d : Send) : Exchange :=
  { x with sends := x.sends.map fun o => if o.dest = d.dest then d else o }

/-- Whether a send has a line to move with `left` lines in this phase: a row begins only where it fits in what remains
of the pair's grants (R261). -/
def Send.more (d : Send) (left later : Nat) : Bool :=
  left != 0 && !d.lost &&
    (if d.rows then !d.row.isEmpty || (128 * (1 + d.rowl) ≤ d.bytes - d.sent && 1 + d.rowl ≤ left + later)
     else 128 ≤ d.bytes - d.sent)

/-- Whether the pair's receiver takes the lines of the sender's phase: its calendar is of the same round, and its
grant is not void. A peer package takes them (log 23). -/
def State.pairOpen (s : State) (x : Exchange) (own dest : Nat) : Bool :=
  match s.dieOf dest with
  | none => true
  | some d =>
    let y := s.xu d
    (y.state == .granted || y.state == .running) &&
      (y.cal.map fun c => (c.gen, c.round)) == (x.cal.map fun c => (c.gen, c.round)) &&
      y.ended < x.phase && (match y.grantIn x.phase true with
        | some g => g.partner == own
        | none => false)

/-- Reads line `i` of a buffer at its home. -/
def State.bufLine (s : State) (d : Send) (off : Nat) : EngRes (Nat × Bool) :=
  match spotOf d.spots (d.buf + off) with
  | none => .wait
  | some p => s.engReadHome d.core d.func (BitVec.ofNat 64 (d.buf + off)) p.pa 128

/-- Reads the lines of the next row. -/
def State.bufRow (s : State) (d : Send) (off : Nat) : Nat → Option (State × List XLine)
  | 0 => some (s, [])
  | n + 1 =>
    match s.bufLine d off with
    | .done s v =>
      (s.bufRow d (off + 128) n).map fun r => (r.1, ⟨BitVec.ofNat 1024 v.1, v.2, false⟩ :: r.2)
    | _ => none

/-- A row is read, stamped and taken in hand; its stamped header is written into the buffer (R265). -/
def State.beginRow (s : State) (die : Nat) (d : Send) : Option State :=
  (s.bufRow d d.sent (1 + d.rowl)).bind fun r =>
    match r.2 with
    | [] => none
    | h :: t =>
      let s := r.1
      let own := s.endpoint die
      let x := s.xu die
      let again := rowBits h.data 614 1 == 1 && rowBits h.data 608 6 == own
      let seq : BitVec 32 := if again then BitVec.ofNat 32 (rowBits h.data 576 32) else Tab.get x.seqs d.dest 0
      let x := if again then x else { x with seqs := x.seqs.put d.dest (seq + 1) }
      let hd := rowSet (rowSet (rowSet (rowSet h.data 576 32 seq.toNat) 608 6 own) 614 1 1) 672 32
        (crc32c (t.map fun l => l.data))
      let codes := if r.2.any fun l => l.poison then addCode codePoison d.codes else d.codes
      match spotOf d.spots (d.buf + d.sent) with
      | none => none
      | some p =>
        (s.xuWrite d.core d.func (BitVec.ofNat 64 (d.buf + d.sent)) p.pa hd.toNat 128 h.poison).map fun s =>
          s.setXu die (x.putSend { d with row := { h with data := hd } :: t, codes := codes })

/-- A line of a send goes to its destination. -/
def State.sendLine (s : State) (die : Nat) (d : Send) (l : XLine) : Option State :=
  match s.dieOf d.dest with
  | none => some s
  | some y => s.receiveLine y (s.endpoint die) l

/-- A line of the send has left: its bytes count, and it is noted where its CRC failed (R261). -/
def Send.moved (d : Send) (good : Bool) : Send :=
  { d with sent := d.sent + 128, failed := if good then d.failed else (d.sent / 128) :: d.failed }

/-- ENG of an exchange operation (R80, R261): a row is begun, or a line is moved. `good` is false where its CRC fails
on the way (log 23). -/
def State.moveLine (s : State) (die : Nat) (good : Bool) : Option State :=
  let x := s.xu die
  x.moving.bind fun m =>
    (x.sendTo m.2.1).bind fun d =>
      let down := s.wayDown die d.dest || s.wayHeld die d.dest
      if !d.more m.2.2 (x.later d.dest) || down || !s.pairOpen x (s.endpoint die) d.dest then none
      else if d.rows then
        match d.row with
        | [] => s.beginRow die d
        | l :: r =>
          (s.sendLine die d { l with bad := !good }).map fun s =>
            s.setXu die { (s.xu die).putSend { d.moved good with row := r } with
              moving := some (m.1, m.2.1, m.2.2 - 1) }
      else
        match s.bufLine d d.sent with
        | .done s v =>
          (s.sendLine die d ⟨BitVec.ofNat 1024 v.1, v.2, !good⟩).map fun s =>
            s.setXu die { (s.xu die).putSend { d.moved good with
                codes := if v.2 then addCode codePoison d.codes else d.codes } with
              moving := some (m.1, m.2.1, m.2.2 - 1) }
        | _ => none

/-- ENG (R70, R80): access `i` of what is left of operation `e`; for an exchange operation its next line, whose CRC
passes for `i` = 0. -/
def execEng (e i : Nat) (s : State) : Host.Outcome State Fault Refusal :=
  event s (match s.engine e with
    | some x => s.engStep x i
    | none =>
      ((List.range 8).find? fun d => ((s.xu d).moving.map fun m => m.1) == some e).bind fun d => s.moveLine d (i == 0))

/-! Calendars and phases (R259, R261, R374). -/

/-- A unit takes a calendar (R259, R374): one of an older generation is discarded, and grants whose start has passed
are void. None while the unit has not learned of its generation, or still runs another one (log 28). -/
def State.takeCalendar (s : State) (die : Nat) (c : Calendar) : Option State :=
  let x := s.xu die
  let ptc := (s.die die).ptc
  if c.gen.toNat < x.known.toNat then some s
  else if c.gen ≠ x.known then none
  else if x.state = .granted ∨ x.state = .running then none
  else
    let void := (c.grants.zipIdx.filter fun g => c.ts.toNat + g.1.offset < ptc.toNat).map fun g => g.2
    some (s.setXu die { x with
      state := .granted, gen := c.gen, cal := some c, phase := 0, sentEnd := 0, ended := 0, voided := void, moving := none })

/-- CALENDAR_ARRIVAL (R374). -/
def execCalendarArrival (die : Nat) (s : State) : Host.Outcome State Fault Refusal :=
  event s (match s.cg.calendars.findIdx? fun c => c.1 == s.endpoint die with
    | none => none
    | some i =>
      (s.cg.calendars[i]?).bind fun c =>
        State.takeCalendar { s with cg := { s.cg with calendars := s.cg.calendars.eraseIdx i } } die c.2)

/-- The next phase in which the unit has a grant. -/
def Exchange.nextPhase (x : Exchange) : Option Nat :=
  ((x.grants.map fun g => g.phase).filter fun p => x.ended < p).min?

/-- Start and end of a phase, in PTC. -/
def Exchange.phaseTime (x : Exchange) (p : Nat) : Nat × Nat :=
  match x.cal, x.grants.find? fun g => g.phase == p with
  | some c, some g => (c.ts.toNat + g.offset, c.ts.toNat + g.offset + g.span)
  | _, _ => (0, 0)

/-- The next own phase begins once the PTC reaches its start. An XSEND that came later misses it (R261). -/
def State.beginPhase (s : State) (die : Nat) : Option State :=
  let x := s.xu die
  if x.phase ≠ x.ended then none
  else x.nextPhase.bind fun p =>
    let t := (x.phaseTime p).1
    if (s.die die).ptc.toNat < t then none
    else
      let x := { x with phase := p }
      let moving := (x.grantIn p false).bind fun g => (x.sendTo g.partner).bind fun d =>
        if d.issued.toNat ≤ t && !d.lost then some (s.serial, g.partner, g.lines) else none
      some { s.setXu die { x with moving := moving } with serial := s.serial + 1 }

/-- PHASE_START (R259): GRANTED ends at TS. -/
def execPhaseStart (die : Nat) (s : State) : Host.Outcome State Fault Refusal :=
  let x := s.xu die
  event s (match x.state, x.cal with
    | .granted, some c =>
      if (s.die die).ptc.toNat < c.ts.toNat then none
      else
        let s := s.setXu die { x with state := .running }
        some ((s.beginPhase die).getD s)
    | .running, _ => s.beginPhase die
    | _, _ => none)

/-- The last phase of a pair. -/
def Exchange.lastPhase (x : Exchange) (rx : Bool) (e : Nat) : Nat :=
  (((x.grants.filter fun g => g.rx == rx && g.partner == e).map fun g => g.phase).max?).getD 0

/-- A grant of the pair is void (R374). -/
def Exchange.anyVoid (x : Exchange) (rx : Bool) (e : Nat) : Bool :=
  x.grants.zipIdx.any fun g => g.1.rx == rx && g.1.partner == e && x.voided.contains g.2

/-- A row that waits at a receiver cannot be taken now. -/
def State.rowStuck (s : State) (die e : Nat) : Bool := (s.xu die).rowHeld e && (s.ingressRow die e).isNone

/-- The bytes of a send whose CRC was good: its lines, or with ROWS its rows (R261). -/
def Send.good (d : Send) : Nat :=
  let unit := if d.rows then 1 + d.rowl else 1
  let n := d.sent / (128 * unit)
  128 * unit * ((List.range n).filter fun i => !d.failed.any fun l => l / unit == i).length

/-- The record of a send (R261, KIND 6); the bytes of a row that was not sent whole are taken back. -/
def Exchange.sendRecord (x : Exchange) (d : Send) : Exchange :=
  let link := d.lost || d.codes.contains codeLink || x.anyVoid false d.dest
  let whole := if d.rows then d.sent / (128 * (1 + d.rowl)) * (128 * (1 + d.rowl)) else d.sent
  let sent := if link then d.good else whole
  let res := d.bytes - sent
  let codes := d.codes ++ (if link then [codeLink] else []) ++ (if res = 0 then [] else [codeResidual])
  { x.putSend { d with reported := true, row := [], sent := sent } with
    residual := x.residual + res
    records := x.records ++ [⟨d.core, d.ring, lowestCode codes, 6, d.tag, sent, res, d.dest⟩] }

/-- The sending side of the end of a phase. None while a line can still be moved. -/
def State.endSending (s : State) (die : Nat) : Option State :=
  let x := s.xu die
  match x.grantIn x.phase false with
  | none => some s
  | some g =>
    let e := g.partner
    let own := s.endpoint die
    let y := s.dieOf e
    let down := s.wayDown die e
    let stuck := match y with
      | some y => s.rowStuck y own
      | none => true
    let closed := !s.pairOpen x own e
    let busy := match x.moving, x.sendTo e with
      | some m, some d => d.more m.2.2 (x.later e) && !down && !closed && !stuck
      | _, _ => false
    if busy then none
    else
      -- a link that is down ends the pair with LINK; a receiver whose grant is void, or that does not run the calendar,
      -- ends this grant with LINK (R261, R374)
      let s := if !down && !closed then s else
        let s := s.setXu die (match x.sendTo e with
          | some d => x.putSend { d with lost := d.lost || down, codes := addCode codeLink d.codes }
          | none => x)
        match y with
        | some y => if down then s.setReceive y own { Tab.get (s.xu y).receives own .reset with lost := true } else s
        | none => s
      let x := s.xu die
      if x.lastPhase false e ≠ x.phase then some s
      else
        let s := match x.sendTo e with
          | some d => s.setXu die (x.sendRecord d)
          | none => s
        match y with
        | some y =>
          -- a row that has not come whole is dropped (R267)
          if (s.xu y).rowHeld own then some s
          else some (s.setReceive y own { Tab.get (s.xu y).receives own .reset with lines := [] })
        | none => some s

/-- The receiving side of the end of a phase (R262, KIND 7). None while the sending part of the sender's phase has not
ended. -/
def State.endReceiving (s : State) (die : Nat) : Option State :=
  let x := s.xu die
  match (x.grants.find? fun g => g.phase == x.phase && g.rx) with
  | none => some s
  | some g =>
    let e := g.partner
    let z := (s.dieOf e).map fun y => s.xu y
    let same := fun (z : Exchange) =>
      (z.state == .granted || z.state == .running) &&
        (z.cal.map fun c => (c.gen, c.round)) == (x.cal.map fun c => (c.gen, c.round))
    let waits := z.any fun z => same z && z.sentEnd < x.phase && (z.grantIn x.phase false).isSome
    let r : Receive := Tab.get x.receives e .reset
    let last := x.lastPhase true e == x.phase
    -- a row that has come whole is looked at first, so that the record can carry its code
    if waits || (last && x.rowHeld e && r.copies.isNone) then none
    else if !last then some s
    else
      -- a sender that holds the calendar, or has run it, knows its void grants; one that gets it later has none that is not
      let own := s.endpoint die
      let void := x.anyVoid true e || z.any fun z =>
        if same z then z.anyVoid false own
        else match z.past, x.cal with
          | some (g, r, l), some c => !(g == c.gen && r == c.round) || l.contains own
          | _, _ => true
      let codes := r.codes ++ (if r.lost || void then [codeLink] else [])
      let r' : Receive := if x.rowHeld e then r else { r with lines := [] }
      let x : Exchange := { x with receives := x.receives.put e r' }
      some (s.setXu die (match x.arm with
        | some a => { x with records := x.records ++
            [⟨a.core, a.arm e 97 2, lowestCode codes, 7, BitVec.ofNat 16 (a.arm e 112 16), r.put + 128 * r'.lines.length,
              x.granted true e, e⟩] }
        | none => x))

/-- Writes the first record that waits. -/
def State.writePending (s : State) (die : Nat) : Option State :=
  match (s.xu die).records with
  | [] => none
  | r :: l =>
    if s.engHeld (xuOp die) then none
    else match s.writeRecord (coreClus r.core) r.core r.ring
        (recordBits r.code r.kind r.tag r.bytes r.aux r.aux2 (s.die die).ptc) with
    | .done s _ => some (s.setXu die { s.xu die with records := l })
    | .first s => some s
    | .wait => none

/-- The end of a round (R259, R286): records of sends without a grant, the KIND 8 record once every row of the round is in
its ring, and IDLE with its notice. -/
def State.endRound (s : State) (die : Nat) : Option State :=
  let x := s.xu die
  if x.receives.any fun r => x.rowHeld r.1 then none
  else match x.sends.find? fun d => !d.reported with
  | some d => some (s.setXu die (x.sendRecord d))
  | none =>
    match x.layerDone, x.emap with
    | false, some m =>
      some (s.setXu die { x with
        layerDone := true
        records := x.records ++ [⟨m.core, m.bits 10 2, 0, 8, 0, x.accepted, x.roundDeferred, x.roundDups⟩] })
    | _, _ =>
      let note := match x.arm with
        | some a => if a.bits 16 1 = 1 then some (a.launch, a.bits 0 16, a.core) else none
        | none => none
      let room := match note with
        | some n => s.pathRoom n.1 n.2.1
        | none => true
      if !room then none
      else
        let s := s.setXu die { x with
          past := x.cal.map fun c =>
            (c.gen, c.round, (x.grants.zipIdx.filter fun g => !g.1.rx && x.voided.contains g.2).map fun g => g.1.partner)
          state := .idle, armPins := false, round := x.round + 1, phase := 0, sentEnd := 0, ended := 0, voided := [], moving := none, sends := [],
          receives := [], residual := 0, lastResidual := x.residual, accepted := 0, roundDups := 0, roundDeferred := 0,
          layerDone := false }
        some (match note with
          | some n =>
            let word := BitVec.ofNat 64 ((x.round + 1).toNat + s.endpoint die * 2 ^ 32)
            s.sendAct
              { type := 6, sender := n.2.2, target := n.2.1, wid := 0, words := [word], payload := 0, hdr := 0,
                prio := 0, launch := n.1, frame := none, saved := none, reply := none, origin := 0, order := 0 }
          | none => s)

/-- PHASE_END (R259, R261): a record that waits is written; the running phase ends, its
sending part first; or the round ends. -/
def State.phaseEnd (s : State) (die : Nat) : Option State :=
  let x := s.xu die
  let ptc := (s.die die).ptc.toNat
  if x.state ≠ .running then none
  else if !x.records.isEmpty then s.writePending die
  else if x.phase ≠ x.ended then
    if ptc < (x.phaseTime x.phase).2 then none
    else if x.phase ≠ x.sentEnd then
      (s.endSending die).map fun s =>
        let x := s.xu die
        s.setXu die { x with sentEnd := x.phase, moving := none }
    else (s.endReceiving die).map fun s =>
      let x := s.xu die
      s.setXu die { x with ended := x.phase }
  else if x.nextPhase.isSome then none
  else if ptc < ((x.cal.map fun c => c.stop.toNat).getD 0) then none
  else s.endRound die

/-- PHASE_END (R261). -/
def execPhaseEnd (die : Nat) (s : State) : Host.Outcome State Fault Refusal := event s (s.phaseEnd die)

/-- EXCHANGE_LINK_FAILURE (R261): a link on the way of a pair fails in the running phase. `die` sends to the endpoint,
or receives from one of a peer package; toward a peer, `bytes` are the bytes that reached it. -/
def State.linkFailure (s : State) (die e bytes : Nat) : Option State :=
  let x := s.xu die
  let own := s.endpoint die
  let lose := fun (s : State) (d e : Nat) =>
    let z := s.xu d
    let r : Receive := Tab.get z.receives e .reset
    s.setXu d { z with receives := z.receives.put e { r with lost := true } }
  if x.state ≠ .running ∨ x.phase = x.ended then none
  else if (x.grantIn x.phase false).any (fun g => g.partner == e) && x.phase ≠ x.sentEnd then
    let d := (x.sendTo e).map fun d =>
      { d with lost := true, sent := if (s.dieOf e).isSome then d.sent else min d.sent (bytes / 128 * 128) }
    let s := s.setXu die { (match d with
      | some d => x.putSend d
      | none => x) with moving := none }
    some (match s.dieOf e with
      | some y => lose s y own
      | none => s)
  else if (x.grantIn x.phase true).any (fun g => g.partner == e) && (s.dieOf e).isNone then some (lose s die e)
  else none

/-- EXCHANGE_LINK_FAILURE (R261). -/
def execExchangeLinkFailure (die endpoint bytes : Nat) (s : State) : Host.Outcome State Fault Refusal :=
  event s (s.linkFailure die endpoint bytes)

/-- A line from an endpoint of a peer package, in a phase granted to the pair (R261; log 23). -/
def State.peerLine (s : State) (die e : Nat) (l : XLine) : Option State :=
  let x := s.xu die
  let r : Receive := Tab.get x.receives e .reset
  let upTo := (x.grants.filter fun g => g.rx && g.partner == e && g.phase ≤ x.phase).foldl (fun n g => n + g.lines) 0
  if x.state = .running ∧ x.phase ≠ x.ended ∧ (s.dieOf e).isNone ∧ (x.grantIn x.phase true).any (fun g => g.partner == e) ∧
      !r.lost ∧ r.bytes / 128 < upTo ∧ !s.wayDown die e ∧ !s.wayHeld die e then s.receiveLine die e l
  else none

end Sys2Proof.Machine
end

