-- ==== Sys2Proof/Machine/Centroid.lean ====
section
/-! DEFINITION. The Centroid: posts, decomposition, calendars, time, heartbeats and failover
(spec/24_centroid.md R369 to R377, spec/23_host.md R365; log 23, log 28). -/

namespace Sys2Proof.Machine

/-! Governed registers (R365). -/

/-- The master owns the management registers (R364): a lease that has run out leaves no owner. -/
def State.owns (s : State) (who : BitVec 16) : Bool := who != 0 && who == s.mgmt.owner && s.mgmt.lease != 0

/-- The lease has run out (R364): there is no owner any more, and a record says so; OWN is register 47 of log 29. -/
def State.expireLease (s : State) : State :=
  let m := s.mgmt
  if m.owner = 0 || m.lease ≠ 0 then s
  else ({ s with mgmt := { m with owner := 0, gen := m.gen + 1 } } : State).error 14 0 0 0 1 (Config.registerOffset 47)
    m.owner.toNat

/-- A write by a master that is not the owner is dropped and recorded (R365); before the device has started, and in recovery, no
register answers (R366).
`reg` numbers the register for the record's ADDR (log 29). -/
def State.governed (s : State) (who : BitVec 16) (reg : Nat) (o : Option State) : Option State :=
  if s.boot.running.isNone then none
  else if s.owns who then o
  else some (s.expireLease.error 15 1 0 0 1 (Config.registerOffset reg) who.toNat)

/-! Fields of the registers (R369). -/

def Centroid.en (c : Centroid) : Bool := c.cgctl.getLsbD 0
def Centroid.leader (c : Centroid) : Nat := bits c.cgctl.toNat 1 3
def Centroid.spread (c : Centroid) : Nat := bits c.cgctl.toNat 16 16
def Centroid.deadline (c : Centroid) : Nat := bits c.cgctl.toNat 32 32
def Centroid.rate (c : Centroid) : Nat := bits c.cgrate.toNat 0 16
def Centroid.distlat (c : Centroid) : Nat := bits c.cgrate.toNat 16 32
def Centroid.members (c : Centroid) : List Nat := (List.range 64).filter fun e => c.cgmem.getLsbD e

/-- CGST (R369). -/
def Centroid.cgst (c : Centroid) : Nat :=
  c.gen.toNat + c.pkg.toNat * 2 ^ 32 + bitsOf c.iod * 2 ^ 35 + c.late.toNat * 2 ^ 48

/-- The leader is in this package. -/
def State.leads (s : State) : Bool := s.cg.leader == s.pkg.toNat

/-- The Centroid with the leader's copy of the registers (R369); this package's own stand for them until they come
(log 23). -/
def State.group (s : State) : Centroid :=
  match s.cg.lead with
  | some (m, c, r) => if s.leads then s.cg else { s.cg with cgmem := m, cgctl := c, cgrate := r }
  | none => s.cg

/-- The active Centroid is in this package. -/
def State.centroidHere (s : State) : Bool := s.cg.pkg == s.pkg

/-- The skew that times a calendar: GRPSKEW where the group spans packages (R372). -/
def State.groupSkew (s : State) : Nat :=
  let d := s.die 0
  if s.group.members.any fun e => e / 8 != ((s.group.members.head?).getD 0) / 8 then d.grpSkew.toNat else d.pkgSkew.toNat

/-! The decomposition (R371). -/

/-- The destination that a source picks: the largest count that is left among those not taken, the lower on ties. -/
def pickDest (row : List Nat) (taken : List Nat) : Option Nat :=
  row.zipIdx.foldl (fun b c =>
    if c.1 = 0 ∨ taken.contains c.2 then b
    else match b with
      | none => some c.2
      | some d => if (row[d]?).getD 0 < c.1 then some c.2 else some d) none

/-- The pairs of one phase. -/
def pickPairs (d : Tab (List Nat)) : List (Nat × Nat) :=
  d.foldl (fun l r => match pickDest r.2 (l.map fun p => p.2) with
    | some e => l ++ [(r.1, e)]
    | none => l) []

def countOf (d : Tab (List Nat)) (p : Nat × Nat) : Nat := ((Tab.get d p.1 [])[p.2]?).getD 0

/-- A phase of the decomposition: lines and pairs. -/
structure PhasePlan where
  lines : Nat
  pairs : List (Nat × Nat)
  deriving DecidableEq, Repr

/-- The phases, at most as many as the first argument. -/
def decompose : Nat → Tab (List Nat) → List PhasePlan
  | 0, _ => []
  | n + 1, d =>
    match pickPairs d with
    | [] => []
    | p :: r =>
      let lines := (p :: r).foldl (fun m q => min m (countOf d q)) (countOf d p)
      let less := (p :: r).foldl (fun (d : Tab (List Nat)) q =>
        Tab.put d q.1 ((Tab.get d q.1 []).set q.2 (countOf d q - lines))) d
      ⟨lines, p :: r⟩ :: decompose n less

/-! Calendars (R372, R373). -/

/-- A phase in time: its number, offset from TS and duration. -/
structure TimedPhase where
  plan : PhasePlan
  phase : Nat
  offset : Nat
  span : Nat
  deriving DecidableEq, Repr

def timePhases (rate spread guard' : Nat) : List PhasePlan → Nat → Nat → List TimedPhase
  | [], _, _ => []
  | p :: r, n, off =>
    let d := (128 * p.lines + rate - 1) / rate + spread
    ⟨p, n, off, d⟩ :: timePhases rate spread guard' r (n + 1) (off + d + guard')

/-- The grants of an endpoint: by phase, the send before the receive (R373). -/
def grantsOf (l : List TimedPhase) (e : Nat) : List Grant :=
  l.flatMap fun t =>
    ((t.plan.pairs.filter fun p => p.1 == e).map fun p => ⟨t.phase, false, p.2, t.plan.lines, t.offset, t.span⟩) ++
    ((t.plan.pairs.filter fun p => p.2 == e).map fun p => ⟨t.phase, true, p.1, t.plan.lines, t.offset, t.span⟩)

/-- The round closes: its matrix is cut into phases, timed and distributed, after a heartbeat (R370 to R373,
R376). Posts that are still on their way come late. -/
def State.closeRound (s : State) : State :=
  let c := s.group
  let g := 2 * s.groupSkew
  let now := s.now.toNat
  let plan := timePhases c.rate c.spread g (decompose 128 c.rows) 1 0
  let ts := max (now + c.distlat) (if c.prevEnd = 0 then 0 else c.prevEnd.toNat + g)
  let stop := BitVec.ofNat 64 (match plan.getLast? with
    | some t => ts + t.offset + t.span
    | none => ts)
  let cal := fun e : Nat => (⟨c.gen, c.round + 1, BitVec.ofNat 64 ts, plan.length, grantsOf plan e, stop⟩ : Calendar)
  let mine := c.members.filter fun e => (s.dieOf e).isSome
  { s with cg := { s.cg with
      rows := [], openAt := none, round := c.round + 1, prevEnd := stop
      posts := c.posts.map fun p => { p with late := true }
      beat := some ⟨c.gen, c.round + 1, stop⟩, beatAt := s.now, missed := 0
      calendars := c.calendars ++ mine.map fun e => (e, cal e) } }

/-- Every member has posted. -/
def State.allPosted (s : State) : Bool := s.group.members.all fun e => (s.cg.rows.find e).isSome

/-- DEADLINE ns have passed since the open round's first post. -/
def State.overdue (s : State) : Bool :=
  match s.cg.openAt with
  | some t => s.group.deadline ≤ (s.now - t).toNat
  | none => false

/-- The round closes if it may: every member has posted or the deadline has passed, and the skew is known (R370,
R372). -/
def State.tryClose (s : State) : Option State :=
  match s.cg.openAt with
  | none => none
  | some _ => if (s.allPosted || s.overdue) && s.groupSkew != 0xFFFF then some s.closeRound else none

def Centroid.countLate (c : Centroid) : Centroid :=
  { c with late := if c.late = BitVec.allOnes 16 then c.late else c.late + 1 }

/-- A post arrives at the Centroid; its count toward itself is taken as 0 (R260, R370). -/
def State.joinRound (s : State) (p : Post) : State :=
  let c := s.cg
  if p.late ∨ p.gen ≠ c.gen then { s with cg := c.countLate }
  else if !s.group.members.contains p.endpoint then s
  else
    let s := { s with cg := { c with
      rows := c.rows.put p.endpoint (p.row.set p.endpoint 0), openAt := some (c.openAt.getD s.now) } }
    (if s.allPosted then s.tryClose else none).getD s

/-- A post arrives (R370): a round whose deadline has passed closes first. None while no group is active. -/
def State.takePost (s : State) (i : Nat) : Option State :=
  if !s.centroidHere then (s.cg.posts[i]?).map fun _ => { s with cg := { s.cg with posts := s.cg.posts.eraseIdx i } }
  else if !s.group.en then none
  else
    let s := (if s.overdue then s.tryClose else none).getD s
    (s.cg.posts[i]?).map fun p => ({ s with cg := { s.cg with posts := s.cg.posts.eraseIdx i } } : State).joinRound p

/-- CENTROID_POST (R370). -/
def execCentroidPost (i : Nat) (s : State) : Host.Outcome State Fault Refusal := event s (s.takePost i)

/-- ROUND_DEADLINE_EXPIRY (R370). -/
def execRoundDeadlineExpiry (s : State) : Host.Outcome State Fault Refusal :=
  event s (if s.centroidHere then s.tryClose else none)

/-! Generations (R377). -/

/-- A die learns of a generation: a unit in POSTED posts its row again. -/
def State.learn (s : State) (die : Nat) (gen : BitVec 32) : State :=
  let x := s.xu die
  let s := s.setXu die { x with known := gen }
  if x.state = .posted then s.sendPost die else s

/-- A new generation begins at the Centroid: the open round is dropped, and posts on their way are of an older one. -/
def Centroid.newGen (c : Centroid) : Centroid := { c with gen := c.gen + 1, rows := [], openAt := none }

/-- A value as a register of R369 keeps it. -/
def cgStored (r : CgReg) (v : Word) : Word :=
  match r with
  | .cgmem => v
  | .cgctl => v &&& 0xFFFFFFFFFFFF000F
  | .cgrate =>
    let rate := bits v.toNat 0 16
    BitVec.ofNat 64 (max 1 (min 1600 rate) + bits v.toNat 16 32 * 2 ^ 16)

/-- LEADER has been written: the leader's I/O die 0 is the active Centroid; where it comes to be here, the end that the
last heartbeat carried is the end of the last calendar (R377). -/
def State.toLeader (s : State) (c : Centroid) : Centroid :=
  if c.leader = s.cg.leader then c
  else
    { c with
      pkg := BitVec.ofNat 3 c.leader, iod := false, lead := none
      prevEnd := if s.centroidHere then c.prevEnd else (c.beat.map fun b => b.stop).getD c.prevEnd }

/-- CG_CONFIG_WRITE (R369, R365): a write on the package that leads, before it or after it, begins a new generation. -/
def execCgConfigWrite (reg : CgReg) (value : Word) (who : BitVec 16) (s : State) : Host.Outcome State Fault Refusal :=
  let v := cgStored reg value
  event s (s.governed who (match reg with
      | .cgmem => 0 | .cgctl => 1 | .cgrate => 2)
    (some (
      let c : Centroid := match reg with
        | .cgmem => { s.cg with cgmem := v }
        | .cgctl => s.toLeader { s.cg with cgctl := v }
        | .cgrate => { s.cg with cgrate := v }
      { s with cg := if s.leads || c.leader = s.pkg.toNat then c.newGen else c })))

/-! Time (R375). -/

/-- The clocks of the dies lie within a bound of each other (R161). -/
def State.within (s : State) (b : BitVec 16) : Bool :=
  (List.range 8).all fun d => (List.range 8).all fun e => ((s.die d).ptc - (s.die e).ptc).toInt ≤ (b.toNat : Int)

/-- A bound that can be proved: it is at most `n` ns and holds now (R375). -/
def State.boundOk (s : State) (b : BitVec 16) (n : Nat) : Bool := b == 0xFFFF || (b.toNat ≤ n && s.within b)

/-- The compute die whose clock is that of the active Centroid's I/O die: die 0 for I/O die 0, and die 4 for I/O die 1 (log 42). -/
def State.clockDie (s : State) : Nat := if s.centroidHere && s.cg.iod then 4 else 0

/-- The link of an exchange is trained, and it had none in the last 10 µs (R375, R387). -/
def State.exchangeDue (s : State) (die : Nat) : Bool :=
  let n := nextDie die s.clockDie
  let free := match (s.die die).exchanged with
    | some t => 10000 ≤ ((s.die die).ptc - t).toNat
    | none => true
  free && (die == s.clockDie || ((s.link (linkKey die n)).state == .up && (s.link (linkKey n die)).state == .up))

/-- The times of an exchange are those of its clocks: t1 and t4 of the die, t2 and t3 of the die next to it toward
that of the active Centroid (of the clock of a peer package for that one), and nothing arrives before it is sent (R375;
log 42). -/
def State.exchangeFits (s : State) (die : Nat) (t1 t2 t3 t4 : Word) : Bool :=
  let own := (s.die die).ptc
  let there := (s.die (nextDie die s.clockDie)).ptc
  let diff := (there - own).toInt
  t1.toNat ≤ t4.toNat && t4.toNat ≤ own.toNat && t2.toNat ≤ t3.toNat &&
    (die == s.clockDie || (t3.toNat ≤ there.toNat && 0 ≤ (t2 - t1).toInt - diff && 0 ≤ (t4 - t3).toInt + diff))

/-- The correction of an exchange; the die whose clock is the active Centroid's takes none (R375). -/
def State.correction (s : State) (die : Nat) (t1 t2 t3 t4 : Word) : Int :=
  if s.centroidHere && die == s.clockDie then 0 else ((t2 - t1).toInt - (t4 - t3).toInt) / 2

/-- GNOMON_EXCHANGE (R375): a correction to be slewed, and the bounds that can be proved now. -/
def execGnomonExchange (die : Nat) (t1 t2 t3 t4 : Word) (pkgSkew grpSkew : BitVec 16) (s : State) :
    Host.Outcome State Fault Refusal :=
  event s (if 8 ≤ die || !s.boundOk pkgSkew 2 || !s.boundOk grpSkew 20 || !s.exchangeDue die || !s.exchangeFits die t1 t2 t3 t4 then none
    else
      let x := s.die die
      let s := s.setDie die { x with
        slew := s.correction die t1 t2 t3 t4, pkgSkew := pkgSkew, grpSkew := grpSkew, exchanged := some x.ptc }
      some ((if s.centroidHere && s.allPosted then s.tryClose else none).getD s))

/-! Failover (R376). -/

/-- The line of succession: package and I/O die. -/
def Centroid.line (c : Centroid) : List (Nat × Bool) :=
  (c.leader, false) :: (c.leader, true) ::
    (((List.range 7).map fun i => (c.leader + 1 + i) % 8).filter fun p => bits c.cgmem.toNat (8 * p) 8 != 0).map
      fun p => (p, false)

/-- A Centroid that finds a higher generation than its own stands down (R376). Which Centroid began it is known from its heartbeat
alone: until then the next one in line outside this package stands for it (DESIGN CHOICE, log 28). None where the line has no
other. -/
def State.standDown (s : State) (gen : BitVec 32) : Option State :=
  let l := s.group.line
  let i := (l.findIdx? fun p => p == (s.cg.pkg.toNat, s.cg.iod)).getD 0
  ((l.drop (i + 1) ++ l.take i).find? fun p => p.1 != s.pkg.toNat).map fun p =>
    { s with cg := { s.cg with gen := gen, pkg := BitVec.ofNat 3 p.1, iod := p.2, rows := [], openAt := none } }

/-- GENERATION_CHANGE (R376, R377): a die learns of a generation that is newer than what it knew; CGST never goes back. -/
def execGenerationChange (die : Nat) (gen : BitVec 32) (s : State) : Host.Outcome State Fault Refusal :=
  event s (if gen.toNat ≤ (s.xu die).known.toNat then none
    else if s.centroidHere then
      (if gen.toNat < s.cg.gen.toNat then none
       else if gen = s.cg.gen then some (s.learn die gen)
       else (s.standDown gen).map fun s => s.learn die gen)
    else
      let s := if s.cg.gen.toNat < gen.toNat then { s with cg := { s.cg with gen := gen } } else s
      some (s.learn die gen))

/-- HEARTBEAT_TIMER (R376): the active Centroid sends a heartbeat every 1 µs. -/
def execHeartbeatTimer (s : State) : Host.Outcome State Fault Refusal :=
  let c := s.cg
  event s (if !s.group.en || !s.centroidHere || (s.now - c.beatAt).toNat < 1000 then none
    else some { s with cg := { c with beat := some ⟨c.gen, c.round, c.prevEnd⟩, beatAt := s.now, missed := 0 } })

/-- CENTROID_TAKEOVER (R376): the first live Centroid after the active one takes over once 8 heartbeats in a row are
missed; its first TS falls after the end that the last heartbeat carried (R377). The I/O dies of this package live; which
Centroid of a peer package does is not in the state (log 23). -/
def execCentroidTakeover (pkg : BitVec 3) (iod : Bool) (s : State) : Host.Outcome State Fault Refusal :=
  let l := s.group.line
  let c := s.cg
  event s (match l.findIdx? fun p => p == (pkg.toNat, iod), l.findIdx? fun p => p == (c.pkg.toNat, c.iod) with
    | some n, some m =>
      let live := ((l.take n).drop (m + 1)).any fun p => p.1 == s.pkg.toNat
      if !s.group.en || n ≤ m || c.missed < 8 || live then none
      else some { s with cg := { c.newGen with
          pkg := pkg, iod := iod, missed := 0, prevEnd := (c.beat.map fun b => b.stop).getD c.prevEnd } }
    | _, _ => none)

/-- A heartbeat from a peer arrives, or one is missed, 1 µs after the last one was due; one of an older generation is of
a Centroid that has to stand down; a Centroid that finds a higher generation stands down (R376). -/
def State.peerBeat (s : State) (seen : Bool) (pkg : BitVec 3) (iod : Bool) (b : Beat) : Option State :=
  let c := s.cg
  if !seen then
    (if (s.now - c.beatAt).toNat < 1000 * (c.missed + 1) then none else some { s with cg := { c with missed := c.missed + 1 } })
  else if pkg = s.pkg || b.gen.toNat < c.gen.toNat || (s.centroidHere && b.gen = c.gen) then none
  else some { s with cg := { c with gen := b.gen, pkg := pkg, iod := iod, beat := some b, beatAt := s.now, missed := 0 } }

/-- A post from an endpoint of a peer package is on its way (R370; log 23). -/
def State.peerPost (s : State) (p : Post) : Option State :=
  if (s.dieOf p.endpoint).isSome || 64 ≤ p.endpoint then none
  else some { s with cg := { s.cg with posts := s.cg.posts ++ [p] } }

/-- The registers of a leader in a peer package come here: a change of generation where the Centroid is here (R369). -/
def State.peerConfig (s : State) (m c r : Word) : Option State :=
  if s.leads then none
  else
    let cg := { s.cg with lead := some (cgStored .cgmem m, cgStored .cgctl c, cgStored .cgrate r) }
    some { s with cg := if s.centroidHere then cg.newGen else cg }

/-! What peers do (log 23). -/

/-- A turn of the outside. -/
def State.peer (s : State) : Turn → Option State
  | .peerLine die e d poison good => s.peerLine die e ⟨d, poison, !good⟩
  | .rowAgain die e => s.rowAgain die e
  | .peerCalendar die c => s.takeCalendar die c
  | .peerPost p => s.peerPost p
  | .peerRefusal r => some { s with refusalRing := s.refusalRing ++ [r] }
  | .peerBeat seen pkg iod b => s.peerBeat seen pkg iod b
  | .peerConfig m c r => s.peerConfig m c r
  | _ => none

end Sys2Proof.Machine
end

