-- ==== Sys2Proof/Machine/OrderEvents.lean ====
section
/-! DEFINITION. Steps of the ordering machine other than issue (spec/03_ordering.md R70, R73, spec/02_memory.md R55,
R62, R63), and what the host's processors do (spec/23_host.md R358 to R361; log 22). -/

namespace Sys2Proof.Machine

/-- Items that have a part in a gather finish it (R178, R247). -/
def swept (o : Option State) : Option State := o.map State.sweep

/-! Queues of the die (R70). -/

/-- DRAIN (R70): the head of P[c][h] is performed at its slice. -/
def execDrain (core h : Nat) (s : State) : Host.Outcome State Fault Refusal :=
  let key := 64 * core + h
  event s (swept (match s.posting.get key [] with
    | [] => none
    | it :: r =>
      if 64 ≤ h || !s.dieOn (coreDie core) || !s.servable it then none
      else some (({ s with posting := s.posting.put key r } : State).perform it)))

/-- FILL (R70). -/
def execFill (clus line : Nat) (s : State) : Host.Outcome State Fault Refusal := event s (swept (s.fillOne clus line))

/-- EVICT (R56, R70): the device may send any line home, or drop it, in the queue of a core of which it is serving an
access, or of core 0; it waits while the line's row of SRAM is being remapped (R386). -/
def execEvict (core line : Nat) (s : State) : Host.Outcome State Fault Refusal :=
  let k := coreClus core
  let serves := core % 32 = 0 || s.live.any fun l => slotCore l.slot == core
  event s (swept (if ((s.cluster k).findLine line).isNone || !serves || s.wayBusy k line then none
    else some (s.evictLine { s.whoFor k with core := core } line)))

/-- HOP (R63, R70): the head of a remote queue goes on to its next link or into an ingress buffer. An item on a link
that sleeps wakes it (R362). -/
def execHop (link : Nat) (s : State) : Host.Outcome State Fault Refusal :=
  let l := s.link link
  let to' := link % 8
  event s (match l.queue, l.state with
    | it :: r, .up =>
      let s := s.setLink link { l with queue := r }
      if it.die = to' then
        let key := 64 * link + homeSlice (128 * it.line)
        some { s with ingress := s.ingress.put key (s.ingress.get key [] ++ [it]) }
      else some (s.forward to' it)
    | _ :: _, .asleep none slow => some (s.setLink link { l with state := .asleep (some s.now) slow })
    | _, _ => none)

/-- INGRESS (R70). -/
def execIngress (link h : Nat) (s : State) : Host.Outcome State Fault Refusal :=
  let key := 64 * link + h
  event s (swept (match s.ingress.get key [] with
    | [] => none
    | it :: r =>
      if 64 ≤ h || !s.dieOn it.die || !s.servable it then none
      else some (({ s with ingress := s.ingress.put key r } : State).perform it)))

/-! Host copies of device memory (R73, R360). -/

/-- A host link answers: its copy is removed, and a modified one is written back first. -/
def State.answerInv (s : State) (line p : Nat) : State :=
  let k := sliceOf line
  let mine := s.copies.filter fun c => c.line == line && c.link == p
  let s := mine.foldl (fun s c => if c.dirty then s.mergeLine line c.data (BitVec.allOnes 128) else s) s
  let sl := s.slice k
  let s := { s.setSlice k { sl with sharers := sl.sharers.filter fun e => !(e.1 == line && e.2.1 == p) } with
    copies := s.copies.filter fun c => !(c.line == line && c.link == p) }
  s.releaseHeld k line

/-- BIACK (R70, R73, R360): the answer waits while the die's links wake or do not train, and has sleeping ones wake (R362). -/
def execBiack (line p : Nat) (s : State) : Host.Outcome State Fault Refusal :=
  event s (if (s.slice (sliceOf line)).sharers.any fun e => e.1 == line && e.2.1 == p then
      let d := paDie (128 * line)
      if !s.hostCarries p then none
      else if s.dieAwake d then some (s.answerInv line p)
      else
        let s' := s.wakeDie d
        if s'.links = s.links then none else some s'
    else none)

/-- HOSTW (R70): the head of a host-link write queue is complete in host memory. -/
def execHostw (p : Nat) (s : State) : Host.Outcome State Fault Refusal :=
  let l := s.hostLink p
  event s (match l.queue with
    | it :: r => if !s.hostCarries p then none else some ((s.setHostLink p { l with queue := r }).hostWrite it)
    | [] => none)

/-! The snoop filter (R359, R362). -/

/-- HOST_SNOOP (R359, R362): a snoop by the host waits for the dies of the mask to be awake; a write-back that came first is
merged. -/
def execHostSnoop (line p : Nat) (s : State) : Host.Outcome State Fault Refusal :=
  event s (if !s.hostCarries p then none
    else match s.tracker p line with
    | none => if s.queuedBack line && !s.hostFree line then none else some (s.hostFlushLine line)
    | some (q, e) =>
      let l := s.asleep e.mask
      if l.isEmpty then some (s.serveSnoop q e false)
      else
        let s' := l.foldl (fun s d => s.wakeDie d) s
        if s'.links = s.links then none else some s')

/-! The host's processors (R70 HOST; log 22). -/

/-- The host fetches a line of device memory that it does not hold, over a link; none while a held write stands before it,
the row is being remapped, or the link carries nothing (R73, R361, R386). -/
def State.hostFetch (s : State) (line p : Nat) : Option State :=
  if s.copies.any fun c => c.line == line then some s
  else if s.heldOn (sliceOf line) line || !s.hostCarries p || !s.lineReady (paDie (128 * line)) line then none
  else
    let sl := s.slice (sliceOf line)
    some { s.setSlice (sliceOf line) { sl with
        sharers := (line, p, none) :: sl.sharers.filter fun e => !(e.1 == line && e.2.1 == p) } with
      copies := ⟨line, p, false, s.readLine line⟩ :: s.copies }

/-- The host changes bytes: `f` gives the new value from the old. -/
def State.hostChange (s : State) (pa n p : Nat) (f : Nat → Nat) : Option State :=
  let line := pa / 128
  if paHost pa then
    if !s.mayOwn line true then none
    else
      let s := s.hostOwns line true
      some (s.mergeLine line (lineAt (f (s.readMem pa n)) (pa % 128)) (byteMask (pa % 128) n))
  else (s.hostFetch line p).map fun s =>
    { s with copies := s.copies.map fun c =>
        if c.line = line then
          { c with dirty := true
                   data := mergeBytes c.data (lineAt (f (lineBytes c.data (pa % 128) n)) (pa % 128)) (byteMask (pa % 128) n) }
        else c }

/-- What a host processor reads: its own copy of a line of device memory, or host memory (R68, R73). -/
def State.hostRead (s : State) (pa n : Nat) : Nat :=
  match s.copies.find? fun c => c.line == pa / 128 with
  | some c => lineBytes c.data (pa % 128) n
  | none => s.readMem pa n

/-- A host instruction returns a value to its processor (R68, R70 HOST). -/
def State.hostReturn (s : State) (v : Nat) : State := { s with hostGot := BitVec.ofNat 64 v :: s.hostGot }

/-- HOST (R70, R73): an access of a host processor, aligned to its width. -/
def execHost (op : HostOp) (s : State) : Host.Outcome State Fault Refusal :=
  let pa := match op with
    | .load pa _ _ | .store pa _ _ _ | .rmw _ _ pa _ _ => pa.toNat
  let n := match op with
    | .load _ w _ | .store _ w _ _ => w.bytes
    | .rmw _ ty _ _ _ => ty.bytes
  let line := pa / 128
  if !paValid pa then .fault .noSuchAddress
  else event s (if pa % n ≠ 0 then none
    else match op with
    | .load _ _ p =>
      let o := if !paHost pa then s.hostFetch line p.toNat
        else if s.mayOwn line false then some (s.hostOwns line false) else none
      o.map fun s => s.hostReturn (s.hostRead pa n)
    | .store _ _ v p => s.hostChange pa n p.toNat fun _ => v.toNat % 2 ^ (8 * n)
    | .rmw o ty _ v p =>
      let r : AtomReq := if ty.isFloat then ⟨.famo o ty .rne 0, v, 0, true⟩ else ⟨.amo o ty, v, 0, true⟩
      (if !paHost pa then s.hostFetch line p.toNat
        else if s.mayOwn line true then some (s.hostOwns line true) else none).bind fun s =>
        (s.hostChange pa n p.toNat fun old => (r.apply old).1).map fun s' => s'.hostReturn (s.hostRead pa n))

/-! Fabric ports (R55, R186). -/

/-- FABRIC_PORT_ATOMIC (R55): the head atomic of a port executes, on host memory or on device memory of SYSTEM
domain. -/
def State.portAtomic (s : State) (p : Nat) : Option State :=
  let f := s.port p
  match f.queue with
  | [] => none
  | o :: r =>
    let line := o.pa / 128
    let held := !paHost o.pa && s.heldOn (sliceOf line) line
    if !s.allDone false o.after || held || (paHost o.pa && !(s.hostCarries p && s.mayOwn line true)) ||
        (!paHost o.pa && s.rowBusy (paDie o.pa) line) then none
    else
      let s := (s.setPort p { f with queue := r }).performed o.serial
      if s.poison.contains line then
        some (if o.req.returning then s.failSink o.sink .poison else s.discardAt (sliceOf line) 1)
      else
        let n := o.req.kind.bytes
        let s := if paHost o.pa then (s.hostFlushLine line).hostOwns line true else s.pullHost line true
        let old := s.readMem o.pa n
        let v := o.req.apply old
        let s := s.mergeLine line (lineAt v.1 (o.pa % 128)) (byteMask (o.pa % 128) n)
        if o.req.returning then some ((s.deliver o.sink old).sinkFlags o.sink v.2)
        else
          let f := s.port p
          some (s.setPort p { f with ctr := countFlags f.ctr v.2 })

/-- FABRIC_PORT_ATOMIC (R55). -/
def execFabricPortAtomic (port : Nat) (s : State) : Host.Outcome State Fault Refusal := event s (swept (s.portAtomic port))

/-! Uncorrectable errors (R62). -/

/-- UNCORRECTABLE_ERROR (R62, R384): a home line becomes poison; an A or D line in a cluster cache goes home as
poison, behind what the cluster has queued of it. -/
def execUncorrectableError (place : ErrorPlace) (line : Nat) (s : State) : Host.Outcome State Fault Refusal :=
  event s (match place with
    | .hbm => some (s.poisonLine line 0 (paDie (128 * line)))
    | .l2 d => some (s.poisonLine line 1 d.toNat)
    | .link d => some (s.poisonLine line 3 d.toNat)
    | .clusterSram k =>
      match (s.cluster k).findLine line with
      | none => none
      | some c => some (s.sendPoison (s.whoFor k) c))

end Sys2Proof.Machine
end

