-- ==== Sys2Proof/Machine/HostEvents.lean ====
section
/-! DEFINITION. Host links that go down, and the states of dies (spec/23_host.md R361, R362; log 22). -/

namespace Sys2Proof.Machine

/-! Host links (R361). -/

/-- The held writes that wait for a link, the first one that was held first: `hostLive` lists them as they were
accepted, the last first. -/
def State.heldFor (s : State) (p : Nat) : List Item :=
  let l := s.slices.flatMap fun e => e.2.held.filter fun it => e.2.sharers.any fun x => x.1 == it.line && x.2.1 == p
  let order := s.hostLive.reverse.filterMap fun v => l.find? fun it => it.serial == v.serial
  order ++ l.filter fun it => !order.contains it

/-- The slice loses a link as a sharer of every line, and writes that waited for it alone complete. -/
def State.dropSharer (s : State) (k p : Nat) : State :=
  let sl := s.slice k
  let s := s.setSlice k { sl with sharers := sl.sharers.filter fun e => e.2.1 != p }
  (sl.held.map fun it => it.line).eraseDups.foldl (fun s l => s.releaseHeld k l) s

/-- A host link is declared down (R361): one record, no sharer any more, viral; what waited for it goes over the other
link. -/
def State.declareDown (s : State) (p : Nat) : State :=
  let first := match s.heldFor p with
    | it :: _ => 128 * it.line
    | [] => 0
  let s := s.error 11 2 0 0 1 first p
  let l := s.hostLink p
  let o := s.hostLink (1 - p)
  let s := if o.viral then s.setHostLink p { l with down := true, viral := true }
    else (s.setHostLink p { queue := [], down := true, viral := true }).setHostLink (1 - p) { o with queue := o.queue ++ l.queue }
  let f := s.port p
  let g := s.port (1 - p)
  let s := if o.viral then s else (s.setPort p { f with queue := [] }).setPort (1 - p) { g with queue := g.queue ++ f.queue }
  let s := { s with copies := s.copies.filter fun c => c.link != p }
  (s.slices.map fun e => e.1).foldl (fun s k => s.dropSharer k p) s

/-- BISNP_TIMEOUT (R361): a back-invalidation on the link has had no answer for 1 ms. -/
def execBisnpTimeout (p : Nat) (s : State) : Host.Outcome State Fault Refusal :=
  let late := s.slices.any fun e => e.2.sharers.any fun x => x.2.1 == p &&
    (match x.2.2 with
     | some t => 1000000 ≤ (s.now - t).toNat
     | none => false)
  event s (if 2 ≤ p || (s.hostLink p).down || !late then none else some (s.declareDown p))

/-- HOST_LINK_DOWN (R361): the data link layer reports the link down. -/
def execHostLinkDown (p : Nat) (s : State) : Host.Outcome State Fault Refusal :=
  event s (if 2 ≤ p || (s.hostLink p).down then none else some (s.declareDown p))

/-- HOST_LINK_WARM_RESET (R361). -/
def execHostLinkWarmReset (p : Nat) (s : State) : Host.Outcome State Fault Refusal :=
  let l := s.hostLink p
  event s (if 2 ≤ p || !l.viral then none else some (s.setHostLink p { l with down := false, viral := false }))

/-! Draining a die (R362). -/

/-- Slices of a die that the state lists. -/
def State.slicesOf (s : State) (d : Nat) : List Nat := (s.slices.map fun e => e.1).filter fun k => k / 64 == d

/-- No write is held at the die's slices, and nothing is queued there. -/
def State.quiet (s : State) (d : Nat) : Bool :=
  ((s.slicesOf d).all fun k => (s.slice k).held.isEmpty) &&
    (s.posting.all fun e => e.1 / 64 / 8192 != d || e.2.isEmpty) &&
    (s.ingress.all fun e => e.1 / 64 % 8 != d || e.2.isEmpty) &&
    (s.links.all fun e => e.1 / 8 != d || e.2.queue.isEmpty) &&
    (s.clusters.all fun e => clusDie e.1 != d || (e.2.fetches.isEmpty && e.2.lines.all fun c => c.st == LState.s))

/-- The die of host lines that it holds. -/
def State.hostLines (s : State) (d : Nat) : List Nat :=
  (s.l2host.filter fun e => e.1 / 2 ^ 45 == d).map fun e => e.1 % 2 ^ 45

/-- The filters take a die out of every mask (R362). -/
def State.unmask (s : State) (d : Nat) : State := s.untrack none (1#8 <<< d)

/-- The drain of R362: every host-homed line that the die holds is written back. None while something is in the way. -/
def State.drainDie (s : State) (d : Nat) : Option State :=
  let l := s.hostLines d
  if !s.quiet d || !(l.all s.hostFree) then none
  else some ((l.foldl (fun s line => (s.hostFlushLine line).snoopDie line d true) s).unmask d)

/-- A die without work: no strand, no cluster that is held, no engine, no exchange round. -/
def State.idleDie (s : State) (d : Nat) : Bool :=
  (s.strands.all fun e => coreDie (slotCore e.1) != d || !e.2.active) &&
    (s.cores.all fun e => coreDie e.1 != d || (e.2.shadow.isNone && e.2.moves.isEmpty && e.2.actq.isEmpty)) &&
    (s.clusters.all fun e => clusDie e.1 != d || e.2.holder.isNone) &&
    (s.engines.all fun e => clusDie e.clus != d) && (s.saved.all fun v => coreDie (slotCore v.slot) != d) &&
    (s.savedClusters.all fun v => clusDie v.clus != d) && (s.die d).xu.state == .idle && (s.die d).tasks.isEmpty

def State.setLinks (s : State) (d : Nat) (st : LinkState) : State :=
  (neighbours d).foldl (fun s n =>
    let set := fun (s : State) (k : Nat) =>
      let l := s.link k
      if l.state = .up then s.setLink k { l with state := st } else s
    set (set s (linkKey n d)) (linkKey d n)) s

/-- DIE_POWER_GATE (R362): an idle die is drained, its links go to sleep, and it is gated. -/
def execDiePowerGate (die : Nat) (s : State) : Host.Outcome State Fault Refusal :=
  event s (if 8 ≤ die || !s.dieOn die || !s.idleDie die then none
    else (s.drainDie die).map fun s =>
      (s.setDie die { s.die die with power := .gated }).setLinks die (.asleep none false))

/-! Resets of a die (R362). -/

/-- What a die holds goes to its reset values, but for its clock and its place in time; work that stood there is gone,
and launches that held its clusters end with FAULT (log 22). -/
def State.resetDie (s : State) (d : Nat) : State :=
  let gone := (s.clusters.filter fun e => clusDie e.1 == d).flatMap fun e => e.2.fetches
  let cvts := (s.clusters.filter fun e => clusDie e.1 == d).flatMap fun e => e.2.cvts
  let writes := cvts.flatMap fun c => match (s.gathers.find c.entry).map fun g => g.finish with
    | some (GatherEnd.acccvt _ _ _ _ _ _ _ _ _ w) => w
    | _ => []
  let dead := writes ++ gone.flatMap fun f => f.serial :: ((f.loads.map fun x => x.serial) ++ f.atoms.map fun x => x.serial)
  let held := (s.clusters.filter fun e => clusDie e.1 == d).filterMap fun e => e.2.holder
  let s := held.eraseDups.foldl (fun s n => s.endLaunch (some n) 7) s
  let on' := fun (c : Nat) => coreDie c == d
  let x := s.die d
  { s with
    strands := s.strands.filter fun e => !on' (slotCore e.1)
    cores := s.cores.filter fun e => !on' e.1
    clusters := s.clusters.filter fun e => clusDie e.1 != d
    saved := s.saved.filter fun v => !on' (slotCore v.slot)
    savedClusters := s.savedClusters.filter fun v => clusDie v.clus != d
    engines := s.engines.filter fun e => clusDie e.clus != d
    transit := s.transit.filter fun a => !on' a.target
    arrivals := s.arrivals.filter fun a => !on' (bits a.barrier.toNat 0 16)
    decs := s.decs.filter fun c => clusDie (ctrClus c.counter) != d
    parks := s.parks.filter fun p => clusDie (fnClus p.frame) != d
    live := s.live.filter fun l => !dead.contains l.serial
    gathers := s.gathers.filter fun g => !(cvts.any fun c => c.entry == g.1)
    l2host := s.l2host.filter fun e => e.1 / 2 ^ 45 != d
    l2sets := s.l2sets.filter fun e => e.1 / 65536 != d
    slices := s.slices.map fun e => if e.1 / 64 = d then (e.1, { e.2 with ctr := [], poisonDiscards := 0 }) else e
    dies := s.dies.put d { Die.reset with ptc := x.ptc, slew := x.slew, frac := x.frac, exchanged := x.exchanged, pkgSkew := x.pkgSkew, grpSkew := x.grpSkew } }

/-- DIE_WARM_RESET (R362): drained as for power-gating, and then the reset. -/
def execDieWarmReset (die : Nat) (s : State) : Host.Outcome State Fault Refusal :=
  event s (if 8 ≤ die || !s.dieOn die then none else (s.drainDie die).map fun s => s.resetDie die)

/-- The held writes of a die's slices are lost, and their lines become poison (R362). -/
def State.loseHeld (s : State) (d : Nat) : State :=
  (s.slicesOf d).foldl (fun s k =>
    let h := s.slice k
    h.held.foldl (fun s it => (s.poisonLine it.line 1 d).hostDone it.serial) (s.setSlice k { h with held := [] })) s

/-- DIE_FATAL_RESET (R362): no drain. What waited in the die's buffers is lost. -/
def execDieFatalReset (die : Nat) (s : State) : Host.Outcome State Fault Refusal :=
  event s (if 8 ≤ die || !s.dieOn die then none
    else
      let s := s.loseHeld die
      let own := s.posting.filter fun e => e.1 / 64 / 8192 == die
      let come := s.ingress.filter fun e => e.1 / 64 % 8 == die
      let s := { s with
        posting := s.posting.filter fun e => e.1 / 64 / 8192 != die
        ingress := s.ingress.filter fun e => e.1 / 64 % 8 != die }
      let s := own.foldl (fun s e => e.2.foldl (fun s it => s.performed it.serial) s) s
      let s := come.foldl (fun s e => e.2.foldl (fun s it => s.lose it (e.1 / 64)) s) s
      some (s.resetDie die).sweep)

/-! Die links that wake (R362). -/

/-- LINKWAKE_MAX_EXPIRY (R362): a link has been waking for 1.5 µs. -/
def execLinkwakeMaxExpiry (link : Nat) (s : State) : Host.Outcome State Fault Refusal :=
  let l := s.link link
  event s (match l.state with
    | .asleep (some t) false =>
      if (s.now - t).toNat < 1500 then none
      else some ((s.setLink link { l with state := .asleep (some t) true }).error 12 0 (link / 8 % 8) 0 1 0 link)
    | _ => none)

/-- The die's lines in the filters are answered with poison, and it leaves every mask (R362). -/
def State.poisonDie (s : State) (d : Nat) : State :=
  let s := [0, 1].foldl (fun s p =>
    (s.filters.get p []).foldl (fun s e => if setHas e.mask d then s.snoopPoison e.line d p else s) s) s
  { s.unmask d with l2host := s.l2host.filter fun e => e.1 / 2 ^ 45 != d }

/-- DIEDEAD_TMO_EXPIRY (R362): no link into the die has trained for 200 µs. -/
def execDiedeadTmoExpiry (die : Nat) (s : State) : Host.Outcome State Fault Refusal :=
  let waiting := (neighbours die).any fun n => match (s.link (linkKey n die)).state with
    | .asleep (some t) _ => 200000 ≤ (s.now - t).toNat
    | _ => false
  event s (if 8 ≤ die || (s.die die).power == .dead || s.dieAwake die || !waiting then none
    else some (((s.loseHeld die).poisonDie die).setDie die { s.die die with power := .dead }))

/-- A die whose links wake has one that is trained: the back-invalidations of its held writes go out, and the writes that have
their answers complete (R362). -/
def State.sendInvs (s : State) (d : Nat) : State :=
  (s.slicesOf d).foldl (fun s k =>
    let sl := s.slice k
    let held := (sl.held.map fun it => it.line).eraseDups
    let s := s.setSlice k { sl with
      sharers := sl.sharers.map fun e => if held.contains e.1 then (e.1, e.2.1, some (e.2.2.getD s.now)) else e }
    held.foldl (fun s l => s.releaseHeld k l) s) s

/-- DIE_LINK_TRAINED (R362): both directions of a waking link are trained, and a gated die at its end is on. -/
def execDieLinkTrained (link : Nat) (s : State) : Host.Outcome State Fault Refusal :=
  let a := link / 8
  let b := link % 8
  let up := fun (s : State) (k : Nat) =>
    let l := s.link k
    match l.state with
    | .asleep .. => s.setLink k { l with state := .up }
    | _ => s
  let on' := fun (s : State) (d : Nat) =>
    if (s.die d).power = .gated then s.setDie d { s.die d with power := .on } else s
  event s (match (s.link link).state with
    | .asleep (some _) _ =>
      if (s.die a).power == .dead || (s.die b).power == .dead then none
      else some (((on' (on' (up (up s link) (linkKey b a)) a) b).sendInvs a).sendInvs b)
    | _ => none)

end Sys2Proof.Machine
end

