-- ==== Sys2Proof/Machine/TaskEvents.lean ====
section
/-! DEFINITION. Events of strands, deques, counters and barriers (spec/01_execution.md R9 to R33,
spec/03_ordering.md R70 EDGE, spec/09_isa_tasks.md R204 to R209, spec/20_launch.md R317, R322). -/

namespace Sys2Proof.Machine

/-- EDGE (R70): an edge whose conditions hold completes, and its instruction's own effect follows (R77). -/
def execEdge (slot : Nat) (s : State) : Host.Outcome State Fault Refusal :=
  event s (match (s.strand slot).edge with
    | some e => if s.allDone e.system e.waits then s.finishEdge slot e.after else none
    | none => none)

/-! Messages and activations (R9 to R12). -/

/-- Types that take their block, class and priority from the vector table (R9). -/
def vectored (t : BitVec 8) : Bool := t == 3 || t == 5 || t == 6 || 0x10 ≤ t.toNat

/-- A message that is discarded at its arrival (R11); the activation of a routine's handler, which waits for room, is none
(R348). -/
def State.discarded (s : State) (a : Activation) : Bool :=
  a.type == 0 || (9 ≤ a.type.toNat && a.type.toNat ≤ 15 && a.saved.isNone) ||
    (vectored a.type && !vecValid ((s.core a.target).vector a.type))

/-- A DLG's request has been handed to its target, so its entry is free (R272). -/
def State.handed (s : State) (a : Activation) : State :=
  match a.reply with
  | some (ctx, _, _) => s.onCtx ctx fun t => t.free a.order
  | none => s

/-- The priority of an activation, from its vector entry or its frame record (R9). None while that record cannot be
read. -/
def State.prioOf (s : State) (a : Activation) : Option (BitVec 8) :=
  if vectored a.type then some (vecPrio ((s.core a.target).vector a.type))
  else match a.frame with
    | some f => (s.readRec a.launch (recOf f) 24 8).map infoPrio
    | none => some a.prio

/-- A message's way passes a die link that sleeps or retrains (R362, R387). -/
def State.pathHeld (s : State) (a : Activation) : List Nat :=
  a.path.filter s.linkHeld

/-- MESSAGE_ARRIVAL (R11, R12): messages of one strand to one core arrive in the order of their sending (R211), and are
the youngest in the queue. -/
def execMessageArrival (i : Nat) (s : State) : Host.Outcome State Fault Refusal :=
  event s (match s.transit[i]? with
    | none => none
    | some a =>
      let earlier := (s.transit.take i).any fun b => b.origin == a.origin && b.target == a.target
      let c := s.core a.target
      let s' := { s with transit := s.transit.eraseIdx i }
      let held := s.pathHeld a
      if earlier then none
      else if !held.isEmpty then
        (let u := s.wakeLinks held
         if u.links = s.links then none else some u)
      else if s.discarded a then some (s'.handed a |>.discardMsg a)
      else if 16 ≤ c.actq.length || s.isSaved a.launch (coreClus a.target) then none
      else (s.prioOf a).map fun p =>
        let s := s'.handed a
        let c := s.core a.target
        { s.setCore a.target { c with actq := c.actq ++ [{ a with prio := p, order := s.serial }] } with
          serial := s.serial + 1 })

/-- The activation is for the SERVER slot: a request, or the return of a delegated routine (R348). -/
def Activation.server (a : Activation) : Bool := a.type == 4 || (a.type == 7 && a.words == [4])

/-- The waiting activation that a slot takes: the highest priority, the oldest among equals; for the SERVER slot
the oldest request (R12, R30). While `busy`, that slot takes its routine back and no request (R348). -/
def Core.nextAct (c : Core) (slot : Nat) (busy : Bool) : Option Activation :=
  (c.actq.filter fun a => a.server == (slot == 4) && !(busy && a.type == 4)).foldl (fun b a => match b with
    | none => some a
    | some q =>
      let better := (slot != 4 && q.prio.toNat < a.prio.toNat) || ((slot == 4 || q.prio == a.prio) && a.order < q.order)
      if better then some a else some q) none

/-- A delegated routine stands outside the SERVER slot, which then takes no request (R348). -/
def State.serverBusy (s : State) (c : Nat) : Bool :=
  (s.saved.any fun v => v.slot == slotKey c 4) || ((s.core c).shadow.any fun b => b.slot == 4)

/-- The strand that a message activation begins with (R291, R346). -/
def State.actStrand (s : State) (c : Nat) (a : Activation) : Strand :=
  let co := s.core c
  let vec := vectored a.type
  let e := co.vector a.type
  let t := Strand.fresh s.serial a.launch (s.funcOf a.launch) a.wid (if vec then vecHandler e else a.hdr) .handler
    (SlotClass.ofType co a) (if vec then vecPrio e else a.prio) a.type (s.launchBindings a.launch)
  { t with
    x := (a.words.zipIdx.map fun (w, i) => (i + 1, w)).filter fun e => e.2 != 0
    v := if a.payload = 0 then [] else [(0, a.payload)]
    bound := a.saved
    caller := a.reply }

/-- Starts a waiting activation in an idle slot: its acquire comes first, and a donation has none (R77). None while it must
wait. -/
def State.startAct (s : State) (k : Nat) (a : Activation) : Option State :=
  let c := slotCore k
  let co := s.core c
  let s0 := s.setCore c { co.worked with actq := co.actq.filter fun q => q.order != a.order }
  let reach := distance (coreClus c) (coreClus a.sender)
  match a.frame with
  | some f =>
    (s0.readRec a.launch (recOf f) 0 8).bind fun chdr =>
      (s0.resume k (recOf f) (BitVec.ofNat 64 (chdr % 2 ^ 58)) a.launch (s.funcOf a.launch)).map fun s =>
        s.invalidate (s.whoAt k) reach
  | none =>
    if a.type = 7 then
      -- the saved context is to be moved into the slot (R336, R351)
      match a.saved.bind s.savedOf with
      | some v => some (s0.moveBack c (slotIdx k) v)
      | none => some s0
    else if s.discarded a then some (s0.discardMsg a)
    else
      let s := { s0.setStrand k (s0.actStrand c a) with serial := s0.serial + 1 }
      some (if a.type = 9 || a.type = 3 then s else s.invalidate (s.whoAt k) reach)

/-- The activation that an idle slot takes. -/
def State.activate (s : State) (k : Nat) : Option State :=
  let c := slotCore k
  if !s.idleSlot k then none
  else ((s.core c).nextAct (slotIdx k) (s.serverBusy c)).bind fun a => s.startAct k a

/-- ACTIVATION (R12). -/
def execActivation (slot : Nat) (s : State) : Host.Outcome State Fault Refusal := event s (s.activate slot)

/-! Seeds (R31, R32, R317). -/

/-- Index of field `i` in a work identifier (R31). -/
def Launch.index (l : Launch) (wid : Word) (i : Nat) : Nat :=
  let low := (List.range i).foldl (fun n j => n + l.fieldWidth j) 0
  bits wid.toNat low (l.fieldWidth i)

/-- The dies of a launch's partitions, ascending. -/
def Launch.dies (l : Launch) : List Nat := (List.range 8).filter fun d => bits l.pmask.toNat (8 * d) 8 != 0

/-- A unit's rank and the number of units of a level, for a slot (R32). -/
def Launch.unit (l : Launch) (k lvl : Nat) : Nat × Nat :=
  let c := slotCore k
  let d := coreDie c
  match lvl with
  | 1 => ((l.dies.takeWhile fun e => e != d).length, l.dies.length)
  | 2 =>
    let mine := (List.range 256).filter fun n => l.covers (256 * d + n)
    ((mine.filter fun n => n < coreClus c % 256).length, mine.length)
  | 3 => (c % 32, 32)
  | _ => (slotIdx k, 4)

/-- Whether a seed belongs to the unit of a slot at every level of its fields (R32). -/
def Launch.mine (l : Launch) (k : Nat) (wid : Word) : Bool :=
  (List.range l.nfield).all fun i =>
    let e := l.fieldExtent i
    let x := l.index wid i
    let lvl := l.fieldLevel i
    x < e && (lvl == 0 ||
      (let u := l.unit k lvl
       u.1 * e / u.2 ≤ x && x < (u.1 + 1) * e / u.2))

/-- No bit above the fields is set. -/
def Launch.widOk (l : Launch) (wid : Word) : Bool :=
  wid.toNat < 2 ^ (List.range l.nfield).foldl (fun n j => n + l.fieldWidth j) 0

/-- Whether a seed goes to this slot and not to a lower core or slot of its cluster that is idle (R317). -/
def State.seedPlace (s : State) (l : Launch) (k : Nat) : Bool :=
  let c := slotCore k
  let levels := (List.range l.nfield).map fun i => l.fieldLevel i
  let slots := if levels.contains 4 then [slotIdx k] else [0, 1, 2, 3]
  let cores := if levels.contains 3 then [c] else (List.range 32).map fun i => 32 * coreClus c + i
  !(cores.any fun d => slots.any fun n => slotKey d n < k && s.idleSlot (slotKey d n))

/-- A seed or a task is activated: the launch counts it, and its time-out runs from the first (R313, R316). -/
def Launch.seededOne (l : Launch) (now : Word) : Launch :=
  { l with activated := l.activated + 1, firstSeed := some (l.firstSeed.getD now) }

/-- SEED_ACTIVATION (R32, R317). -/
def execSeedActivation (slot launch : Nat) (wid : Word) (s : State) : Host.Outcome State Fault Refusal :=
  event s (match s.launches.find launch with
    | none => none
    | some l =>
      let k := coreClus (slotCore slot)
      if s.running k != some launch || l.graph || !s.idleSlot slot || slotIdx slot == 4 || l.seeded.contains wid ||
          !l.widOk wid || !l.mine slot wid || !s.seedPlace l slot then none
      else
        let t := { Strand.fresh s.serial (some launch) l.func wid (l.word 64) .branch l.cls
            (BitVec.ofNat 8 l.prio) 1 (s.launchBindings (some launch)) with jl := some .seed }
        let c := s.core (slotCore slot)
        let s := (s.setStrand slot t).setCore (slotCore slot) c.worked
        some { s with
          serial := s.serial + 1
          launches := s.launches.put launch { l.seededOne s.now with seeded := wid :: l.seeded } })

/-! Local work (R18, R20, R22). -/

/-- Takes a frame of the cluster's ready queue, with an acquire of reach DIE (R22, R77). -/
def State.takeReady (s : State) (k : Nat) (ln : Option Nat) : Option State :=
  let kn := coreClus (slotCore k)
  let c := s.cluster kn
  (bestReady c.ready).bind fun r =>
    let s := s.setCluster kn { c with ready := c.ready.filter fun q => q.order != r.order }
    (s.readRec ln (recOf r.frame) 0 8).bind fun chdr =>
      (s.resume k (recOf r.frame) (BitVec.ofNat 64 (chdr % 2 ^ 58)) ln (s.funcOf ln)).map fun s =>
        (s.invalidate (s.whoAt k) .die).placeWaiting ln kn

/-- PICK_WORK (R20). -/
def State.pickWork (s : State) (k : Nat) : Option State :=
  let c := slotCore k
  let kn := coreClus c
  let co := s.core c
  let ln := s.running kn
  if !s.freeSlot k || slotIdx k == 4 then none
  else match co.nextAct (slotIdx k) false with
    | some a => if s.idleSlot k then s.startAct k a else none
    | none =>
      if ln.isNone then none
      else
        let rest := fun (_ : Unit) =>
          if !s.idleSlot k then none
          else if !(s.cluster kn).ready.isEmpty then
            (s.takeReady k ln).map fun s => s.setCore c (s.core c).worked
          else if co.engine.running || co.engine.waiting || co.engine.moving.isSome then none
          else some (s.setCore c { co with engine := { co.engine with running := true, probed := [0, 0, 0] } })
        match co.tail (slotIdx k) with
        | .entry e =>
          (s.setCore c { co.worked with deque := co.deque.dropLast }).resume k (entRec e) (entChdr e) ln (s.funcOf ln)
        | .wait =>
          if co.deque.isEmpty && co.refilling.isNone then some (s.setCore c { co with refilling := some (slotIdx k) })
          else none
        | .notMine | .empty => rest ()

/-- PICK_WORK (R20). -/
def execPickWork (slot : Nat) (s : State) : Host.Outcome State Fault Refusal := event s (s.pickWork slot)

/-- The launch whose deque a core holds. -/
def State.coreLaunch (s : State) (c : Nat) : Option Nat := (s.cluster (coreClus c)).holder

/-- The address of entry `e` of group `n` in a core's backing store (R205, R309). -/
def State.groupPa (s : State) (ln : Option Nat) (c n e : Nat) (write : Bool) : Option Nat :=
  match ln.bind fun i => s.launches.find i with
  | some l =>
    let rank := 32 * l.rank (coreClus c) + c % 32
    let va := (l.word 400).toNat + 4096 * (l.word 408).toNat * rank + 256 * n + 16 * e
    if write then s.translateW l.func va else s.translate l.func va
  | none => none

/-- Writes a group of entries at their homes; none where it has no translation, or a home does not serve it (R73). -/
def State.writeGroup (s : State) (ln : Option Nat) (c n : Nat) (l : List (BitVec 128)) : Option State :=
  l.zipIdx.foldl (fun o (e, i) => o.bind fun (s : State) =>
    (s.groupPa ln c n i true).bind fun pa => s.sysPut pa e.toNat 16) (some s)

def State.readGroup (s : State) (ln : Option Nat) (c n : Nat) : Option (List (BitVec 128)) :=
  (List.range ((s.core c).groupSize n)).foldr (fun i o => o.bind fun l =>
    (s.groupPa ln c n i false).bind fun pa => (s.sysGet pa 16).map fun v => BitVec.ofNat 128 v :: l) (some [])

/-- The 16 oldest entries of a deque, or all that it has, go to its backing store (R18, R356). -/
def State.spillDeque (s : State) (c : Nat) : Option State :=
  let co := s.core c
  (s.writeGroup (s.coreLaunch c) c co.groups (co.deque.take 16)).map fun s =>
    s.setCore c { co with
      deque := co.deque.drop 16, groups := co.groups + 1, spilling := false
      short := if co.deque.length < 16 then co.short.put co.groups co.deque.length else co.short }

/-- DEQUE_SPILL (R18). -/
def execDequeSpill (core : Nat) (s : State) : Host.Outcome State Fault Refusal :=
  event s (if (s.core core).spilling && 16 ≤ (s.core core).deque.length then s.spillDeque core else none)

/-- A slot that waited for a refill looks at the tail (R20): it pops, or is idle again. -/
def State.afterRefill (s : State) (k : Nat) : State :=
  let c := slotCore k
  let t := s.strand k
  let ln := s.running (coreClus c)
  if t.active then
    (if (t.edge.map fun e => e.after) = some .pop then (s.popAt k).getD s else s)
  else if ln.isNone then s
  else match (s.core c).tail (slotIdx k) with
    | .entry e =>
      ((s.setCore c { (s.core c).worked with deque := (s.core c).deque.dropLast }).resume k (entRec e) (entChdr e) ln
        (s.funcOf ln)).getD s
    | _ => s

/-- DEQUE_REFILL (R18, R20): the last group written comes back, under what was pushed since; where that leaves no room
the refill ends without it. The slot that waits then goes on. -/
def execDequeRefill (core : Nat) (s : State) : Host.Outcome State Fault Refusal :=
  let co := s.core core
  event s (co.refilling.bind fun n =>
    if co.groups = 0 || 16 ≤ co.deque.length then
      some ((s.setCore core { co with refilling := none }).afterRefill (slotKey core n))
    else (s.readGroup (s.coreLaunch core) core (co.groups - 1)).map fun l =>
      (s.setCore core { co with
        deque := l ++ co.deque, groups := co.groups - 1, short := co.short.del (co.groups - 1), refilling := none }).afterRefill
        (slotKey core n))

/-! Stealing (R24 to R27). -/

/-- Inserts a number by a key, lower numbers first among equals. -/
def insertBy (key : Nat → Nat) (n : Nat) : List Nat → List Nat
  | [] => [n]
  | m :: r => if key n < key m || (key n == key m && n < m) then n :: m :: r else m :: insertBy key n r

def sortBy (key : Nat → Nat) (l : List Nat) : List Nat := l.foldr (insertBy key) []

def gap (a b : Nat) : Nat := (a - b) + (b - a)

/-- The victims of a level in their order (R24): cores of the cluster, clusters of the die, dies of the package. -/
def victims (core lvl : Nat) : List Nat :=
  match lvl with
  | 0 => sortBy (fun i => gap i (core % 32)) ((List.range 32).filter fun i => i != core % 32)
  | 1 =>
    let k := coreClus core % 256
    sortBy (fun i => gap (i / 16) (k / 16) + gap (i % 16) (k % 16)) ((List.range 256).filter fun i => i != k)
  | _ =>
    let d := coreDie core
    sortBy (fun i => gap (i / 4) (d / 4) + gap (i % 4) (d % 4)) ((List.range 8).filter fun i => i != d)

/-- The head that a probe at a core sees: none while the spill of R18 is under way, or where another launch holds the
cluster (R380). -/
def State.headAt (s : State) (ln : Option Nat) (c : Nat) : Option (BitVec 128) :=
  if (s.core c).spilling || s.running (coreClus c) != ln then none else (s.core c).deque.head?

/-- The core with the most entries of a cluster (R26). A core whose spill is under way counts with its entries, although a
probe finds it empty (DESIGN CHOICE, log 39). -/
def State.fullest (s : State) (k : Nat) : Nat :=
  (List.range 32).foldl (fun b i =>
    if (s.core b).deque.length < (s.core (32 * k + i)).deque.length then 32 * k + i else b) (32 * k)

/-- The P bit of an entry's continuation header (R26, R128). -/
def State.portable (s : State) (ln : Option Nat) (e : BitVec 128) : Bool :=
  match s.headerWord (s.funcOf ln) (entChdr e) with
  | some h => hdrP h
  | none => false

/-- What a probe finds: the victim core and its head (R26). At level 3 the cores of a cluster are visited by ascending
index; R26 gives the order of the clusters only (DESIGN CHOICE, log 39). -/
def State.probe (s : State) (core lvl v : Nat) : Option (Nat × BitVec 128) :=
  let ln := s.running (coreClus core)
  let at' := fun (c : Nat) => (s.headAt ln c).bind fun e => if entPub e then some (c, e) else none
  match lvl with
  | 0 => at' (32 * coreClus core + v)
  | 1 => at' (s.fullest (256 * coreDie core + v))
  | _ =>
    ((List.range 256).flatMap fun i =>
      (List.range 32).map fun j => 32 * (256 * v + (coreClus core % 256 + i) % 256) + j).findSome? fun c =>
        (at' c).bind fun r => if s.portable ln r.2 then some r else none

/-- The release at the victim's cluster (R23, R77), and what it waits for: with reach PACKAGE also the remote
operations of the slot that pushed the entry. -/
def State.stealRelease (s : State) (core victim stag : Nat) : State × List Nat :=
  let d := distance (coreClus victim) (coreClus core)
  if d = .cluster then (s, [])
  else
    let w := s.whoFor (coreClus victim)
    let of := fun (s : State) => (s.live.filter fun l =>
      l.slot == slotKey victim stag && (!l.remote || 2 ≤ d.rank)).map fun l => l.serial
    let s := s.writeBack w false
    (s, of s ++ s.postedBy (coreClus victim))

/-- The accesses of a slot that wait for their walks (R175). -/
def State.walksOf (s : State) (k : Nat) : List Nat :=
  ((s.strand k).queue.filter fun e => isWalking e.phase).map fun e => e.serial

/-- Whether an engine has a slot to fill and nothing local to fill it with (R20, R24). -/
def State.mayProbe (s : State) (core : Nat) : Bool :=
  let co := s.core core
  ([0, 1, 2, 3].any fun n => s.idleSlot (slotKey core n) && (match co.tail n with
    | .entry _ | .wait => false
    | _ => (co.nextAct n false).isNone)) && (s.cluster (coreClus core)).ready.isEmpty &&
    (s.running (coreClus core)).isSome

/-- The level that the next probe of a round goes to (R25). -/
def StealEngine.level (e : StealEngine) : Option Nat :=
  [0, 1, 2].find? fun l => (e.probed[l]?).getD 0 < (if l = 2 then 7 else 8)

/-- A round has ended with nothing taken (R25). -/
def StealEngine.emptyRound (e : StealEngine) : StealEngine :=
  { e with running := false, waiting := true, probed := [0, 0, 0], empties := min 7 (e.empties + 1) }

/-- STEAL_PROBE (R24 to R26): one victim is examined; a published head is taken, and the victim's release begins. -/
def State.stealProbe (s : State) (core : Nat) : Option State :=
  let co := s.core core
  let e := co.engine
  if !e.running || e.moving.isSome || !s.mayProbe core then none
  else e.level.bind fun lvl =>
    let list := victims core lvl
    let pos := (e.pos[lvl]?).getD 0
    let v := (list[pos % list.length]?).getD 0
    let e' := { e with pos := e.pos.set lvl ((pos + 1) % list.length), probed := e.probed.set lvl ((e.probed[lvl]?).getD 0 + 1) }
    let fail := fun (_ : Unit) => some (s.setCore core { co with engine := if e'.level.isNone then e'.emptyRound else e' })
    let ln := s.running (coreClus core)
    -- a probe of another die crosses the links to it (R387)
    s.across (coreDie core) (if lvl = 2 then v else coreDie core) ln (fun _ =>
      match s.probe core lvl v with
      | none => fail ()
      | some (vc, ent) =>
        let r := entRec ent
        -- a record of another cluster moves, if it finds room (R204)
        let stays := lvl = 0 || r.clus = coreClus core
        let plan := if stays then some (r.spill, r.off / 128, []) else s.planMove ln r (coreClus core)
        match plan, s.readRec ln r 24 8 with
        | some (sp, line, tiles), some info =>
          let sizes := s.tileSizes ln r tiles
          let vco := s.core vc
          let s := s.setCore vc { vco with deque := vco.deque.drop 1 }
          let walks := if lvl = 0 then [] else s.walksOf (slotKey vc (entStag ent))
          let q := if walks.isEmpty then s.stealRelease core vc (entStag ent) else (s, [])
          let s := if stays then q.1 else q.1.takeRoom ln (coreClus core) sp line (infoSize info) sizes
          let m : StealMove := ⟨ent, vc, q.2, 128 * line, sp, tiles, walks⟩
          some (s.setCore core { s.core core with
            engine := { e' with running := false, probed := [0, 0, 0], empties := 0, moving := some m } })
        | _, _ => fail ()) fail

/-- STEAL_PROBE (R26). -/
def execStealProbe (core : Nat) (s : State) : Host.Outcome State Fault Refusal := event s (s.stealProbe core)

/-- The record of a stolen entry moves to the thief's cluster (R204); one that lies there stays. -/
def StealMove.moves (m : StealMove) (k : Nat) : Bool := coreClus m.victim != k && (entRec m.entry).clus != k

/-- A steal that a lost link stops: the room is given back, and the entry is the victim's head again (R343, R387; log 32). -/
def State.stealLost (s : State) (core : Nat) (m : StealMove) : State :=
  let k := coreClus core
  let ln := s.running k
  let s := if m.moves k then
      let c := (s.clusterOf ln k).giveLine m.spill (m.off / 128)
      s.setClusterOf ln k (m.tiles.foldl (fun (c : Cluster) t => c.giveLine false t.2) c)
    else s
  let co := s.core core
  let s := s.setCore core { co with engine := { co.engine with moving := none } }
  let v := s.core m.victim
  s.setCore m.victim { v with deque := m.entry :: v.deque, spilling := v.spilling || 31 ≤ v.deque.length }

/-- STEAL_MOVE (R27): once the victim's release is complete the record moves, and the continuation resumes in the idle
slot of the thief, after its acquire; of several idle slots the one of the lowest number (DESIGN CHOICE, log 39). The release
begins when the accesses that its slot had issued have been translated (R175). -/
def State.stealMove (s : State) (core : Nat) : Option State :=
  let co := s.core core
  match co.engine.moving with
  | none => none
  | some m =>
    let k := coreClus core
    let ln := s.running k
    if !m.walks.isEmpty then
      let slot := slotKey m.victim (entStag m.entry)
      if (s.walksOf slot).any m.walks.contains then none
      else
        let q := s.stealRelease core m.victim (entStag m.entry)
        let co := q.1.core core
        some (q.1.setCore core { co with engine := { co.engine with moving := some { m with walks := [], waits := q.2 } } })
    else
      match [0, 1, 2, 3].find? fun n => s.idleSlot (slotKey core n) with
      | none => none
      | some n =>
        if !s.allDone false m.waits || ln.isNone then none
        else s.across (coreDie m.victim) (coreDie core) ln (fun _ =>
          let r := entRec m.entry
          let to' : Rec := if m.moves k then ⟨k, m.spill, m.off⟩ else r
          let moved := if m.moves k then s.moveRec ln r to' m.tiles else some s
          moved.bind fun s =>
            let co := s.core core
            let s := s.setCore core { co with engine := { co.engine with moving := none } }
            let ent := entMoved m.entry to'
            (s.resume (slotKey core n) (entRec ent) (entChdr ent) ln (s.funcOf ln)).map fun s =>
              s.invalidate (s.whoAt (slotKey core n)) (distance k (coreClus m.victim))) fun _ => some (s.stealLost core m)

/-- STEAL_MOVE (R27). -/
def execStealMove (core : Nat) (s : State) : Host.Outcome State Fault Refusal := event s (s.stealMove core)

/-- STEAL_BACKOFF_EXPIRY (R25): the next round begins. -/
def execStealBackoffExpiry (core : Nat) (s : State) : Host.Outcome State Fault Refusal :=
  let co := s.core core
  event s (if co.engine.waiting then
    some (s.setCore core { co with engine := { co.engine with waiting := false, running := true } }) else none)

/-! Counters and barriers (R21, R204, R209). -/

/-- The cluster that a decrement or a released frame goes to. -/
def Dec.dst (d : Dec) : Nat :=
  match d.kind with
  | .decrement => ctrClus d.counter
  | .place f _ => fnClus f

/-- JOIN_DECREMENT (R21): a decrement, or a released frame that is placed where its record lies (R22). -/
def execJoinDecrement (i : Nat) (s : State) : Host.Outcome State Fault Refusal :=
  event s (match s.decs[i]? with
    | none => none
    | some d =>
      if !s.allDone false d.waits then none
      else
        let s' := { s with decs := s.decs.eraseIdx i }
        s.across (clusDie d.src) (clusDie d.dst) d.launch (fun _ => match d.kind with
          | .decrement => some (s'.decrement d.launch d.counter)
          | .place f p => s'.placeReady d.launch (fnClus f) f p) fun _ => some s')

/-- PARK_MOVE (R204). -/
def execParkMove (i : Nat) (s : State) : Host.Outcome State Fault Refusal :=
  event s (s.parks[i]?.bind fun p => s.across (clusDie (fnClus p.frame)) (clusDie (ctrClus (fnCtr p.frame))) p.launch
    (fun _ => s.parkAt p) fun _ => some (s.parkStays p))

/-- BARRIER_ARRIVAL (R209). -/
def execBarrierArrival (i : Nat) (s : State) : Host.Outcome State Fault Refusal :=
  event s (s.arrivals[i]?.bind fun a =>
    let s' := { s with arrivals := s.arrivals.eraseIdx i }
    s.across (coreDie a.core) (coreDie (barCore a.barrier)) a.launch (fun _ => s'.arriveAt a) fun _ => some s')

/-! Donation intake (R214, R322; log 26). -/

/-- A refusal record for a sender (R214). -/
def State.refuse (s : State) (task : BitVec 128) (reason : Nat) : State :=
  { s with refusals := s.refusals ++
      [BitVec.ofNat 256 (task.toNat + reason * 2 ^ 128 + s.pkg.toNat * 2 ^ 136 + s.now.toNat * 2 ^ 192)] }

/-- The launch that a donated record belongs to: a graph launch that takes donations, by template (R322). -/
def State.donationLaunch (s : State) (task : BitVec 128) (ready : Bool) : Option (Nat × Launch) :=
  s.launches.find? fun e => e.2.graph && e.2.don && e.2.tmpl == taskTmpl task && ((e.2.state == .ready) == ready)

/-- The die of a launch with the fewest queued tasks, the lowest among equals (R322). -/
def State.fewest (s : State) (l : Launch) : Option Nat :=
  l.dies.foldl (fun b d => match b with
    | none => some d
    | some c => if (s.die d).tasks.length < (s.die c).tasks.length then some d else some c) none

/-- An arrival activates the firmware entry of a core that its launch runs on, with the record in x1 and x2 (R9, R291, R322);
the manual names no core (log 26). -/
def State.donationNotice (s : State) (n : Nat) (task : BitVec 128) : State :=
  let c := Config.donationCore s.serial % 65536
  let target := if s.running (coreClus c) = some n then some c else (s.clusters.find? fun e => s.running e.1 == some n).map fun e => 32 * e.1
  match target with
  | some c =>
    s.sendAct { type := 3, sender := c, target := c, wid := 0, words := [task.setWidth 64, task.extractLsb' 64 64], payload := 0,
                hdr := 0, prio := 0, launch := some n, frame := none, saved := none, reply := none, origin := 0, order := 0 }
  | none => s

/-- The intake takes a record, which firmware notes in the driver's log; it keeps it, and wakes the die that is to have it,
while that die is not powered (R322, R362; log 26). A record that has waited was accepted for a launch that was ready: where
there is none now, that launch has ended. -/
def State.takeDonation (s : State) (sender : BitVec 3) (task : BitVec 128) (time : Word) (waited : Bool) : State :=
  match s.donationLaunch task true with
  | none => s.refuse task (if waited then 4 else 2)
  | some (n, l) =>
    match s.fewest l with
    | none => { s with donations := s.donations ++ [⟨task, sender, time⟩] }
    | some d =>
      if !s.dieOn d then { s.wakeDie d with donations := s.donations ++ [⟨task, sender, time⟩] }
      else
        let s := { s with launches := s.launches.put n { l with seedCtr := l.seedCtr + 1 }, donLog := s.donLog ++ [task] }
        (s.enqueueTask d (task ||| (1#128 <<< 98)) l.func).donationNotice n task

/-- DONATION_INTAKE (R322): records that wait are taken first. -/
def execDonationIntake (sender : BitVec 3) (task : BitVec 128) (s : State) : Host.Outcome State Fault Refusal :=
  let s1 := s.donations.foldl (fun s d => s.takeDonation d.sender d.task d.time true) { s with donations := [] }
  event s (some (
    if task.extractLsb' 99 29 != 0 then s1.refuse task 3
    else if (s1.donationLaunch task true).isNone then s1.refuse task 2
    else if 64 ≤ s1.donations.length then s1.refuse task 1
    else s1.takeDonation sender task s1.now false))

/-- DONATION_WAIT_EXPIRY (R322): a record has waited 100 µs, or its launch has ended. -/
def execDonationWaitExpiry (i : Nat) (s : State) : Host.Outcome State Fault Refusal :=
  event s (match s.donations[i]? with
    | none => none
    | some d =>
      let s' := { s with donations := s.donations.eraseIdx i }
      if (s.donationLaunch d.task true).isNone then some (s'.refuse d.task 4)
      else if 100000 ≤ (s.now - d.time).toNat then some (s'.refuse d.task 1)
      else none)

end Sys2Proof.Machine
end

