-- ==== Sys2Proof/Machine/TrapEvents.lean ====
section
/-! DEFINITION. Traps of replay-queue entries, and the moves of contexts between slots, shadow banks and save frames
(spec/22_traps.md R344 to R354). -/

namespace Sys2Proof.Machine

/-! Save frames (R353, R354). -/

def SaveRegs.low (r : SaveRegs) : Nat := bits r.sflctl.toNat 16 16
def SaveRegs.en (r : SaveRegs) : Bool := r.sflctl.getLsbD 4
def SaveRegs.entry (r : SaveRegs) (i : Nat) : Nat := bits r.sflbase.toNat 3 49 * 8 + 8 * i

/-- A frame address is one that R323 admits. -/
def frameOk (a : Nat) : Bool := paValid a && paValid (a + 4095) && !paHost a

/-- Pops frames; an address that R323 does not admit is skipped, with a record (R353). `fuel` bounds the stack. -/
def State.popFrames (s : State) (die : Nat) (n : Nat) : Nat → State × List Nat
  | 0 => (s, [])
  | fuel + 1 =>
    let d := s.die die
    if n = 0 ∨ d.save.sflcnt = 0 then (s, [])
    else
      let c := d.save.sflcnt.toNat - 1
      let a := (s.upToDate (d.save.entry c)).readMem (d.save.entry c) 8
      let s := s.setDie die { d with save := { d.save with sflcnt := BitVec.ofNat 32 c } }
      if frameOk a then
        let r := s.popFrames die (n - 1) fuel
        (r.1, a :: r.2)
      else (s.error 10 1 die 0 1 a 0).popFrames die n fuel

/-- The count stands below the low-water mark. -/
def SaveRegs.isLow (r : SaveRegs) : Bool := r.sflcnt.toNat < r.low

/-- One record when the count has fallen below the low-water mark: `before` tells whether it stood below already
(R354). -/
def State.lowCheck (s : State) (die : Nat) (before : Bool) : State :=
  let r := (s.die die).save
  if r.isLow && !before then s.error 7 0 die 0 1 0 r.sflcnt.toNat else s

/-- Takes `n` frames of a die's free list, or none where there are fewer or the list is not in use (R354). The state
has lost the bad addresses in either case. -/
def State.takeFrames (s : State) (die n : Nat) : State × Option (List Nat) :=
  let d := s.die die
  if !d.save.en then (s, none)
  else
    let r := s.popFrames die n (d.save.sflcnt.toNat + 1)
    if r.2.length = n then (r.1.lowCheck die d.save.isLow, some r.2)
    else ((r.2.foldr (fun a s => s.pushFrame die a) r.1).lowCheck die d.save.isLow, none)

/-- The record of a spill that finds too few frames (R354). -/
def State.exhausted (s : State) (die : Nat) : State := s.error 8 3 die 0 1 0 (s.die die).save.sflcnt.toNat

/-! Taking the trap of an entry (R344). -/

/-- Entries that have faulted or finished: none is in flight, walking or to be re-injected. -/
def Strand.settled (t : Strand) : Bool := t.queue.all fun e => isFaulted e.phase

/-- TRAP_TAKE (R344): the trap of the oldest faulted entry; where every entry has completed, that of the instruction that
was to issue. One that must wait for the bank takes its place there (R352). -/
def State.trapTake (s : State) (k : Nat) : Option State :=
  let t := s.strand k
  if !t.active || !t.settled || t.edge.isSome || t.wait.isSome then none
  else
    let l : Option Latched := match t.queue.head? with
      | some e => (match e.phase with
        | .faulted tr =>
          let faddr := match tr with
            | .translation _ _ va | .foreignDie _ va _ => va
            | _ => e.addr
          some ⟨tr, e.pc, faddr, e.iword⟩
        | _ => none)
      | none => t.trap
    l.bind fun l => (s.takeTrap k l.trap l.pc l.faddr l.iword).or (s.askBank k)

/-- TRAP_TAKE (R344). -/
def execTrapTake (slot : Nat) (s : State) : Host.Outcome State Fault Refusal := event s (s.trapTake slot)

/-! The shadow bank (R351, R352). -/

/-- STAGING_FILL (R351): the oldest request is served; its image, read at the homes of its lines (R73), goes into the shadow bank, and its frames are free. A
context of another cluster comes after the release there (R82), and one of another die when that die's PTC has come to where it
left (R161). -/
def State.stagingFill (s : State) (c : Nat) : Option State :=
  let co := s.core c
  match co.shadow, s.requests c with
  | none, m :: r =>
    (s.savedOf m.saved).bind fun v =>
      if m.out || !v.spilled || !s.allDone false m.waits || !s.framesFree v.frame1 v.frame2 || (s.die (coreDie c)).ptc.ult v.left then none
      else
        let t := s.loadImage v.frame1 v.frame2 v.shell
        let mat := s.loadMat v.frame1 v.frame2 v.held
        let s := s.dropSaved m.saved
        some (s.setCore c { s.core c with
          moves := r
          shadow := some { slot := m.slot, strand := t, outgoing := false, why := v.why, header := [], mat := mat,
                           said := false, acq := v.acquire c } })
  | _, _ => none

/-- STAGING_FILL (R351). -/
def execStagingFill (core : Nat) (s : State) : Host.Outcome State Fault Refusal := event s (s.stagingFill core)

/-- The matrix context of a setter that resumes (R233): requests are done and the buffer is emitted first. -/
def State.restoreMat (s : State) (k : Nat) (v : MatSave) : State :=
  let c := slotCore k
  let s := s.emit (s.whoAt k)
  let t := s.strand k
  s.setMat c { s.mat c with
    descA := v.descA, descB := v.descB, syn := synOf v.descA, setter := some (slotIdx k, t.ctx),
    bind := t.nr (BitVec.ofNat 4 (bits v.descA.toNat 48 4)), kpos := v.kpos, key := v.key, held := v.held }

/-- CONTEXT_SWAP (R351): the staged context and the slot change places. -/
def State.contextSwap (s : State) (c : Nat) : Option State :=
  let co := s.core c
  match co.shadow with
  | none => none
  | some b =>
    let k := slotKey c b.slot
    if b.outgoing || (b.mat.isSome && !s.matIdle c) then none
    else
      let old := s.strand k
      let s0 := s.setCore c { co with shadow := none }
      -- a context that stands in the slot leaves it (R352)
      let out := if old.active then s0.moveOut k .preempt (s.headerOf k 0 0 old.pc 0 0) else some s0
      out.map fun s =>
        let s := s.setStrand k b.strand
        let s := match b.acq with
          | some d => s.invalidate (s.whoAt k) d
          | none => s
        match b.mat with
        | some v => s.restoreMat k v
        | none => s

/-- CONTEXT_SWAP (R351). -/
def execContextSwap (core : Nat) (s : State) : Host.Outcome State Fault Refusal := event s (s.contextSwap core)

/-- The launch unit asks for a general slot in order to resume a context there: one that left its slot for another one, in any
cluster that its launch runs on (R82), or one whose fault is resolved, in the core of its activation (R352; log 19). -/
def State.slotRequest (s : State) (k ctx : Nat) : Option State :=
  let c := slotCore k
  let co := s.core c
  (s.savedOf ctx).bind fun v =>
    let due := co.actq.any fun a => a.type == 7 && a.saved == some ctx && a.words.isEmpty
    if 4 ≤ slotIdx k || !v.spilled || (s.cores.any fun e => e.2.moves.any fun m => m.saved == ctx) ||
        !(v.why == .preempt || due) || v.shell.launch.isNone || s.running (coreClus c) != v.shell.launch then none
    else some ((s.setCore c { co with actq := co.actq.filter fun a => !(a.type == 7 && a.saved == some ctx) }).moveBack c
      (slotIdx k) v)

def SavedWhy.kind : SavedWhy → Nat
  | .bound => 1 | .fault => 2 | .preempt => 3 | .cluster => 4

/-- CONTEXT_SPILL (R349 to R351, R354): the outgoing context is written to two save frames. -/
def State.contextSpill (s : State) (c : Nat) : Option State :=
  let die := coreDie c
  match (s.core c).shadow with
  | none => none
  | some b =>
    if !b.outgoing then none
    else
      let r := s.takeFrames die 2
      match r.2 with
      | some [f1, f2] => if !s.framesFree f1 f2 then none else
        let s := r.1.writeImage f1 f2 (imageFields f2 b.why.kind b.header b.strand b.mat)
        let v : Saved :=
          { ctx := b.strand.ctx, slot := slotKey c b.slot, why := b.why, frame1 := f1, frame2 := f2, spilled := true,
            shell := b.strand, held := (b.mat.map fun m => m.held).getD .reset, left := (b.header[6]?).getD 0 }
        some { s.setCore c { s.core c with shadow := none } with saved := s.saved ++ [v] }
      | _ =>
        -- it waits, and reports the lack of frames once
        let s' := r.1.setCore c { r.1.core c with shadow := some { b with said := true } }
        if b.said then (if r.1.dies = s.dies then none else some s') else some (s'.exhausted die)

/-- CONTEXT_SPILL (R351). -/
def execContextSpill (core : Nat) (s : State) : Host.Outcome State Fault Refusal := event s (s.contextSpill core)

/-! The registers of the save-frame stack (R353, R354, R365). `who` is the writing master. The registers are numbered
from 16 on for records (log 29). -/

/-- SFLADD (R353): pushes a frame. -/
def execSfladd (die : Nat) (value : Word) (who : BitVec 16) (s : State) : Host.Outcome State Fault Refusal :=
  let a := bits value.toNat 12 40 * 4096
  event s (if 8 ≤ die then none else s.governed who (16 + 256 * die) (some (s.pushFrame die a)))

/-- SAVE_FRAME_STACK_ENABLE (R353, R354): a write of SFLCTL. -/
def execSaveFrameStackEnable (die : Nat) (value : Word) (who : BitVec 16) (s : State) : Host.Outcome State Fault Refusal :=
  let d := s.die die
  let v := value &&& 0xFFFF001F
  event s (if 8 ≤ die then none else s.governed who (17 + 256 * die)
    (some ((s.setDie die { d with save := { d.save with sflctl := v } }).lowCheck die d.save.isLow)))

end Sys2Proof.Machine
end

