-- ==== Sys2Proof/Machine/LaunchUnit.lean ====
section
/-! DEFINITION. Launch queues, the launch table, deciding a launch, graph templates and the end of a launch
(spec/20_launch.md R309 to R316, R321; log 20, log 30). -/

namespace Sys2Proof.Machine

/-! Reads and writes of reach SYSTEM by the launch unit (R315; log 20). -/

/-- Words of 8 bytes at a virtual address; none where a page has no translation, or where a line cannot be read now. -/
def State.readSys (s : State) (f va : Nat) : Nat → Option (State × List Word)
  | 0 => some (s, [])
  | n + 1 =>
    match s.translate f va with
    | none => none
    | some pa => if !s.sysReady pa false then none else
      let s := s.upToDate pa
      (s.readSys f (va + 8) n).map fun r => (r.1, BitVec.ofNat 64 (s.readMem pa 8) :: r.2)

/-! Validation (R309 to R312). -/

/-- A word that holds a 58-bit address has no other bit set. -/
def addrWord (w : Word) : Bool := w.toNat < 2 ^ 58

/-- Row 2 of R312. -/
def Launch.badFormat (l : Launch) : Bool :=
  let h := (l.word 0).toNat
  let m := (l.word 120).toNat
  let addrs := [64, 72, 80, 88, 96, 104, 384, 392, 400, 416, 424] ++ (List.range 8).map (fun k => 128 + 16 * k) ++
    (List.range 4).map (fun j => 448 + 16 * j)
  bits h 0 8 != 1 || bits h 24 40 != 0 || bits h 16 2 == 3 ||
    ((List.range 24).any fun b => bits m (2 * b) 2 == 3) || 8 < bits m 48 4 || bits m 52 12 != 0 ||
    (if l.graph then l.nfield != 0 else l.nfield == 0 || l.nfield == 7) ||
    ((List.range l.nfield).any fun i => l.byteBits (8 + 8 * i) 42 22 != 0) || (addrs.any fun a => !addrWord (l.word a)) ||
    256 < (l.word 112).toNat || ((List.range 8).any fun k => 2 ^ 20 < (l.word (136 + 16 * k)).toNat) ||
    ((List.range 16).any fun k => 2 ^ 24 ≤ (l.word (256 + 8 * k)).toNat) ||
    2 ^ 16 ≤ (l.word 432).toNat ||
    ((List.range 4).any fun j => l.byteBits (456 + 16 * j) 8 8 != 0 || l.byteBits (456 + 16 * j) 32 32 != 0) ||
    8 < l.byteBits 520 16 4 || l.byteBits 520 20 44 != 0 || l.byteBits 560 25 39 != 0 || l.word 568 != 0 ||
    l.word 384 == 0 || l.word 392 == 0 || l.word 400 == 0 || l.word 408 == 0 || 4096 < (l.word 408).toNat ||
    (l.graph && l.word 416 == 0)

/-- The product of the extents of the fields in use (R313). -/
def Launch.seeds (l : Launch) : Nat := (List.range l.nfield).foldl (fun n i => n * l.fieldExtent i) 1

/-- Row 3 of R312. -/
def Launch.badFields (l : Launch) : Bool :=
  ((List.range l.nfield).any fun i =>
    32 < l.fieldWidth i || 4 < l.fieldLevel i || 2 ^ l.fieldWidth i < l.fieldExtent i) ||
    64 < (List.range l.nfield).foldl (fun n i => n + l.fieldWidth i) 0 || l.seeds == 2 ^ 64

/-- Row 5 of R312: a partition that is not assigned to the function, or that is about to change (R379). -/
def State.badPartition (s : State) (l : Launch) : Bool :=
  l.pmask == 0 || (List.range 64).any fun k =>
    l.pmask.getLsbD k && (!(s.part k).en || (s.part k).func.toNat != l.func || (s.part k).busy)

/-! Graph templates (R321; log 30). -/

/-- What the template of a graph launch comes to. -/
inductive Template where
  | wait
  | bad
  | ok (nodes : List Node)
  deriving DecidableEq, Repr

/-- Node words: reserved bits, NARG and NINST are legal. -/
def nodeOk (n : Node) : Bool :=
  let w := fun i => ((n[i]?).getD 0).toNat
  addrWord ((n[0]?).getD 0) && 1 ≤ w 1 && w 1 < 2 ^ 48 && bits (w 2) 32 4 ≤ 8 && bits (w 2) 36 28 == 0 &&
    addrWord ((n[3]?).getD 0)

def State.readNodes (s : State) (va : Nat) : Nat → Option (State × List Node)
  | 0 => some (s, [])
  | n + 1 => (s.readSys 0 va 20).bind fun r => (r.1.readNodes (va + 160) n).map fun q => (q.1, r.2 :: q.2)

/-- Reads the directory and the template, which stand in the PF's address space. -/
def State.template (s : State) (l : Launch) : State × Template :=
  if bits s.pf.tdirn.toNat 0 24 ≤ l.tmpl then (s, .bad)
  else match s.readSys 0 (bits s.pf.tdir.toNat 3 55 * 8 + 8 * l.tmpl) 1 with
    | none => (s, .wait)
    | some (s, d) =>
      let a := (d.head?).getD 0
      if a = 0 || !addrWord a then (s, .bad)
      else match s.readSys 0 a.toNat 8 with
        | none => (s, .wait)
        | some (s, h) =>
          let w := ((h.head?).getD 0).toNat
          let n := bits w 32 12
          if bits w 0 24 ≠ l.tmpl || n = 0 || bits w 24 8 ≠ 0 || bits w 44 20 ≠ 0 || (h.drop 1).any (fun x => x != 0) then
            (s, .bad)
          else match s.readNodes (a.toNat + 64) n with
            | none => (s, .wait)
            | some (s, ns) => (s, if ns.all nodeOk then .ok ns else .bad)

/-- Instances of a node. -/
def nodeInsts (n : Node) : Nat := bits ((n[1]?).getD 0).toNat 0 48
def nodeDep (n : Node) : Nat := bits ((n[2]?).getD 0).toNat 0 32
def nodeArgs (n : Node) : Nat := bits ((n[2]?).getD 0).toNat 32 4

/-- DEP is written to the counters of a node from instance `i` on; none where a page has no translation with W, or where a
line cannot be written now (R324). -/
def State.writeDeps (s : State) (l : Launch) (n : Node) (i : Nat) : Nat → Option State
  | 0 => some s
  | k + 1 =>
    (s.translateW l.func (((n[3]?).getD 0).toNat + 4 * i)).bind fun pa =>
      if s.sysReady pa true then (s.writeSys pa (nodeDep n) 4).writeDeps l n (i + 1) k else none

/-- The task record that the launch unit places for an instance (R212, R321): it has the launch's priority. -/
def Launch.record (l : Launch) (node inst : Nat) : BitVec 128 :=
  BitVec.ofNat 128 (inst + node * 2 ^ 48 + l.tmpl * 2 ^ 64 + l.prio * 2 ^ 88)

/-- The instances of nodes without dependences go to the dies, nodes in order and instances ascending (R321). -/
def State.placeTasks (s : State) (l : Launch) : State :=
  l.nodes.zipIdx.foldl (fun s (n, i) =>
    if nodeDep n ≠ 0 then s
    else (List.range (nodeInsts n)).foldl (fun s j =>
      s.enqueueTask ((l.dies[j % l.dies.length]?).getD 0) (l.record i j) l.func) s) s

/-! Deciding a launch (R312, R313). -/

/-- Some cluster of the launch is held by another launch (R318). -/
def State.blocked (s : State) (n : Nat) (l : Launch) : Bool :=
  s.clusters.any fun e => (e.2.holder.any fun h => h != n) && l.covers e.1

/-- A launch becomes ready with its seed counter. -/
def State.makeReady (s : State) (n : Nat) (l : Launch) (count : Nat) : State :=
  let from' := if s.blocked n l then s.now else 0
  { s with launches := s.launches.put n { l with
      state := .ready, seedCtr := BitVec.ofNat 64 count, aged := 0, ageFrom := from' } }

/-- R312 for a graph launch whose rows 1 to 4 else pass. -/
def State.decideGraph (s : State) (n : Nat) (l : Launch) : Option State :=
  let finish := fun (s : State) (c : Nat) => some { s with launches := s.launches.put n { l with state := .ended c } }
  match s.template l with
  | (_, .wait) => none
  | (s, .bad) => finish s 2
  | (s, .ok ns) =>
    if s.badPartition l then finish s 3
    else
      let l : Launch := { l with nodes := ns }
      let r := ns.foldl (fun (o : Option State) nd => o.bind fun s => s.writeDeps l nd 0 (nodeInsts nd)) (some s)
      r.map fun s =>
        ((s.makeReady n l (ns.foldl (fun a nd => a + nodeInsts nd) 0))).placeTasks l

/-- LAUNCH_DECIDE (R312): a launch whose WAITN is 0. None while a page that it reads has no translation. -/
def State.decide (s : State) (n : Nat) (l : Launch) : Option State :=
  let finish := fun (c : Nat) => some { s with launches := s.launches.put n { l with state := .ended c } }
  if l.pf && !l.ie then finish 4
  else if l.badFormat || l.badFields || (l.priv && l.func != 0) then finish 2
  else if l.graph then s.decideGraph n l
  else if s.badPartition l then finish 3
  else if l.seeds = 0 then finish 1
  else some (s.makeReady n l l.seeds)

/-! Queues (R315, R381). -/

def Fn.en (f : Fn) : Bool := f.qctl.getLsbD 4
def Fn.log (f : Fn) : Nat := bits f.qctl.toNat 0 4
def Fn.pending (f : Fn) : Nat := (f.qtail - f.qhead).toNat

/-- The PF, or a VF that is enabled (R381). -/
def State.fnOn (s : State) (f : Nat) : Bool := f == 0 || (f ≤ 512 && (s.fn f).enabled)

/-- QUEUE_OVERRUN (R315): a tail too far ahead disables the queue. -/
def State.overrun (s : State) (f : Nat) : State :=
  let q := s.fn f
  if q.en && 2 ^ q.log < q.pending then
    (s.setFn f { q with qctl := q.qctl &&& ~~~(16 : Word) }).error 4 1 0 f 1 0 q.qtail.toNat
  else s

/-- QTAIL_DOORBELL (R315, R381). -/
def execQtailDoorbell (f : Nat) (tail : BitVec 32) (s : State) : Host.Outcome State Fault Refusal :=
  event s (if 512 < f || s.boot.running.isNone then none
    else if !s.fnOn f then some s
    else some ((s.setFn f { s.fn f with qtail := tail }).overrun f))

/-- A queue has an entry that the launch table has room for (R315). -/
def State.queueReady (s : State) (f : Nat) : Bool :=
  let q := s.fn f
  s.fnOn f && q.en && q.pending != 0 && s.launches.length < 1024 &&
    (f == 0 || (s.launches.filter fun e => e.2.func == f).length < 64)

/-- The queue whose turn it is: the first after the one served last (R315). -/
def State.nextQueue (s : State) : Option Nat :=
  ((List.range 513).map fun i => (s.pf.turn + 1 + i) % 513).find? fun f => s.queueReady f

/-- A record as the launch table keeps it: PRIO does not exceed MAXPRIO (R310). -/
def clampPrio (words : List Word) (max : BitVec 8) : List Word :=
  match words with
  | [] => []
  | h :: r =>
    let p := h.extractLsb' 8 8
    (if max.toNat < p.toNat then (h &&& ~~~(0xFF00 : Word)) ||| (max.zeroExtend 64 <<< 8) else h) :: r

/-- LAUNCH_ENTRY_TAKE (R315): the entry and its record are read, and a launch whose WAITN is 0 is decided. -/
def State.takeEntry (s : State) (f : Nat) : Option State :=
  let q := s.fn f
  if s.nextQueue ≠ some f then none
  else if 2 ^ q.log < q.pending then some (s.overrun f)
  else
    (s.readSys f (bits q.qbase.toNat 0 58 + 16 * (q.qhead.toNat % 2 ^ q.log)) 2).bind fun e =>
      let a := (e.2.head?).getD 0
      let bad := !addrWord a || e.2[1]? != some 0
      (e.1.readSys f (a.toNat % 2 ^ 58) 72).bind fun r =>
        let s := r.1
        let n := s.serial
        let l : Launch :=
          { words := clampPrio r.2 q.maxprio, func := f, order := n, waitn := 0, pf := false, state := .waiting,
            seedCtr := 0, seeded := [], activated := 0, firstSeed := none, aged := 0, ageFrom := 0, startedAt := 0,
            flushing := none, nodes := [] }
        let l : Launch := if bad then { l with state := .ended 2 } else { l with waitn := l.byteBits 520 0 16 }
        let s := s.setFn f { s.fn f with qhead := q.qhead + 1 }
        let s := { s with serial := n + 1, launches := s.launches.put n l, pf := { s.pf with turn := f } }
        some (if !bad && l.waitn = 0 then (s.decide n l).getD s else s)

/-- LAUNCH_ENTRY_TAKE (R315). -/
def execLaunchEntryTake (f : Nat) (s : State) : Host.Outcome State Fault Refusal := event s (s.takeEntry f)

/-! The end of a launch (R313, R314, R316). -/

/-- Clusters that a launch holds. -/
def State.heldBy (s : State) (n : Nat) : List Nat := (s.clusters.filter fun e => e.2.holder == some n).map fun e => e.1

/-- A send of a cluster whose round is under way (R80, R261). -/
def State.sending (s : State) (k : Nat) : Bool :=
  let x := (s.die (clusDie k)).xu
  (x.state == .granted || x.state == .running || (x.state == .posted && s.cg.en)) &&
    x.sends.any fun e => coreClus e.core == k && !e.reported

/-- Nothing of the launch runs any more in a cluster that it holds: strands have stopped, and operations already
forked have run to their end (R313). -/
def State.stoppedIn (s : State) (k : Nat) : Bool :=
  let c := s.cluster k
  (s.strands.all fun e => coreClus (slotCore e.1) != k || !e.2.active) && (s.engines.all fun e => e.clus != k) &&
    c.board.isEmpty && c.changing.isEmpty && c.fetches.isEmpty && (c.mats.all fun m => m.2.reqs.isEmpty) && c.save == .off &&
    !s.sending k

/-- A core without work. -/
def Core.cleared (c : Core) : Core :=
  { c with actq := [], deque := [], spilling := false, refilling := none, groups := 0, short := [], barriers := [], engine := .reset,
           shadow := none, moves := [] }

/-- Every D and A line of a cluster goes home, in every domain, and a release of reach SYSTEM begins (R313, R356). -/
def State.flushCluster (s : State) (k : Nat) : State × List Nat :=
  let s := (List.range 32).foldl (fun s i => s.emit { s.whoFor k with core := 32 * k + i }) s
  let w := s.whoFor k
  let s := s.writeBack w true
  let s := (s.cluster k).lines.foldl (fun s c => if c.st = LState.s then s else s.evictLine w c.line) s
  s.releaseCluster w .system

/-- What of a launch is dropped at its end: contexts that are saved, messages, registrations, saved clusters (R313;
log 30). A message on its way that no vector entry takes is recorded (R11). -/
def State.dropLaunch (s : State) (n : Nat) : State :=
  let mine := (s.saved.filter fun v => v.shell.launch == some n).map fun v => v.ctx
  let s := mine.foldl (fun s c => s.dropSaved c) s
  let s := (s.savedClusters.filter fun v => v.launch == n).foldl (fun s v =>
    v.frames.foldl (fun s a => s.pushFrame (clusDie v.clus) a) s) s
  let of := fun (l : Option Nat) => l == some n
  let s := (s.transit.filter fun a => of a.launch && s.discarded a).foldl (fun s a => s.discardMsg a) s
  { s with
    savedClusters := s.savedClusters.filter fun v => v.launch != n
    transit := s.transit.filter fun a => !of a.launch
    arrivals := s.arrivals.filter fun a => !of a.launch
    decs := s.decs.filter fun d => !of d.launch
    parks := s.parks.filter fun p => !of p.launch
    cores := s.cores.map fun e =>
      if (s.cluster (coreClus e.1)).holder == some n then (e.1, e.2.cleared)
      else (e.1, { e.2 with actq := e.2.actq.filter fun a => !of a.launch }) }

/-- A cluster changes hands: the waits of launches that it concerns begin or end (R318). -/
def State.setHolder (s : State) (k : Nat) (h : Option Nat) : State :=
  let s' := s.setCluster k { s.cluster k with holder := h, heldAt := s.now }
  { s' with launches := s'.launches.map fun e =>
      if e.2.state == .ready && s.blocked e.1 e.2 != s'.blocked e.1 e.2 then
        (e.1, { e.2 with ageFrom := s.now - e.2.ageFrom })
      else e }

/-- The completion record (R316). -/
def Launch.completion (l : Launch) (status : Nat) (now : Word) : Nat :=
  status + bitsOf l.pf * 2 ^ 8 + l.func * 2 ^ 16 + l.lid * 2 ^ 32 + l.activated % 2 ^ 64 * 2 ^ 64 + now.toNat * 2 ^ 128

/-- Writes the completion record to the queue's ring, as R253 gives; a base of 0 is no ring. None while its page has
no translation with W (R324), or its line cannot be written. -/
def State.writeCompletion (s : State) (l : Launch) (status : Nat) : Option State :=
  let f := s.fn l.func
  let base := bits f.crbase.toNat 0 58
  let log := bits f.crbase.toNat 58 4
  if base = 0 then some s
  else
    (s.translateW l.func (base + 32 * (f.crw.toNat % 2 ^ log))).bind fun pa =>
      let ph := if bits f.crw.toNat log 1 = 0 then 2 ^ 255 else 0
      if !s.sysReady pa true then none
      else
        let s := s.writeSys pa (l.completion status s.now + ph) 32
        some (s.setFn l.func { s.fn l.func with crw := f.crw + 1 })

/-- SUCCESSOR_RELEASE (R314) for one LID. A launch that cannot be decided yet is decided later. -/
def State.releaseSuccessor (s : State) (func status lid : Nat) : State :=
  match s.launches.find? fun e => e.2.func == func && e.2.lid == lid && e.2.state == .waiting && e.2.waitn != 0 with
  | none => s
  | some (n, l) =>
    let l : Launch := { l with waitn := l.waitn - 1, pf := l.pf || 2 ≤ status }
    let s := { s with launches := s.launches.put n l }
    if l.waitn = 0 then (s.decide n l).getD s else s

def Launch.successors (l : Launch) : List Nat :=
  (List.range (min 8 (l.byteBits 520 16 4))).map fun j => l.byteBits (528 + 8 * (j / 2)) (32 * (j % 2)) 32

/-- The record, the successors, and the clusters are free (R313 steps 2 and 3, R317). -/
def State.finishLaunch (s : State) (n : Nat) (l : Launch) (status : Nat) : Option State :=
  (s.writeCompletion l status).map fun s =>
    let held := s.heldBy n
    let s := s.dropLaunch n
    let s := held.foldl (fun s k => s.setCluster k { s.cluster k with started := false }) s
    let s := { s with launches := s.launches.del n }
    let s := held.foldl (fun s k => s.setHolder k none) s
    l.successors.foldl (fun s lid => s.releaseSuccessor l.func status lid) s

/-- LAUNCH_COMPLETE (R313): the flush begins, and once it is done the launch ends. A launch that waits for nothing more
than its decision is decided. -/
def State.completeLaunch (s : State) (n : Nat) : Option State :=
  match s.launches.find n with
  | none => none
  | some l =>
    match l.state with
    | .waiting => if l.waitn = 0 then s.decide n l else none
    | .ended st =>
      (match l.flushing with
       | some w => if s.allDone true w then s.finishLaunch n l st else none
       | none =>
         let held := s.heldBy n
         if !held.all fun k => s.stoppedIn k then none
         else
           let r := held.foldl (fun (a : State × List Nat) k =>
             let q := a.1.flushCluster k
             (q.1, a.2 ++ q.2)) (s, [])
           let l : Launch := { l with flushing := some r.2 }
           let s := { r.1 with launches := r.1.launches.put n l }
           if s.allDone true r.2 then some ((s.finishLaunch n l st).getD s) else some s)
    | _ => none

/-- LAUNCH_COMPLETE (R313). -/
def execLaunchComplete (launch : Nat) (s : State) : Host.Outcome State Fault Refusal := event s (s.completeLaunch launch)

/-- LAUNCH_TIMEOUT (R313): TMO ms after the first seed. -/
def execLaunchTimeout (launch : Nat) (s : State) : Host.Outcome State Fault Refusal :=
  event s (match s.launches.find launch with
    | none => none
    | some l =>
      let tmo := l.byteBits 512 32 32
      match l.firstSeed with
      | some t =>
        if l.state == .ready && tmo != 0 && tmo * 1000000 ≤ (s.now - t).toNat then some (s.endLaunch (some launch) 6)
        else none
      | none => none)

end Sys2Proof.Machine
end

