-- ==== Sys2Proof/Machine/Clusters.lean ====
section
/-! DEFINITION. Which launch a cluster belongs to, its start, its save and restore, and tasks of graph launches
(spec/20_launch.md R317 to R321, spec/22_traps.md R356, R357; log 21). -/

namespace Sys2Proof.Machine

/-! Priorities (R318). -/

/-- A queue's ceiling. -/
def State.maxPrio (s : State) (l : Launch) : Nat := (s.fn l.func).maxprio.toNat

/-- The effective priority (R318). -/
def State.effPrio (s : State) (l : Launch) : Nat := min (l.prio + l.aged) (s.maxPrio l)

/-- A ready launch that covers a cluster and may gain it: its partition is not about to change, or the launch resumes
there (R317, R379; log 31). -/
def State.mayGain (s : State) (k : Nat) (l : Launch) : Bool :=
  l.state == .ready && l.covers k &&
    ((!(s.part (k / 32)).busy && (s.part (k / 32)).en && (s.part (k / 32)).func.toNat == l.func) || s.savedClusters.any fun v => v.clus == k && v.launch == l.order)

/-- The better of two launches for a free cluster: the higher effective priority, then the first in the table. -/
def State.better (s : State) (a b : Nat × Launch) : Nat × Launch :=
  if s.effPrio a.2 < s.effPrio b.2 || (s.effPrio a.2 == s.effPrio b.2 && b.2.order < a.2.order) then b else a

/-- The launch that a free cluster goes to: the one that it was saved for, else the best (R318, R319). -/
def State.nextHolder (s : State) (k : Nat) : Option (Nat × Launch) :=
  let all := s.launches.filter fun e => s.mayGain k e.2
  match (s.cluster k).next.bind fun n => all.find? fun e => e.1 == n with
  | some e => some e
  | none => match all with
    | [] => none
    | e :: r => some (r.foldl (fun a b => s.better a b) e)

/-- CLUSTER_GRANT (R317, R318). A die that is power-gated is woken first (R362). -/
def State.grant (s : State) (k : Nat) : Option State :=
  if 2048 ≤ k || (s.cluster k).holder.isSome then none
  else (s.nextHolder k).bind fun (n, l) =>
    if !s.dieOn (clusDie k) then
      let s' := s.wakeDie (clusDie k)
      if s'.links = s.links then none else some s'
    else
      let first := (s.heldBy n).isEmpty && !(s.savedClusters.any fun v => v.launch == n)
      let s := s.setHolder k (some n)
      let s := s.setCluster k { s.cluster k with next := none, started := false }
      let from' := if s.blocked n l then s.now else 0
      some { s with launches := s.launches.put n { l with
        aged := 0, ageFrom := from', startedAt := if first then s.now else l.startedAt } }

/-- CLUSTER_GRANT (R318). -/
def execClusterGrant (clus : Nat) (s : State) : Host.Outcome State Fault Refusal := event s (s.grant clus)

/-- AGEING_STEP (R318): a launch has waited for another AGEQ while a cluster of its was held by another launch. -/
def execAgeingStep (launch : Nat) (s : State) : Host.Outcome State Fault Refusal :=
  let step := 1000 * (max 1 s.pf.ageq.toNat)
  event s (match s.launches.find launch with
    | none => none
    | some l =>
      if l.state == .ready && s.blocked launch l && step ≤ (s.now - l.ageFrom).toNat then
        let l' : Launch := { l with aged := l.aged + 1, ageFrom := l.ageFrom + BitVec.ofNat 64 step }
        some { s with launches := s.launches.put launch l' }
      else none)

/-- The cluster begins to be saved for a launch (R319, R356). -/
def State.beginSave (s : State) (k n : Nat) : State :=
  s.setCluster k { s.cluster k with save := .swapping, next := some n }

/-- QUANTUM_EXPIRY (R318): the quantum of a holder has ended, and a launch of equal or higher effective priority
waits. -/
def State.rotate (s : State) (k : Nat) : Option State :=
  let c := s.cluster k
  match c.holder.bind fun n => (s.launches.find n).map fun l => (n, l) with
  | none => none
  | some (n, l) =>
    let wait := s.launches.filter fun e => e.1 != n && s.mayGain k e.2 && s.effPrio l ≤ s.effPrio e.2
    if l.state != .ready || !c.started || c.save != .off || (s.now - c.heldAt).toNat < 1000 * s.pf.quant.toNat then none
    else match wait with
      | [] => none
      | e :: r => some (s.beginSave k (r.foldl (fun a b => s.better a b) e).1)

/-- QUANTUM_EXPIRY (R318). -/
def execQuantumExpiry (clus : Nat) (s : State) : Host.Outcome State Fault Refusal := event s (s.rotate clus)

/-! Pre-emption (R319). -/

/-- The units of a launch that its clusters belong to: clusters, dies or the whole package, by its deepest level; tasks
of a graph launch wait by die. -/
def Launch.unitOf (l : Launch) (k : Nat) : Nat :=
  let lv := (List.range l.nfield).map fun i => l.fieldLevel i
  if l.graph then clusDie k
  else if lv.any fun x => 2 ≤ x then k
  else if lv.contains 1 then clusDie k
  else 0

/-- Seeds of a cluster's unit that have not been activated: the product of the ranges, less those made (R32). -/
def Launch.seedsLeft (l : Launch) (k : Nat) : Nat :=
  let range := fun (i : Nat) =>
    let e := l.fieldExtent i
    let lvl := l.fieldLevel i
    if lvl = 1 ∨ lvl = 2 then
      let u := l.unit (slotKey (32 * k) 0) lvl
      (u.1 * e / u.2, (u.1 + 1) * e / u.2)
    else (0, e)
  let all := (List.range l.nfield).foldl (fun n i => n * ((range i).2 - (range i).1)) 1
  all - (l.seeded.filter fun w => (List.range l.nfield).all fun i =>
    (range i).1 ≤ l.index w i && l.index w i < (range i).2).length

/-- A cluster that a launch waits for: nothing of its unit is held or on the way, and work of it is left. -/
def State.wants (s : State) (n : Nat) (l : Launch) (k : Nat) : Bool :=
  l.covers k &&
    !(s.clusters.any fun e => l.covers e.1 && l.unitOf e.1 == l.unitOf k && (e.2.holder == some n || e.2.next == some n)) &&
    ((s.savedClusters.any fun v => v.launch == n && l.unitOf v.clus == l.unitOf k) ||
      (if l.graph then (s.die (clusDie k)).tasks.any fun t => t.2.1 == l.func && taskTmpl t.1 == l.tmpl
       else l.seedsLeft k != 0))

/-- Of two clusters, with their holders, the one to pre-empt first (R319). -/
def preemptFirst (a b : Nat × Launch) : Nat × Launch :=
  if b.2.prio < a.2.prio then b
  else if a.2.prio < b.2.prio then a
  else if a.2.startedAt.toNat < b.2.startedAt.toNat then b
  else if b.2.startedAt.toNat < a.2.startedAt.toNat then a
  else if a.1 < b.1 then b else a

/-- PREEMPT (R319): one cluster for a unit of the launch that waits. -/
def State.preempt (s : State) (n : Nat) : Option State :=
  match s.launches.find n with
  | none => none
  | some l =>
    let cand := s.clusters.filterMap fun e =>
      match e.2.holder.bind fun h => s.launches.find h with
      | some h =>
        if e.2.holder != some n && h.state == .ready && e.2.started && e.2.save == .off && s.mayGain e.1 l &&
            h.prio + s.pf.pdelta.toNat ≤ l.prio && s.wants n l e.1 then some (e.1, h) else none
      | none => none
    match cand with
    | [] => none
    | e :: r => some (s.beginSave (r.foldl preemptFirst e).1 n)

/-- PREEMPT (R319). -/
def execPreempt (launch : Nat) (s : State) : Host.Outcome State Fault Refusal := event s (s.preempt launch)

/-! The start of a launch on a cluster (R10, R195, R317, R330, R345). -/

/-- Vector-table entry 0x09, from the function's registers (R345). -/
def Fn.handlerEntry (f : Fn) : BitVec 128 :=
  BitVec.ofNat 128 (bits f.trapvec.toNat 3 55 * 8 + bits f.trapcfg.toNat 0 12 * 2 ^ 64)

/-- The vector table from the launch's image: firmware's entries are not the image's (R10). An image of 0 has none. -/
def vectorTable (words : List Word) (handler : BitVec 128) : Tab (BitVec 128) :=
  ((List.range 256).map fun t =>
    (t, if t = 9 then handler
        else if t = 5 ∨ t = 6 ∨ 16 ≤ t then (words[2 * t + 1]?).getD 0 ++ (words[2 * t]?).getD 0
        else 0)).filter fun e => e.2 != 0

/-- Reads an image of the launch, or none while a page has no translation. -/
def State.launchTable (s : State) (l : Launch) (va : Word) (words : Nat) : Option (State × List Word) :=
  s.readSys l.func va.toNat words

def State.vectors (s : State) (l : Launch) : Option (State × Tab (BitVec 128)) :=
  let h := (s.fn l.func).handlerEntry
  if l.word 96 = 0 then some (s, vectorTable [] h)
  else (s.launchTable l (l.word 96) 512).map fun r => (r.1, vectorTable r.2 h)

/-- The region entries of a launch; a bad one is loaded as invalid, with a record (R330). -/
def State.regionTable (s : State) (l : Launch) (die : Nat) : Option (State × Tab (BitVec 128)) :=
  (s.launchTable l (l.word 104) (2 * (l.word 112).toNat)).map fun r =>
    (List.range (l.word 112).toNat).foldl (fun (a : State × Tab (BitVec 128)) i =>
      let e := (r.2[2 * i + 1]?).getD 0 ++ (r.2[2 * i]?).getD 0
      if rgnBad e then (a.1.error 6 1 die l.func 1 (l.word 104).toNat i, a.2)
      else if rgnV e then (a.1, a.2 ++ [(i, e)])
      else a) (r.1, [])

/-- The modes of the banks: those of the frame area are in SCRATCH mode (R195). -/
def Launch.bankModes (l : Launch) : Tab BankMode :=
  let farea := if l.byteBits 120 48 4 = 0 then 2 else l.byteBits 120 48 4
  (List.range 24).map fun b =>
    (b, if 24 ≤ b + farea then .scratch
        else match l.byteBits 120 (2 * b) 2 with
          | 1 => .scratch
          | 2 => .fifo
          | _ => .cache)

/-- The ring bindings of the record (R253, R309). -/
def Launch.rings (l : Launch) : Tab Ring :=
  (List.range 4).filterMap fun j =>
    if l.word (448 + 16 * j) = 0 then none else some (j, ⟨l.word (448 + 16 * j), l.word (456 + 16 * j), 0⟩)

/-- A cluster that belongs to no launch: what stays are its SRAM, its counters and its translations. -/
def Cluster.freed (c : Cluster) : Cluster :=
  { Cluster.reset with
    modes := c.modes, sram := c.sram, atomCtr := c.atomCtr, bankCtr := c.bankCtr, tlb := c.tlb, served := c.served,
    next := c.next, mats := c.mats.map fun m => (m.1, { MatCtx.reset with counters := m.2.counters }) }

/-- The cores of a cluster. -/
def clusCores (k : Nat) : List Nat := (List.range 32).map fun i => 32 * k + i

/-- CLUSTER_LAUNCH_START (R317). -/
def State.startCluster (s : State) (k : Nat) : Option State :=
  let c := s.cluster k
  match c.holder.bind fun n => (s.launches.find n).map fun l => (n, l) with
  | none => none
  | some (n, l) =>
    if c.started || l.state != .ready || (s.savedClusters.any fun v => v.clus == k && v.launch == n) ||
        !s.dieOn (clusDie k) then none
    else (s.vectors l).bind fun (s, vt) => (s.regionTable l (clusDie k)).map fun (s, rt) =>
      let s := s.setCluster k { c.freed with
        modes := l.bankModes, rings := l.rings, holder := some n, heldAt := c.heldAt, started := true }
      (clusCores k).foldl (fun s i =>
        s.setCore i { (s.core i).cleared with vtab := vt, regions := rt }) s

/-- CLUSTER_LAUNCH_START (R317). -/
def execClusterLaunchStart (clus : Nat) (s : State) : Host.Outcome State Fault Refusal := event s (s.startCluster clus)

/-! Saving a cluster whole (R356; log 21). -/

/-- Step 1: a deque spills all its entries, 16 at a time; entries that its backing store has no group for stay in the
saved core. -/
def State.saveDeque (s : State) (k : Nat) : Option State :=
  (clusCores k).findSome? fun c =>
    if !(s.core c).deque.isEmpty && (s.core c).groups < s.groupsOf (s.cluster k).holder then s.spillDeque c else none

/-- Step 2: a slot whose context can leave it does. -/
def State.saveSlot (s : State) (k : Nat) : Option State :=
  (s.strands.filter fun e => coreClus (slotCore e.1) == k && e.2.active).findSome? fun e =>
    s.swapOut e.1 .cluster (s.headerOf e.1 0 0 e.2.pc 0 0)

/-- Steps 1 to 3 are over: no context is in a slot or a shadow bank, and nothing is in flight in the cluster. -/
def State.savable (s : State) (k : Nat) : Bool :=
  let c := s.cluster k
  (s.strands.all fun e => coreClus (slotCore e.1) != k || !e.2.active) &&
    (s.cores.all fun e => coreClus e.1 != k || e.2.shadow.isNone) && (s.engines.all fun e => e.clus != k) &&
    c.board.isEmpty && c.changing.isEmpty && c.fetches.isEmpty && (c.mats.all fun m => m.2.reqs.isEmpty)

/-- Frames of step 5: 96 for the banks, and 8 further ones. -/
def saveFrames : Nat := 104

/-- The bytes of a save frame are 0, and none is poison. -/
def State.clearFrame (s : State) (a : Nat) : State :=
  { s with
    mem := s.mem.filter fun c => c.1 < a || a + 4096 ≤ c.1
    poison := s.poison.filter fun l => 128 * l < a || a + 4096 ≤ 128 * l }

/-- A line lies in one of these save frames. -/
def inFrames (frames : List Nat) (line : Nat) : Bool := frames.any fun a => a / 4096 == line / 32

/-- No write is held on a line of these frames (R73). -/
def State.framesReady (s : State) (frames : List Nat) : Bool :=
  s.slices.all fun e => e.2.held.all fun it => !inFrames frames it.line

/-- Memory has the newest bytes of these frames, and no copy of the host is left to hide a write to them (R73, R360). -/
def State.claimFrames (s : State) (frames : List Nat) : State :=
  ((s.slices.flatMap fun e => e.2.sharers.map fun x => x.1).eraseDups.filter (inFrames frames)).foldl (fun s l => s.pullHost l true) s

/-- The entries of FIFO banks, as lines of the banks' SRAM from the first on (R38, R356). -/
def Cluster.fifoLines (c : Cluster) : Tab Line :=
  c.fifos.foldl (fun t f =>
    if c.mode f.1 == .fifo then f.2.entries.zipIdx.foldl (fun t e => t.put (128 * f.1 + e.2) e.1) t else t) c.sram

/-- Entries of FIFO banks, taken back from the lines of their banks. -/
def Cluster.refill (c : Cluster) : Cluster :=
  { c with fifos := c.fifos.map fun f =>
      if c.mode f.1 == .fifo then
        (f.1, { f.2 with entries := (List.range f.2.entries.length).map fun j => c.sram.get (128 * f.1 + j) 0 })
      else f }

/-- Step 5 for the banks: SRAM line `l` stands in frame `l / 32` (R356). -/
def State.writeBanks (s : State) (frames : List Nat) (sram : Tab Line) : State :=
  sram.foldl (fun s e => s.mergeLine ((frames[e.1 / 32]?).getD 0 / 128 + e.1 % 32) e.2 (BitVec.allOnes 128))
    ((frames.take 96).foldl State.clearFrame s)

/-- The banks that save frames hold. -/
def State.readBanks (s : State) (frames : List Nat) : Tab Line :=
  (frames.take 96).zipIdx.foldl (fun t f =>
    ((s.mem.filter fun c => f.1 ≤ c.1 && c.1 < f.1 + 4096).map fun c => c.1 / 128).eraseDups.foldl (fun t l =>
      t.put (32 * f.2 + (l - f.1 / 128)) (s.readLine l)) t) []

/-- Step 5 for the further frames: the manual gives no layout of them, and each line is a free value (log 21). -/
def State.writeRest (s : State) (frames : List Nat) : State :=
  (frames.drop 96).foldl (fun s a => (List.range 32).foldl (fun s i =>
    s.mergeLine (a / 128 + i) (Config.clusterLine (a / 128 + i) s.serial) (BitVec.allOnes 128)) s) s

/-- Step 5: the banks, those in FIFO mode with their entries, go into 96 save frames, the rest of the cluster and its cores are kept with 8 further ones, and the
cluster is free. -/
def State.putAway (s : State) (k n : Nat) (frames : List Nat) : State :=
  let v : SavedCluster :=
    { clus := k, launch := n, cluster := { s.cluster k with sram := [] },
      cores := (s.cores.filter fun e => coreClus e.1 == k),
      slots := (s.saved.filter fun v => coreClus (slotCore v.slot) == k && v.why == .cluster &&
        !(s.cores.any fun e => e.2.moves.any fun m => m.saved == v.ctx)).map fun v => (v.slot, v.ctx),
      frames := frames }
  let s := (((s.claimFrames frames).writeBanks frames (s.cluster k).fifoLines).writeRest frames).fresh
  let s := { s with savedClusters := s.savedClusters ++ [v] }
  let s := s.setCluster k { (s.cluster k).freed with holder := some n }
  let s := (clusCores k).foldl (fun s c =>
    if s.cores.any (fun e => e.1 == c) then s.setCore c (s.core c).cleared else s) s
  s.setHolder k none

/-- CLUSTER_SAVE (R356): the next part of the save that can be done. -/
def State.saveCluster (s : State) (k : Nat) : Option State :=
  let c := s.cluster k
  let die := clusDie k
  match c.holder, c.save with
  | some _, .swapping =>
    (match s.saveDeque k with
     | some s => some s
     | none => match s.saveSlot k with
       | some s => some s
       | none =>
         if !s.savable k then none
         else
           let r := s.flushCluster k
           some (r.1.setCluster k { r.1.cluster k with save := .flushing r.2 false }))
  | some n, .flushing w said =>
    if !s.allDone true w then none
    else
      let r := s.takeFrames die saveFrames
      (match r.2 with
       | some f => if r.1.framesReady f then some (r.1.putAway k n f) else none
       | none =>
         let s' := r.1.setCluster k { r.1.cluster k with save := .flushing w true }
         if said then (if r.1.dies = s.dies then none else some s') else some (s'.exhausted die))
  | _, _ => none

/-- CLUSTER_SAVE (R356). -/
def execClusterSave (clus : Nat) (s : State) : Host.Outcome State Fault Refusal := event s (s.saveCluster clus)

/-- CLUSTER_RESTORE (R356): the vector tables are loaded anew, the cache is empty, and the contexts wait to be moved
back. -/
def State.restoreCluster (s : State) (k : Nat) : Option State :=
  let c := s.cluster k
  match c.holder.bind fun n => (s.launches.find n).map fun l => (n, l) with
  | none => none
  | some (n, l) =>
    (s.savedClusters.find? fun v => v.clus == k && v.launch == n).bind fun v =>
      if c.started || l.state != .ready || !s.dieOn (clusDie k) || !s.framesReady v.frames then none
      else (s.vectors l).map fun (s, vt) =>
        let s := { s with savedClusters := s.savedClusters.filter fun o => !(o.clus == k && o.launch == n) }
        let s := s.claimFrames v.frames
        let banks := s.readBanks v.frames
        let s := v.frames.foldl (fun s a => s.pushFrame (clusDie k) a) s
        let s := s.setCluster k { ({ v.cluster with sram := banks } : Cluster).refill with
          lines := [], holder := some n, heldAt := c.heldAt, next := none, started := true, save := .off, tlb := c.tlb }
        let s := (clusCores k).foldl (fun s i =>
          let o := s.core i
          let t := v.cores.get i .reset
          s.setCore i { t with vtab := vt, utlb := o.utlb, icache := o.icache }) s
        v.slots.foldl (fun s e =>
          let i := slotCore e.1
          let o := s.core i
          s.setCore i { o with moves := o.moves ++ [⟨slotIdx e.1, e.2, false, []⟩] }) s

/-- CLUSTER_RESTORE (R356). -/
def execClusterRestore (clus : Nat) (s : State) : Host.Outcome State Fault Refusal := event s (s.restoreCluster clus)

/-! Tasks (R213, R321). -/

/-- The task of a die's queue that a launch runs next: the highest priority, the oldest among equals. -/
def State.nextTask (s : State) (l : Launch) (die : Nat) : Option (BitVec 128 × Nat × Nat) :=
  ((s.die die).tasks.filter fun t =>
    t.2.1 == l.func && taskTmpl t.1 == l.tmpl && taskNode t.1 < l.nodes.length).foldl (fun b t => match b with
      | none => some t
      | some q =>
        if (taskPrio q.1).toNat < (taskPrio t.1).toNat || (taskPrio q.1 == taskPrio t.1 && t.2.2 < q.2.2) then some t
        else some q) none

/-- Writes the argument line of a slot (R321): the words go home, as stores of the core. None while its page has no
translation. -/
def State.writeArgs (s : State) (l : Launch) (k : Nat) (n : Node) (inst : Nat) (base : Nat) : Nat → Option State
  | 0 => some s
  | a + 1 =>
    (s.writeArgs l k n inst base a).bind fun s =>
      let va := base + 8 * a
      let v := ((n[4 + 2 * a]?).getD 0) + BitVec.ofNat 64 inst * ((n[5 + 2 * a]?).getD 0)
      match s.pageWalk l.func va with
      | .ok x => if !x.w then none else some (s.storeHome (s.whoAt k) (s.placeBy (slotCore k) x va) (BitVec.ofNat 64 va) v.toNat 8 [])
      | _ => none

/-- TASK_ACTIVATION (R321), with an acquire of reach DIE (R213). -/
def State.taskActivation (s : State) (k : Nat) : Option State :=
  let c := slotCore k
  let kn := coreClus c
  match (s.running kn).bind fun n => (s.launches.find n).map fun l => (n, l) with
  | none => none
  | some (n, l) =>
    if !l.graph || slotIdx k == 4 || !s.idleSlot k then none
    else (s.nextTask l (clusDie kn)).bind fun t =>
      (l.nodes[taskNode t.1]?).bind fun nd =>
        let base := ((l.word 416).toNat + 64 * ((32 * l.rank kn + c % 32) * 5 + slotIdx k)) % 2 ^ 58
        let ctx := s.serial
        let u := { Strand.fresh ctx (some n) l.func (BitVec.ofNat 64 (taskNode t.1 * 2 ^ 48 + taskInst t.1))
            ((nd[0]?).getD 0) .branch l.cls (taskPrio t.1) 1 (s.launchBindings (some n)) with
          jl := some .seed, p0 := some (BitVec.ofNat 64 base, 8 * nodeArgs nd) }
        let s := { s.setStrand k u with serial := ctx + 1 }
        (s.writeArgs l k nd (taskInst t.1) base (nodeArgs nd)).map fun s =>
          let d := s.die (clusDie kn)
          let s := s.setDie (clusDie kn) { d with tasks := d.tasks.filter fun q => q.2.2 != t.2.2 }
          let s := s.setCore c (s.core c).worked
          State.invalidate { s with launches := s.launches.put n (l.seededOne s.now) } (s.whoAt k) .die

/-- TASK_ACTIVATION (R321). -/
def execTaskActivation (slot : Nat) (s : State) : Host.Outcome State Fault Refusal := event s (s.taskActivation slot)

end Sys2Proof.Machine
end

