-- ==== Sys2Proof/Machine/Sha.lean ====
section
/-! DEFINITION. SHA-256 (spec/23_host.md R366 to R368 name it; its definition is FIPS 180-4's, log 14). -/

namespace Sys2Proof.Machine

/-- The round constants. -/
def shaK : List (BitVec 32) :=
  [0x428a2f98, 0x71374491, 0xb5c0fbcf, 0xe9b5dba5, 0x3956c25b, 0x59f111f1, 0x923f82a4, 0xab1c5ed5] ++
  [0xd807aa98, 0x12835b01, 0x243185be, 0x550c7dc3, 0x72be5d74, 0x80deb1fe, 0x9bdc06a7, 0xc19bf174] ++
  [0xe49b69c1, 0xefbe4786, 0x0fc19dc6, 0x240ca1cc, 0x2de92c6f, 0x4a7484aa, 0x5cb0a9dc, 0x76f988da] ++
  [0x983e5152, 0xa831c66d, 0xb00327c8, 0xbf597fc7, 0xc6e00bf3, 0xd5a79147, 0x06ca6351, 0x14292967] ++
  [0x27b70a85, 0x2e1b2138, 0x4d2c6dfc, 0x53380d13, 0x650a7354, 0x766a0abb, 0x81c2c92e, 0x92722c85] ++
  [0xa2bfe8a1, 0xa81a664b, 0xc24b8b70, 0xc76c51a3, 0xd192e819, 0xd6990624, 0xf40e3585, 0x106aa070] ++
  [0x19a4c116, 0x1e376c08, 0x2748774c, 0x34b0bcb5, 0x391c0cb3, 0x4ed8aa4a, 0x5b9cca4f, 0x682e6ff3] ++
  [0x748f82ee, 0x78a5636f, 0x84c87814, 0x8cc70208, 0x90befffa, 0xa4506ceb, 0xbef9a3f7, 0xc67178f2]

/-- The first hash value. -/
def shaInit : List (BitVec 32) :=
  [0x6a09e667, 0xbb67ae85, 0x3c6ef372, 0xa54ff53a, 0x510e527f, 0x9b05688c, 0x1f83d9ab, 0x5be0cd19]

/-- The eight working words and the sixteen words of the schedule that come next. -/
structure ShaRound where
  h : List (BitVec 32)
  w : List (BitVec 32)

def at32 (l : List (BitVec 32)) (i : Nat) : BitVec 32 := (l[i]?).getD 0

/-- One round. -/
def shaRound (r : ShaRound) (k : BitVec 32) : ShaRound :=
  let v := at32 r.h
  let w := at32 r.w
  let s1 := (v 4).rotateRight 6 ^^^ (v 4).rotateRight 11 ^^^ (v 4).rotateRight 25
  let ch := (v 4 &&& v 5) ^^^ (~~~(v 4) &&& v 6)
  let t1 := v 7 + s1 + ch + k + w 0
  let s0 := (v 0).rotateRight 2 ^^^ (v 0).rotateRight 13 ^^^ (v 0).rotateRight 22
  let maj := (v 0 &&& v 1) ^^^ (v 0 &&& v 2) ^^^ (v 1 &&& v 2)
  let g0 := (w 1).rotateRight 7 ^^^ (w 1).rotateRight 18 ^^^ (w 1 >>> 3)
  let g1 := (w 14).rotateRight 17 ^^^ (w 14).rotateRight 19 ^^^ (w 14 >>> 10)
  ⟨[t1 + s0 + maj, v 0, v 1, v 2, v 3 + t1, v 4, v 5, v 6], r.w.drop 1 ++ [g1 + w 9 + g0 + w 0]⟩

/-- Four bytes of a block as a big-endian word. -/
def shaWord (b : List Byte) (i : Nat) : BitVec 32 :=
  let x := fun j => (b[4 * i + j]?).getD 0
  x 0 ++ x 1 ++ x 2 ++ x 3

/-- A block of 64 bytes. -/
def shaBlock (h : List (BitVec 32)) (b : List Byte) : List (BitVec 32) :=
  let r := shaK.foldl shaRound ⟨h, (List.range 16).map (shaWord b)⟩
  (List.range 8).map fun i => at32 h i + at32 r.h i

def shaBlocks (h : List (BitVec 32)) (m : List Byte) : Nat → List (BitVec 32)
  | 0 => h
  | n + 1 => shaBlocks (shaBlock h (m.take 64)) (m.drop 64) n

/-- A number as `n` bytes, the most significant first. -/
def bytesBE (v : Nat) : Nat → List Byte
  | 0 => []
  | n + 1 => bytesBE (v / 256) n ++ [BitVec.ofNat 8 v]

def sha256 (m : List Byte) : BitVec 256 :=
  let p := m ++ [0x80] ++ List.replicate ((119 - m.length % 64) % 64) 0 ++ bytesBE (8 * m.length) 8
  let h := shaBlocks shaInit p (p.length / 64)
  BitVec.ofNat 256 (h.foldl (fun a w => a * 2 ^ 32 + w.toNat) 0)

end Sys2Proof.Machine
end

