-- ==== Sys2Proof/Machine/Translation.lean ====
section
/-! DEFINITION. The end of translation walks, shootdowns, migrations and the fault unit's events
(spec/08_isa_memory.md R175, spec/21_translation.md R326 to R342; log 17, log 18). -/

namespace Sys2Proof.Machine

/-! TLBs (R327; log 17). -/

/-- An entry goes into a list of bounded size; when that is full the entry at `victim` leaves it. -/
def tlbPut (l : List Xlat) (x : Xlat) (size victim : Nat) : List Xlat :=
  if l.contains x then l
  else if l.length < size then x :: l
  else x :: l.eraseIdx (victim % l.length)

/-- A translation is held at the three levels. -/
def State.fillTlbs (s : State) (core : Nat) (x : Xlat) (v : Victims) : State :=
  let c := s.core core
  let s := s.setCore core { c with utlb := tlbPut c.utlb x 32 v.core }
  let k := s.cluster (coreClus core)
  let s := s.setCluster (coreClus core) { k with tlb := tlbPut k.tlb x 512 v.clus }
  let d := s.die (coreDie core)
  s.setDie (coreDie core) { d with tlb := tlbPut d.tlb x 16384 v.die }

/-- What a core's walk gives: the TLBs of its cluster and die are looked up first (R327). -/
def State.walkFor (s : State) (core f va : Nat) : WalkRes :=
  match xlatFind (s.cluster (coreClus core)).tlb f va with
  | some x => .ok x
  | none =>
    match xlatFind (s.die (coreDie core)).tlb f va with
    | some x => .ok x
    | none => s.pageWalk f va

/-! Walks of accesses that have issued (R175). -/

/-- A walk fails: the entry faults, but PF, FLUSH and INVL have no effect (R175). -/
def State.walkFails (s : State) (k : Nat) (e : Entry) (w : Walk) (reason : Nat) : State :=
  match e.memOp with
  | some .prefetch | some .flush | some .invl => s.freeAt k e.serial
  | _ => s.setStrand k ((s.strand k).setPhase e.serial (.faulted (.translation reason w.write w.va)))

/-- A walk of a strand that waits at a leaf, and since when. -/
def State.waitsAt (s : State) (t : Strand) (leaf : Nat) : List Word :=
  (t.walk.toList ++ t.queue.filterMap fun e => match e.phase with
    | .walking w => some w
    | _ => none).filterMap fun w =>
      if s.pageWalk t.func w.va.toNat == .wait leaf then w.waiting else none

/-- Since when a die waits at a migrating page: misses of one function and page share their walk (R327), and so its time
(R328). -/
def State.waitFrom (s : State) (die f leaf : Nat) : Word :=
  ((s.strands.filter fun e => coreDie (slotCore e.1) == die && e.2.active && e.2.func == f).flatMap fun e => s.waitsAt e.2 leaf).foldl
    (fun a b => if b.ult a then b else a) s.now

/-- The walk of an entry ends or begins to wait at a migrating page (R328). -/
def State.entryWalk (s : State) (k : Nat) (e : Entry) (w : Walk) (v : Victims) : Option State :=
  let t := s.strand k
  let core := slotCore k
  match s.walkFor core t.func (w.va.toNat % 2 ^ 58) with
  | .ok x => (s.fillTlbs core x v).retry k e (x :: w.got) false
  | .held => none
  | .wait leaf =>
    if w.waiting.isSome then none
    else some (s.setStrand k (t.setPhase e.serial (.walking { w with waiting := some (s.waitFrom (coreDie core) t.func leaf) })))
  | .fail r => some (s.walkFails k e w r)

/-! Walks that hold an instruction in issue (R175). -/

/-- The word that a failed walk is charged to: the header entered for a block fetch, else the instruction (R324). -/
def State.walkWord (s : State) (k : Nat) (w : Walk) : Word × BitVec 32 :=
  let t := s.strand k
  let entering := t.way.isSome || t.pc == t.nextHeader
  if w.exec && (entering || w.va != t.nextHeader) then (if entering then t.pc else t.hdr, 0)
  else match s.fetch k with
    | .instr _ i => (t.pc, wordOf i)
    | _ => (t.pc, 0)

/-- A walk at issue fails: the instruction traps before it issues (R175), a TREC whose release is over too (R328). -/
def State.issueFails (s : State) (k : Nat) (w : Walk) (reason : Nat) : State :=
  let p := s.walkWord k w
  (s.setStrand k { s.strand k with edge := none }).trapAtIssue k (.translation reason w.write w.va) p.1 w.va p.2

def State.issueWalk (s : State) (k : Nat) (w : Walk) (v : Victims) : Option State :=
  let t := s.strand k
  let core := slotCore k
  match s.walkFor core t.func (w.va.toNat % 2 ^ 58) with
  | .ok x =>
    some ((s.fillTlbs core x v).setStrand k { t with walk := some { w with busy := false, waiting := none, got := x :: w.got } })
  | .held => none
  | .wait leaf =>
    if w.waiting.isSome then none
    else some (s.setStrand k { t with walk := some { w with waiting := some (s.waitFrom (coreDie core) t.func leaf) } })
  | .fail r => some (s.issueFails k w r)

/-- The walk that a slot and a number name: of entry `seq` of the replay queue, or for 16 and more the one that holds the
slot in issue. -/
def State.findWalk (s : State) (k seq : Nat) : Option (Option Entry × Walk) :=
  let t := s.strand k
  if !t.active then none
  else if seq < 16 then
    (t.queue[seq]?).bind fun e => match e.phase with
      | .walking w => some (some e, w)
      | _ => none
  else t.walk.bind fun w => if w.busy then some (none, w) else none

/-- A walk ends with what the tables say. -/
def State.endWalk (s : State) (k : Nat) (f : Option Entry × Walk) (v : Victims) : Option State :=
  match f with
  | (some e, w) => s.entryWalk k e w v
  | (none, w) => s.issueWalk k w v

/-- TRANSLATION_WALK_DONE (R175, R328). -/
def execTranslationWalkDone (slot seq : Nat) (victim : Victims) (s : State) : Host.Outcome State Fault Refusal :=
  event s (swept ((s.findWalk slot seq).bind fun f => if f.2.waiting.isSome then none else s.endWalk slot f victim))

/-- MIG_WALK_RETRY (R328): a walk that waits at a migrating page is tried again after 1,000 ns. -/
def execMigWalkRetry (slot seq : Nat) (s : State) : Host.Outcome State Fault Refusal :=
  event s (swept ((s.findWalk slot seq).bind fun f =>
    match f.2.waiting with
    | some t => if (s.now - t).toNat < 1000 then none else s.endWalk slot f ⟨0, 0, 0⟩
    | none => none))

/-- MIG_TIMEOUT (R328): a walk has waited for 1,000,000 ns. -/
def execMigTimeout (slot seq : Nat) (s : State) : Host.Outcome State Fault Refusal :=
  event s ((s.findWalk slot seq).bind fun f =>
    match f.2.waiting with
    | some t =>
      if (s.now - t).toNat < 1000000 then none
      else (match f with
        | (some e, w) => some (s.walkFails slot e w 6)
        | (none, w) => some (s.issueFails slot w 6))
    | none => none)

/-! Shootdowns (R328). -/

/-- The registers TLBINV and RINV: one write is in progress, up to 15 wait (R326). -/
def State.invWrite (s : State) (f : Nat) (w : InvWrite) : State :=
  let q := s.fn f
  if !q.busy then (s.setFn f { q with busy := true }).startShoot f w.entry w.image none true none
  else if 15 ≤ q.inv.length then s.error 5 1 0 f 1 0 w.image.toNat
  else s.setFn f { q with inv := q.inv ++ [w] }

/-- TLBINV (R326). -/
def execTlbinv (f : Nat) (value : Word) (s : State) : Host.Outcome State Fault Refusal :=
  event s (if 512 < f || s.boot.running.isNone then none else some (s.invWrite f ⟨false, value &&& 0x07FFFFFFFFFFC000⟩))
/-- RINV (R326). -/
def execRinv (f : Nat) (value : Word) (s : State) : Host.Outcome State Fault Refusal :=
  event s (if 512 < f || s.boot.running.isNone then none else some (s.invWrite f ⟨true, value &&& 0x1FF⟩))

/-- The shootdown names a translation. -/
def Shoot.drops (h : Shoot) (x : Xlat) : Bool := x.func == h.func && shootNames h.image x.va x.log

/-- The shootdown names the page of an address, of whatever size it is. -/
def Shoot.namesVa (h : Shoot) (func va : Nat) : Bool :=
  h.func == func && [14, 25, 36].any fun log => shootNames h.image (va % 2 ^ 58 / 2 ^ log) log

/-- Translations held for an instruction are let go, and its walk restarts: one that waits at a migrating page begins anew
(R328). -/
def Walk.cancel (h : Shoot) (func : Nat) (w : Walk) : Walk :=
  { w with got := w.got.filter fun x => !h.drops x, waiting := if h.namesVa func w.va.toNat then none else w.waiting }

def Strand.cancel (h : Shoot) (t : Strand) : Strand :=
  { t with
    walk := t.walk.map fun w => w.cancel h t.func
    queue := t.queue.map fun e => match e.phase with
      | .walking w => { e with phase := .walking (w.cancel h t.func) }
      | _ => e }

/-- A die drops the named translations from every TLB. -/
def State.dropXlats (s : State) (h : Shoot) (d : Nat) : State :=
  let keep := fun (l : List Xlat) => l.filter fun x => !h.drops x
  let x := s.die d
  { s with
    cores := s.cores.map fun e => if coreDie e.1 = d then (e.1, { e.2 with utlb := keep e.2.utlb }) else e
    clusters := s.clusters.map fun e => if clusDie e.1 = d then (e.1, { e.2 with tlb := keep e.2.tlb }) else e
    strands := s.strands.map fun e => if coreDie (slotCore e.1) = d then (e.1, e.2.cancel h) else e
    dies := s.dies.put d { x with tlb := keep x.tlb } }

/-- The shootdown names a page among those that an instruction translated at issue: a page of any size is named by each of
its addresses (R327, R328). -/
def Shoot.touches (h : Shoot) (func : Nat) (spots : List (Nat × Place)) : Bool :=
  spots.any fun q => func == h.func && shootNames h.image (q.1 / 2 ^ (q.2.log - 14)) q.2.log

/-- The function of a matrix context's setter. -/
def State.setterFunc (s : State) (m : MatCtx) : Nat :=
  match m.setter.bind fun q => s.ctxStrand q.2 with
  | some t => t.func
  | none => 0

/-- Buffers of the die that touch a named page are emitted, as issued by their setters (R328, R243). -/
def State.emitNamed (s : State) (h : Shoot) (d : Nat) : State :=
  (s.clusters.filter fun e => clusDie e.1 == d).foldl (fun s e =>
    (e.2.mats.map fun m => m.1).foldl (fun s i =>
      let core := 32 * e.1 + i
      let m := s.mat core
      let f := s.setterFunc m
      let hit := ((m.buf.map fun b => h.touches f b.spots).getD false) || ((m.emitting.map fun b => h.touches f b.spots).getD false)
      let q := m.setter.getD (5, 0)
      if hit then s.emit ⟨core, q.2, f, q.1⟩ else s) s) s

/-- A queued matrix request of the die has a named page. -/
def State.matNamed (s : State) (h : Shoot) (d : Nat) : Bool :=
  s.clusters.any fun e => clusDie e.1 == d && e.2.mats.any fun m =>
    m.2.reqs.any fun r => h.touches (s.setterFunc m.2) r.spots

/-- Accesses of the die that may have issued with a dropped translation: those of the function to the 64 GiB around the
page (log 18). -/
def State.liveNamed (s : State) (h : Shoot) (d : Nat) : List Nat :=
  (s.live.filter fun l => l.func == h.func && clusDie l.clus == d &&
    (h.image.getLsbD 58 || l.va.toNat % 2 ^ 58 / 2 ^ 36 == bits h.image.toNat 36 22)).map fun l => l.serial

/-- An engine operation or an exchange of the die pins a named page, a send until its record is written; the bases of an arm are pinned from the XARM until the
round that it stands for has ended, and in a later round again while the unit is not idle (R340). -/
def State.pinned (s : State) (h : Shoot) (d : Nat) : Bool :=
  let x := (s.die d).xu
  (s.engines.any fun e => clusDie e.clus == d && h.touches e.func e.spots) ||
    (x.sends.any fun e => (!e.reported || x.records.any fun r => r.kind == 6 && r.aux2 == e.dest) && h.touches e.func e.spots) ||
    ((x.armPins || x.state != .idle) && (match x.arm with
      | some a => h.touches a.func a.spots
      | none => false))

/-- Region entries of one core are loaded anew (R274, R330): none while a page has no translation. -/
def State.reloadRegions (s : State) (l : Launch) (die : Nat) (image : Word) (old : Tab (BitVec 128)) :
    Option (State × Tab (BitVec 128)) :=
  let n := (l.word 112).toNat
  let which := if image.getLsbD 8 then List.range n else (List.range n).filter fun i => i == bits image.toNat 0 8
  which.foldl (fun o i => o.bind fun (a : State × Tab (BitVec 128)) =>
    (a.1.readSys l.func ((l.word 104).toNat + 16 * i) 2).map fun r =>
      let e := (r.2[1]?).getD 0 ++ (r.2[0]?).getD 0
      if rgnBad e then (r.1.error 6 1 die l.func 1 (l.word 104).toNat i, a.2.del i)
      else if rgnV e then (r.1, a.2.put i e)
      else (r.1, a.2.del i)) (some (s, old))

/-- The cores of a die that run launches of the function load the entries anew, those of saved clusters too. -/
def State.reloadDie (s : State) (h : Shoot) (d : Nat) : Option State :=
  let held := s.clusters.filterMap fun e =>
    if clusDie e.1 = d && e.2.started then (e.2.holder.bind fun n => s.launches.find n).map fun l => (e.1, l) else none
  let s := (held.filter fun e => e.2.func == h.func).foldl (fun (o : Option State) e => o.bind fun s =>
    (s.reloadRegions e.2 d h.image ((s.core (32 * e.1)).regions)).map fun r =>
      (clusCores e.1).foldl (fun s c => s.setCore c { s.core c with regions := r.2 }) r.1) (some s)
  s.bind fun s => s.savedClusters.foldl (fun (o : Option State) v => o.bind fun s =>
    match s.launches.find v.launch with
    | some l =>
      if clusDie v.clus ≠ d || l.func != h.func then some s
      else (s.reloadRegions l d h.image ((v.cores.get (32 * v.clus) .reset).regions)).map fun r =>
        { r.1 with savedClusters := r.1.savedClusters.map fun o =>
            if o.clus == v.clus && o.launch == v.launch then
              { o with cores := o.cores.map fun c => (c.1, { c.2 with regions := r.2 }) }
            else o }
    | none => some s) (some s)

/-- Every die has acknowledged: whoever waits for the shootdown goes on (R326, R328). -/
def State.endShoot (s : State) (h : Shoot) : State :=
  let s := { s with shoots := s.shoots.filter fun o => o.id != h.id }
  let s := match h.ctx with
    | some c => s.onCtx c fun t => { t with wait := none }
    | none => s
  if !h.register then s
  else
    let q := s.fn h.func
    match q.inv with
    | [] => s.setFn h.func { q with busy := false }
    | w :: r => (s.setFn h.func { q with inv := r }).startShoot h.func w.entry w.image none true none

def State.setShoot (s : State) (h : Shoot) : State :=
  { s with shoots := s.shoots.map fun o => if o.id = h.id then h else o }

/-- A die has done its part. -/
def State.ackShoot (s : State) (h : Shoot) (d : Nat) : State :=
  let h := { h with acked := d :: h.acked }
  if (List.range 8).all fun e => h.acked.contains e then (s.setShoot h).endShoot h else s.setShoot h

/-- SHOOTDOWN_ACK (R328): the die drops, cancels and emits, and acknowledges once the accesses are performed and no
operation pins the page. -/
def State.shootAck (s : State) (i d : Nat) : Option State :=
  match s.shoots[i]? with
  | none => none
  | some h =>
    if 8 ≤ d || h.acked.contains d then none
    else if h.entry then (s.reloadDie h d).map fun s => s.ackShoot h d
    else match h.waits.find d with
      | none =>
        if s.matNamed h d then none
        else
          let s := (s.dropXlats h d).emitNamed h d
          let w := s.liveNamed h d
          let h := { h with waits := h.waits.put d w }
          let s := s.setShoot h
          some (if w.isEmpty && !s.pinned h d then s.ackShoot h d else s)
      | some w => if s.allDone false w && !s.pinned h d then some (s.ackShoot h d) else none

/-- SHOOTDOWN_ACK (R328). -/
def execShootdownAck (i die : Nat) (s : State) : Host.Outcome State Fault Refusal := event s (s.shootAck i die)

/-! Migration (R339 to R342). -/

/-- The lines of a frame. -/
def inFrame (old size line : Nat) : Bool := old ≤ 128 * line && 128 * line < old + size

/-- Step 4: every cached line of a frame goes home or is dropped. -/
def State.drainFrame (s : State) (old size : Nat) : State :=
  s.clusters.foldl (fun s e =>
    (e.2.lines.filter fun c => inFrame old size c.line).foldl (fun s c => s.evictLine (s.whoFor e.1) c.line) s) s

/-- The items of a frame that are queued anywhere. -/
def State.frameItems (s : State) (old size : Nat) : List Nat :=
  let of := fun (l : List Item) => (l.filter fun it => inFrame old size it.line).map fun it => it.serial
  (s.posting.flatMap fun e => of e.2) ++ (s.links.flatMap fun e => of e.2.queue) ++ (s.ingress.flatMap fun e => of e.2) ++
    (s.fabric.flatMap fun e => (e.2.queue.filter fun o => inFrame old size (o.pa / 128)).map fun o => o.serial)

/-- Step 5: back-invalidations are sent for the lines of a frame. -/
def State.invFrame (s : State) (old size : Nat) : State :=
  { s with slices := s.slices.map fun e => (e.1, { e.2 with
      sharers := e.2.sharers.map fun x => if inFrame old size x.1 then (x.1, x.2.1, some (x.2.2.getD s.now)) else x }) }

/-- No host link holds a line of the frame, and no write to one is held. -/
def State.frameClear (s : State) (old size : Nat) : Bool :=
  s.slices.all fun e => (e.2.sharers.all fun x => !inFrame old size x.1) && e.2.held.all fun it => !inFrame old size it.line

/-- Step 7: copies lines from one frame to another; a poisoned line stays poisoned, and the line of the new frame is poisoned
for the first time (R384). -/
def State.copyFrame (s : State) (die old new : Nat) : Nat → State
  | 0 => s
  | n + 1 =>
    let s := s.copyFrame die old new n
    let a := old / 128 + n
    let b := new / 128 + n
    let s := s.upToDate (128 * a)
    let bad := s.poison.contains a
    let s := s.claimLine b
    let s := s.mergeLine b (s.readLine a) (BitVec.allOnes 128)
    if bad then s.poisonLine b 1 die else s

/-- Steps 6 to 8. None while the ring has no room for the record. -/
def State.finishMigration (s : State) (die : Nat) (m : Migration) : Option State :=
  let leaf := m.leaf.toNat
  let keep := leaf - bits leaf 0 1 - bits leaf 56 1 * 2 ^ 56
  let done := fun (s : State) =>
    let d := s.die die
    s.setDie die { d with
      mig := d.mig.filter fun o => o.shoot != m.shoot
      fault := if m.command then { d.fault with migst := 0 } else d.fault }
  if m.new = 0 then some (done (s.writeSys m.leafPa keep 8))
  else if (s.die die).fault.full then none
  else
    let s := s.copyFrame die m.old m.new (m.size / 128)
    let s := s.writeSys m.leafPa (keep - bits leaf 14 38 * 2 ^ 14 + m.new + 1) 8
    let home := if paHost m.new then 0 else paDie m.new
    some (done (s.putFault die { kind := 4, home := home, func := m.func, va := m.page.toNat, pa := m.new, old := m.old }))

/-- MIGRATION_COMPLETE (R339): steps 3 to 5 begin once the shootdown is over, and steps 6 to 8 follow them. -/
def State.migrate (s : State) (die : Nat) : Option State :=
  (s.die die).mig.findSome? fun m =>
    if s.shoots.any fun h => h.migration == some m.shoot then none
    else
      let h : Shoot := ⟨0, m.func, false, m.page, [], [], none, false, none⟩
      match m.drain with
      | none =>
        if (List.range 8).any fun d => s.pinned h d then none
        else
          let s := (s.drainFrame m.old m.size).invFrame m.old m.size
          let w := s.frameItems m.old m.size
          let d := s.die die
          some (s.setDie die { d with mig := d.mig.map fun o => if o.shoot = m.shoot then { o with drain := some w } else o })
      | some w => if s.allDone false w && s.frameClear m.old m.size then s.finishMigration die m else none

/-- MIGRATION_COMPLETE (R339). -/
def execMigrationComplete (die : Nat) (s : State) : Host.Outcome State Fault Refusal := event s (s.migrate die)

/-! The fault unit's registers (R336, R337, R365); they are numbered from 32 on for records (log 29). -/

/-- MIGCMD (R337, R339). -/
def State.migcmd (s : State) (die : Nat) (value : Word) : State :=
  let d := s.die die
  let f := d.fault
  if f.migst.getLsbD 0 then s
  else
    let dst := f.migdst.toNat
    match s.startMigration die (bits dst 52 10) (bits value.toNat 14 44 * 2 ^ 14) (bits dst 14 38 * 2 ^ 14) true false with
    | .error r => s.setDie die { d with fault := { f with migst := BitVec.ofNat 64 (2 * r) } }
    | .ok s =>
      let d := s.die die
      s.setDie die { d with fault := { d.fault with migst := 1 } }

/-- MIGCMD (R339). -/
def execMigcmd (die : Nat) (value : Word) (who : BitVec 16) (s : State) : Host.Outcome State Fault Refusal :=
  event s (if 8 ≤ die then none else s.governed who (32 + 256 * die) (some (s.migcmd die value)))

/-- A fault that has come to the unit: it is dropped with its context; once the context is saved it joins a pending page,
or makes one where fewer than 256 are in use (R334). A page has the size that its leaf gives, and 16 KiB without one. -/
def State.takeFault (s : State) (die : Nat) (f : PageFault) : Option State :=
  let d := s.die die
  let rest := d.faultq.filter fun g => g.ctx != f.ctx
  let va := f.va.toNat % 2 ^ 58
  let log := match s.leafOf f.func va with
    | .ok (_, _, log) => log
    | .error _ => 14
  let same := fun (p : PendingPage) => p.fault.func == f.func &&
    (p.page == va / 2 ^ p.log || p.page * 2 ^ p.log / 2 ^ log == va / 2 ^ log)
  match s.savedOf f.ctx with
  | none => if (s.ctxStrand f.ctx).isNone then some (s.setDie die { d with faultq := rest }) else none
  | some v =>
    if !v.spilled then none
    else if d.pending.any same then
      some (s.setDie die { d with
        faultq := rest
        pending := d.pending.map fun p => if same p then { p with ctxs := p.ctxs ++ [f.ctx] } else p })
    else if 256 ≤ d.pending.length then none
    else some (s.setDie die { d with faultq := rest, pending := d.pending ++ [⟨f, va / 2 ^ log, log, none, [f.ctx]⟩] })

/-- The record of the first pending page that has none is written, with the contexts that wait now (R334, R335). -/
def State.recordFault (s : State) (die : Nat) : Option State :=
  let d := s.die die
  match d.pending.find? fun p => p.record.isNone with
  | none => none
  | some p =>
    if d.fault.full then none
    else
      let f := p.fault
      let s := s.putFault die { kind := f.kind, reason := f.reason, wr := f.write, home := f.home, func := f.func,
                                count := p.ctxs.length, va := f.va.toNat, pa := f.pa / 2 ^ p.log * 2 ^ p.log }
      some (s.setDie die { s.die die with
        pending := d.pending.map fun q => if q == p then { q with record := some (BitVec.ofNat 12 d.fault.frtail.toNat) } else q })

/-- PAGE_FAULT (R334): the first fault in arrival order that can be taken is taken, and a record that waits for room is
written; with EN = 0 faults wait (R337). -/
def State.pageFault (s : State) (die : Nat) : Option State :=
  let d := s.die die
  if !d.fault.en then none
  else match d.faultq.findSome? (s.takeFault die) with
    | some s => some ((s.recordFault die).getD s)
    | none => s.recordFault die

/-- PAGE_FAULT (R334). -/
def execPageFault (die : Nat) (s : State) : Host.Outcome State Fault Refusal :=
  event s (if 8 ≤ die then none else s.pageFault die)

/-- The pending page of a record, which a write of FRES ends (R336). -/
def State.pendingOf (s : State) (die : Nat) (record : BitVec 12) : Option PendingPage :=
  (s.die die).pending.find? fun p => p.record == some record

def State.endPending (s : State) (die : Nat) (record : BitVec 12) : State :=
  let d := s.die die
  s.setDie die { d with pending := d.pending.filter fun p => p.record != some record }

/-- The core that the activation of a resolved context goes to: a routine's own (R348), and else one that its launch runs
on. The manual does not say which (DESIGN CHOICE, log 39). -/
def State.resumeCore (s : State) (v : Saved) : Nat :=
  let c := Config.resumeCore v.ctx % 65536
  if slotIdx v.slot ≠ 4 ∧ v.shell.launch.isSome ∧ s.running (coreClus c) = v.shell.launch then c else slotCore v.slot

/-- A waiting context gets its type-0x07 activation (R336). -/
def State.resolved (s : State) (ctx : Nat) : State :=
  match s.savedOf ctx with
  | none => s
  | some v =>
    s.sendAct { type := 7, sender := slotCore v.slot, target := s.resumeCore v, wid := v.shell.wid, words := if slotIdx v.slot = 4 then [4] else [],
                payload := 0, hdr := 0, prio := v.shell.prio, launch := v.shell.launch, frame := none, saved := some ctx,
                reply := none, origin := ctx, order := 0 }

/-- FRES with RETRY (R336). -/
def execFresRetry (die : Nat) (record : BitVec 12) (who : BitVec 16) (s : State) : Host.Outcome State Fault Refusal :=
  event s (if 8 ≤ die then none else s.governed who (33 + 256 * die) (some (match s.pendingOf die record with
    | none => s
    | some p => p.ctxs.foldl (fun s c => s.resolved c) (s.endPending die record))))

/-- FRES with KILL (R336): every launch with a waiting context ends with FAULT. -/
def execFresKill (die : Nat) (record : BitVec 12) (who : BitVec 16) (s : State) : Host.Outcome State Fault Refusal :=
  event s (if 8 ≤ die then none else s.governed who (33 + 256 * die) (some (match s.pendingOf die record with
    | none => s
    | some p => p.ctxs.foldl (fun s c => match s.savedOf c with
      | some v => s.endLaunch v.shell.launch 7
      | none => s) (s.endPending die record))))

/-- FAULT_RING_HEAD_WRITE (R334, R337): a write of FRHEAD. -/
def execFaultRingHeadWrite (die : Nat) (value : Word) (who : BitVec 16) (s : State) : Host.Outcome State Fault Refusal :=
  let d := s.die die
  event s (if 8 ≤ die then none else s.governed who (34 + 256 * die)
    (some (s.setDie die { d with fault := { d.fault with frhead := BitVec.ofNat 32 value.toNat } })))

/-- FAULT_UNIT_ENABLE (R334, R337): a write of FRCTL; CNTTH 0 stores 1. -/
def execFaultUnitEnable (die : Nat) (value : Word) (who : BitVec 16) (s : State) : Host.Outcome State Fault Refusal :=
  let d := s.die die
  let v := value &&& 0xFFFF0003
  let v := if bits v.toNat 16 16 = 0 then v ||| 0x10000 else v
  event s (if 8 ≤ die then none else s.governed who (35 + 256 * die) (some (s.setDie die { d with fault := { d.fault with frctl := v } })))

end Sys2Proof.Machine
end

