-- ==== Sys2Proof/Machine/Fleet.lean ====
section
/-! DEFINITION. Ownership, secure start, partitions, reliability and power, and the registers whose write has no behaviour
of its own (spec/23_host.md R363 to R368, spec/25_fleet.md R378 to R388; log 14, log 29, log 31, log 32). -/

namespace Sys2Proof.Machine

/-! Ownership (R363 to R365). -/

/-- The lease of 100 ms, in ns. -/
def leaseTime : BitVec 32 := 100000000

/-- The master ID behind a CLAIM: over MCTP the sender's EID, channel n being EID n - 1; on channel 0, the PF BAR, the
one in the value (R363). -/
def claimSelf (value : Word) (channel : Nat) : BitVec 16 :=
  if channel = 0 then value.extractLsb' 32 16 else BitVec.ofNat 16 (0x0100 + (channel - 1))

/-- The management unit after a CLAIM, or none where it has no effect (R364). SELF 0 is no master. -/
def Mgmt.claim (m : Mgmt) (value : Word) (channel : Nat) : Option Mgmt :=
  let self := claimSelf value channel
  let expect := value.extractLsb' 0 16
  let heir := value.extractLsb' 16 16
  if self = 0 ∨ expect ≠ m.owner ∨ value.extractLsb' 48 16 ≠ m.gen.extractLsb' 0 16 then none
  else if m.owner = 0 then
    (if heir = self then some { m with owner := self, gen := m.gen + 1, lease := leaseTime } else none)
  else if self ≠ m.owner then none
  else if heir = self then some { m with lease := leaseTime }
  else if heir = 0 then some { m with owner := 0, gen := m.gen + 1, lease := 0 }
  else some { m with owner := heir, gen := m.gen + 1, lease := leaseTime }

/-- CLAIM (R364): CLAIMST of the interface says DONE, and OK where the write took effect. A lease that has run out
leaves no owner to it. -/
def execClaim (value : Word) (channel : Nat) (s : State) : Host.Outcome State Fault Refusal :=
  event s (let s := s.expireLease
    if 256 < channel || s.boot.running.isNone then none
    else match s.mgmt.claim value channel with
      | some m => some { s with mgmt := { m with claimst := m.claimst.put channel 3 } }
      | none => some { s with mgmt := { s.mgmt with claimst := s.mgmt.claimst.put channel 1 } })

/-- LEASE_EXPIRY (R364): the lease has reached 0. -/
def execLeaseExpiry (s : State) : Host.Outcome State Fault Refusal :=
  event s (if s.mgmt.owner = 0 || s.mgmt.lease ≠ 0 then none else some s.expireLease)

/-! Secure start (R366 to R368; log 14). -/

/-- The bytes of a digest. -/
def digest (m : List Byte) : List Byte := bytesBE (sha256 m).toNat 32

/-- Step 1: the image's key is the ROM's, and its signature is good. -/
def imageGood (i : Image) : Bool :=
  sha256 i.key == Config.romKeyHash &&
    Config.lmsVerifies i.key i.signature (digest (Config.imageBytes i.stages i.version i.configKeyHash))

/-- The bytes of a record. -/
def recordBytes (r : ConfigRecord) : List Byte := Config.recordBytes r.bytes r.minVersion r.sequence

/-- A copy of the record is valid under a configuration key given by its hash (R368). -/
def recordGood (hash : BitVec 256) (r : ConfigRecord) : Bool :=
  sha256 r.key == hash && Config.lmsVerifies r.key r.signature (recordBytes r)

/-- The valid copy with the higher sequence number; `true` says that it is copy A (R368). -/
def Boot.select (b : Boot) (hash : BitVec 256) : Option (ConfigRecord × Bool) :=
  let good := fun (o : Option ConfigRecord) => o.filter fun r => recordGood hash r
  match good b.copyA, good b.copyB with
  | some r, some q => if q.sequence ≤ r.sequence then some (r, true) else some (q, false)
  | some r, none => some (r, true)
  | none, some q => some (q, false)
  | none, none => none

/-- Steps 1 to 3 for one slot. -/
def Boot.candidate (b : Boot) (slot : Option Image) : Option (Image × ConfigRecord) :=
  slot.bind fun i =>
    if !imageGood i then none
    else (b.select i.configKeyHash).bind fun r => if i.version < r.1.minVersion then none else some (i, r.1)

/-- Step 5: MRk is extended with stage k. -/
def measure (stages : List (List Byte)) : List (BitVec 256) :=
  (List.range 8).map fun k =>
    match stages[k]? with
    | some st => sha256 (bytesBE 0 32 ++ digest st)
    | none => 0

/-- PWRCFG as a write stores it (R388). -/
def pwrcfgStored (v : Word) : Word :=
  let plim := max 1000 (min 3600 (bits v.toNat 0 12))
  let fmax := max 1000 (min 1600 (bits v.toNat 12 11 / 25 * 25))
  BitVec.ofNat 64 (plim + fmax * 2 ^ 12)

/-- CECFG as a write stores it (R385). -/
def cecfgStored (v : Word) : Word :=
  let win := min 86400 (max 1 (bits v.toNat 0 17))
  BitVec.ofNat 64 (win + max 2 (bits v.toNat 17 8) * 2 ^ 17)

/-- FUNC as PART stores it (R378). -/
def funcStored (v : Word) : BitVec 10 := if 513 ≤ bits v.toNat 0 10 then 0 else v.extractLsb' 0 10

def Governor.fmax (g : Governor) : Nat := bits g.cfg.toNat 12 11
def Governor.plim (g : Governor) : Nat := bits g.cfg.toNat 0 12

/-- A write of PWRCFG: the clock does not exceed FMAX. -/
def Governor.config (g : Governor) (v : Word) : Governor :=
  let g := { g with cfg := pwrcfgStored v }
  { g with freq := BitVec.ofNat 11 (min g.freq.toNat g.fmax) }

/-- Step 6: the record's defaults of the management registers (R368): ERBASE, ERCTL, CECFG, PWRCFG and PART[k] are
numbers 0, 1, 2, 3 and 4 + k, and number 68 stands for its link settings. -/
def State.applyRecord (s : State) (r : ConfigRecord) : State :=
  let v := Config.recordDefault r.bytes
  let part := fun (k : Nat) => (k, { s.part k with func := funcStored (v (4 + k)), en := (v (4 + k)).getLsbD 10 })
  { s with
    er := { s.er with base := v 0 &&& 0xFFFFFFFFFFFC0, ctl := v 1 &&& 0x7F }
    ras := { s.ras with cecfg := cecfgStored (v 2) }
    power := s.power.config (v 3)
    boot := { s.boot with linkCfg := v 68 }
    parts := (List.range 64).map part }

/-- SECURE_BOOT (R366), once after every reset: slot A and then slot B; with neither the device stays in recovery. -/
def execSecureBoot (s : State) : Host.Outcome State Fault Refusal :=
  let b := s.boot
  event s (if b.running.isSome || b.recovery then none
    else match (b.candidate b.slotA).or (b.candidate b.slotB) with
      | none => some { s with boot := { b with recovery := true } }
      | some (i, r) =>
        some (State.applyRecord { s with boot := { b with running := some i, record := some r, mrs := measure i.stages } } r))

/-- RECOVERY_IMAGE_WRITE (R366): in recovery, an image that passes step 1 is written; another is not. -/
def execRecoveryImageWrite (slotB : Bool) (image : Image) (s : State) : Host.Outcome State Fault Refusal :=
  let b := s.boot
  event s (if !b.recovery then none
    else if !imageGood image then some s
    else if slotB then some { s with boot := { b with slotB := some image } }
    else some { s with boot := { b with slotA := some image } })

/-- What a report holds, and its signature (R367). -/
def Boot.report (b : Boot) (nonce : BitVec 256) (r : ConfigRecord) : List Byte :=
  let m := bytesBE nonce.toNat 32 ++ b.mrs.flatMap (fun x => bytesBE x.toNat 32) ++ digest (recordBytes r) ++
    Config.serialNumber ++ bytesBE b.leaf 4
  m ++ Config.lmsSign b.leaf m

/-- ATTESTATION_REPORT (R367): the leaf index is advanced with the report; after the last leaf the request is refused with
KEY_EXHAUSTED, which an empty report stands for. -/
def execAttestationReport (nonce : BitVec 256) (s : State) : Host.Outcome State Fault Refusal :=
  let b := s.boot
  event s (match b.record with
    | none => none
    | some r =>
      if b.recovery then none
      else if 1048576 ≤ b.leaf then some { s with boot := { b with reports := b.reports ++ [[]] } }
      else some { s with boot := { b with leaf := b.leaf + 1, reports := b.reports ++ [b.report nonce r] } })

/-- CONFIG_RECORD_REPLACE (R368): a record of the owner that verifies is written over the older copy. -/
def execConfigRecordReplace (record : ConfigRecord) (who : BitVec 16) (s : State) : Host.Outcome State Fault Refusal :=
  let b := s.boot
  event s (match b.running with
    | none => none
    | some i =>
      if b.recovery then none
      else if !s.owns who || !recordGood i.configKeyHash record then some s
      else match b.select i.configKeyHash with
        | some (_, true) => some { s with boot := { b with copyB := some record } }
        | _ => some { s with boot := { b with copyA := some record } })

/-! Partitions (R378, R379; log 31). -/

/-- PART_WRITE (R379): a change waits; a second one replaces it, and SCRUB is ORed. -/
def Part.write (p : Part) (v : Word) : Part :=
  let f := funcStored v
  let en := v.getLsbD 10
  if p.busy then { p with next := some (f, en), scrub := p.scrub || v.getLsbD 11 }
  else if f = p.func ∧ en = p.en then p
  else { p with busy := true, next := some (f, en), scrub := v.getLsbD 11, drain := none }

/-- PART_WRITE (R365, R379). -/
def execPartWrite (k : BitVec 6) (value : Word) (who : BitVec 16) (s : State) : Host.Outcome State Fault Refusal :=
  event s (s.governed who (4096 + k.toNat) (some (s.setPart k.toNat ((s.part k.toNat).write value))))

/-- Where the memory of a partition begins, and its size (R378). -/
def partBase (k : Nat) : Nat := k / 8 * 2 ^ 37 + 16000000000 * (k % 8)
def partSize : Nat := 16000000000

/-- A launch holds a cluster of the partition, or has one saved. -/
def State.partHeld (s : State) (k : Nat) : Bool :=
  (s.clusters.any fun e => e.1 / 32 == k && e.2.holder.isSome) || s.savedClusters.any fun v => v.clus / 32 == k

/-- Zeros are written to the partition's memory through the home slices, which ends poison, and to its clusters' SRAM. -/
def State.scrub (s : State) (k : Nat) : State :=
  let lo := partBase k
  let inside := fun (a : Nat) => lo ≤ a && a < lo + partSize
  { s with
    mem := s.mem.filter fun c => !inside c.1
    poison := s.poison.filter fun l => !inside (128 * l)
    clusters := s.clusters.map fun e =>
      if e.1 / 32 = k then
        (e.1, { e.2 with
          sram := []
          badSram := []
          fifos := e.2.fifos.map fun f => (f.1, { f.2 with entries := f.2.entries.map fun _ => 0, bad := f.2.bad.map fun _ => 0 })
          lines := e.2.lines.map fun c => { c with data := 0 } })
      else e }

/-- The pending change takes effect. -/
def State.assign (s : State) (k : Nat) (f : BitVec 10) (en : Bool) : State :=
  s.setPart k { s.part k with func := f, en := en, busy := false, next := none, scrub := false, drain := none }

/-- PARTITION_CHANGE (R379): once no launch holds a cluster of the partition, and after the drain and the zeros of a
scrub. -/
def State.partChange (s : State) (k : Nat) : Option State :=
  let p := s.part k
  match p.next with
  | none => none
  | some (f, en) =>
    if s.partHeld k then none
    else if !p.scrub then some (s.assign k f en)
    else match p.drain with
      | none =>
        let s := (s.drainFrame (partBase k) partSize).invFrame (partBase k) partSize
        some (s.setPart k { p with drain := some (s.frameItems (partBase k) partSize) })
      | some w => if s.allDone false w && s.frameClear (partBase k) partSize then some ((s.scrub k).assign k f en) else none

/-- PARTITION_CHANGE (R379). -/
def execPartitionChange (k : BitVec 6) (s : State) : Host.Outcome State Fault Refusal := event s (s.partChange k.toNat)

/-! Links that lose lanes or go down (R343, R386, R387; log 32). -/

/-- The other direction of a die link; every other link is its own. -/
def linkBack (l : Nat) : Nat := if l < 64 then linkKey (l % 8) (l / 8) else l

/-- A die link, a host link or a Tuzel port. -/
def linkExists (l : Nat) : Bool := if l < 64 then (neighbours (l / 8)).contains (l % 8) else l < 84

def linkLanes (l : Nat) : Nat := if l < 64 then Config.dieLinkLanes else if l < 66 then 16 else 8

def linkDie (l : Nat) : Nat := if l < 64 then l / 8 else 0

/-- One direction goes down: what is queued there is lost. -/
def State.dropLink (s : State) (l : Nat) : State :=
  let k := s.link l
  let s := s.setLink l { k with queue := [], state := .down }
  k.queue.foldl (fun s it => s.lose it l) s

/-- Messages whose way passes a link are lost. -/
def State.dropTransit (s : State) (l : Nat) : State :=
  let hit := fun (m : Activation) => m.path.contains l
  (s.transit.filter hit).foldl (fun s m => s.loseMsg m l) { s with transit := s.transit.filter fun m => !hit m }

/-- A Tuzel port is down: the pairs of running phases that use it end as at a link failure (R261). -/
def State.losePort (s : State) (l : Nat) : State :=
  (List.range 512).foldl (fun s i =>
    let d := i / 64
    let e := i % 64
    if (s.dieOf e).isSome || tuzelLink d e ≠ l then s
    else
      let sent := match (s.xu d).sendTo e with
        | some x => x.sent
        | none => 0
      (s.linkFailure d e sent).getD s) s

/-- A link is declared down (R387): the record, and operations on it end as R343 gives. -/
def State.loseLink (s : State) (l : Nat) : State :=
  let s := s.error 24 3 (linkDie l) 0 1 0 l
  if l < 64 then
    ((((s.dropLink l).dropLink (linkBack l)).dropTransit l).dropTransit (linkBack l)).sweep
  else if l < 66 then (s.setLink l { s.link l with state := .down }).declareDown (l - 64)
  else (s.setLink l { s.link l with state := .down }).losePort l

/-- LINK_DOWN (R387): a die link or a Tuzel port. -/
def execLinkDown (link : Nat) (s : State) : Host.Outcome State Fault Refusal :=
  event s (if !linkExists link || link == 64 || link == 65 || (s.link link).state == .down then none else some (s.loseLink link))

/-- The resource whose action is in progress on a link: the first one. A lane's address is 32 x link + lane. -/
def Ras.laneOf (r : Ras) (l : Nat) : Option Tracked :=
  r.tracked.find? fun t => t.acting && (t.kind == .dieLane || t.kind == .tuzelLane || t.kind == .hostLane) &&
    (t.address / 32 == l || t.address / 32 == linkBack l)

def sameRes (a b : Tracked) : Bool := a.kind == b.kind && a.die == b.die && a.address == b.address

/-- An action ends: the resource is as new. -/
def Ras.done (r : Ras) (t : Tracked) : Ras := { r with tracked := r.tracked.filter fun o => !sameRes o t }

/-- A direction of a link loses a lane, and comes up again where no other lane is being retired. -/
def State.loseLane (s : State) (l : Nat) (last : Bool) : State :=
  let k := s.link l
  s.setLink l { k with lost := k.lost + 1, state := if last && k.state = .retraining then .up else k.state }

/-- LANE_RETIRE (R386, R387): the link has retrained without the lane. -/
def State.laneRetire (s : State) (l : Nat) : Option State :=
  match s.ras.laneOf l with
  | none => none
  | some t =>
    let ras := s.ras.done t
    let s := { s with ras := ras }
    let last := (ras.laneOf l).isNone
    let s := if l < 64 then (s.loseLane l last).loseLane (linkBack l) last else s.loseLane l last
    let left := linkLanes l - (s.link l).lost
    let s := s.error 21 1 (linkDie l) 0 1 l left
    some (if 2 * left < linkLanes l && (s.link l).state ≠ .down then s.loseLink l else s)

/-- LANE_RETIRE (R387). -/
def execLaneRetire (link : Nat) (s : State) : Host.Outcome State Fault Refusal := event s (s.laneRetire link)

/-! Correctable errors (R385, R386). -/

def Resource.code : Resource → Nat
  | .hbmRow => 0 | .l2Row => 1 | .sramRow => 2 | .dieLane => 3 | .tuzelLane => 4 | .hostLane => 5

/-- The kind of a lane's link. -/
def laneLink (k : Resource) (l : Nat) : Bool :=
  match k with
  | .dieLane => l < 64 && linkExists l
  | .hostLane => l == 64 || l == 65
  | .tuzelLane => 66 ≤ l && l < 84
  | _ => true

/-- Spare rows of a bank or array (R386). -/
def spareRows : Resource → Nat
  | .hbmRow => 8
  | _ => 4

def spareKey (t : Tracked) : Nat := Resource.code t.kind + 8 * (t.die + 8 * Config.spareGroup (Resource.code t.kind) t.die t.address)

def Ras.left (r : Ras) (t : Tracked) : Nat := spareRows t.kind - r.spares.get (spareKey t) 0

/-- A link retrains (R386, R387). -/
def State.retrain (s : State) (l : Nat) : State :=
  let one := fun (s : State) (l : Nat) =>
    let k := s.link l
    if k.state = .up then s.setLink l { k with state := .retraining } else s
  if l < 64 then one (one s l) (linkBack l) else one s l

/-- What follows a lasting fault (R386). -/
def State.act (s : State) (t : Tracked) : State :=
  let begin := fun (s : State) => { s with ras := { s.ras with tracked := { t with times := [], acting := true } :: (s.ras.done t).tracked } }
  let clear := fun (s : State) => { s with ras := s.ras.done t }
  match t.kind with
  | .dieLane | .tuzelLane | .hostLane => (begin s).retrain (t.address / 32)
  | k =>
    if s.ras.left t = 0 then
      let s := (clear s).error 22 2 t.die 0 1 t.address 0
      if k = .hbmRow then (Config.rowFrames t.address).foldl (fun s f => s.error 20 1 t.die 0 1 f 0) s else s
    else
      let s := begin s
      { s with ras := { s.ras with spares := s.ras.spares.put (spareKey t) (s.ras.spares.get (spareKey t) 0 + 1) } }

def Ras.cewin (r : Ras) : Nat := bits r.cecfg.toNat 0 17
def Ras.cethr (r : Ras) : Nat := bits r.cecfg.toNat 17 8

/-- The table of a die after its resource is charged: at most 4,096 resources, the most recently charged first. -/
def Ras.charge (r : Ras) (t : Tracked) : Ras :=
  let rest := (r.done t).tracked
  let mine := rest.filter fun o => o.die == t.die && !o.acting
  let gone := if mine.length < 4096 then none else mine.getLast?
  { r with tracked := t :: (match gone with
    | some g => rest.filter fun o => !sameRes o g
    | none => rest) }

/-- CORRECTABLE_ERROR (R385). -/
def State.correctable (s : State) (kind : Resource) (die address : Nat) : Option State :=
  if 8 ≤ die || !laneLink kind (address / 32) then none
  else
    let new : Tracked := ⟨kind, die, address, [], false⟩
    let old := (s.ras.tracked.find? fun t => sameRes t new).getD new
    if old.acting then some s
    else
      let now := (s.die die).ptc
      let times := (now :: old.times).take s.ras.cethr
      let count := (times.filter fun t => (now - t).toNat < s.ras.cewin * 1000000000).length
      let t : Tracked := { old with times := times }
      if count < s.ras.cethr then some { s with ras := s.ras.charge t }
      else some ((s.error 18 1 die 0 count address (Config.resourceCode (Resource.code kind))).act t)

/-- CORRECTABLE_ERROR (R385). -/
def execCorrectableError (kind : Resource) (die address : Nat) (s : State) : Host.Outcome State Fault Refusal :=
  event s (s.correctable kind die address)

/-- ROW_REMAP (R386): the copy to the spare is complete, and what waited for the row goes on. -/
def execRowRemap (i : Nat) (s : State) : Host.Outcome State Fault Refusal :=
  event s ((s.ras.tracked[i]?).bind fun t =>
    if !t.acting || t.kind == .dieLane || t.kind == .tuzelLane || t.kind == .hostLane then none
    else some ({ s with ras := s.ras.done t }.error 19 1 t.die 0 1 t.address (s.ras.left t)).sweep)

/-! Power (R388). -/

/-- GOVERNOR_TICK (R388): the governor after a tick, and the duty where it was cut. -/
def Governor.tick (g : Governor) (power : BitVec 12) (temp : BitVec 10) (now : Word) : Governor × Option Nat :=
  let slow := if g.freq = 1000 then g.floorTicks + 1 else 0
  let g := { g with power := power, temp := temp, tickAt := now, floorTicks := slow }
  if g.plim < power.toNat then
    if 1000 < g.freq.toNat then ({ g with freq := g.freq - 25 }, none)
    else if 50 ≤ slow ∧ 8 < g.duty.toNat then ({ g with duty := g.duty - 1 }, some (g.duty.toNat - 1))
    else (g, none)
  else if 100 * power.toNat < 97 * g.plim then
    if g.duty.toNat < 16 then ({ g with duty := g.duty + 1 }, none)
    else ({ g with freq := BitVec.ofNat 11 (min (g.freq.toNat + 25) g.fmax) }, none)
  else (g, none)

/-- GOVERNOR_TICK (R388): every 20 µs of PTC. -/
def execGovernorTick (power : BitVec 12) (temp : BitVec 10) (s : State) : Host.Outcome State Fault Refusal :=
  event s (if (s.now - s.power.tickAt).toNat < 20000 then none
    else
      let r := s.power.tick power temp s.now
      let s := { s with power := r.1 }
      some (match r.2 with
        | some duty => s.error 23 1 0 0 1 0 duty
        | none => s))

/-! Registers without behaviour of their own (R5, R315, R321, R326, R337, R345, R353, R365, R382, R385, R388). -/

/-- A governed register's number for a NOT_OWNER record (log 29); none for a register that is not governed (R365). -/
def regNumber : PlainReg → Option Nat
  | .frctl d => some (35 + 256 * d)
  | .sflctl d => some (17 + 256 * d)
  | .ageq => some 48 | .quant => some 49 | .pdelta => some 50 | .tdir => some 51 | .tdirn => some 52
  | .frbase d => some (53 + 256 * d) | .fflbase d => some (54 + 256 * d) | .fflctl d => some (55 + 256 * d)
  | .fflput d => some (56 + 256 * d) | .migdst d => some (57 + 256 * d) | .sflbase d => some (58 + 256 * d)
  | .erbase => some 59 | .erctl => some 60 | .erhead => some 61 | .erstat => some 62 | .cecfg => some 63 | .pwrcfg => some 64
  | .frtail d => some (65 + 256 * d) | .fflget d => some (66 + 256 * d) | .migst d => some (67 + 256 * d)
  | .sflcnt d => some (68 + 256 * d) | .ertail => some 69 | .erdrop => some 70 | .pwrst => some 71
  | .qbase _ | .qctl _ | .crbase _ | .maxprio _ | .ptroot _ | .trapvec _ | .trapcfg _ | .vfEnable _ => none

/-- The register is there: functions 0 to 512, dies 0 to 7. -/
def regExists : PlainReg → Bool
  | .qbase f | .qctl f | .crbase f | .maxprio f | .ptroot f | .trapvec f | .trapcfg f => f ≤ 512
  | .vfEnable f => 1 ≤ f && f ≤ 512
  | .frbase d | .frctl d | .fflbase d | .fflctl d | .fflput d | .migdst d | .sflbase d | .sflctl d => d < 8
  | .frtail d | .fflget d | .migst d | .sflcnt d => d < 8
  | _ => true

/-- The function in whose BAR a register stands (R315, R326, R345); none for a register of the PF alone. -/
def regFn : PlainReg → Option Nat
  | .qbase f | .qctl f | .crbase f | .maxprio f | .ptroot f | .trapvec f | .trapcfg f => some f
  | _ => none

/-- A function reaches a register: the PF every one, a VF those of its own BAR (R315, R381). -/
def regReached (fn : Nat) (r : PlainReg) : Bool := fn == 0 || regFn r == some fn

/-- The bits of a register that a write stores. -/
def regMask : PlainReg → Word
  | .qbase _ => 0x03FFFFFFFFFFFFFF
  | .qctl _ => 0x1F
  | .crbase _ => 0x3FFFFFFFFFFFFFFF
  | .maxprio _ | .pdelta => 0xFF
  | .ageq | .quant | .fflput _ | .erhead => 0xFFFFFFFF
  | .tdir | .trapvec _ => 0x03FFFFFFFFFFFFF8
  | .tdirn => 0xFFFFFF
  | .ptroot _ => 0x000FFFFFFFFFC001
  | .trapcfg _ => 0xFFF
  | .vfEnable _ | .erstat => 1
  | .frbase _ => 0x000FFFFFFFFE0000
  | .frctl _ => 0xFFFF0003
  | .fflbase _ | .sflbase _ => 0x000FFFFFFFFFFFF8
  | .fflctl _ => 0xF
  | .migdst _ => 0x3FFFFFFFFFFFC000
  | .sflctl _ => 0xFFFF001F
  | .erbase => 0x000FFFFFFFFFFFC0
  | .erctl => 0x7F
  | .cecfg => 0x1FFFFFF
  | .pwrcfg => 0x7FFFFF
  | .frtail _ | .fflget _ | .migst _ | .sflcnt _ | .ertail | .erdrop | .pwrst => 0

/-- Stores a value of which the mask is taken already; a read-only register ignores it (R5). -/
def State.writeReg (s : State) (r : PlainReg) (v : Word) : State :=
  let fr := fun (d : Nat) (g : FaultRegs → FaultRegs) => s.setDie d { s.die d with fault := g (s.die d).fault }
  let sf := fun (d : Nat) (g : SaveRegs → SaveRegs) =>
    (s.setDie d { s.die d with save := g (s.die d).save }).lowCheck d (s.die d).save.isLow
  let fn := fun (f : Nat) (g : Fn → Fn) => s.setFn f (g (s.fn f))
  match r with
  | .qbase f => fn f fun q => { q with qbase := v }
  | .qctl f => (fn f fun q => { q with qctl := if s.fnOn f then v else v &&& 0xF }).overrun f
  | .crbase f => fn f fun q => { q with crbase := v, crw := 0 }
  | .maxprio f => fn f fun q => { q with maxprio := v.extractLsb' 0 8 }
  | .ptroot f => fn f fun q => { q with ptroot := v }
  | .trapvec f => fn f fun q => { q with trapvec := v }
  | .trapcfg f => fn f fun q => { q with trapcfg := v }
  | .vfEnable f => fn f fun q => { q with enabled := v.getLsbD 0, qctl := if v.getLsbD 0 then q.qctl else q.qctl &&& 0xF }
  | .ageq => { s with pf := { s.pf with ageq := v.extractLsb' 0 32 } }
  | .quant => { s with pf := { s.pf with quant := v.extractLsb' 0 32 } }
  | .pdelta => { s with pf := { s.pf with pdelta := v.extractLsb' 0 8 } }
  | .tdir => { s with pf := { s.pf with tdir := v } }
  | .tdirn => { s with pf := { s.pf with tdirn := v.extractLsb' 0 24 } }
  | .frbase d => fr d fun x => { x with frbase := v }
  | .frctl d => fr d fun x => { x with frctl := if bits v.toNat 16 16 = 0 then v ||| 0x10000 else v }
  | .fflbase d => fr d fun x => { x with fflbase := v }
  | .fflctl d => fr d fun x => { x with fflctl := v }
  | .fflput d => fr d fun x => { x with fflput := v.extractLsb' 0 32 }
  | .migdst d => fr d fun x => { x with migdst := v }
  | .sflbase d => sf d fun x => { x with sflbase := v }
  | .sflctl d => sf d fun x => { x with sflctl := v }
  | .erbase => { s with er := { s.er with base := v } }
  | .erctl => { s with er := { s.er with ctl := v } }
  | .erhead => { s with er := { s.er with head := v.extractLsb' 0 32 } }
  | .erstat => { s with er := { s.er with exh := s.er.exh && !v.getLsbD 0 } }
  | .cecfg => { s with ras := { s.ras with cecfg := cecfgStored v } }
  | .pwrcfg => { s with power := s.power.config v }
  | .frtail _ | .fflget _ | .migst _ | .sflcnt _ | .ertail | .erdrop | .pwrst => s

/-- A write of a register by a function that reaches it: MAXPRIO is read-only to a VF (R315), and a governed register is
the owner's (R365). -/
def State.registerWrite (s : State) (fn : Nat) (reg : PlainReg) (value : Word) (who : BitVec 16) : Option State :=
  let s' := s.writeReg reg (value &&& regMask reg)
  match regNumber reg with
  | some n => s.governed who n (some s')
  | none =>
    match reg with
    | .maxprio _ => some (if fn = 0 then s' else s)
    | _ => some s'

/-- REGISTER_WRITE (R5, R365): a write through the BAR of a function; in recovery no register answers (R366). -/
def execRegisterWrite (reg : BarReg) (value : Word) (who : BitVec 16) (s : State) : Host.Outcome State Fault Refusal :=
  event s (if !regExists reg.reg || !regReached reg.fn reg.reg || s.boot.running.isNone then none
    else s.registerWrite reg.fn reg.reg value who)

end Sys2Proof.Machine
end

