-- ==== Sys2Proof/Machine/Matrix.lean ====
section
/-! DEFINITION. The matrix unit: MFMT, MMA, MMAT, ACCZ, ACCRD, ACCCVT, MSTAT, serving requests and emission
(spec/11_isa_matrix.md R233 to R251, spec/04_numbers.md R101 to R106, R110). -/

namespace Sys2Proof.Machine

/-! Formats (R235). -/

/-- A format code as an element type; FP64s and FP32s are the codes 0 and 1. -/
def matElem (c : Nat) : Option Elem :=
  match c with
  | 0 => some .f64 | 1 => some .f32 | 2 => some .bf16 | 3 => some .f16 | 4 => some .e5m2 | 5 => some .e4m3
  | 6 => some .e3m2 | 7 => some .e2m3 | 8 => some .e2m1 | 9 => some .t8 | 10 => some .t6 | 11 => some .s8
  | 12 => some .n8 | 13 => some .s4 | _ => none

/-- The class of a format: FP64s 0, FP32s 1, 16-bit 2, 8-bit 3, 6/4-bit 4, illegal 5. -/
def matClass (c : Nat) : Nat :=
  match c with
  | 0 => 0 | 1 => 1 | 2 | 3 => 2 | 4 | 5 | 9 | 11 | 12 => 3 | 6 | 7 | 8 | 10 | 13 => 4 | _ => 5

/-- The tile depth K. -/
def matDepth (c : Nat) : Nat :=
  match matClass c with
  | 3 => 32 | 4 => 64 | _ => 16

def matBits (c : Nat) : Nat := ((matElem c).map Elem.bits).getD 8

/-- Bytes of a row of A or a column of B, packed by R90. -/
def matRow (c : Nat) : Nat := matDepth c * matBits c / 8

def isIntFmt (c : Nat) : Bool := 11 ≤ c && c ≤ 13

/-! Descriptor fields (R234). -/

def MatCtx.af (m : MatCtx) : Nat := bits m.descA.toNat 0 4
def MatCtx.bf (m : MatCtx) : Nat := bits m.descA.toNat 4 4
def MatCtx.asf (m : MatCtx) : Nat := bits m.descA.toNat 10 2
def MatCtx.bsf (m : MatCtx) : Nat := bits m.descA.toNat 12 2
def MatCtx.blk (m : MatCtx) : Nat := 16 * 2 ^ bits m.descA.toNat 14 2
def MatCtx.asq (m : MatCtx) : Nat := bits m.descA.toNat 16 5
def MatCtx.bsq (m : MatCtx) : Nat := bits m.descA.toNat 21 5
def MatCtx.etile (m : MatCtx) : Nat := bits m.descA.toNat 48 4
def MatCtx.estr (m : MatCtx) : Nat := bits m.descA.toNat 52 12

/-- What MFMT admits beyond the reserved bits (R235). -/
def formatOk (a b : Word) : Bool :=
  let d := a.toNat
  let af := bits d 0 4
  let bf := bits d 4 4
  let cf := bits d 8 2
  let asf := bits d 10 2
  let bsf := bits d 12 2
  let rnd := bits d 26 3
  let pitch := bits d 32 16
  let cls := matClass af
  cls < 5 && cls == matClass bf &&
    (if cls = 0 then cf == 1 else if cls = 1 then cf < 2 else cf < 2 || (isIntFmt af && isIntFmt bf)) &&
    (2 ≤ cls && 4 ≤ af || asf == 0) && (2 ≤ cls && 4 ≤ bf || bsf == 0) &&
    (cf < 2 || (asf == 0 && bsf == 0 && b == 0)) &&
    asf != 3 && bsf != 3 && rnd < 6 &&
    (if cf = 3 then 32 ≤ pitch && pitch % 2 == 0 else 16 ≤ pitch)

/-! Numbers (R101 to R106). -/

/-- An element's value. -/
def elemVal (c x : Nat) : FVal :=
  match matElem c with
  | some e =>
    (match e.fmt with
     | some f => unpack f x
     | none => let v := readAs e.signed e.bits x; .fin (decide (v < 0)) v.natAbs 0)
  | none => .fin false 0 0

def nanVal : FVal := .nan false 0 false

/-- A product in an exact sum: infinity times 0 is a NaN (R103). -/
def prodVal (a b : FVal) : FVal := if a.isNan || b.isNan then nanVal else (mulVal a b).getD nanVal

/-- A block scale's value (R101): E8M0 for a field of 1, E4M3 without its sign for 2. -/
def scaleVal (sf x : Nat) : FVal :=
  if sf = 1 then (if x = 0xFF then nanVal else .fin false 1 ((x : Int) - 127)) else unpack .e4m3 (x % 0x80)

/-- The value of a tensor scale's pattern; the pattern 0 is absent (R234). -/
def tensorVal (p : Nat) : FVal := if p = 0 then .fin false 1 0 else unpack .f32 p

/-- Formats to which no scale applies (R101). -/
def scales (c : Nat) : Bool := 4 ≤ c

/-- Element `k` of row `i` of a tile (R90, R239). -/
def tileElem (c tile i k : Nat) : Nat := tile / 2 ^ (8 * matRow c * i) / 2 ^ (matBits c * k) % 2 ^ matBits c

/-- The scaled value of an element (R101): `sets` are the scale sets in force. -/
def scaledElem (c sf blk : Nat) (sets : List Nat) (tile i k : Nat) : FVal :=
  let v := elemVal c (tileElem c tile i k)
  if sf = 0 then v
  else
    let set := sets.getD (if matDepth c ≤ blk then 0 else k / blk) 0
    prodVal v (scaleVal sf (bits set (8 * i) 8))

/-- The exact sum of products (R102, R103). -/
def dotSum (l : List (FVal × FVal)) : Sum × Flags :=
  l.foldl (fun a p => let r := a.1.add (prodVal p.1 p.2); (r.1, a.2 ||| r.2)) (.fin 0 0 true, 0)

/-- R102: v of an element in a native format: the scaled sum, rounded once to FP32. -/
def nativeElem (ta tb : FVal) (l : List (FVal × FVal)) : Nat × Flags :=
  let s := dotSum l
  let sig := sigFlags ta tb
  let times := fun (v t : FVal) =>
    if v.isNan || t.isNan then (nanVal, 0)
    else match mulVal v t with
      | some r => (r, 0)
      | none => (nanVal, flagNV)
  let a := times s.1.val ta
  let b := times a.1 tb
  let r := roundVal .f32 .rne 0 b.1
  (r.code, s.2 ||| sig ||| a.2 ||| b.2 ||| r.flags)

/-- R105: the slices hi, mid and lo of an FP32 value. -/
def bf16Slices (x : FVal) : FVal × FVal × FVal :=
  let zero : FVal := .fin false 0 0
  let trunc := fun (n : Bool) (m : Nat) (e : Int) =>
    if m = 0 then zero else unpack .bf16 (roundTo .bf16 .rtz 0 false n m e).code
  let minus := fun (a b : FVal) => match a, b with
    | .fin n1 m1 e1, .fin n2 m2 e2 => addFin n1 m1 e1 (!n2) m2 e2
    | _, _ => (false, 0, 0)
  match x with
  | .fin n m e =>
    let hi := trunc n m e
    let r1 := minus x hi
    let mid := trunc r1.1 r1.2.1 r1.2.2
    let r2 := minus (.fin r1.1 r1.2.1 r1.2.2) mid
    (hi, mid, trunc r2.1 r2.2.1 r2.2.2)
  | _ => (x, zero, zero)

/-- Adds terms in order, each addition rounded to nearest (R105, R106). -/
def addTerms (f : Fmt) (l : List (FVal × Flags)) : Nat × Flags :=
  l.foldl (fun a t =>
    let r := fpAdd f rneEnv (unpack f a.1) t.1
    (r.code, a.2 ||| t.2 ||| r.flags)) (0, 0)

/-- R105: v of an element in FP32s mode. -/
def fp32sElem (l : List (FVal × FVal)) : Nat × Flags :=
  let sl := l.map fun p => (bf16Slices p.1, bf16Slices p.2)
  let term := fun (f : FVal × FVal × FVal → FVal) (g : FVal × FVal × FVal → FVal) =>
    let s := dotSum (sl.map fun p => (f p.1, g p.2))
    let r := roundVal .f32 .rne 0 s.1.val
    (unpack .f32 r.code, s.2 ||| r.flags)
  let hi := fun (x : FVal × FVal × FVal) => x.1
  let mid := fun (x : FVal × FVal × FVal) => x.2.1
  let lo := fun (x : FVal × FVal × FVal) => x.2.2
  addTerms .f32 [term lo hi, term hi lo, term mid mid, term mid hi, term hi mid, term hi hi]

/-- R106: the least e with every magnitude below 2^e; none where all are zero. -/
def topExp (l : List FVal) : Option Int :=
  l.foldl (fun a v =>
    match v with
    | .fin _ m e =>
      if m = 0 then a
      else
        let t := (bitLength m : Int) + e
        (match a with
         | some b => some (max b t)
         | none => some t)
    | _ => a) none

/-- R106: the digit d[t] of an element below 2^e: bits 7t-1 to 7(t-1) below the top, with the element's sign. -/
def digit (v : FVal) (top : Int) (t : Nat) : Int :=
  match v with
  | .fin n m e =>
    let sh := e - top + 7 * t
    let q : Nat := if 0 ≤ sh then m * 2 ^ sh.toNat else m / 2 ^ (-sh).toNat
    let d : Int := (q % 128 : Nat)
    if n then -d else d
  | _ => 0

def finite (v : FVal) : Bool :=
  match v with
  | .fin _ _ _ => true
  | _ => false

/-- The (t, u) of R106 in their order. -/
def slicePairs : List (Nat × Nat) :=
  [7, 6, 5, 4, 3, 2].flatMap fun s => (List.range (s - 1)).map fun i => (i + 1, s - 1 - i)

/-- R106: v of an element in FP64s mode; `ra` and `cb` are the unmasked row and column. -/
def fp64sElem (ra cb : List FVal) : Nat × Flags :=
  if ra.all finite && cb.all finite then
    match topExp ra, topExp cb with
    | some ei, some ej =>
      addTerms .f64 (slicePairs.map fun (t, u) =>
        let p : Int := ((ra.zip cb).map fun (x, y) => digit x ei t * digit y ej u).foldl (fun (a b : Int) => a + b) 0
        (.fin (decide (p < 0)) p.natAbs (ei + ej - 7 * (t + u)), 0))
    | _, _ => (0, 0)
  else
    let s := dotSum (ra.zip cb)
    ((roundVal .f64 .rne 0 s.1.val).code, s.2)

/-- R104: an integer sum modulo the accumulator's width. -/
def intElem (w : Nat) (l : List (FVal × FVal)) : Nat :=
  let v := fun (x : FVal) => match x with
    | .fin n m _ => if n then -(m : Int) else m
    | _ => 0
  (((l.map fun p => v p.1 * v p.2).foldl (fun (a b : Int) => a + b) 0) % (2 ^ w : Nat)).toNat

/-- What a request adds to element (i, j): `a` gives the scaled row of A and `b` the scaled column of B, over
k < KV. -/
def MatCtx.product (m : MatCtx) (a b : List FVal) : Nat × Flags :=
  if 2 ≤ m.cf then (intElem (if m.cf = 3 then 64 else 32) (a.zip b), 0)
  else match m.syn with
    | .fp64s => fp64sElem a b
    | .fp32s => fp32sElem (a.zip b)
    | .native =>
      nativeElem (if scales m.af then tensorVal (bits m.descB.toNat 0 32) else .fin false 1 0)
        (if scales m.bf then tensorVal (bits m.descB.toNat 32 32) else .fin false 1 0) (a.zip b)

/-- Adds to a buffer element (R102, R104, R106). -/
def MatCtx.accumulate (m : MatCtx) (old v : Nat) : Nat × Flags :=
  match m.cf with
  | 2 => ((old + v) % 2 ^ 32, 0)
  | 3 => ((old + v) % 2 ^ 64, 0)
  | _ => addRne (if m.syn = .fp64s then .f64 else .f32) old v

/-! MFMT (R234 to R236). -/

/-- MFMT (R234 to R236). -/
def execMfmt (a b : Src) (s : State) : Host.Outcome State Fault Refusal :=
  issue (.mfmt a b) [a.x, b.x] (fun t =>
    let core := slotCore s.here
    let d := t.xr a.r
    if bits d.toNat 29 3 ≠ 0 then Res.prot Cause.reservedBits 0
    else if !formatOk d (t.xr b.r) then Res.prot Cause.badFormat 0
    else if !s.matIdle core || !s.emitFree core || (s.core core).restoring then .hold
    else
      let slot := slotIdx s.here
      let s := s.emit (s.whoAt s.here)
      let m := s.mat core
      let m : MatCtx := { m with
        descA := d, descB := t.xr b.r, syn := synOf d, setter := some (slot, t.ctx),
        bind := t.nr (BitVec.ofNat 4 (bits d.toNat 48 4)), kpos := 0, key := none }
      .done ((s.setMat core m).setMe (t.advance 4))) s

/-! MMA and MMAT (R237 to R242). -/

/-- The banks that a request names (R238 order 6, R251). -/
def MatCtx.banks (m : MatCtx) (fa fb : Nat) (mmat : Bool) : List Nat :=
  [fa, fb] ++ (if m.asf = 0 then [] else [m.asq]) ++ (if m.bsf = 0 || mmat then [] else [m.bsq])

/-- MMA and MMAT: the checks of R238 in their order, and the request. MMAT_FORMAT (R242), which has no place in that order,
stands between orders 6 and 7 (DESIGN CHOICE, log 44). -/
def mmaIssue (i : Instr) (mmat : Bool) (fa fb : BitVec 5) (a b : Src) (s : State) :
    Host.Outcome State Fault Refusal :=
  issue i [a.x, b.x] (fun t =>
    let core := slotCore s.here
    let co := s.core core
    let m := s.mat core
    let k := s.cluster (coreClus core)
    let va := t.xr a.r
    let dims := t.xr b.r
    let tile := match addrKind va with
      | .tile _ _ => true
      | _ => false
    if va.toNat % m.esize ≠ 0 then .trap .alignment va
    else if !m.setBy (slotIdx s.here) t.ctx then Res.prot Cause.noFormat 0
    else if !dimsOk dims (matDepth m.af) true mmat then Res.prot Cause.badDims 0
    else if (m.banks fa.toNat fb.toNat mmat).any fun n => k.mode n != .fifo && !k.busyBank n then
      Res.prot Cause.notFifo 0
    else if mmat && (m.syn != .native || m.bsf != 0 || bindSize m.bind == 0) then Res.prot Cause.mmatFormat 0
    else
      let rows := (footprint m va dims).flatMap fun r => pageParts r.1 r.2
      let comp := if m.cf < 2 then s.companions core rows else []
      let regions := s.regionsOf core (pagesOf rows)
      if tile || addrKind va == .badForm || !accOk regions then Res.prot Cause.notAccumulate va
      else if (m.cf == 1 && !allCmp regions) || !s.compOk core comp then Res.prot Cause.notCompensated va
      else if anyRo regions then Res.prot Cause.readOnly va
      else if t.walking || 4 ≤ m.reqs.length || co.restoring ||
          (m.banks fa.toNat fb.toNat mmat).any k.busyBank then .hold
      else
        match s.resolve t core [] true (pagesOf (rows ++ comp)) with
        | .walk p => .walk p true false
        | .noWrite p => .trap (.translation 2 true p) p
        | .ok spots =>
          let onBoard := (rows ++ comp).any fun q =>
            match spotOf spots q.1 with
            | some p => k.boardMem p.pa q.2 true
            | none => false
          let r : MatReq := ⟨mmat, va, dims, fa.toNat, fb.toNat, t.ctx, spots⟩
          if onBoard then .hold
          else .done ((s.setMat core { m with reqs := m.reqs ++ [r] }).setMe (t.advance 4))) s

/-- MMA (R237, R238). -/
def execMma (fa fb : BitVec 5) (a b : Src) (s : State) := mmaIssue (.mma fa fb a b) false fa fb a b s
/-- MMAT (R242). -/
def execMmat (fa fb : BitVec 5) (a b : Src) (s : State) := mmaIssue (.mmat fa fb a b) true fa fb a b s

/-! Serving a request (R239 to R243). -/

/-- Lines of a FIFO as one number, the oldest lowest. -/
def fifoNat : List Line → Nat
  | [] => 0
  | l :: r => l.toNat + 2 ^ 1024 * fifoNat r

/-- The unit pops `n` bytes of a bank's stream; an entry is freed when all its bytes have been read (R38, R215,
R240). None while the bytes are not there. -/
def Cluster.popBytes (k : Cluster) (bank n : Nat) : Option (Nat × Cluster) :=
  let f := k.fifos.get bank .reset
  if k.mode bank ≠ .fifo || k.busyBank bank || f.popHigh || 128 * f.entries.length < f.readBytes + n then none
  else
    let v := fifoNat (f.entries.take ((f.readBytes + n + 127) / 128)) / 2 ^ (8 * f.readBytes) % 2 ^ (8 * n)
    let total := f.readBytes + n
    some (v, { k with fifos := k.fifos.put bank { f with
      entries := f.entries.drop (total / 128), bad := f.bad.drop (total / 128), readBytes := total % 128 } })

/-- Pops scale sets of 16 bytes each. -/
def Cluster.popSets (k : Cluster) (bank : Nat) : Nat → Option (List Nat × Cluster)
  | 0 => some ([], k)
  | n + 1 =>
    match k.popBytes bank 16 with
    | none => none
    | some (v, k1) =>
      match k1.popSets bank n with
      | none => none
      | some (l, k2) => some (v :: l, k2)

/-- The scale sets in force for an operand (R240): popped where a block begins in the tile. -/
def Cluster.scalesDue (k : Cluster) (sf bank blk kpos depth : Nat) (old : List Nat) : Option (List Nat × Cluster) :=
  if sf = 0 then some ([], k)
  else if kpos % blk = 0 then k.popSets bank (max 1 (depth / blk))
  else some (old, k)

/-- All that a request pops, in the order of R239 and R242: the cluster after it, the context with its scale
sets, the A tile, and the B tile or the tags. -/
def Cluster.popOperands (k : Cluster) (m : MatCtx) (r : MatReq) : Option (Cluster × MatCtx × Nat × Nat) :=
  match k.popBytes r.fa (16 * matRow m.af) with
  | none => none
  | some (a, k) =>
    match k.popBytes r.fb (if r.mmat then 32 else 16 * matRow m.bf) with
    | none => none
    | some (b, k) =>
      match k.scalesDue m.asf m.asq m.blk m.kpos (matDepth m.af) m.held.scA with
      | none => none
      | some (sa, k) =>
        match (if r.mmat then some ([], k) else k.scalesDue m.bsf m.bsq m.blk m.kpos (matDepth m.af) m.held.scB) with
        | none => none
        | some (sb, k) => some (k, { m with held := { m.held with scA := sa, scB := sb } }, a, b)

def MatReq.mv (r : MatReq) : Nat := bits r.dims.toNat 0 5
def MatReq.nv (r : MatReq) : Nat := bits r.dims.toNat 8 5
def MatReq.kv (r : MatReq) : Nat := bits r.dims.toNat 16 7
def MatReq.kt (r : MatReq) : Nat := bits r.dims.toNat 24 8

/-- A row of A over the unmasked k. -/
def MatCtx.rowA (m : MatCtx) (r : MatReq) (tile i : Nat) : List FVal :=
  (List.range r.kv).map fun k => scaledElem m.af m.asf m.blk m.held.scA tile i k

/-- A column of B over the unmasked k. -/
def MatCtx.colB (m : MatCtx) (r : MatReq) (tile j : Nat) : List FVal :=
  (List.range r.kv).map fun k => scaledElem m.bf m.bsf m.blk m.held.scB tile j k

/-- What one row of a request adds: element keys 16 i + j with their values, and the flags. -/
def MatCtx.rowOf (m : MatCtx) (r : MatReq) (ta tb i : Nat) : List (Nat × Nat) × Flags :=
  let a := m.rowA r ta i
  (List.range r.nv).foldl (fun acc j =>
    let p := m.product a (m.colB r tb j)
    (acc.1 ++ [(16 * i + j, p.1)], acc.2 ||| p.2)) ([], 0)

/-- The rows of an MMAT (R242): the context with the stationary tile, the element values, the flags, the tags
whose tile could not be read, and whether a tile's bytes are not to be had yet. -/
structure TagAcc where
  ctx : MatCtx
  vals : List (Nat × Nat)
  flags : Flags
  bad : List Nat
  wait : Bool

/-- One row of an MMAT (R242). A tile is read as a tile access reads it: `held` says of a stretch of SRAM that a bank of it is
changing its mode (R40), that the strand's ACCCVT into a bank of it stands before (R37), or that a row is being remapped
(R386). -/
def tagRow (k : Cluster) (held : Nat → Nat → Bool) (r : MatReq) (ta tags : Nat) (acc : TagAcc) (i : Nat) : TagAcc :=
  let m := acc.ctx
  let tag := bits tags (16 * i) 16
  let tl := 16 * matRow m.bf / 128
  let run := fun (m : MatCtx) =>
    let p := m.rowOf r ta m.held.tile i
    { acc with ctx := m, vals := acc.vals ++ p.1, flags := acc.flags ||| p.2 }
  if tag = 0xFFFF || acc.bad.contains tag then acc
  else if m.key = some (tag, r.kt) then run m
  else
    match tileByte m.bind ((tag * m.estr + r.kt * tl) * 128) (128 * tl) with
    | none => { acc with bad := tag :: acc.bad }
    | some b =>
      if held b (128 * tl) then { acc with wait := true }
      else if !k.inScratch b (128 * tl) then { acc with bad := tag :: acc.bad }
      else run { m with key := some (tag, r.kt), held := { m.held with tile := k.readSram b (128 * tl) } }

/-- What a request comes to: the context, the values, the flags, whether a tag was invalid, whether it waits. -/
def Cluster.compute (k : Cluster) (held : Nat → Nat → Bool) (m : MatCtx) (r : MatReq) (a b : Nat) : TagAcc :=
  if r.mmat then (List.range r.mv).foldl (tagRow k held r a b) ⟨m, [], 0, [], false⟩
  else (List.range r.mv).foldl (fun acc i =>
    let p := m.rowOf r a b i
    { acc with vals := acc.vals ++ p.1, flags := acc.flags ||| p.2 }) ⟨m, [], 0, [], false⟩

/-- The commit (R110, R243): the sums join the buffer, the counters count once, and a buffer that is open on
another address or full is to be emitted, in the name of the strand of this request (R245). -/
def MatCtx.commit (m : MatCtx) (r : MatReq) (acc : TagAcc) : MatCtx :=
  let close := match m.buf with
    | some b => b.addr != r.addr
    | none => false
  let slot := (m.setter.map fun e => e.1).getD 5
  let opened : CoalBuf := ⟨r.addr, slot, r.ctx, 0, [], []⟩
  let old : CoalBuf := match m.buf with
    | some b => if close then opened else b
    | none => opened
  let add := acc.vals.foldl (fun (x : Tab Word × Flags) e =>
    let v := m.accumulate (x.1.get e.1 0).toNat e.2
    (x.1.put e.1 (BitVec.ofNat 64 v.1), x.2 ||| v.2)) (old.sums, acc.flags)
  let b : CoalBuf := ⟨r.addr, slot, r.ctx, old.count + 1, add.1,
    old.spots ++ r.spots.filter fun e => !(old.spots.any fun o => o.1 == e.1)⟩
  let ctr := countFlags m.counters add.2
  let ctr := if acc.bad.isEmpty then ctr
    else let v := Tab.get ctr 5 0; Tab.put ctr 5 (if v = BitVec.allOnes 32 then v else v + 1)
  let full := b.count = 64
  { m with
    counters := ctr
    buf := if full then none else some b
    emitting := if full then some b
      else if close then m.buf.map fun b => { b with slot := slot, ctx := r.ctx } else m.emitting }

/-- What an access of a context to SRAM waits for besides its bounds (R37, R40, R386). -/
def State.tileHeld (s : State) (kn ctx : Nat) (b n : Nat) : Bool :=
  (s.cluster kn).busyBanks b n || (s.cluster kn).cvtOn ctx b n || s.sramBusy kn b n

/-- A row of one of the banks is being remapped (R386). -/
def State.banksBusy (s : State) (kn : Nat) (l : List Nat) : Bool := l.any fun b => s.sramBusy kn (16384 * b) 16384

/-- The request at the head of a core's queue is served (R239 to R243). None while an operand is missing or not
to be had yet, or while the buffer is still emitted (R244). -/
def State.serveCore (s : State) (kn c : Nat) : Option State :=
  let k := s.cluster kn
  let m := k.mats.get c .reset
  match m.reqs with
  | [] => none
  | r :: rest =>
    if m.emitting.isSome || s.banksBusy kn (m.banks r.fa r.fb r.mmat) then none
    else match k.popOperands m r with
      | none => none
      | some (k, m, a, b) =>
        let acc := k.compute (s.tileHeld kn r.ctx) m r a b
        if acc.wait then none else
        let m : MatCtx := { acc.ctx with reqs := rest, kpos := m.kpos + matDepth m.af }
        some (s.setCluster kn { k with mats := k.mats.put c (m.commit r acc), served := c })

/-- MATRIX_REQUEST_SERVE (R241): round-robin, beginning after the core that was served last. -/
def execMatrixRequestServe (clus : Nat) (s : State) : Host.Outcome State Fault Refusal :=
  let k := s.cluster clus
  event s (((List.range 32).map fun i => (k.served + 1 + i) % 32).findSome? fun c => s.serveCore clus c)

/-- COALESCING_EMIT (R244, R245): an emission that a commit caused is delivered, for the strand of the request; a copy in
flight over one of its lines stalls it (R65). -/
def execCoalescingEmit (core : Nat) (s : State) : Host.Outcome State Fault Refusal :=
  let m := s.mat core
  event s (match m.emitting with
    | none => none
    | some b =>
      let w : Who := ⟨core, b.ctx, ((s.ctxStrand b.ctx).map fun t => t.func).getD 0, b.slot⟩
      if s.boardBuf (coreClus core) m b then none
      else some ((s.setMat core { m with emitting := none }).emitBuf w m b).sweep)

/-! ACCZ, ACCRD, ACCCVT (R246 to R248). -/

/-- ACCZ (R246). -/
def execAccz (a b : Src) (s : State) : Host.Outcome State Fault Refusal :=
  issue (.accz a b) [a.x, b.x] (fun t =>
    issueMem s (.accz a b) .accz { addr := t.xr a.r, opa := t.xr a.r, opb := t.xr b.r } t) s
/-- ACCRD (R247). -/
def execAccrd (d : RegNo) (a : Src) (s : State) : Host.Outcome State Fault Refusal :=
  issue (.accrd d a) [a.x, .xd d] (fun t =>
    issueMem s (.accrd d a) (.accrd d) { addr := t.xr a.r, opa := t.xr a.r } t) s
/-- ACCCVT (R248). -/
def execAcccvt (src : AccTy) (dst : Elem) (sat : Bool) (rnd : Round) (a b : Src) (s : State) :
    Host.Outcome State Fault Refusal :=
  issue (.acccvt src dst sat rnd a b) [a.x, b.x] (fun t =>
    issueMem s (.acccvt src dst sat rnd a b) (.acccvt src dst sat rnd)
      { addr := t.xr a.r, opa := t.xr a.r, opb := t.xr b.r } t) s

/-! MSTAT (R249). -/

/-- Whether MSTAT's operand is legal. -/
def mstatOk (v : Word) : Bool :=
  let n := v.toNat
  let ctr := bits n 0 4
  let unit := bits n 4 3
  let idx := bits n 8 8
  bits n 16 48 == 0 && unit < 5 && ctr < 7 && (ctr != 5 || unit == 0) && (ctr != 6 || unit == 3) &&
    idx ≤ [0, 0, 23, 63, 1].getD unit 0

/-- The counter that MSTAT names. -/
def State.stat (s : State) (core unit idx ctr : Nat) : BitVec 32 :=
  let k := s.cluster (coreClus core)
  match unit with
  | 0 => (s.mat core).counters.get ctr 0
  | 1 => k.atomCtr.get ctr 0
  | 2 => k.bankCtr.get (8 * idx + ctr) 0
  | 3 =>
    let h := s.slice (64 * coreDie core + idx)
    if ctr = 6 then h.poisonDiscards else h.ctr.get ctr 0
  | _ => (s.port idx).ctr.get ctr 0

/-- Clears the counter that MSTAT names. -/
def State.clearStat (s : State) (core unit idx ctr : Nat) : State :=
  let kn := coreClus core
  let k := s.cluster kn
  match unit with
  | 0 => let m := s.mat core; s.setMat core { m with counters := m.counters.put ctr 0 }
  | 1 => s.setCluster kn { k with atomCtr := k.atomCtr.put ctr 0 }
  | 2 => s.setCluster kn { k with bankCtr := k.bankCtr.put (8 * idx + ctr) 0 }
  | 3 =>
    let n := 64 * coreDie core + idx
    let h := s.slice n
    s.setSlice n (if ctr = 6 then { h with poisonDiscards := 0 } else { h with ctr := h.ctr.put ctr 0 })
  | _ => let p := s.port idx; s.setPort idx { p with ctr := p.ctr.put ctr 0 }

/-- MSTAT (R249). -/
def execMstat (d : RegNo) (a : Src) (s : State) : Host.Outcome State Fault Refusal :=
  issue (.mstat d a) [a.x, .xd d] (fun t =>
    let core := slotCore s.here
    let v := t.xr a.r
    let n := v.toNat
    let ctr := bits n 0 4
    let unit := bits n 4 3
    let idx := bits n 8 8
    if !mstatOk v then Res.prot Cause.badStat 0
    else if unit = 0 && !s.matIdle core then .hold
    else
      let c := s.stat core unit idx ctr
      let s := if n.testBit 7 then s else s.clearStat core unit idx ctr
      .done (s.setMe ((t.setX d (c.zeroExtend 64)).advance 4))) s

end Sys2Proof.Machine
end

