-- ==== Sys2Proof/Machine/System.lean ====
section
/-! DEFINITION. System instructions: traps, halting, the replay instructions, shootdowns
(spec/12_isa_engines.md R268 to R274, spec/22_traps.md R346). -/

namespace Sys2Proof.Machine

/-- TRAP (R268). -/
def execTrap (e : BitVec 10) (s : State) : Host.Outcome State Fault Refusal :=
  issue (.trap e) [] (fun _ => .trap (.software e.toNat) 0) s
/-- BRK (R268). -/
def execBrk (e : BitVec 10) (s : State) : Host.Outcome State Fault Refusal :=
  issue (.brk e) [] (fun _ => .trap (.breakpoint e.toNat) 0) s

/-- HALT (R268, R193): a release of reach DIE, and then the strand ends and its launch is halted. -/
def execHalt (s : State) : Host.Outcome State Fault Refusal :=
  issue .halt [] (fun t => if !t.filled || !s.edgeReady t then .hold else .done (s.releaseThen s.here .die .halt)) s

/-- ILLEGAL_INSTRUCTION (R150): a word that the tables do not define. -/
def execIllegalInstruction (w : BitVec 32) (s : State) : Host.Outcome State Fault Refusal :=
  issue (.illegalInstruction w) [] (fun _ => .trap .illegal 0) s

/-! The replay instructions (R273): they act on the image of the bound context and wait for its spill (R346). -/

/-- What a replay instruction does with the saved bound context. -/
def replay (i : Instr) (ops : List Opnd) (early : Option Nat) (f : Strand → Saved → Res) (s : State) :
    Host.Outcome State Fault Refusal :=
  issue i ops (fun t =>
    match t.bound with
    | none => Res.prot Cause.notHandler 0
    | some b =>
      match early with
      | some c => Res.prot c 0
      | none =>
        match s.savedOf b with
        | some v => if v.spilled && s.framesFree v.frame1 v.frame2 then f t v else .hold
        | none => .hold) s

/-- Offset of a word of an entry in an image (R271, R349). -/
def entryOff (q : BitVec 4) (w : Nat) : Nat := 128 + 128 * q.toNat + 8 * w

/-- RQRD (R273). -/
def execRqrd (d : RegNo) (q : BitVec 4) (w : BitVec 6) (s : State) : Host.Outcome State Fault Refusal :=
  replay (.rqrd d q w) [.xd d] none (fun t v =>
    .done (s.setMe ((t.setX d (BitVec.ofNat 64 (s.readImage v.frame1 v.frame2 (entryOff q w.toNat) 8))).advance 4))) s

/-- The entry is valid. -/
def State.entryValid (s : State) (v : Saved) (q : BitVec 4) : Bool :=
  bits (s.readImage v.frame1 v.frame2 (entryOff q 1) 8) 63 1 == 1

/-- RQWR (R271, R273). -/
def execRqwr (a : Src) (q : BitVec 4) (w : BitVec 6) (s : State) : Host.Outcome State Fault Refusal :=
  replay (.rqwr a q w) [a.x] (if w.toNat ≤ 2 ∨ w.toNat = 15 then some Cause.rqField else none) (fun t v =>
    if !s.entryValid v q then Res.prot Cause.rqEmpty 0
    else
      .done ((s.writeImage v.frame1 v.frame2 [⟨entryOff q w.toNat, 8, (t.xr a.r).toNat⟩]).setMe (t.advance 4))) s

/-- The marks of the registers that an access left empty when it issued (R131). -/
def Entry.marks (e : Entry) : BitVec 32 × BitVec 32 :=
  let p := match e.memOp, e.dlgDest with
    | some o, _ => o.pend .idle
    | none, some d => Strand.idle.pendDestX d
    | none, none => .idle
  (p.pendX, p.pendV)

/-- An entry of an image by its first word: the instruction and its literal (R271). -/
def entryOf (w0 : Nat) : Entry :=
  { serial := 0, iword := BitVec.ofNat 32 w0, lit := BitVec.ofNat 32 (w0 / 2 ^ 32), pc := 0, addr := 0, opa := 0, opb := 0,
    opd := 0, vop := 0, phase := .replay }

/-- RQDEL (R273): the entry never performs, and its destination is empty with no producer. -/
def execRqdel (q : BitVec 4) (s : State) : Host.Outcome State Fault Refusal :=
  replay (.rqdel q) [] none (fun t v =>
    if !s.entryValid v q then Res.prot Cause.rqEmpty 0
    else
      let rd := fun off n => s.readImage v.frame1 v.frame2 off n
      let m := (entryOf (rd (entryOff q 0) 8)).marks
      .done ((s.writeImage v.frame1 v.frame2
        [⟨entryOff q 1, 8, rd (entryOff q 1) 8 % 2 ^ 63⟩, ⟨104, 4, (BitVec.ofNat 32 (rd 104 4) &&& ~~~m.1).toNat⟩,
         ⟨108, 4, (BitVec.ofNat 32 (rd 108 4) &&& ~~~m.2).toNat⟩]).setMe (t.advance 4))) s

/-- RTE (R273, R346): the handler ends once its registers are full and its own accesses have left its queue, and the
bound context waits to be moved back. -/
def execRte (s : State) : Host.Outcome State Fault Refusal :=
  issue .rte [] (fun t =>
    if t.bound.isNone then Res.prot Cause.notHandler 0
    else if !t.filled || !t.queue.isEmpty then .hold
    else match s.returnTrap s.here with
      | some s => .done s
      | none => .hold) s

/-! Shootdowns (R274, R328). -/

/-- The launch of the strand has the privilege flag. -/
def State.privileged (s : State) (t : Strand) : Bool := ((s.launchOf t).map Launch.priv).getD false

/-- TLBI and REGI: a release of reach PACKAGE, and then the stall until every die has acknowledged. -/
def shootdown (i : Instr) (entry : Bool) (a : Src) (reserved : Word → Bool) (s : State) : Host.Outcome State Fault Refusal :=
  issue i [a.x] (fun t =>
    let v := t.xr a.r
    if !s.privileged t then Res.prot Cause.privileged 0
    else if reserved v then Res.prot Cause.reservedBits 0
    else if !s.edgeReady t then .hold
    else .done (s.releaseThen s.here .package (.shoot entry v))) s

/-- TLBI (R274). -/
def execTlbi (a : Src) (s : State) : Host.Outcome State Fault Refusal :=
  shootdown (.tlbi a) false a (fun v => bits v.toNat 59 5 != 0) s
/-- REGI (R274). -/
def execRegi (a : Src) (s : State) : Host.Outcome State Fault Refusal :=
  shootdown (.regi a) true a (fun v => bits v.toNat 9 55 != 0) s

end Sys2Proof.Machine
end

