-- ==== Sys2Proof/Machine/Dispatch.lean ====
section
/-! DEFINITION. The dispatch of instructions and events to their meanings, one arm for each row of
spec/opcode_table.json. -/

namespace Sys2Proof.Machine

def exec (i : Instr) (s : State) : Host.Outcome State Fault Refusal :=
  match i with
  | .add z d a b => Sys2Proof.Machine.execAdd z d a b s
  | .adds z d a b => Sys2Proof.Machine.execAdds z d a b s
  | .sub z d a b => Sys2Proof.Machine.execSub z d a b s
  | .mul z d a b => Sys2Proof.Machine.execMul z d a b s
  | .mulh z d a b => Sys2Proof.Machine.execMulh z d a b s
  | .div z d a b => Sys2Proof.Machine.execDiv z d a b s
  | .rem z d a b => Sys2Proof.Machine.execRem z d a b s
  | .neg z d a => Sys2Proof.Machine.execNeg z d a s
  | .and z d a b => Sys2Proof.Machine.execAnd z d a b s
  | .andn z d a b => Sys2Proof.Machine.execAndn z d a b s
  | .or z d a b => Sys2Proof.Machine.execOr z d a b s
  | .xor z d a b => Sys2Proof.Machine.execXor z d a b s
  | .shl z d a b => Sys2Proof.Machine.execShl z d a b s
  | .shr z d a b => Sys2Proof.Machine.execShr z d a b s
  | .rot z d a b => Sys2Proof.Machine.execRot z d a b s
  | .clz z d a => Sys2Proof.Machine.execClz z d a s
  | .ctz z d a => Sys2Proof.Machine.execCtz z d a s
  | .popc z d a => Sys2Proof.Machine.execPopc z d a s
  | .brev z d a => Sys2Proof.Machine.execBrev z d a s
  | .min z d a b => Sys2Proof.Machine.execMin z d a b s
  | .max z d a b => Sys2Proof.Machine.execMax z d a b s
  | .sel z d a b => Sys2Proof.Machine.execSel z d a b s
  | .mov z d a => Sys2Proof.Machine.execMov z d a s
  | .cmpEq z d a b => Sys2Proof.Machine.execCmpEq z d a b s
  | .cmpNe z d a b => Sys2Proof.Machine.execCmpNe z d a b s
  | .cmpLt z d a b => Sys2Proof.Machine.execCmpLt z d a b s
  | .cmpLe z d a b => Sys2Proof.Machine.execCmpLe z d a b s
  | .cmpGt z d a b => Sys2Proof.Machine.execCmpGt z d a b s
  | .cmpGe z d a b => Sys2Proof.Machine.execCmpGe z d a b s
  | .addi d a e => Sys2Proof.Machine.execAddi d a e s
  | .andi d a e => Sys2Proof.Machine.execAndi d a e s
  | .ori d a e => Sys2Proof.Machine.execOri d a e s
  | .xori d a e => Sys2Proof.Machine.execXori d a e s
  | .shli d a n => Sys2Proof.Machine.execShli d a n s
  | .shriN64 d a n => Sys2Proof.Machine.execShriN64 d a n s
  | .shriS64 d a n => Sys2Proof.Machine.execShriS64 d a n s
  | .cmpi c unsigned d a e => Sys2Proof.Machine.execCmpi c unsigned d a e s
  | .extr signed d a lsb wm1 => Sys2Proof.Machine.execExtr signed d a lsb wm1 s
  | .insr d a lsb wm1 => Sys2Proof.Machine.execInsr d a lsb wm1 s
  | .widf d k => Sys2Proof.Machine.execWidf d k s
  | .rds d r => Sys2Proof.Machine.execRds d r s
  | .wrs r a => Sys2Proof.Machine.execWrs r a s
  | .li d lit => Sys2Proof.Machine.execLi d lit s
  | .lih d lit => Sys2Proof.Machine.execLih d lit s
  | .lea d lit => Sys2Proof.Machine.execLea d lit s
  | .fadd p rnd d a b => Sys2Proof.Machine.execFadd p rnd d a b s
  | .fsub p rnd d a b => Sys2Proof.Machine.execFsub p rnd d a b s
  | .fmul p rnd d a b => Sys2Proof.Machine.execFmul p rnd d a b s
  | .fdiv p rnd d a b => Sys2Proof.Machine.execFdiv p rnd d a b s
  | .fsqrt p rnd d a => Sys2Proof.Machine.execFsqrt p rnd d a s
  | .ffma p rnd d a b => Sys2Proof.Machine.execFfma p rnd d a b s
  | .fmin p d a b => Sys2Proof.Machine.execFmin p d a b s
  | .fmax p d a b => Sys2Proof.Machine.execFmax p d a b s
  | .fcmpEq p d a b => Sys2Proof.Machine.execFcmpEq p d a b s
  | .fcmpLt p d a b => Sys2Proof.Machine.execFcmpLt p d a b s
  | .fcmpLe p d a b => Sys2Proof.Machine.execFcmpLe p d a b s
  | .fcmpUn p d a b => Sys2Proof.Machine.execFcmpUn p d a b s
  | .fclass p d a => Sys2Proof.Machine.execFclass p d a s
  | .fcvt src dst rnd sat d a => Sys2Proof.Machine.execFcvt src dst rnd sat d a s
  | .br j => Sys2Proof.Machine.execBr j s
  | .call j => Sys2Proof.Machine.execCall j s
  | .brc c a b j => Sys2Proof.Machine.execBrc c a b j s
  | .loopn a j => Sys2Proof.Machine.execLoopn a j s
  | .bri a => Sys2Proof.Machine.execBri a s
  | .calli a => Sys2Proof.Machine.execCalli a s
  | .ret a => Sys2Proof.Machine.execRet a s
  | .vif k => Sys2Proof.Machine.execVif k s
  | .velse => Sys2Proof.Machine.execVelse s
  | .vend => Sys2Proof.Machine.execVend s
  | .nop => Sys2Proof.Machine.execNop s
  | .ld z d a off => Sys2Proof.Machine.execLd z d a off s
  | .st z src a off => Sys2Proof.Machine.execSt z src a off s
  | .ldg z d a off => Sys2Proof.Machine.execLdg z d a off s
  | .sts z src a off => Sys2Proof.Machine.execSts z src a off s
  | .ldp z d k a off => Sys2Proof.Machine.execLdp z d k a off s
  | .ldv v a off => Sys2Proof.Machine.execLdv v a off s
  | .stv v a off => Sys2Proof.Machine.execStv v a off s
  | .pf a off => Sys2Proof.Machine.execPf a off s
  | .flush a off => Sys2Proof.Machine.execFlush a off s
  | .invl a off => Sys2Proof.Machine.execInvl a off s
  | .fenceAcq a off => Sys2Proof.Machine.execFenceAcq a off s
  | .fenceRel a off => Sys2Proof.Machine.execFenceRel a off s
  | .fenceFull a off => Sys2Proof.Machine.execFenceFull a off s
  | .mode bank m => Sys2Proof.Machine.execMode bank m s
  | .amo op ty d a b => Sys2Proof.Machine.execAmo op ty d a b s
  | .cas ty d a b => Sys2Proof.Machine.execCas ty d a b s
  | .famo op ty d a b => Sys2Proof.Machine.execFamo op ty d a b s
  | .red op ty a b => Sys2Proof.Machine.execRed op ty a b s
  | .fredAdd a b => Sys2Proof.Machine.execFredAdd a b s
  | .fredMinmax op ty a b => Sys2Proof.Machine.execFredMinmax op ty a b s
  | .vred ty a b => Sys2Proof.Machine.execVred ty a b s
  | .get z d a => Sys2Proof.Machine.execGet z d a s
  | .put z a b => Sys2Proof.Machine.execPut z a b s
  | .putf z a b => Sys2Proof.Machine.execPutf z a b s
  | .dlg d a b => Sys2Proof.Machine.execDlg d a b s
  | .dlgn a b => Sys2Proof.Machine.execDlgn a b s
  | .dret b => Sys2Proof.Machine.execDret b s
  | .spawn a lit => Sys2Proof.Machine.execSpawn a lit s
  | .sync a => Sys2Proof.Machine.execSync a s
  | .retire => Sys2Proof.Machine.execRetire s
  | .pubf a => Sys2Proof.Machine.execPubf a s
  | .pubt a => Sys2Proof.Machine.execPubt a s
  | .bind k a => Sys2Proof.Machine.execBind k a s
  | .unbind k => Sys2Proof.Machine.execUnbind k s
  | .jctr d a => Sys2Proof.Machine.execJctr d a s
  | .bar a => Sys2Proof.Machine.execBar a s
  | .bari a b => Sys2Proof.Machine.execBari a b s
  | .barq d a => Sys2Proof.Machine.execBarq d a s
  | .donate a b => Sys2Proof.Machine.execDonate a b s
  | .trec d a b => Sys2Proof.Machine.execTrec d a b s
  | .tenq a b => Sys2Proof.Machine.execTenq a b s
  | .msg a payload type => Sys2Proof.Machine.execMsg a payload type s
  | .msgv a payload type => Sys2Proof.Machine.execMsgv a payload type s
  | .fpush bank b => Sys2Proof.Machine.execFpush bank b s
  | .fpop d bank => Sys2Proof.Machine.execFpop d bank s
  | .vadd p d a b m => Sys2Proof.Machine.execVadd p d a b m s
  | .vsub p d a b m => Sys2Proof.Machine.execVsub p d a b m s
  | .vmul p d a b m => Sys2Proof.Machine.execVmul p d a b m s
  | .vdiv p d a b m => Sys2Proof.Machine.execVdiv p d a b m s
  | .vmin p d a b m => Sys2Proof.Machine.execVmin p d a b m s
  | .vmax p d a b m => Sys2Proof.Machine.execVmax p d a b m s
  | .vabs p d a m => Sys2Proof.Machine.execVabs p d a m s
  | .vneg p d a m => Sys2Proof.Machine.execVneg p d a m s
  | .vsqrt p d a m => Sys2Proof.Machine.execVsqrt p d a m s
  | .vrcp p d a m => Sys2Proof.Machine.execVrcp p d a m s
  | .vrsq p d a m => Sys2Proof.Machine.execVrsq p d a m s
  | .vexp2 p d a m => Sys2Proof.Machine.execVexp2 p d a m s
  | .vlog2 p d a m => Sys2Proof.Machine.execVlog2 p d a m s
  | .vsum p d a m => Sys2Proof.Machine.execVsum p d a m s
  | .vrmax p d a m => Sys2Proof.Machine.execVrmax p d a m s
  | .vrmin p d a m => Sys2Proof.Machine.execVrmin p d a m s
  | .vaddInt w d a b m => Sys2Proof.Machine.execVaddInt w d a b m s
  | .vsubInt w d a b m => Sys2Proof.Machine.execVsubInt w d a b m s
  | .vmulInt w d a b m => Sys2Proof.Machine.execVmulInt w d a b m s
  | .vminS w d a b m => Sys2Proof.Machine.execVminS w d a b m s
  | .vminN w d a b m => Sys2Proof.Machine.execVminN w d a b m s
  | .vmaxS w d a b m => Sys2Proof.Machine.execVmaxS w d a b m s
  | .vmaxN w d a b m => Sys2Proof.Machine.execVmaxN w d a b m s
  | .vnegInt w d a m => Sys2Proof.Machine.execVnegInt w d a m s
  | .vshl w d a b m => Sys2Proof.Machine.execVshl w d a b m s
  | .vshrS w d a b m => Sys2Proof.Machine.execVshrS w d a b m s
  | .vshrN w d a b m => Sys2Proof.Machine.execVshrN w d a b m s
  | .vsumInt w d a m => Sys2Proof.Machine.execVsumInt w d a m s
  | .vimad w d a b m => Sys2Proof.Machine.execVimad w d a b m s
  | .vcmpEqInt w k a b m => Sys2Proof.Machine.execVcmpEqInt w k a b m s
  | .vcmpLtS w k a b m => Sys2Proof.Machine.execVcmpLtS w k a b m s
  | .vcmpLtN w k a b m => Sys2Proof.Machine.execVcmpLtN w k a b m s
  | .vand d a b m => Sys2Proof.Machine.execVand d a b m s
  | .vor d a b m => Sys2Proof.Machine.execVor d a b m s
  | .vxor d a b m => Sys2Proof.Machine.execVxor d a b m s
  | .vnot d a m => Sys2Proof.Machine.execVnot d a m s
  | .vsel d a b m => Sys2Proof.Machine.execVsel d a b m s
  | .vmov d a m => Sys2Proof.Machine.execVmov d a m s
  | .mand k idx j => Sys2Proof.Machine.execMand k idx j s
  | .mor k idx j => Sys2Proof.Machine.execMor k idx j s
  | .mxor k idx j => Sys2Proof.Machine.execMxor k idx j s
  | .mnot k idx => Sys2Proof.Machine.execMnot k idx s
  | .mpop d idx => Sys2Proof.Machine.execMpop d idx s
  | .mfirst d idx => Sys2Proof.Machine.execMfirst d idx s
  | .mset k a => Sys2Proof.Machine.execMset k a s
  | .mmovx d idx => Sys2Proof.Machine.execMmovx d idx s
  | .vcmp p c k a b m => Sys2Proof.Machine.execVcmp p c k a b m s
  | .vperm w d a b m => Sys2Proof.Machine.execVperm w d a b m s
  | .vshuf w d a b m => Sys2Proof.Machine.execVshuf w d a b m s
  | .vbcast w d a m => Sys2Proof.Machine.execVbcast w d a m s
  | .viota w d m => Sys2Proof.Machine.execViota w d m s
  | .vcmpr w d a m => Sys2Proof.Machine.execVcmpr w d a m s
  | .vexpd w d a m => Sys2Proof.Machine.execVexpd w d a m s
  | .vins w d a b m => Sys2Proof.Machine.execVins w d a b m s
  | .vext w d a b => Sys2Proof.Machine.execVext w d a b s
  | .vcvt src dst sat d a m => Sys2Proof.Machine.execVcvt src dst sat d a m s
  | .vscale n e4m3 d a m => Sys2Proof.Machine.execVscale n e4m3 d a m s
  | .vqnt n d a b m => Sys2Proof.Machine.execVqnt n d a b m s
  | .vdqnt n d a b m => Sys2Proof.Machine.execVdqnt n d a b m s
  | .vfmaF32F64 wide d a b c m rnd => Sys2Proof.Machine.execVfmaF32F64 wide d a b c m rnd s
  | .vfmaBf16F16 wide d a b c m rnd => Sys2Proof.Machine.execVfmaBf16F16 wide d a b c m rnd s
  | .vfmsF32F64 wide d a b c m rnd => Sys2Proof.Machine.execVfmsF32F64 wide d a b c m rnd s
  | .vfmsBf16F16 wide d a b c m rnd => Sys2Proof.Machine.execVfmsBf16F16 wide d a b c m rnd s
  | .mma fa fb a b => Sys2Proof.Machine.execMma fa fb a b s
  | .mmat fa fb a b => Sys2Proof.Machine.execMmat fa fb a b s
  | .mfmt a b => Sys2Proof.Machine.execMfmt a b s
  | .accz a b => Sys2Proof.Machine.execAccz a b s
  | .accrd d a => Sys2Proof.Machine.execAccrd d a s
  | .mstat d a => Sys2Proof.Machine.execMstat d a s
  | .acccvt src dst sat rnd a b => Sys2Proof.Machine.execAcccvt src dst sat rnd a b s
  | .cpy d a b e => Sys2Proof.Machine.execCpy d a b e s
  | .cstg a => Sys2Proof.Machine.execCstg a s
  | .cring a b => Sys2Proof.Machine.execCring a b s
  | .nmg a b e => Sys2Proof.Machine.execNmg a b e s
  | .nmr a b e => Sys2Proof.Machine.execNmr a b e s
  | .nmc a b e => Sys2Proof.Machine.execNmc a b e s
  | .dpost e => Sys2Proof.Machine.execDpost e s
  | .xsend a e => Sys2Proof.Machine.execXsend a e s
  | .xarm a => Sys2Proof.Machine.execXarm a s
  | .xstat d a => Sys2Proof.Machine.execXstat d a s
  | .route d a b => Sys2Proof.Machine.execRoute d a b s
  | .icfg a => Sys2Proof.Machine.execIcfg a s
  | .trap e => Sys2Proof.Machine.execTrap e s
  | .rte => Sys2Proof.Machine.execRte s
  | .halt => Sys2Proof.Machine.execHalt s
  | .brk e => Sys2Proof.Machine.execBrk e s
  | .rqrd d q w => Sys2Proof.Machine.execRqrd d q w s
  | .rqwr a q w => Sys2Proof.Machine.execRqwr a q w s
  | .rqdel q => Sys2Proof.Machine.execRqdel q s
  | .tlbi a => Sys2Proof.Machine.execTlbi a s
  | .regi a => Sys2Proof.Machine.execRegi a s
  | .illegalInstruction w => Sys2Proof.Machine.execIllegalInstruction w s
  | .messageArrival idx => Sys2Proof.Machine.execMessageArrival idx s
  | .activation slot => Sys2Proof.Machine.execActivation slot s
  | .seedActivation slot launch wid => Sys2Proof.Machine.execSeedActivation slot launch wid s
  | .pickWork slot => Sys2Proof.Machine.execPickWork slot s
  | .dequeSpill core => Sys2Proof.Machine.execDequeSpill core s
  | .dequeRefill core => Sys2Proof.Machine.execDequeRefill core s
  | .stealBackoffExpiry core => Sys2Proof.Machine.execStealBackoffExpiry core s
  | .stealProbe core => Sys2Proof.Machine.execStealProbe core s
  | .stealMove core => Sys2Proof.Machine.execStealMove core s
  | .joinDecrement idx => Sys2Proof.Machine.execJoinDecrement idx s
  | .parkMove idx => Sys2Proof.Machine.execParkMove idx s
  | .barrierArrival idx => Sys2Proof.Machine.execBarrierArrival idx s
  | .dlgReply idx => Sys2Proof.Machine.execDlgReply idx s
  | .donationIntake sender task => Sys2Proof.Machine.execDonationIntake sender task s
  | .donationWaitExpiry idx => Sys2Proof.Machine.execDonationWaitExpiry idx s
  | .drain core h => Sys2Proof.Machine.execDrain core h s
  | .fill clus line => Sys2Proof.Machine.execFill clus line s
  | .evict core line => Sys2Proof.Machine.execEvict core line s
  | .hop link => Sys2Proof.Machine.execHop link s
  | .ingress link h => Sys2Proof.Machine.execIngress link h s
  | .biack line p => Sys2Proof.Machine.execBiack line p s
  | .hostw p => Sys2Proof.Machine.execHostw p s
  | .host op => Sys2Proof.Machine.execHost op s
  | .eng e idx => Sys2Proof.Machine.execEng e idx s
  | .edge slot => Sys2Proof.Machine.execEdge slot s
  | .modeComplete clus bank => Sys2Proof.Machine.execModeComplete clus bank s
  | .translationWalkDone slot seq victim => Sys2Proof.Machine.execTranslationWalkDone slot seq victim s
  | .scheduleEntryStart clus => Sys2Proof.Machine.execScheduleEntryStart clus s
  | .nearMemoryExec e => Sys2Proof.Machine.execNearMemoryExec e s
  | .matrixRequestServe clus => Sys2Proof.Machine.execMatrixRequestServe clus s
  | .coalescingEmit core => Sys2Proof.Machine.execCoalescingEmit core s
  | .centroidPost idx => Sys2Proof.Machine.execCentroidPost idx s
  | .roundDeadlineExpiry => Sys2Proof.Machine.execRoundDeadlineExpiry s
  | .calendarArrival die => Sys2Proof.Machine.execCalendarArrival die s
  | .phaseStart die => Sys2Proof.Machine.execPhaseStart die s
  | .phaseEnd die => Sys2Proof.Machine.execPhaseEnd die s
  | .ingressRow die endpoint => Sys2Proof.Machine.execIngressRow die endpoint s
  | .exchangeLinkFailure die endpoint bytes => Sys2Proof.Machine.execExchangeLinkFailure die endpoint bytes s
  | .heartbeatTimer => Sys2Proof.Machine.execHeartbeatTimer s
  | .centroidTakeover pkg iod => Sys2Proof.Machine.execCentroidTakeover pkg iod s
  | .generationChange die gen => Sys2Proof.Machine.execGenerationChange die gen s
  | .gnomonExchange die t1 t2 t3 t4 pkgSkew grpSkew => Sys2Proof.Machine.execGnomonExchange die t1 t2 t3 t4 pkgSkew grpSkew s
  | .qtailDoorbell f tail => Sys2Proof.Machine.execQtailDoorbell f tail s
  | .launchEntryTake f => Sys2Proof.Machine.execLaunchEntryTake f s
  | .launchComplete launch => Sys2Proof.Machine.execLaunchComplete launch s
  | .launchTimeout launch => Sys2Proof.Machine.execLaunchTimeout launch s
  | .clusterGrant clus => Sys2Proof.Machine.execClusterGrant clus s
  | .ageingStep launch => Sys2Proof.Machine.execAgeingStep launch s
  | .quantumExpiry clus => Sys2Proof.Machine.execQuantumExpiry clus s
  | .preempt launch => Sys2Proof.Machine.execPreempt launch s
  | .clusterSave clus => Sys2Proof.Machine.execClusterSave clus s
  | .clusterRestore clus => Sys2Proof.Machine.execClusterRestore clus s
  | .clusterLaunchStart clus => Sys2Proof.Machine.execClusterLaunchStart clus s
  | .taskActivation slot => Sys2Proof.Machine.execTaskActivation slot s
  | .tlbinv f value => Sys2Proof.Machine.execTlbinv f value s
  | .rinv f value => Sys2Proof.Machine.execRinv f value s
  | .shootdownAck idx die => Sys2Proof.Machine.execShootdownAck idx die s
  | .migWalkRetry slot seq => Sys2Proof.Machine.execMigWalkRetry slot seq s
  | .migTimeout slot seq => Sys2Proof.Machine.execMigTimeout slot seq s
  | .pageFault die => Sys2Proof.Machine.execPageFault die s
  | .fresRetry die record who => Sys2Proof.Machine.execFresRetry die record who s
  | .fresKill die record who => Sys2Proof.Machine.execFresKill die record who s
  | .migcmd die value who => Sys2Proof.Machine.execMigcmd die value who s
  | .migrationComplete die => Sys2Proof.Machine.execMigrationComplete die s
  | .trapTake slot => Sys2Proof.Machine.execTrapTake slot s
  | .stagingFill core => Sys2Proof.Machine.execStagingFill core s
  | .contextSwap core => Sys2Proof.Machine.execContextSwap core s
  | .contextSpill core => Sys2Proof.Machine.execContextSpill core s
  | .sfladd die value who => Sys2Proof.Machine.execSfladd die value who s
  | .hostSnoop line p => Sys2Proof.Machine.execHostSnoop line p s
  | .bisnpTimeout p => Sys2Proof.Machine.execBisnpTimeout p s
  | .hostLinkDown p => Sys2Proof.Machine.execHostLinkDown p s
  | .diePowerGate die => Sys2Proof.Machine.execDiePowerGate die s
  | .dieWarmReset die => Sys2Proof.Machine.execDieWarmReset die s
  | .dieFatalReset die => Sys2Proof.Machine.execDieFatalReset die s
  | .linkwakeMaxExpiry link => Sys2Proof.Machine.execLinkwakeMaxExpiry link s
  | .diedeadTmoExpiry die => Sys2Proof.Machine.execDiedeadTmoExpiry die s
  | .claim value channel => Sys2Proof.Machine.execClaim value channel s
  | .leaseExpiry => Sys2Proof.Machine.execLeaseExpiry s
  | .secureBoot => Sys2Proof.Machine.execSecureBoot s
  | .recoveryImageWrite slotB image => Sys2Proof.Machine.execRecoveryImageWrite slotB image s
  | .attestationReport nonce => Sys2Proof.Machine.execAttestationReport nonce s
  | .configRecordReplace record who => Sys2Proof.Machine.execConfigRecordReplace record who s
  | .cgConfigWrite reg value who => Sys2Proof.Machine.execCgConfigWrite reg value who s
  | .partWrite k value who => Sys2Proof.Machine.execPartWrite k value who s
  | .partitionChange k => Sys2Proof.Machine.execPartitionChange k s
  | .correctableError kind die address => Sys2Proof.Machine.execCorrectableError kind die address s
  | .rowRemap idx => Sys2Proof.Machine.execRowRemap idx s
  | .laneRetire link => Sys2Proof.Machine.execLaneRetire link s
  | .linkDown link => Sys2Proof.Machine.execLinkDown link s
  | .uncorrectableError place line => Sys2Proof.Machine.execUncorrectableError place line s
  | .governorTick power temp => Sys2Proof.Machine.execGovernorTick power temp s
  | .registerWrite reg value who => Sys2Proof.Machine.execRegisterWrite reg value who s
  | .fabricPortAtomic port => Sys2Proof.Machine.execFabricPortAtomic port s
  | .dieLinkTrained link => Sys2Proof.Machine.execDieLinkTrained link s
  | .hostLinkWarmReset p => Sys2Proof.Machine.execHostLinkWarmReset p s
  | .faultRingHeadWrite die value who => Sys2Proof.Machine.execFaultRingHeadWrite die value who s
  | .faultUnitEnable die value who => Sys2Proof.Machine.execFaultUnitEnable die value who s
  | .saveFrameStackEnable die value who => Sys2Proof.Machine.execSaveFrameStackEnable die value who s

end Sys2Proof.Machine
end

