-- ==== Sys2Proof/Machine/Registers.lean ====
section
/-! DEFINITION. What a read of a register through a BAR returns, and the reset of the device (spec/00_scope.md R5,
spec/23_host.md R366, R368; log 40, log 41). -/

namespace Sys2Proof.Machine

/-! Reads (R5): write-only registers and reserved bits read 0. -/

/-- FUNC, EN and BUSY of PART[k] (R378). -/
def Part.word (p : Part) : Word := BitVec.ofNat 64 (p.func.toNat + bitsOf p.en * 2 ^ 10 + bitsOf p.busy * 2 ^ 12)

/-- PWRST (R388). -/
def Governor.status (g : Governor) : Word :=
  BitVec.ofNat 64 (g.power.toNat + g.freq.toNat * 2 ^ 12 + g.duty.toNat * 2 ^ 23 + g.temp.toNat * 2 ^ 28)

/-- TLBST (R326): a shootdown of the function's registers is in progress, and the writes that wait. -/
def Fn.tlbst (f : Fn) : Word := BitVec.ofNat 64 (bitsOf f.busy + min f.inv.length 15 * 2)

/-- A register whose write has no behaviour of its own. -/
def State.readPlain (s : State) : PlainReg → Word
  | .qbase f => (s.fn f).qbase
  | .qctl f => (s.fn f).qctl
  | .crbase f => (s.fn f).crbase
  | .maxprio f => (s.fn f).maxprio.setWidth 64
  | .ageq => s.pf.ageq.setWidth 64
  | .quant => s.pf.quant.setWidth 64
  | .pdelta => s.pf.pdelta.setWidth 64
  | .tdir => s.pf.tdir
  | .tdirn => s.pf.tdirn.setWidth 64
  | .ptroot f => (s.fn f).ptroot
  | .trapvec f => (s.fn f).trapvec
  | .trapcfg f => (s.fn f).trapcfg
  | .vfEnable f => BitVec.ofNat 64 (bitsOf (s.fn f).enabled)
  | .frbase d => (s.die d).fault.frbase
  | .frctl d => (s.die d).fault.frctl
  | .fflbase d => (s.die d).fault.fflbase
  | .fflctl d => (s.die d).fault.fflctl
  | .fflput d => (s.die d).fault.fflput.setWidth 64
  | .migdst d => (s.die d).fault.migdst
  | .sflbase d => (s.die d).save.sflbase
  | .sflctl d => (s.die d).save.sflctl
  | .erbase => s.er.base
  | .erctl => s.er.ctl
  | .erhead => s.er.head.setWidth 64
  | .erstat => BitVec.ofNat 64 (bitsOf s.er.exh)
  | .cecfg => s.ras.cecfg
  | .pwrcfg => s.power.cfg
  | .frtail d => (s.die d).fault.frtail.setWidth 64
  | .fflget d => (s.die d).fault.fflget.setWidth 64
  | .migst d => (s.die d).fault.migst
  | .sflcnt d => (s.die d).save.sflcnt.setWidth 64
  | .ertail => s.er.tail.setWidth 64
  | .erdrop => s.er.drop.setWidth 64
  | .pwrst => s.power.status

/-- Every other register (R315, R326, R337, R353, R363, R369, R378); REMAIN of LEASE counts µs. -/
def State.readOther (s : State) : OtherReg → Word
  | .qtail f => (s.fn f).qtail.setWidth 64
  | .qhead f => (s.fn f).qhead.setWidth 64
  | .tlbst f => (s.fn f).tlbst
  | .tlbinv _ | .rinv _ | .fres _ | .migcmd _ | .sfladd _ | .claim => 0
  | .frhead d => (s.die d).fault.frhead.setWidth 64
  | .own => BitVec.ofNat 64 (s.mgmt.owner.toNat + s.mgmt.gen.toNat * 2 ^ 32)
  | .lease => BitVec.ofNat 64 (s.mgmt.lease.toNat / 1000)
  | .claimst c => s.mgmt.claimst.get c 0
  | .part k => (s.part k).word
  | .cgmem => s.cg.cgmem
  | .cgctl => s.cg.cgctl
  | .cgrate => s.cg.cgrate
  | .cgst => BitVec.ofNat 64 s.cg.cgst

def State.readReg (s : State) : PlainReg ⊕ OtherReg → Word
  | .inl r => s.readPlain r
  | .inr r => s.readOther r

/-- The register is there, and the function reaches it: the PF every one, a VF those of its own BAR. -/
def regReadable (fn : Nat) : PlainReg ⊕ OtherReg → Bool
  | .inl r => regExists r && regReached fn r
  | .inr r =>
    match r with
    | .qtail f | .qhead f | .tlbst f | .tlbinv f | .rinv f => f ≤ 512 && (fn == 0 || fn == f)
    | .frhead d | .fres d | .migcmd d | .sfladd d => d < 8 && fn == 0
    | .claimst c => c ≤ 256 && fn == 0
    | .part k => k < 64 && fn == 0
    | _ => fn == 0

/-- A register is read (R5); reads are open to every master (R365), and before the device has started, and in recovery, no register answers
(R366). -/
def State.registerRead (s : State) (fn : Nat) (r : PlainReg ⊕ OtherReg) : Option State :=
  if s.boot.running.isNone || !regReadable fn r then none else some { s with hostGot := s.readReg r :: s.hostGot }

/-! The reset of the device (R366, R368; log 41). -/

/-- What a cold or warm reset leaves: the secure flash, host memory, and what has left the device; SECURE_BOOT comes
next, with the record that the flash holds now. -/
def State.deviceReset (s : State) : State :=
  { State.reset with
    agenda := s.agenda
    serial := s.serial
    mem := s.mem.filter fun c => paHost c.1
    poison := s.poison.filter fun l => paHost (128 * l)
    boot := { State.reset.boot with
      slotA := s.boot.slotA, slotB := s.boot.slotB, copyA := s.boot.copyA, copyB := s.boot.copyB, leaf := s.boot.leaf,
      reports := s.boot.reports }
    donOut := s.donOut
    refusals := s.refusals
    refusalRing := s.refusalRing
    donLog := s.donLog
    hostGot := s.hostGot
    pkg := s.pkg }

end Sys2Proof.Machine
end

