-- ==== Sys2Proof/Machine/Run.lean ====
section
/-! DEFINITION. One turn of the machine: the issue of a core (spec/01_execution.md R13, R14, spec/03_ordering.md
R70 ISSUE), and what the outside world supplies (log 1, log 5, log 23). -/

namespace Sys2Proof.Machine

abbrev Out := Host.Outcome State Fault Refusal

/-- The launch of a strand has ended, so the strand stops at its next issue (R313). -/
def State.stopped (s : State) (t : Strand) : Bool :=
  match s.launchOf t with
  | some l => (match l.state with
    | .ended _ | .done => true
    | _ => false)
  | none => false

/-- The oldest entry that is to be re-injected (R273). -/
def Strand.nextReplay (t : Strand) : Option Entry := t.queue.find? fun e => isReplay e.phase

/-- The strand with the live registers of a continuation whose header could not be read at its resumption (R17; log 25).
None where there is nothing to reload, or the header still cannot be read. -/
def State.reloaded (s : State) (t : Strand) : Option Strand :=
  t.reload.bind fun f => (s.headerWord t.func t.pc).bind fun h =>
    (s.reloadLive t.launch (recOf f) h t).map fun u => { u with reload := none }

/-- FADDR of a trap of a fetch (R269). -/
def fetchAddr (t : Trap) (pc : Word) : Word :=
  match t with
  | .translation _ _ va => va
  | _ => pc

/-- The next instruction of a slot: fetched, and then executed. -/
def State.issueSlot (s : State) (k : Nat) : Out :=
  let t := s.strand k
  match s.fetch k with
  | .instr s' i => if t.reload.isSome then .next s.waits else exec i s'
  | .walk va => .next (s.setStrand k (t.startWalk va false true)).waits
  | .trap tr pc w => .next (s.trapAtIssue k tr pc (fetchAddr tr pc) w).ran
  | .wait => .next s.waits

/-- ISSUE of one slot (R70): entries that a trap left are re-injected first (R82, R273), then the next
instruction issues. A slot that cannot issue is marked stalled. -/
def State.attempt (s : State) (k : Nat) : Out :=
  let s := { s with here := k, stalled := false }
  let t := s.strand k
  let held : Out := .next s.waits
  if !t.active || (s.die (coreDie (slotCore k))).power != .on then held
  else if s.stopped t then .next (s.endStrand k)
  else
    match t.nextReplay with
    | some e =>
      if t.walking || t.edge.isSome || t.wait.isSome then held
      else event s (match e.dlgDest with
        | some d => s.redelegate k e d
        | none => s.retry k e [] true)
    | none =>
      if !t.ready then held
      else match s.reloaded t with
        | some u => (s.setStrand k u).issueSlot k
        | none => s.issueSlot k

/-- The class order of R13. -/
def SlotClass.order : SlotClass → Nat
  | .server => 0 | .load => 1 | .arith => 2 | .epil => 3

/-- A slot with the outcome of its attempt. -/
structure Tried where
  slot : Nat
  out : Out

def Tried.isReady (r : Tried) : Bool :=
  match r.out with
  | .next s => !s.stalled
  | _ => true

/-- The slot that takes its turn among ready ones of a class: the first after the one that issued last (R13). -/
def roundRobin (last : Nat) (l : List Nat) : Option Nat :=
  ([1, 2, 3, 4, 5].map fun i => (last + i) % 5).find? fun n => l.contains n

/-- R13: the slot that issues among the ready ones. -/
def selectSlot (core : Core) (cls : Nat → SlotClass) (ready : List Nat) : Option Nat :=
  let aged := ready.filter fun n => core.age.toNat ≤ core.pass.get n 0
  let byClass := fun (l : List Nat) (c : SlotClass) => l.filter fun n => cls n == c
  let classes : List SlotClass := [.server, .load, .arith, .epil]
  if !aged.isEmpty then
    -- aged counters all equal AGE, so the class order and the lower index decide
    (classes.flatMap fun c => byClass aged c).head?
  else
    classes.findSome? fun c => roundRobin (core.last.get c.order 3) (byClass ready c)

/-- The pass counters after an issue (R13), none above AGE (R14), and the slot of the class that issued last. -/
def Core.issued (core : Core) (n : Nat) (cls : SlotClass) (ready : List Nat) (aged : Bool) : Core :=
  let pass := if aged then core.pass
    else ready.foldl (fun p m => if m = n then p else p.put m (min (p.get m 0 + 1) core.age.toNat)) core.pass
  { core with pass := pass.put n 0, last := core.last.put cls.order n }

/-- ISSUE of a core (R13, R70). `held` are slots that an interlock of R218 keeps from issuing (log 5). A slot
whose fetch or instruction needs a translation starts its walk first. -/
def State.runIssue (s : State) (c : Nat) (held : List Nat) : Out :=
  let tried := ([0, 1, 2, 3, 4].filter fun n => !held.contains n).map fun n => (⟨n, s.attempt (slotKey c n)⟩ : Tried)
  let walker := tried.find? fun r => match r.out with
    | .next s' => s'.stalled && (s'.strand (slotKey c r.slot)).walk != (s.strand (slotKey c r.slot)).walk
    | _ => false
  match walker with
  | some r => r.out
  | none =>
    let ready := (tried.filter fun r => r.isReady).map fun r => r.slot
    let cls := fun n => (s.strand (slotKey c n)).cls
    match selectSlot (s.core c) cls ready with
    | none => .next s.waits
    | some n =>
      match tried.find? fun r => r.slot == n with
      | some r =>
        (match r.out with
         | .next s' =>
           let aged := ready.any fun m => (s.core c).age.toNat ≤ (s.core c).pass.get m 0
           .next (s'.setCore c ((s'.core c).issued n (cls n) ready aged))
         | o => o)
      | none => .next s.waits

/-! What comes from outside. -/

/-- A die's clock after `ns`: the correction that is left is slewed at 1 ns for each 1,000 (R375). -/
def Die.tick (x : Die) (ns : Nat) : Die :=
  let lim : Int := ((x.frac + ns) / 1000 : Nat)
  let part := max (-lim) (min lim x.slew)
  { x with ptc := x.ptc + BitVec.ofInt 64 ((ns : Int) + part), slew := x.slew - part, frac := (x.frac + ns) % 1000 }

/-- A bound that does not hold any more reads 0xFFFF (R161, R375). -/
def State.unproved (s : State) : State :=
  let keep := fun (b : BitVec 16) => if s.within b then b else 0xFFFF
  (List.range 8).foldl (fun s d =>
    let x := s.die d
    s.setDie d { x with pkgSkew := keep x.pkgSkew, grpSkew := keep x.grpSkew }) s

/-- PTC advances by `ns` on every die (R375). The lease runs down (R363), and at 0 there is no owner any more (R364); it is kept
in ns. -/
def State.elapse (s : State) (ns : Nat) : State :=
  let s := { s with mgmt := { s.mgmt with lease := BitVec.ofNat 32 (s.mgmt.lease.toNat - ns) } }
  ((List.range 8).foldl (fun s d => s.setDie d ((s.die d).tick ns)) s).unproved.expireLease

/-- One turn (R70; log 1). -/
def State.turn (s : State) (t : Turn) : Out :=
  match t with
  | .issue c held => s.runIssue c held
  | .event i => exec i s
  | .elapse ns => .next (s.elapse ns).ran
  | .slotRequest slot ctx => event s (s.slotRequest slot ctx)
  | .registerRead fn r => event s (s.registerRead fn r)
  | .reset => .next s.deviceReset.ran
  | .peerLine .. | .rowAgain .. | .peerCalendar .. | .peerPost .. | .peerRefusal .. | .peerBeat .. | .peerConfig .. =>
    event s (s.peer t)

end Sys2Proof.Machine
end

