-- ==== Sys2Proof/Machine/Step.lean ====
section
/-! DEFINITION. One step of the machine: the next turn of the agenda, and with none left the issue of the core
whose slot `here` names (R69, R70; log 1). -/

namespace Sys2Proof.Machine

/-- One step (R70). -/
def step (s : State) : Host.Outcome State Fault Refusal :=
  match s.agenda with
  | [] => s.runIssue (slotCore s.here) []
  | t :: r => State.turn { s with agenda := r } t

/-- The state with one instruction placed where `step` fetches its next one (log 6). -/
def State.withFetchWord (s : State) (nbits w : Nat) : State :=
  let p := tableWords nbits w
  s.placeWord p.1 p.2

end Sys2Proof.Machine
end

