-- ==== Sys2Proof/Safety.lean ====
section
/-! DEFINITION. What counts as a safe state in the terms that statements use: the invariants of the machine, when an
instruction may issue, and what an instruction that only changes its strand leaves. -/

namespace Sys2Proof.Safety

open Sys2Proof.Machine

/-- Memory keeps its canonical form (log 3). -/
def MemoryCanonical (s : State) : Prop := Memory.wf s.mem = true

/-- AGE is what R14 lets a write store, and no pass counter exceeds it. -/
def CoreLegal (c : Core) : Prop := 64 ≤ c.age.toNat ∧ ∀ n : Nat, Tab.get c.pass n 0 ≤ c.age.toNat

/-- Every core keeps to R14, those of saved clusters too. -/
def AgeLegal (s : State) : Prop :=
  (∀ c : Nat, CoreLegal (s.core c)) ∧ ∀ v ∈ s.savedClusters, ∀ c : Nat, CoreLegal (Tab.get v.cores c .reset)

end Sys2Proof.Safety

namespace Sys2Proof.Machine

/-- The strand of the slot that issues is not held (R72), and the registers that an instruction names let it issue
(R131). -/
def State.Issues (s : State) (ops : List Opnd) : Prop := s.me.ready = true ∧ s.me.gate ops = .ok

/-- The machine after an instruction of `n` bytes that leaves its strand as `t`. -/
def State.after (s : State) (t : Strand) (n : Nat) : State := (s.setMe (t.advance n)).ran

/-- The machine after an instruction that leaves its strand as `t`, with control at a header (R130). -/
def State.sent (s : State) (t : Strand) (hdr : Word) : State := (s.setMe (t.goto hdr .branch)).ran

/-- An instruction takes a trap at `pc`: at once where no access of its strand stands in the replay queue and `takeTrap`
answers, and otherwise the trap stays with the strand until it can be taken (R344). Where `takeTrap` answers nothing, the
shadow bank holds another context. -/
def State.TakesTrap (s : State) (i : Instr) (t : Trap) (pc : Word) : Prop :=
  (s.me.queue = [] → ∀ s', s.takeTrap s.here t pc 0 (wordOf i) = some s' → exec i s = .next s'.ran) ∧
    (s.me.queue ≠ [] ∨ s.takeTrap s.here t pc 0 (wordOf i) = none →
      exec i s = .next (s.latchTrap s.here ⟨t, pc, 0, wordOf i⟩).ran)

/-! Accesses: what each instruction asks for, and where it goes (spec/08_isa_memory.md R173 to R189). -/

/-- What an instruction that takes a replay-queue entry asks of memory: its register fields, the form of the access,
the operands it captures (R271), and the strand with what the issue itself changes. -/
def memoryForm (t : Strand) (i : Instr) : Option (List Opnd × MemOp × Cap × Strand) :=
  let x := fun (a : Src) => t.xr a.r
  match i with
  | .ld z d a off => some ([a.x, .xd d], .load z d false, { addr := mAddr (x a) off z.w.bytes, opa := x a }, t)
  | .ldg z d a off => some ([a.x, .xd d], .load z d true, { addr := mAddr (x a) off z.w.bytes, opa := x a }, t)
  | .ldv v a off => some ([a.x, .vd v], .loadV v, { addr := mAddr (x a) off 64, opa := x a }, t)
  | .st z r a off =>
    some ([a.x, .xs r false], .store z false, { addr := mAddr (x a) off z.w.bytes, opa := x a, opb := t.xr r }, t)
  | .sts z r a off =>
    some ([a.x, .xs r false], .store z true, { addr := mAddr (x a) off z.w.bytes, opa := x a, opb := t.xr r }, t)
  | .stv v a off => some ([a.x, .vs v false], .storeV, { addr := mAddr (x a) off 64, opa := x a, vop := t.vr v }, t)
  | .pf a off => some ([a.x], .prefetch, { addr := mAddr (x a) off 128, opa := x a }, t)
  | .flush a off => some ([a.x], .flush, { addr := mAddr (x a) off 128, opa := x a }, t)
  | .invl a off => some ([a.x], .invl, { addr := mAddr (x a) off 128, opa := x a }, t)
  | .amo op ty d a b => some ([a.x, b.x, .xd d], .amo op ty (some d), { addr := x a, opa := x a, opb := x b }, t)
  | .red op ty a b => some ([a.x, b.x], .amo op ty none, { addr := x a, opa := x a, opb := x b }, t)
  | .cas ty d a b =>
    some ([a.x, b.x, .xs d false, .xd d], .cas ty d, { addr := x a, opa := x a, opb := x b, opd := t.xr d }, t)
  | .famo op ty d a b =>
    some ([a.x, b.x, .xd d], .famo op ty (some d),
      { addr := x a, opa := x a, opb := x b, opd := if op = .add then famoOpd t else 0 },
      if op = .add ∧ frmMode t.frm = .sr then { t with frm := frmWithLfsr t.frm (lfsrStep (frmLfsr t.frm)) } else t)
  | .fredMinmax op ty a b => some ([a.x, b.x], .famo op ty none, { addr := x a, opa := x a, opb := x b }, t)
  | .get z d a => some ([a.x, .xd d], .get z d, { addr := x a, opa := x a }, t)
  | .put z a b => some ([a.x, b.x], .put z false, { addr := x a, opa := x a, opb := x b }, t)
  | .putf z a b => some ([a.x, b.x], .put z true, { addr := x a, opa := x a, opb := x b }, t)
  | _ => none

/-- Where an access of the strand that issues goes through its core's µTLB (R324, R327, R331): none where the page is
not translated there, or a write lacks the right W. -/
def State.spot (s : State) (va : Nat) (write : Bool) : Option Place :=
  let page := va / 16384 * 16384
  match xlatFind (s.core (slotCore s.here)).utlb s.me.func page with
  | some x =>
    if write && !x.w then none
    else
      let p := s.placeBy (slotCore s.here) x page
      some { p with pa := p.pa + va % 16384 }
  | none => none

/-- An access of the strand that issues is aligned, is translated to a place, may be made there and is held by
nothing: no walk of the strand, no fetch of the line that it waits for, no fabric operation of the strand on the line, no
engine copy and no remap of the line's row (R65, R71, R72, R174, R175, R386). -/
def State.Reaches (s : State) (o : MemOp) (c : Cap) (p : Place) : Prop :=
  let k := s.cluster (coreClus (slotCore s.here))
  s.me.walking = false ∧ addrKind c.addr = .virtual ∧ (o.bytes ≠ 0 → c.addr.toNat % o.bytes = 0) ∧
    s.spot c.addr.toNat o.writes = some p ∧ (o.writes = true → p.ro = false) ∧
    k.pendingOn s.me.ctx (p.pa / 128) = false ∧ (o.bytes ≠ 0 → k.boardMem p.pa o.bytes o.writes = false) ∧
    s.portOps s.me.ctx (p.pa / 128) = [] ∧ s.wayBusy (coreClus (slotCore s.here)) (p.pa / 128) = false

/-- An access of the strand that issues goes to the byte `q` of its cluster's SRAM through a named tile (R41 to R43), nothing
holds it, and it finds no poison (R252, R386). -/
def State.ReachesTile (s : State) (o : MemOp) (c : Cap) (q : Nat) : Prop :=
  let k := s.cluster (coreClus (slotCore s.here))
  s.me.walking = false ∧ (o.bytes ≠ 0 → c.addr.toNat % o.bytes = 0) ∧
    (∃ n off, addrKind c.addr = .tile n off ∧ k.tileAt s.me.ctx (s.me.nr n) off o.bytes o.writes = .at q) ∧
    s.sramBusy (coreClus (slotCore s.here)) q o.bytes = false ∧ (o.readsTile && k.badAt q o.bytes) = false

/-! Instructions that act on registers only, for statements of what they leave as it was. -/

/-- The register fields of an instruction that acts on the registers of its strand only, as R131 treats them; a destination
stands in it as one. -/
def registerForm (i : Instr) : Option (List Opnd) :=
  match i with
  | .add _ d a b | .adds _ d a b | .sub _ d a b | .mul _ d a b | .mulh _ d a b | .div _ d a b | .rem _ d a b | .and _ d a b
  | .andn _ d a b | .or _ d a b | .xor _ d a b | .shl _ d a b | .shr _ d a b | .rot _ d a b | .min _ d a b | .max _ d a b
  | .cmpEq _ d a b | .cmpNe _ d a b | .cmpLt _ d a b | .cmpLe _ d a b | .cmpGt _ d a b | .cmpGe _ d a b
  | .fadd _ _ d a b | .fsub _ _ d a b | .fmul _ _ d a b | .fdiv _ _ d a b | .fmin _ d a b | .fmax _ d a b
  | .fcmpEq _ d a b | .fcmpLt _ d a b | .fcmpLe _ d a b | .fcmpUn _ d a b => some [a.x, b.x, .xd d]
  | .neg _ d a | .clz _ d a | .ctz _ d a | .popc _ d a | .brev _ d a | .mov _ d a | .addi d a _ | .andi d a _ | .ori d a _
  | .xori d a _ | .shli d a _ | .shriN64 d a _ | .shriS64 d a _ | .cmpi _ _ d a _ | .extr _ d a _ _ | .fsqrt _ _ d a
  | .fclass _ d a | .fcvt _ _ _ _ d a => some [a.x, .xd d]
  | .sel _ d a b | .ffma _ _ d a b => some [a.x, b.x, .xs d false, .xd d]
  | .insr d a _ _ => some [a.x, .xs d false, .xd d]
  | .li d _ | .lea d _ | .widf d _ | .rds d _ | .mpop d _ | .mfirst d _ | .mmovx d _ => some [.xd d]
  | .lih d _ => some [.xs d false, .xd d]
  | .vadd _ d a b _ | .vsub _ d a b _ | .vmul _ d a b _ | .vdiv _ d a b _ | .vmin _ d a b _ | .vmax _ d a b _
  | .vaddInt _ d a b _ | .vsubInt _ d a b _ | .vmulInt _ d a b _ | .vminS _ d a b _ | .vminN _ d a b _ | .vmaxS _ d a b _
  | .vmaxN _ d a b _ | .vshl _ d a b _ | .vshrS _ d a b _ | .vshrN _ d a b _ | .vperm _ d a b _ | .vqnt _ d a b _
  | .vdqnt _ d a b _ | .vand d a b _ | .vor d a b _ | .vxor d a b _ | .vsel d a b _ => some [a.v, b.v, .vd d]
  | .vabs _ d a _ | .vneg _ d a _ | .vsqrt _ d a _ | .vrcp _ d a _ | .vrsq _ d a _ | .vexp2 _ d a _ | .vlog2 _ d a _
  | .vsum _ d a _ | .vrmax _ d a _ | .vrmin _ d a _ | .vnegInt _ d a _ | .vsumInt _ d a _ | .vcmpr _ d a _ | .vexpd _ d a _
  | .vscale _ _ d a _ | .vcvt _ _ _ d a _ | .vnot d a _ | .vmov d a _ => some [a.v, .vd d]
  | .vimad _ d a b _ | .vshuf _ d a b _ => some [a.v, b.v, .vs d false, .vd d]
  | .vfmaF32F64 _ d a b c _ _ | .vfmaBf16F16 _ d a b c _ _ | .vfmsF32F64 _ d a b c _ _ | .vfmsBf16F16 _ d a b c _ _ =>
    some [.vs a false, .vs b false, .vs c false, .vd d]
  | .vcmpEqInt _ _ a b _ | .vcmpLtS _ _ a b _ | .vcmpLtN _ _ a b _ | .vcmp _ _ _ a b _ => some [a.v, b.v]
  | .vbcast _ d a _ => some [a.x, .vd d]
  | .viota _ d _ => some [.vd d]
  | .vins _ d a b _ => some [a.x, b.x, .vd d]
  | .vext _ d a b => some [a.v, b.x, .xd d]
  | .mset _ a => some [a.x]
  | .nop | .mand .. | .mor .. | .mxor .. | .mnot .. => some []
  | _ => none

/-- The mask register that such an instruction writes. -/
def maskDest (i : Instr) : Option (BitVec 3) :=
  match i with
  | .vcmpEqInt _ k _ _ _ | .vcmpLtS _ k _ _ _ | .vcmpLtN _ k _ _ _ | .vcmp _ _ k _ _ _ | .mset k _ | .mand k _ _ | .mor k _ _
  | .mxor k _ _ | .mnot k _ => some k
  | _ => none

/-- Float instructions: they may set flags, and move the LFSR (R109, R94). -/
def raisesFlags (i : Instr) : Bool :=
  match i with
  | .fadd .. | .fsub .. | .fmul .. | .fdiv .. | .fsqrt .. | .ffma .. | .fmin .. | .fmax .. | .fcmpEq .. | .fcmpLt .. | .fcmpLe ..
  | .fcmpUn .. | .fcvt .. | .vadd .. | .vsub .. | .vmul .. | .vdiv .. | .vmin .. | .vmax .. | .vabs .. | .vneg .. | .vsqrt ..
  | .vrcp .. | .vrsq .. | .vexp2 .. | .vlog2 .. | .vsum .. | .vrmax .. | .vrmin .. | .vcmp .. | .vqnt .. | .vdqnt .. | .vcvt ..
  | .vfmaF32F64 .. | .vfmaBf16F16 .. | .vfmsF32F64 .. | .vfmsBf16F16 .. => true
  | _ => false

end Sys2Proof.Machine
end

