-- ==== Sys2Proof/Certificates/Slice0/Obligations.lean ====
section
/-! DEFINITION. The statements for the provers: what the rules of spec/ say that the machine and its instructions do. -/

section

open Sys2Proof Sys2Proof.Machine

/-! Scalar instructions (spec/07_isa_scalar.md). -/

/-- R151 to R154: an integer operation on two sources reads them by its size code, computes exactly and writes the result
modulo 2^w, sign- or zero-extended as the code says. Nothing else of the machine changes but the program counter and
the marks of the destination. x0 reads as 0 and discards the result (R131).

R152, R155: NEG, MOV and the bit counts; SEL, which chooses by the whole of xd.

R155: what the bit counts and BREV compute, bit by bit: CLZ and CTZ give w for 0, and otherwise the place of the
highest and of the lowest one bit; BREV puts bit j at place w-1-j. -/
def Obligations.ScalarIntegersCompute : Prop :=
  (∀ (z : Size) (d : RegNo) (a b : Src) (s : State), s.Issues [a.x, b.x, .xd d] →
     let w := z.w.bits
     let x := readAs z.signed w (s.me.xr a.r).toNat
     let y := readAs z.signed w (s.me.xr b.r).toNat
     let ux := (x % (2 ^ w : Nat)).toNat
     let uy := (y % (2 ^ w : Nat)).toNat
     let c := (s.me.xr b.r).toNat
     let lo : Int := if z.signed then -(2 ^ (w - 1) : Nat) else 0
     let hi : Int := if z.signed then (2 ^ (w - 1) : Nat) - 1 else (2 ^ w : Nat) - 1
     let writes := fun (i : Instr) (v : Int) => exec i s = .next (s.after (s.me.setX d (extendTo z.signed w v)) 4)
     let tells := fun (i : Instr) (p : Bool) => exec i s = .next (s.after (s.me.setX d (if p then 1 else 0)) 4)
     writes (.add z d a b) (x + y) ∧ writes (.sub z d a b) (x - y) ∧ writes (.mul z d a b) (x * y) ∧
     writes (.adds z d a b) (max lo (min hi (x + y))) ∧ writes (.mulh z d a b) (x * y / (2 ^ w : Nat)) ∧
     writes (.div z d a b) (if y = 0 then -1 else x.tdiv y) ∧ writes (.rem z d a b) (if y = 0 then x else x.tmod y) ∧
     writes (.and z d a b) (ux &&& uy : Nat) ∧ writes (.andn z d a b) (ux &&& (2 ^ w - 1 - uy) : Nat) ∧
     writes (.or z d a b) (ux ||| uy : Nat) ∧ writes (.xor z d a b) (ux ^^^ uy : Nat) ∧
     writes (.min z d a b) (min x y) ∧ writes (.max z d a b) (max x y) ∧
     writes (.shl z d a b) (if w ≤ c then 0 else x * (2 ^ c : Nat)) ∧
     writes (.shr z d a b) (if w ≤ c then (if x < 0 then -1 else 0) else x / (2 ^ c : Nat)) ∧
     writes (.rot z d a b) (ux * 2 ^ (c % w) % 2 ^ w + ux / 2 ^ (w - c % w) : Nat) ∧
     tells (.cmpEq z d a b) (x == y) ∧ tells (.cmpNe z d a b) (x != y) ∧ tells (.cmpLt z d a b) (decide (x < y)) ∧
     tells (.cmpLe z d a b) (decide (x ≤ y)) ∧ tells (.cmpGt z d a b) (decide (y < x)) ∧
     tells (.cmpGe z d a b) (decide (y ≤ x))) ∧
  ((∀ (z : Size) (d : RegNo) (a : Src) (s : State), s.Issues [a.x, .xd d] →
     let w := z.w.bits
     let x := readAs z.signed w (s.me.xr a.r).toNat
     let u := (s.me.xr a.r).toNat % 2 ^ w
     let writes := fun (i : Instr) (v : Int) => exec i s = .next (s.after (s.me.setX d (extendTo z.signed w v)) 4)
     let counts := fun (i : Instr) (n : Nat) => exec i s = .next (s.after (s.me.setX d (BitVec.ofNat 64 n)) 4)
     writes (.neg z d a) (-x) ∧ writes (.mov z d a) x ∧ writes (.brev z d a) (reverseBits w u : Nat) ∧
     counts (.clz z d a) (leadingZeros w u) ∧ counts (.ctz z d a) (trailingZeros w u) ∧
     counts (.popc z d a) (countOnes w u)) ∧
   (∀ (z : Size) (d : RegNo) (a b : Src) (s : State), s.Issues [a.x, b.x, .xs d false, .xd d] →
     exec (.sel z d a b) s = .next (s.after (s.me.setX d (extendTo z.signed z.w.bits
       (readAs z.signed z.w.bits (if s.me.xr d ≠ 0 then s.me.xr a.r else s.me.xr b.r).toNat))) 4))) ∧
  (∀ (w v : Nat), v < 2 ^ w →
     (v = 0 → leadingZeros w v = w ∧ trailingZeros w v = w ∧ countOnes w v = 0) ∧
     (v ≠ 0 → leadingZeros w v = w - 1 - Nat.log2 v ∧ v.testBit (trailingZeros w v) = true ∧
       (∀ j, j < trailingZeros w v → v.testBit j = false)) ∧
     countOnes w v = ((List.range w).filter fun j => v.testBit j).length ∧
     (∀ j, j < w → (reverseBits w v).testBit j = v.testBit (w - 1 - j)) ∧ reverseBits w v < 2 ^ w)

/-- R156: the immediate forms act on all 64 bits. No word decodes to a field that runs past bit 63.

R157: the literal forms have two words. -/
def Obligations.ImmediatesAndLiteralsCompute : Prop :=
  ((∀ (d : RegNo) (a : Src) (s : State), s.Issues [a.x, .xd d] →
     let x := s.me.xr a.r
     let writes := fun (i : Instr) (v : Word) => exec i s = .next (s.after (s.me.setX d v) 4)
     (∀ e : BitVec 15, writes (.addi d a e) (x + e.signExtend 64) ∧ writes (.andi d a e) (x &&& e.signExtend 64) ∧
       writes (.ori d a e) (x ||| e.signExtend 64) ∧ writes (.xori d a e) (x ^^^ e.signExtend 64)) ∧
     (∀ n : BitVec 6, writes (.shli d a n) (x <<< n.toNat) ∧ writes (.shriN64 d a n) (x >>> n.toNat) ∧
       writes (.shriS64 d a n) (x.sshiftRight n.toNat)) ∧
     (∀ (u : Bool) (e : BitVec 11),
       let y := e.signExtend 64
       let lt := if u then x.ult y else x.slt y
       let gt := if u then y.ult x else y.slt x
       let tells := fun (c : Cond) (p : Bool) => writes (.cmpi c u d a e) (if p then 1 else 0)
       tells .eq (x == y) ∧ tells .ne (x != y) ∧ tells .lt lt ∧ tells .le (!gt) ∧ tells .gt gt ∧ tells .ge (!lt)) ∧
     (∀ (g : Bool) (lsb wm1 : BitVec 6),
       writes (.extr g d a lsb wm1) (extendTo g (wm1.toNat + 1) (x >>> lsb.toNat).toNat))) ∧
   (∀ (d : RegNo) (a : Src) (lsb wm1 : BitVec 6) (s : State), s.Issues [a.x, .xs d false, .xd d] →
     let m : Word := BitVec.ofNat 64 ((2 ^ (wm1.toNat + 1) - 1) * 2 ^ lsb.toNat)
     exec (.insr d a lsb wm1) s =
       .next (s.after (s.me.setX d ((s.me.xr d &&& ~~~m) ||| ((s.me.xr a.r <<< lsb.toNat) &&& m))) 4)) ∧
   (∀ (g : Bool) (d : RegNo) (a : Src) (lsb wm1 : BitVec 6) (w : BitVec 32) (l : Option (BitVec 32)),
     64 < lsb.toNat + wm1.toNat + 1 → decode w l ≠ .ok (.extr g d a lsb wm1) ∧ decode w l ≠ .ok (.insr d a lsb wm1))) ∧
  ((∀ (d : RegNo) (lit : BitVec 32) (s : State), s.Issues [.xd d] →
     exec (.li d lit) s = .next (s.after (s.me.setX d (lit.signExtend 64)) 8) ∧
     exec (.lea d lit) s = .next (s.after (s.me.setX d (s.me.pc + lit.signExtend 64)) 8)) ∧
   (∀ (d : RegNo) (lit : BitVec 32) (s : State), s.Issues [.xs d false, .xd d] →
     exec (.lih d lit) s = .next (s.after (s.me.setX d (lit ++ (s.me.xr d).extractLsb' 0 32)) 8)))

/-- R14, R108, R109, R158 to R160: reading and writing state registers. A read or a write of %fflags waits while an older
instruction can still set a flag. A written %age of less than 64 stores 64.

R159: while an older instruction of the strand can still set a flag, RDS and WRS of %fflags are held. That a held
instruction leaves a state that only waits is the model's form (log 2).

R14: AGE of every core is 1,024 at reset; a written one is kept between 64 and 65,535, and a pass counter above it
comes down to it. -/
def Obligations.StateRegistersAreReadAndWritten : Prop :=
  ((∀ (d : RegNo) (k : BitVec 3) (s : State), s.Issues [.xd d] →
     exec (.widf d k) s = .next (s.after (s.me.setX d (widField (s.launchOf s.me) s.me.wid k.toNat)) 4)) ∧
   (∀ (d : RegNo) (r : StateReg) (s : State), s.Issues [.xd d] → (r = .fflags → s.me.flagsPending = false) →
     let c := slotCore s.here
     exec (.rds d r) s = .next (s.after (s.me.setX d (match r with
       | .wid => s.me.wid
       | .core => BitVec.ofNat 64 (c % 32)
       | .clus => BitVec.ofNat 64 (c / 32 % 256)
       | .die => BitVec.ofNat 64 (c / 8192 + 8 * s.pkg.toNat)
       | .slot => BitVec.ofNat 64 (s.here % 8)
       | .ptc => (s.die (c / 8192)).ptc
       | .ptcskew => BitVec.ofNat 64 ((s.die (c / 8192)).pkgSkew.toNat + 2 ^ 16 * (s.die (c / 8192)).grpSkew.toNat)
       | .fflags => s.me.fflags
       | .frm => s.me.frm
       | .age => (s.core c).age.zeroExtend 64)) 4)) ∧
   (∀ (r : StateReg) (a : Src) (s : State), s.Issues [a.x] → (r = .fflags → s.me.flagsPending = false) →
     let v := s.me.xr a.r
     exec (.wrs r a) s = .next (match r with
       | .fflags => s.after { s.me with fflags := v &&& 0x3F } 4
       | .frm => s.after { s.me with frm := frmStored v } 4
       | .age => (s.after s.me 4).setCore (slotCore s.here) ((s.core (slotCore s.here)).setAge v)
       | _ => s.after s.me 4))) ∧
  (∀ (d : RegNo) (a : Src) (s : State), s.me.flagsPending = true →
     (s.Issues [.xd d] → exec (.rds d .fflags) s = .next s.waits) ∧
     (s.Issues [a.x] → exec (.wrs .fflags a) s = .next s.waits)) ∧
  ((∀ c, (State.reset.core c).age = 1024) ∧ ∀ (a : Src) (s : State), s.Issues [a.x] →
     let c := slotCore s.here
     let v := (s.me.xr a.r).toNat
     ∃ t, exec (.wrs .age a) s = .next t ∧
       (t.core c).age.toNat = (if v < 64 then 64 else if 65535 < v then 65535 else v) ∧
       (∀ n, Tab.get (t.core c).pass n 0 = min (Tab.get (s.core c).pass n 0) (t.core c).age.toNat))

/-- R162, R163: a scalar float operation that rounds reads the low bits of its sources, writes the code of its result
with the upper bits 0, ORs its flags into %fflags and leaves the LFSR as the rounding left it.

R164 to R166: minimum and maximum, comparisons, FCLASS and FCVT. -/
def Obligations.ScalarFloatsCompute : Prop :=
  ((∀ (p : FTy) (rnd : Round) (d : RegNo) (a b : Src) (s : State), s.Issues [a.x, b.x, .xd d] →
     let t := s.me
     let u := unpack p.fmt ((t.xr a.r).toNat % 2 ^ p.fmt.width)
     let v := unpack p.fmt ((t.xr b.r).toNat % 2 ^ p.fmt.width)
     let writes := fun (i : Instr) (r : FRes) =>
       exec i s = .next (s.after ((t.setX d (BitVec.ofNat 64 r.code)).commit r.flags r.lfsr) 4)
     writes (.fadd p rnd d a b) (fpAdd p.fmt (t.env rnd) u v) ∧ writes (.fsub p rnd d a b) (fpSub p.fmt (t.env rnd) u v) ∧
     writes (.fmul p rnd d a b) (fpMul p.fmt (t.env rnd) u v) ∧ writes (.fdiv p rnd d a b) (fpDiv p.fmt (t.env rnd) u v)) ∧
   (∀ (p : FTy) (rnd : Round) (d : RegNo) (a : Src) (s : State), s.Issues [a.x, .xd d] →
     let r := fpSqrt p.fmt (s.me.env rnd) (unpack p.fmt ((s.me.xr a.r).toNat % 2 ^ p.fmt.width))
     exec (.fsqrt p rnd d a) s = .next (s.after ((s.me.setX d (BitVec.ofNat 64 r.code)).commit r.flags r.lfsr) 4)) ∧
   (∀ (p : FTy) (rnd : Round) (d : RegNo) (a b : Src) (s : State), s.Issues [a.x, b.x, .xs d false, .xd d] →
     let u := fun (r : RegNo) => unpack p.fmt ((s.me.xr r).toNat % 2 ^ p.fmt.width)
     let r := fpFma p.fmt (s.me.env rnd) (u a.r) (u b.r) (u d)
     exec (.ffma p rnd d a b) s = .next (s.after ((s.me.setX d (BitVec.ofNat 64 r.code)).commit r.flags r.lfsr) 4))) ∧
  ((∀ (p : FTy) (d : RegNo) (a b : Src) (s : State), s.Issues [a.x, b.x, .xd d] →
     let f := p.fmt
     let x := (s.me.xr a.r).toNat % 2 ^ f.width
     let y := (s.me.xr b.r).toNat % 2 ^ f.width
     let u := unpack f x
     let v := unpack f y
     let nan := u.isNan || v.isNan
     let sig : Flags := if u.isSig || v.isSig then flagNV else 0
     let writes := fun (i : Instr) (n : Nat) (fl : Flags) =>
       exec i s = .next (s.after ((s.me.setX d (BitVec.ofNat 64 n)).orFlags fl) 4)
     writes (.fmin p d a b) (fpMinMax f false x y).1 (fpMinMax f false x y).2 ∧
     writes (.fmax p d a b) (fpMinMax f true x y).1 (fpMinMax f true x y).2 ∧
     writes (.fcmpEq p d a b) (if nan then 0 else if fpEq u v then 1 else 0) sig ∧
     writes (.fcmpLt p d a b) (if nan then 0 else if fpLt u v then 1 else 0) (if nan then flagNV else 0) ∧
     writes (.fcmpLe p d a b) (if nan then 0 else if fpLt u v || fpEq u v then 1 else 0) (if nan then flagNV else 0) ∧
     writes (.fcmpUn p d a b) (if nan then 1 else 0) sig) ∧
   (∀ (p : FTy) (d : RegNo) (a : Src) (s : State), s.Issues [a.x, .xd d] →
     exec (.fclass p d a) s = .next (s.after (s.me.setX d
       (BitVec.ofNat 64 (fpClass p.fmt ((s.me.xr a.r).toNat % 2 ^ p.fmt.width)))) 4)) ∧
   (∀ (src dst : NumTy) (rnd : Round) (sat : Bool) (d : RegNo) (a : Src) (s : State), s.Issues [a.x, .xd d] →
     let r := convertNum src dst (s.me.env rnd) sat (s.me.xr a.r)
     exec (.fcvt src dst rnd sat d a) s = .next (s.after ((s.me.setX d r.1).commit r.2.1 r.2.2) 4)))

/-- R130, R167 to R169: displacements count in 8 B from the word's address with its low three bits cleared; a call leaves
the header that follows its block in x24 and on the return stack; LOOPN counts down.

R130, R167, R169: a register target whose bits [2:0] and [63:58] are 0 is taken; CALLI reads its target before it
writes x24, and RET pops the return stack. Any other register target traps BLOCK_FRAMING. -/
def Obligations.ControlGoesToItsHeader : Prop :=
  ((∀ (s : State), s.Issues [] →
     exec .nop s = .next (s.after s.me 4) ∧
     ∀ j : BitVec 26, exec (.br j) s = .next (s.sent s.me ((s.me.pc &&& ~~~7#64) + BitVec.ofInt 64 (8 * j.toInt)))) ∧
   (∀ (j : BitVec 26) (s : State), s.Issues [.xd 24] →
     exec (.call j) s = .next ((s.pushReturn s.me.nextHeader).sent (s.me.setX 24 s.me.nextHeader)
       ((s.me.pc &&& ~~~7#64) + BitVec.ofInt 64 (8 * j.toInt)))) ∧
   (∀ (c : BrCond) (a b : RegNo) (j : BitVec 12) (s : State), s.Issues [.xs a false, .xs b false] →
     let x := s.me.xr a
     let y := s.me.xr b
     let taken := match c with
       | .eq => x == y
       | .ne => x != y
       | .lt => x.slt y
       | .ge => !x.slt y
       | .lo => x.ult y
       | .hs => !x.ult y
     exec (.brc c a b j) s = .next (if taken then s.sent s.me ((s.me.pc &&& ~~~7#64) + BitVec.ofInt 64 (8 * j.toInt))
       else s.after s.me 4)) ∧
   (∀ (a : RegNo) (j : BitVec 12) (s : State), s.Issues [.xs a false, .xd a] →
     let t := s.me.setX a (s.me.xr a - 1)
     exec (.loopn a j) s = .next (if s.me.xr a - 1 ≠ 0 then
         s.sent t ((s.me.pc &&& ~~~7#64) + BitVec.ofInt 64 (8 * j.toInt))
       else s.after t 4))) ∧
  ((∀ (a : Src) (s : State), s.Issues [a.x] → (s.me.xr a.r).toNat % 8 = 0 → (s.me.xr a.r).toNat < 2 ^ 58 →
     exec (.bri a) s = .next (s.sent s.me (s.me.xr a.r)) ∧ exec (.ret a) s = .next (s.popReturn.sent s.me (s.me.xr a.r))) ∧
   (∀ (a : Src) (s : State), s.Issues [a.x, .xd 24] → (s.me.xr a.r).toNat % 8 = 0 → (s.me.xr a.r).toNat < 2 ^ 58 →
     exec (.calli a) s =
       .next ((s.pushReturn s.me.nextHeader).sent (s.me.setX 24 s.me.nextHeader) (s.me.xr a.r))) ∧
   (∀ (a : Src) (s : State), (s.me.xr a.r).toNat % 8 ≠ 0 ∨ 2 ^ 58 ≤ (s.me.xr a.r).toNat →
     let traps := fun (i : Instr) => s.TakesTrap i .framing (s.me.xr a.r)
     (s.Issues [a.x] → traps (.bri a) ∧ traps (.ret a)) ∧ (s.Issues [a.x, .xd 24] → traps (.calli a))))

/-- R129, R171: a region is entered with the enable mask narrowed, and control goes to the rejoin header where no lane is
left; VELSE enables the other lanes of the outer mask; VEND restores it. A VIF in a block without a rejoin header
traps BLOCK_FRAMING, one at depth 4 PROTECTION with cause REGION_DEPTH, and VELSE and VEND outside a region
PROTECTION with cause REGION_NONE. -/
def Obligations.RegionsNarrowTheEnableMask : Prop :=
  (∀ (k : BitVec 3) (s s' : State) (v : Nat), s.Issues [] → s.me.region.length < 4 →
    let rejoin := s.me.hdr + BitVec.ofInt 64 (8 * hdrRejoin s.me.hword)
    hdrRejoin s.me.hword ≠ 0 → headerAddr rejoin = true →
    s.code s.me (slotCore s.here) rejoin 8 = .ok s' v → hdrFramed (BitVec.ofNat 64 v) = true →
    let e := s.me.enable &&& s.me.mr k
    let u := { s.me with region := (s.me.enable, s.me.mr k) :: s.me.region, enable := e }
    exec (.vif k) s = .next (s'.setMe (if e = 0 then u.goto rejoin .branch else u.advance 4)).ran) ∧
  (∀ (s : State) (o n : Word) (r : List (Word × Word)), s.Issues [] → s.me.region = (o, n) :: r →
    exec .velse s = .next (s.after { s.me with enable := o &&& ~~~n } 4) ∧
    exec .vend s = .next (s.after { s.me with enable := o, region := r } 4)) ∧
  (∀ (k : BitVec 3) (s : State), s.Issues [] →
    let rejoin := s.me.hdr + BitVec.ofInt 64 (8 * hdrRejoin s.me.hword)
    (hdrRejoin s.me.hword = 0 → s.TakesTrap (.vif k) .framing s.me.hdr) ∧
    (∀ s' v, hdrRejoin s.me.hword ≠ 0 → headerAddr rejoin = true → s.code s.me (slotCore s.here) rejoin 8 = .ok s' v →
      hdrFramed (BitVec.ofNat 64 v) = true → s.me.region.length = 4 →
        s.TakesTrap (.vif k) (.protection 30) s.me.pc) ∧
    (s.me.region = [] →
      s.TakesTrap .velse (.protection 31) s.me.pc ∧ s.TakesTrap .vend (.protection 31) s.me.pc))

/-! Vector and mask instructions (spec/10_isa_vector.md). -/

/-- R216, R217, R220 to R222, R229, R231, R232: a float operation computes each active lane in rising order with the
rounding mode, keeps every inactive lane, ORs the union of the flags into %fflags once and leaves the LFSR as the
last lane left it. The clauses on VRCP, VRSQ, VEXP2 and VLOG2 are the model's choice (log 12): where R222 only bounds
their result, it is a free value within the bound.

R232: VFMA and VFMS round a x b + c and a x b - c once, with mask registers m0 to m3 and the rounding mode of the
instruction; every source stalls while it is empty.

R107, R223, R230: a reduction takes its lanes by the pairwise tree, an inactive lane entering as the operation's
identity (the sign bit for a float sum, NaN for a minimum or a maximum, nothing for an integer sum); lane 0 takes the
result and the other lanes 0. VSCALE leaves the scale of a block and its code in lanes 0 and 1. -/
def Obligations.VectorFloatsCompute : Prop :=
  ((∀ (p : VTy) (d : RegNo) (a b : Src) (m : BitVec 3) (s : State), s.Issues [a.v, b.v, .vd d] →
     let t := s.me
     let w := p.fmt.width
     let x := fun k => lane (t.vr a.r) w k
     let y := fun k => lane (t.vr b.r) w k
     let writes := fun (i : Instr) (f : REnv → Nat → FRes) =>
       exec i s = .next (s.after (t.putLanes d w (t.vecLanes w (frmMode t.frm) m d f)) 4)
     writes (.vadd p d a b m) (fun env k => fpAdd p.fmt env (unpack p.fmt (x k)) (unpack p.fmt (y k))) ∧
     writes (.vsub p d a b m) (fun env k => fpSub p.fmt env (unpack p.fmt (x k)) (unpack p.fmt (y k))) ∧
     writes (.vmul p d a b m) (fun env k => fpMul p.fmt env (unpack p.fmt (x k)) (unpack p.fmt (y k))) ∧
     writes (.vdiv p d a b m) (fun env k => fpDiv p.fmt env (unpack p.fmt (x k)) (unpack p.fmt (y k))) ∧
     writes (.vmin p d a b m) (fun env k => env.plain (fpMinMax p.fmt false (x k) (y k))) ∧
     writes (.vmax p d a b m) (fun env k => env.plain (fpMinMax p.fmt true (x k) (y k)))) ∧
   (∀ (p : VTy) (d : RegNo) (a : Src) (m : BitVec 3) (s : State), s.Issues [a.v, .vd d] →
     let t := s.me
     let w := p.fmt.width
     let x := fun k => lane (t.vr a.r) w k
     let writes := fun (i : Instr) (f : REnv → Nat → FRes) =>
       exec i s = .next (s.after (t.putLanes d w (t.vecLanes w (frmMode t.frm) m d f)) 4)
     let nan := fun k => (unpack p.fmt (x k)).isNan
     writes (.vabs p d a m) (fun env k => ⟨if nan k then x k else x k % p.fmt.signBit, 0, env.lfsr⟩) ∧
     writes (.vneg p d a m) (fun env k => ⟨if nan k then x k else x k ^^^ p.fmt.signBit, 0, env.lfsr⟩) ∧
     writes (.vsqrt p d a m) (fun env k => fpSqrt p.fmt env (unpack p.fmt (x k))) ∧
     writes (.vrcp p d a m) (fun env k => env.plain (vrcpElem p (x k))) ∧
     writes (.vrsq p d a m) (fun env k => env.plain (vrsqElem p (x k))) ∧
     writes (.vexp2 p d a m) (fun env k => env.plain (vexp2Elem p (x k))) ∧
     writes (.vlog2 p d a m) (fun env k => env.plain (vlog2Elem p (x k)))) ∧
   (∀ (n : Narrow) (d : RegNo) (a b : Src) (m : BitVec 3) (s : State), s.Issues [a.v, b.v, .vd d] →
     let t := s.me
     let scale := unpack .f32 (lane (t.vr b.r) 32 0)
     exec (.vqnt n d a b m) s = .next (s.after (t.putLanes d 8 (mapLanes (frmMode t.frm) (t.lit m) (lane (t.vr d) 8)
       (fun env k => quantElem n scale env (lane (t.vr a.r) 32 k)) (List.range 16) (frmLfsr t.frm))) 4) ∧
     exec (.vdqnt n d a b m) s = .next (s.after (t.putLanes d 32 (t.vecLanes 32 (frmMode t.frm) m d
       fun env k => dequantElem n scale env (lane (t.vr a.r) 8 k))) 4)) ∧
   (∀ (src dst : Elem) (sat : Bool) (d : RegNo) (a : Src) (m : BitVec 3) (s : State), s.Issues [a.v, .vd d] →
     let t := s.me
     let ws := max 8 src.bits
     let wd := max 8 dst.bits
     exec (.vcvt src dst sat d a m) s = .next (s.after (t.putLanes d wd (mapLanes (frmMode t.frm) (t.lit m)
       (lane (t.vr d) wd) (fun env k => convertElem src dst env sat (lane (t.vr a.r) ws k % 2 ^ src.bits))
       (List.range (512 / max ws wd)) (frmLfsr t.frm))) 4))) ∧
  (∀ (wide : Bool) (d a b c : RegNo) (m : BitVec 2) (rnd : Round) (s : State),
     s.Issues [.vs a false, .vs b false, .vs c false, .vd d] →
     let t := s.me
     let writes := fun (i : Instr) (p : VTy) (sub : Bool) =>
       let f := p.fmt
       let z := fun k => unpack f (lane (t.vr c) f.width k)
       exec i s = .next (s.after (t.putLanes d f.width (t.vecLanes f.width (t.mode rnd) (m.zeroExtend 3) d fun env k =>
         fpFma f env (unpack f (lane (t.vr a) f.width k)) (unpack f (lane (t.vr b) f.width k))
           (if sub && !(z k).isNan then (z k).negate else z k))) 4)
     writes (.vfmaF32F64 wide d a b c m rnd) (if wide then .f64 else .f32) false ∧
     writes (.vfmaBf16F16 wide d a b c m rnd) (if wide then .f16 else .bf16) false ∧
     writes (.vfmsF32F64 wide d a b c m rnd) (if wide then .f64 else .f32) true ∧
     writes (.vfmsBf16F16 wide d a b c m rnd) (if wide then .f16 else .bf16) true) ∧
  ((∀ (p : VTy) (d : RegNo) (a : Src) (m : BitVec 3) (s : State), s.Issues [a.v, .vd d] →
     let t := s.me
     let w := p.fmt.width
     let n := Nat.log2 (512 / w)
     let mode := frmMode t.frm
     let reduces := fun (i : Instr) (off : Nat) (f : BitVec 32 → Nat → Nat → FRes) =>
       exec i s = .next (s.after (t.putLanes d w (reduceTree f n
         ⟨(List.range (2 ^ n)).map fun k => if t.lit m k then lane (t.vr a.r) w k else off, 0, frmLfsr t.frm⟩)) 4)
     reduces (.vsum p d a m) p.fmt.signBit (fun l x y => fpAdd p.fmt ⟨mode, l⟩ (unpack p.fmt x) (unpack p.fmt y)) ∧
     reduces (.vrmax p d a m) (p.fmt.nan.getD 0) (fun l x y => REnv.plain ⟨mode, l⟩ (fpMinMax p.fmt true x y)) ∧
     reduces (.vrmin p d a m) (p.fmt.nan.getD 0) (fun l x y => REnv.plain ⟨mode, l⟩ (fpMinMax p.fmt false x y))) ∧
   (∀ (w : Width) (d : RegNo) (a : Src) (m : BitVec 3) (s : State), s.Issues [a.v, .vd d] →
     exec (.vsumInt w d a m) s = .next (s.after (s.me.setV d (packLanes w.bits
       [((s.me.litLanes m (512 / w.bits)).map fun k => lane (s.me.vr a.r) w.bits k).sum])) 4)) ∧
   (∀ (n : Narrow) (e4m3 : Bool) (d : RegNo) (a : Src) (m : BitVec 3) (s : State), s.Issues [a.v, .vd d] →
     let r := blockScale n e4m3 ((s.me.litLanes m 16).map fun k => lane (s.me.vr a.r) 32 k)
     exec (.vscale n e4m3 d a m) s = .next (s.after (s.me.setV d (packLanes 32 [r.1, r.2])) 4)))

/-- R224, R226, R228: operations that neither round nor raise a flag write each active lane modulo 2^w and keep every
inactive one.

R226: bitwise operations and moves act on 16 lanes of 32 bits; VSEL chooses by the mask where the lane is enabled.

R225, R227: a comparison writes one mask bit for each lane, 0 for an inactive one and for the bits above the lanes;
mask operations ignore the enable mask, and a write of m0 is discarded. -/
def Obligations.VectorIntegersAndMasksCompute : Prop :=
  ((∀ (z : Width) (d : RegNo) (a b : Src) (m : BitVec 3) (s : State), s.Issues [a.v, b.v, .vd d] →
     let t := s.me
     let w := z.bits
     let x := fun k => lane (t.vr a.r) w k
     let y := fun k => lane (t.vr b.r) w k
     let sx := fun k => signedOf (x k) w
     let sy := fun k => signedOf (y k) w
     let writes := fun (i : Instr) (f : Nat → Int) =>
       exec i s = .next (s.after (t.setLanes w m d fun k => (f k % (2 ^ w : Nat)).toNat) 4)
     writes (.vaddInt z d a b m) (fun k => (x k : Int) + y k) ∧ writes (.vsubInt z d a b m) (fun k => (x k : Int) - y k) ∧
     writes (.vmulInt z d a b m) (fun k => (x k : Int) * y k) ∧
     writes (.vminS z d a b m) (fun k => min (sx k) (sy k)) ∧ writes (.vmaxS z d a b m) (fun k => max (sx k) (sy k)) ∧
     writes (.vminN z d a b m) (fun k => (min (x k) (y k) : Nat)) ∧
     writes (.vmaxN z d a b m) (fun k => (max (x k) (y k) : Nat)) ∧
     writes (.vshl z d a b m) (fun k => (if w ≤ y k then 0 else x k * 2 ^ y k : Nat)) ∧
     writes (.vshrN z d a b m) (fun k => (if w ≤ y k then 0 else x k / 2 ^ y k : Nat)) ∧
     writes (.vshrS z d a b m) (fun k => sx k / (2 ^ min (y k) w : Nat)) ∧
     exec (.vperm z d a b m) s = .next (s.after (t.setLanes w m d fun k => x (y k % (512 / w))) 4)) ∧
   (∀ (z : Width) (d : RegNo) (a b : Src) (m : BitVec 3) (s : State), s.Issues [a.v, b.v, .vs d false, .vd d] →
     let t := s.me
     let w := z.bits
     let l := 512 / w
     exec (.vimad z d a b m) s = .next (s.after (t.setLanes w m d fun k =>
       lane (t.vr a.r) w k * lane (t.vr b.r) w k + lane (t.vr d) w k) 4) ∧
     exec (.vshuf z d a b m) s = .next (s.after (t.setLanes w m d fun k =>
       let j := lane (t.vr d) w k % (2 * l)
       if j < l then lane (t.vr a.r) w j else lane (t.vr b.r) w (j - l)) 4)) ∧
   (∀ (z : Width) (d : RegNo) (a : Src) (m : BitVec 3) (s : State), s.Issues [a.v, .vd d] →
     let t := s.me
     let w := z.bits
     exec (.vnegInt z d a m) s = .next (s.after (t.setLanes w m d fun k => 2 ^ w - lane (t.vr a.r) w k) 4) ∧
     exec (.vexpd z d a m) s = .next (s.after (t.setLanes w m d fun k =>
       lane (t.vr a.r) w ((List.range k).filter fun i => t.lit m i).length) 4) ∧
     exec (.vcmpr z d a m) s = .next (s.after (t.setV d (packLanes w
       (((List.range (512 / w)).filter fun i => t.lit m i).map fun k => lane (t.vr a.r) w k))) 4)) ∧
   (∀ (z : Width) (d : RegNo) (m : BitVec 3) (s : State), s.Issues [.vd d] →
     exec (.viota z d m) s = .next (s.after (s.me.setLanes z.bits m d fun k => k) 4)) ∧
   (∀ (z : Width) (d : RegNo) (a : Src) (m : BitVec 3) (s : State), s.Issues [a.x, .vd d] →
     exec (.vbcast z d a m) s =
       .next (s.after (s.me.setLanes z.bits m d fun _ => (s.me.xr a.r).toNat % 2 ^ z.bits) 4)) ∧
   (∀ (z : Width) (d : RegNo) (a b : Src) (m : BitVec 3) (s : State), s.Issues [a.x, b.x, .vd d] →
     exec (.vins z d a b m) s = .next (s.after (s.me.setLanes z.bits m d fun k =>
       if (s.me.xr b.r).toNat = k then (s.me.xr a.r).toNat % 2 ^ z.bits else lane (s.me.vr d) z.bits k) 4)) ∧
   (∀ (z : Width) (d : RegNo) (a b : Src) (s : State), s.Issues [a.v, b.x, .xd d] →
     let k := (s.me.xr b.r).toNat
     exec (.vext z d a b) s = .next (s.after (s.me.setX d
       (if k < 512 / z.bits then BitVec.ofNat 64 (lane (s.me.vr a.r) z.bits k) else 0)) 4))) ∧
  ((∀ (d : RegNo) (a b : Src) (m : BitVec 3) (s : State), s.Issues [a.v, b.v, .vd d] →
     let t := s.me
     let writes := fun (i : Instr) (v : Vec) => exec i s = .next (s.after (t.setLanes 32 m d fun k => lane v 32 k) 4)
     writes (.vand d a b m) (t.vr a.r &&& t.vr b.r) ∧ writes (.vor d a b m) (t.vr a.r ||| t.vr b.r) ∧
     writes (.vxor d a b m) (t.vr a.r ^^^ t.vr b.r) ∧
     exec (.vsel d a b m) s = .next (s.after (t.setLanes 32 0 d fun k =>
       if (t.mr m).getLsbD k then lane (t.vr a.r) 32 k else lane (t.vr b.r) 32 k) 4)) ∧
   (∀ (d : RegNo) (a : Src) (m : BitVec 3) (s : State), s.Issues [a.v, .vd d] →
     let t := s.me
     exec (.vnot d a m) s = .next (s.after (t.setLanes 32 m d fun k => lane (~~~(t.vr a.r)) 32 k) 4) ∧
     exec (.vmov d a m) s = .next (s.after (t.setLanes 32 m d fun k => lane (t.vr a.r) 32 k) 4))) ∧
  ((∀ (z : Width) (k : BitVec 3) (a b : Src) (m : BitVec 3) (s : State), s.Issues [a.v, b.v] →
     let t := s.me
     let w := z.bits
     let x := fun j => lane (t.vr a.r) w j
     let y := fun j => lane (t.vr b.r) w j
     let tells := fun (i : Instr) (p : Nat → Bool) =>
       exec i s = .next (s.after (t.setM k (maskOf (512 / w) fun j => t.lit m j && p j)) 4)
     tells (.vcmpEqInt z k a b m) (fun j => x j == y j) ∧
     tells (.vcmpLtS z k a b m) (fun j => decide (signedOf (x j) w < signedOf (y j) w)) ∧
     tells (.vcmpLtN z k a b m) (fun j => decide (x j < y j))) ∧
   (∀ (p : VTy) (c : VCond) (k : BitVec 3) (a b : Src) (m : BitVec 3) (s : State), s.Issues [a.v, b.v] →
     let t := s.me
     let w := p.fmt.width
     let r := mapLanes (frmMode t.frm) (t.lit m) (fun _ => 0)
       (fun env j => env.plain (vecCond c p.fmt (lane (t.vr a.r) w j) (lane (t.vr b.r) w j)))
       (List.range (512 / w)) (frmLfsr t.frm)
     exec (.vcmp p c k a b m) s = .next (s.after ((t.setM k (BitVec.ofNat 64 (packNat 1 r.vals))).orFlags r.flags) 4)) ∧
   (∀ (k i j : BitVec 3) (s : State), s.Issues [] →
     let t := s.me
     exec (.mand k i j) s = .next (s.after (t.setM k (t.mr i &&& t.mr j)) 4) ∧
     exec (.mor k i j) s = .next (s.after (t.setM k (t.mr i ||| t.mr j)) 4) ∧
     exec (.mxor k i j) s = .next (s.after (t.setM k (t.mr i ^^^ t.mr j)) 4) ∧
     exec (.mnot k i) s = .next (s.after (t.setM k (~~~(t.mr i))) 4)) ∧
   (∀ (k : BitVec 3) (a : Src) (s : State), s.Issues [a.x] →
     exec (.mset k a) s = .next (s.after (s.me.setM k (s.me.xr a.r)) 4)) ∧
   (∀ (d : RegNo) (i : BitVec 3) (s : State), s.Issues [.xd d] →
     let t := s.me
     let on := (List.range 64).filter fun k => (t.mr i).getLsbD k
     exec (.mpop d i) s = .next (s.after (t.setX d (BitVec.ofNat 64 on.length)) 4) ∧
     exec (.mfirst d i) s = .next (s.after (t.setX d (BitVec.ofNat 64 (on.head?.getD 64))) 4) ∧
     exec (.mmovx d i) s = .next (s.after (t.setX d (t.mr i)) 4)))

/-- R216, R217, R220: lane by lane, what a lane operation leaves in its destination. An active lane takes its result
modulo 2^w, an inactive lane keeps its value, and no other v register, no x register and no mask register of the
strand changes. -/
def Obligations.InactiveLanesKeepTheirValues : Prop :=
  ∀ (t : Strand) (d : RegNo) (m : BitVec 3) (w : Nat), w ∈ [8, 16, 32, 64] →
    (∀ (f : Nat → Nat) (k : Nat), k < 512 / w →
      lane ((t.setLanes w m d f).vr d) w k = if t.lit m k then f k % 2 ^ w else lane (t.vr d) w k) ∧
    (∀ (mode : Round) (f : REnv → Nat → FRes) (k : Nat), k < 512 / w → t.lit m k = false →
      lane ((t.putLanes d w (t.vecLanes w mode m d f)).vr d) w k = lane (t.vr d) w k) ∧
    (∀ (mode : Round) (f : Nat → Nat × Flags) (k : Nat), k < 512 / w → t.lit m k = true →
      lane ((t.putLanes d w (t.vecLanes w mode m d fun env j => env.plain (f j))).vr d) w k = (f k).1 % 2 ^ w) ∧
    (∀ (mode : Round) (f : REnv → Nat → FRes) (g : Nat → Nat),
      let a := t.setLanes w m d g
      let b := t.putLanes d w (t.vecLanes w mode m d f)
      (∀ q, q ≠ d → a.vr q = t.vr q ∧ b.vr q = t.vr q) ∧ (∀ q, a.xr q = t.xr q ∧ b.xr q = t.xr q) ∧
      ∀ k, a.mr k = t.mr k ∧ b.mr k = t.mr k)

/-! Memory instructions (spec/08_isa_memory.md). -/

/-- R56, R71, R176, R177: a load of memory of the strand's own die takes a replay-queue entry and leaves its destination
empty. LD and LDV read through the cluster cache, and by a read at home where the range is uncached or no bank is in
CACHE mode; LDG reads at home and sends the cluster's copy of the line home first.

R56, R71, R176, R177: ST and STV write the line in the cluster cache; STS, and every store to an uncached range or
with no bank in CACHE mode, sends the cluster's copy of the line home and then queues the write of exactly the bytes
stored. The entry is freed at once. -/
def Obligations.LoadsAndStoresReachTheirLine : Prop :=
  (∀ (i : Instr) (s : State) (ops : List Opnd) (o : MemOp) (c : Cap) (u : Strand) (p : Place),
     memoryForm s.me i = some (ops, o, c, u) → s.Issues ops → s.Reaches o c p →
     let w := s.whoAt s.here
     let s1 := s.enter i o c .flight u
     let line := p.pa / 128
     let off := p.pa % 128
     let k := s.cluster w.clus
     p.remote w.die = false →
       (∀ z d, o = .load z d false → exec i s = .next (if p.unc = false ∧ k.caches = true then
           s1.loadCached w p c.addr line off z.w.bytes s.serial (.x s.me.ctx s.serial d z)
         else s1.post w c.addr line (.read off z.w.bytes (.x s.me.ctx s.serial d z)) s.serial [] true).ran) ∧
       (∀ d, o = .loadV d → exec i s = .next (if p.unc = false ∧ k.caches = true then
           s1.loadCached w p c.addr line off 64 s.serial (.v s.me.ctx s.serial d)
         else s1.post w c.addr line (.read off 64 (.v s.me.ctx s.serial d)) s.serial [] true).ran) ∧
       (∀ z d, o = .load z d true → exec i s = .next
         ((s1.evictLine w line).post w c.addr line
           (.read off z.w.bytes (.x s.me.ctx s.serial d z)) s.serial [] true).ran)) ∧
  (∀ (i : Instr) (s : State) (ops : List Opnd) (o : MemOp) (c : Cap) (u : Strand) (p : Place),
     memoryForm s.me i = some (ops, o, c, u) → s.Issues ops → s.Reaches o c p →
     let w := s.whoAt s.here
     let s1 := s.enter i o c .flight u
     let line := p.pa / 128
     let off := p.pa % 128
     let k := s.cluster w.clus
     let stores := fun (cached : Bool) (v n : Nat) => exec i s = .next
       ((if cached then s1.storeCached w p c.addr line off n v
         else (s1.evictLine w line).postNew w c.addr line (.write (lineAt v off) (byteMask off n) false) []).freeAt
           s.here s.serial).ran
     p.remote w.die = false →
       (∀ z home, o = .store z home →
         stores (!home && !p.unc && k.caches) (c.opb.toNat % 2 ^ (8 * z.w.bytes)) z.w.bytes) ∧
       (o = .storeV → stores (!p.unc && k.caches) c.vop.toNat 64))

/-- R179: PF queues a fetch of a line that the cluster does not hold; FLUSH sends the cluster's line home; INVL drops an
S line and sends a D line home, and leaves an A line. None of them changes a register.

R188, R189: GET reads and PUT writes at the home of the line, on any die, after the cluster's own copy has gone home;
a PUTF follows every earlier item of the strand to memory of the same die. -/
def Obligations.LineControlAndRemoteAccesses : Prop :=
  (∀ (i : Instr) (s : State) (ops : List Opnd) (o : MemOp) (c : Cap) (u : Strand) (p : Place),
     memoryForm s.me i = some (ops, o, c, u) → s.Issues ops → s.Reaches o c p →
     let w := s.whoAt s.here
     let s1 := s.enter i o c .flight u
     let line := p.pa / 128
     let k := s.cluster w.clus
     let does := fun (s' : State) => exec i s = .next (s'.freeAt s.here s.serial).ran
     let cached := p.remote w.die = false ∧ p.unc = false ∧ k.caches = true
     (o = .prefetch → (cached → k.findLine line = none → does (s1.queueFetch w p c.addr line [] [])) ∧
       (¬cached ∨ (k.findLine line).isSome = true → does s1)) ∧
     (o = .flush → (cached → does (s1.evictLine w line)) ∧ (¬cached → does s1)) ∧
     (o = .invl →
       (cached → ∀ x, k.findLine line = some x → x.st ≠ LState.a → does (s1.evictLine w line)) ∧
       (¬cached ∨ k.findLine line = none ∨ (∃ x, k.findLine line = some x ∧ x.st = LState.a) → does s1))) ∧
  (∀ (i : Instr) (s : State) (ops : List Opnd) (o : MemOp) (c : Cap) (u : Strand) (p : Place),
     memoryForm s.me i = some (ops, o, c, u) → s.Issues ops → s.Reaches o c p →
     let w := s.whoAt s.here
     let s1 := s.enter i o c .flight u
     let line := p.pa / 128
     let off := p.pa % 128
     ((s.core w.core).region c.addr.toNat).map rgnDom ≠ some .cluster →
       let s2 := if p.remote w.die then s1 else s1.evictLine w line
       (∀ z d, o = .get z d → exec i s = .next
         (s2.post w c.addr line (.read off z.w.bytes (.x s.me.ctx s.serial d z)) s.serial [] true).ran) ∧
       (∀ z ordered, o = .put z ordered → exec i s = .next
         ((s2.postNew w c.addr line
           (.write (lineAt (c.opb.toNat % 2 ^ (8 * z.w.bytes)) off) (byteMask off z.w.bytes) false)
           (if ordered then s.before s.me.ctx (servedAt w.die line) else [])).freeAt s.here s.serial).ran))

/-- R55, R181 to R184: an atomic acts where its range places it. A SYSTEM one goes to the fabric port, one of a CLUSTER
range to the cluster atomic unit, and any other to the home slice after the cluster's copy of the line. AMO, CAS and
FAMO hold their entry for the old value; RED and FRED free it at once and take a number of their own. -/
def Obligations.AtomicsGoWhereTheirRangeSays : Prop :=
  ∀ (i : Instr) (s : State) (ops : List Opnd) (o : MemOp) (c : Cap) (u : Strand) (p : Place),
    memoryForm s.me i = some (ops, o, c, u) → s.Issues ops → s.Reaches o c p →
    let w := s.whoAt s.here
    let s1 := s.enter i o c .flight u
    let line := p.pa / 128
    let off := p.pa % 128
    let k := s.cluster w.clus
    let goes := fun (s' : State) (r : AtomReq) (sink : Sink) (e : Nat) =>
      if p.dom = .system then s'.toPort w p c.addr r sink e
      else if p.dom = .cluster ∧ p.unc = false ∧ k.caches = true then s'.atomCluster w p c.addr line off e r sink
      else (if p.remote w.die then s' else s'.evictLine w line).post w c.addr line (.atomic r off sink) e [] r.returning
    let returns := fun (r : AtomReq) (d : RegNo) (ty : NumTy) =>
      exec i s = .next (goes s1 r (.x s.me.ctx s.serial d ty.size) s.serial).ran
    let posts := fun (r : AtomReq) =>
      exec i s = .next ((goes s1.fresh r .discard s1.serial).freeAt s.here s.serial).ran
    (∀ op ty d, o = .amo op ty (some d) → returns ⟨.amo op ty, c.opb, 0, true⟩ d ty) ∧
    (∀ op ty, o = .amo op ty none → posts ⟨.amo op ty, c.opb, 0, false⟩) ∧
    (∀ ty d, o = .cas ty d → returns ⟨.cas ty, c.opb, c.opd, true⟩ d ty) ∧
    (∀ op ty d, o = .famo op ty (some d) →
      returns ⟨.famo op ty (frmMode c.opd) (c.opd.extractLsb' 32 24), c.opb, 0, true⟩ d ty) ∧
    (∀ op ty, o = .famo op ty none → posts ⟨.famo op ty (frmMode c.opd) (c.opd.extractLsb' 32 24), c.opb, 0, false⟩)

/-- R37, R43, R71, R186: an access to a named tile is made in order at its bank. A load delivers the bytes, a store
writes them, an atomic of integers or floats writes its new value, and delivers the old one with its flags, or frees
its entry and counts them at the bank. -/
def Obligations.TileAccessesActAtTheBank : Prop :=
  ∀ (i : Instr) (s : State) (ops : List Opnd) (o : MemOp) (c : Cap) (u : Strand) (q : Nat),
    memoryForm s.me i = some (ops, o, c, u) → s.Issues ops → s.ReachesTile o c q →
    let n := slotCore s.here / 32
    let k := s.cluster n
    let s1 := s.enter i o c .flight u
    let frees := fun (k' : Cluster) => exec i s = .next ((s1.setCluster n k').freeAt s.here s.serial).ran
    (∀ z d home, o = .load z d home →
      exec i s = .next (s1.deliver (.x s.me.ctx s.serial d z) (k.readSram q z.w.bytes)).ran) ∧
    (∀ d, o = .loadV d → exec i s = .next (s1.deliver (.v s.me.ctx s.serial d) (k.readSram q 64)).ran) ∧
    (∀ z home, o = .store z home → frees (k.writeSram q (c.opb.toNat % 2 ^ (8 * z.w.bytes)) z.w.bytes)) ∧
    (o = .storeV → frees (k.writeSram q c.vop.toNat 64)) ∧
    (∀ op ty, o = .amo op ty none →
      frees ((k.writeSram q (AtomReq.apply ⟨.amo op ty, c.opb, 0, false⟩ (k.readSram q ty.bytes)).1 ty.bytes).countBank
        (q / 16384) 0)) ∧
    (∀ op ty d, o = .amo op ty (some d) →
      let old := k.readSram q ty.bytes
      exec i s = .next ((s1.setCluster n
        (k.writeSram q (AtomReq.apply ⟨.amo op ty, c.opb, 0, true⟩ old).1 ty.bytes)).deliver
          (.x s.me.ctx s.serial d ty.size) old).ran) ∧
    (∀ ty d, o = .cas ty d →
      let old := k.readSram q ty.bytes
      exec i s = .next ((s1.setCluster n (k.writeSram q (if old = c.opd.toNat % 2 ^ ty.bits then
        c.opb.toNat % 2 ^ ty.bits else old) ty.bytes)).deliver (.x s.me.ctx s.serial d ty.size) old).ran) ∧
    (∀ op ty d, o = .famo op ty (some d) →
      let old := k.readSram q ty.bytes
      let v := AtomReq.apply ⟨.famo op ty (frmMode c.opd) (c.opd.extractLsb' 32 24), c.opb, 0, true⟩ old
      exec i s = .next (((s1.setCluster n (k.writeSram q v.1 ty.bytes)).deliver (.x s.me.ctx s.serial d ty.size) old).sinkFlags
        (.x s.me.ctx s.serial d ty.size) v.2).ran) ∧
    (∀ op ty, o = .famo op ty none →
      let v := AtomReq.apply ⟨.famo op ty (frmMode c.opd) (c.opd.extractLsb' 32 24), c.opb, 0, false⟩ (k.readSram q ty.bytes)
      frees ((k.writeSram q v.1 ty.bytes).countBank (q / 16384) v.2))

/-- R72, R178, R271: LDP reads the bytes within its window's limit, from the window's base and through the translations
that the strand has; it is gathered piece by piece, each read as LD reads, or at its home, and behind the strand's
own atomics on the line at a fabric port. Its ADDR is the virtual address.

R57 to R59, R185: FRED.ADD and VRED in an accumulate range that is neither compensated nor read-only add to an A line
of the cluster, or queue the increment for the home where the memory is another die's, the range is uncached or no
bank is in CACHE mode. In a compensated range, each f32 element goes home as an increment of a pair, with the place
of its companion. They issue once they are translated, the companion with them, and take no entry. -/
def Obligations.WindowLoadsAndIncrements : Prop :=
  (∀ (z : Size) (d : RegNo) (k : BitVec 3) (a : Src) (off : BitVec 9) (s : State) (spots : List (Nat × Place)),
     let o := s.me.xr a.r + BitVec.ofNat 64 (off.toNat * z.w.bytes)
     let win := s.window s.me k
     let c : Cap := { addr := BitVec.ofNat 64 win.1 + o, opa := s.me.xr a.r }
     let n := min z.w.bytes (win.2 - o.toNat)
     let at' := (win.1 + o.toNat) % 2 ^ 58
     let cells := pieces at' n
     let s1 := s.enter (.ldp z d k a off) (.ldp z d k) c .flight s.me
     let w := s.whoAt s.here
     let cl := s.cluster w.clus
     s.Issues [a.x, .xd d] → s.me.walking = false → o.toNat % z.w.bytes = 0 → win.2 ≠ 0 →
     s1.resolve (s1.strand s.here) w.core [] false (pagesOf cells) = .ok spots →
     (∀ q ∈ cells, ∀ p, spotOf spots q.1 = some p →
       cl.pendingOn s.me.ctx (p.pa / 128) = false ∧ cl.boardMem p.pa q.2 false = false ∧
         s.wayBusy w.clus (p.pa / 128) = false) →
       let g : Gather := ⟨s.serial, cells.length, [], none, .x s.me.ctx s.serial d z (decide (n < z.w.bytes))⟩
       let s2 : State := { s1 with gathers := s1.gathers.put s.serial g }
       exec (.ldp z d k a off) s = .next (cells.foldl (fun s' q => match spotOf spots q.1 with
         | some p =>
           let va := BitVec.ofNat 64 q.1
           let sink := Sink.gather s.serial (q.1 - at')
           let behind := s'.portOps s.me.ctx (p.pa / 128)
           let home := p.remote w.die || p.unc || !(s'.cluster w.clus).caches
           if home || !behind.isEmpty then
             let s3 := if home then s' else s'.evictLine w (p.pa / 128)
             s3.fresh.post w va (p.pa / 128) (.read (p.pa % 128) q.2 sink) s3.serial behind true
           else s'.fresh.loadCached w p va (p.pa / 128) (p.pa % 128) q.2 s'.serial sink
         | none => s') s2).sweep.ran) ∧
  ((∀ (s : State) (a b : Src) (g : BitVec 128) (spots : List (Nat × Place)),
     let va := s.me.xr a.r
     let w := s.whoAt s.here
     s.me.walking = false → addrKind va = .virtual → (s.core w.core).region va.toNat = some g →
     rgnAcc g = true → rgnRo g = false → rgnCmp g = true → (spotOf spots va.toNat).all (s.incDirect w ·) = true →
       let pairs := fun (i : Instr) (n v : Nat) =>
         let cells := [(va.toNat, n), (va.toNat + rgnCstr g, n)]
         s.compOk w.core [(va.toNat + rgnCstr g, n)] = true → s.resolve s.me w.core [] true (pagesOf cells) = .ok spots →
         (spotOf spots va.toNat).isSome = true → (s.cluster w.clus).blocks s.me.ctx spots true cells = false →
         exec i s = .next (((List.range (n / 4)).foldl (fun s' j =>
           match spotOf spots (va.toNat + 4 * j), spotOf spots (va.toNat + 4 * j + rgnCstr g) with
           | some q, some r => s'.increment w q (va + BitVec.ofNat 64 (4 * j)) .f32c (v / 2 ^ (32 * j) % 2 ^ 32) r.pa
           | _, _ => s') s).setMe (s.me.advance 4)).ran
       (s.Issues [a.x, b.x] → va.toNat % 4 = 0 → pairs (.fredAdd a b) 4 ((s.me.xr b.r).toNat % 2 ^ 32)) ∧
       (s.Issues [a.x, b.v] → va.toNat % 64 = 0 → pairs (.vred .f32 a b) 64 (s.me.vr b.r).toNat)) ∧
   (∀ (s : State) (w : Who) (p : Place) (va : Word) (v comp : Nat), s.incDirect w p = true →
     s.increment w p va .f32c v comp = (if p.remote w.die then s else s.evictLine w (p.pa / 128)).postNew w va (p.pa / 128)
       (.incrc (p.pa % 128) (BitVec.ofNat 32 v) comp) []) ∧
   ∀ (s : State) (a b : Src) (g : BitVec 128) (p : Place),
     let va := s.me.xr a.r
     let w := s.whoAt s.here
     let k := s.cluster w.clus
     let line := p.pa / 128
     let off := p.pa % 128
     s.me.walking = false → s.me.walk = none → addrKind va = .virtual → s.spot va.toNat true = some p →
     (s.core w.core).region va.toNat = some g → rgnAcc g = true → rgnRo g = false → rgnCmp g = false →
     k.pendingOn s.me.ctx line = false → s.wayBusy w.clus line = false →
       let adds := fun (i : Instr) (n : Nat) (f : IncFmt) (v : Nat) => k.boardMem p.pa n true = false →
         exec i s = .next (((if p.remote w.die || p.unc || !k.caches then
             (if p.remote w.die then s else s.evictLine w line).postNew w va line
               (.incr f (lineAt v off) (byteMask off n)) []
           else s.addLocal w p va line f (lineAt v off) (byteMask off n))).setMe (s.me.advance 4)).ran
       (s.Issues [a.x, b.x] → va.toNat % 4 = 0 → adds (.fredAdd a b) 4 .f32 ((s.me.xr b.r).toNat % 2 ^ 32)) ∧
       (s.Issues [a.x, b.v] → va.toNat % 64 = 0 → ∀ ty, adds (.vred ty a b) 64 (vredFmt ty) (s.me.vr b.r).toNat))

/-- R75, R76, R79, R187: a fence acts with the reach of its address's domain: an acquire, a release that waits for the
strand's increments too, or such a release and then an acquire.

R39, R40, R180: MODE changes a bank outside the frame area that no copy, matrix request or earlier change names; a
bank that leaves CACHE mode sends its lines home first and enters its mode once they are accepted. The strand's
ACCCVT into the bank stands before it. -/
def Obligations.FencesAndBankModes : Prop :=
  (∀ (a : Src) (off : BitVec 12) (s : State) (d : Dom),
     s.Issues [a.x] → s.reachOf s.me (mAddr (s.me.xr a.r) off 128) = .at d → s.me.walking = false →
       exec (.fenceAcq a off) s = .next (s.beginAcquire s.here d none).ran ∧
       (s.edgeReady s.me = true →
         exec (.fenceRel a off) s = .next (s.fenceThen s.here d .advance).ran ∧
         exec (.fenceFull a off) s = .next (s.fenceThen s.here d (.thenAcquire d none)).ran)) ∧
  ((∀ (bank : BitVec 5) (m : BankMode) (s : State),
     let n := slotCore s.here / 32
     let k := s.cluster n
     let b := bank.toNat
     s.Issues [] → 128 * b < s.fareaLo s.me.launch → k.busyBank b = false → k.matNames b = false →
     k.boardScratch (16384 * b) 16384 true = false → k.cvtOn s.me.ctx (16384 * b) 16384 = false → (k.mode b = .fifo → m = .fifo ∨ (k.fifos.get b .reset).busy = false) →
       exec (.mode bank m) s = .next ((s.changeMode (s.whoAt s.here) b m).setMe (s.me.advance 4)).ran ∧
       (k.mode b = m → s.changeMode (s.whoAt s.here) b m = s) ∧
       (k.mode b ≠ m → k.mode b ≠ .cache → s.changeMode (s.whoAt s.here) b m = s.setCluster n (k.enterMode b m))) ∧
   (∀ (clus bank : Nat) (s : State) (c : ModeChange),
     (s.cluster clus).changing.find? (fun c => c.bank == bank) = some c → s.allDone false c.waits = true →
       exec (.modeComplete clus bank) s = .next (s.setCluster clus ((s.cluster clus).enterMode bank c.mode)).ran))

/-! Tasks, frames, barriers and messages (spec/09_isa_tasks.md). -/

/-- R198: JCTR allocates the lowest free counter and the first room of the size asked for in the cluster, writes the
record's first fields where no remap holds their row (R386) and gives the frame's name; it frees a counter of the
cluster that is 0 with nothing parked, with its record. Either waits while an earlier access of the strand waits for
its walk (R175).

R16, R18, R199, R200, R201: SPAWN adds 1 to the frame's counter, puts the continuation's entry at the tail of the
core's deque, makes the counter the join link and goes to the target. PUBT sets the mask of tiles. PUBF in a record
of the own cluster writes the live registers of the continuation and makes the frame the last published one. -/
def Obligations.FramesAndContinuations : Prop :=
  (∀ (d : RegNo) (a : Src) (s : State), s.Issues [a.x, .xd d] → s.me.walking = false →
     let t := s.me
     let k := slotCore s.here / 32
     let v := s.me.xr a.r
     (∀ (c : BitVec 24) (line : Nat) (s' : State), 3 ≤ v.toNat → v.toNat ≤ 19 → s.newCounter t.launch k = some c →
       s.findRoom t.launch k v.toNat [] = some (false, line) →
         let r : Rec := ⟨k, false, 128 * line⟩
         let name := fnMoved (c.zeroExtend 64 <<< 31) r
         ((s.setCtr t.launch c ⟨0, true, false, none, 0⟩).takeRoom t.launch k false line v.toNat []).writeFields t.launch r
             [⟨0, 8, 0⟩, ⟨8, 8, (linkWord t.jl).toNat⟩, ⟨16, 8, t.wid.toNat⟩, ⟨24, 8, recInfo t.prio t.cls 0 0 v.toNat⟩,
              ⟨32, 8, name.toNat⟩, ⟨40, 24, 0⟩] = some s' →
           exec (.jctr d a) s = .next (s'.setMe ((t.setX d name).advance 4)).ran) ∧
     (let f := v &&& 0x7FFFFFFFFFFFFFFF
      let j := s.ctr t.launch (fnCtr f)
      v.getLsbD 63 = true → s.nameOk t f = true → fnClus f = k → ctrClus (fnCtr f) = k → j.value = 0 → j.parked = none →
        let s1 := s.setCtr t.launch (fnCtr f) .none
        exec (.jctr d a) s = .next (((s1.setClusterOf t.launch k
          ((s1.clusterOf t.launch k).giveLine (fnSpill f) (fnOff f / 128))).placeWaiting t.launch k).setMe
          ((t.setX d 0).advance 4)).ran)) ∧
  ((∀ (a : Src) (lit : BitVec 32) (s : State) (chdr : Nat), s.Issues [a.x] →
     let t := s.me
     let f := t.xr a.r
     let core := slotCore s.here
     let co := s.core core
     let c := fnCtr f
     slotIdx s.here ≠ 4 → s.nameOk t f = true → frameReg a.r = true → co.deque.length ≤ 30 → t.walking = false →
     s.readRec t.launch (recOf f) 0 8 = some chdr →
       let j := s.ctr t.launch c
       let pub := t.lp == some f && BitVec.ofNat 64 (chdr % 2 ^ 58) == t.nextHeader
       let s1 := s.setCtr t.launch c { j with value := j.value + 1 }
       let s2 := s1.setCore core { co with deque := co.deque ++ [entOf t.nextHeader f (slotIdx s.here) pub] }
       exec (.spawn a lit) s = .next (s2.setMe ({ t with jl := some (.counter c), lp := none }.goto
         ((t.pc &&& ~~~7#64) + BitVec.ofInt 64 (8 * lit.toInt)) .branch)).ran) ∧
   (∀ (a : Src) (s : State), s.Issues [a.x] → (s.me.xr a.r).toNat < 2 ^ 16 →
     exec (.pubt a) s = .next (s.after { s.me with tm := BitVec.ofNat 16 (s.me.xr a.r).toNat } 4)) ∧
   (∀ (a : Src) (s s1 s2 : State) (v info : Nat), s.Issues [a.x] →
     let t := s.me
     let f := t.xr a.r
     let h := BitVec.ofNat 64 v
     s.nameOk t f = true → frameReg a.r = true → (recOf f).clus = slotCore s.here / 32 → t.walking = false → headerAddr t.nextHeader = true →
     s.code t (slotCore s.here) t.nextHeader 8 = .ok s1 v → s1.readRec t.launch (recOf f) 24 8 = some info →
     t.gate (liveOpnds h) = .ok → liveLines h ≤ infoSize info →
     s1.writeFields t.launch (recOf f) (publishFields t a.r.toNat t.nextHeader h (infoSize info)) = some s2 →
       exec (.pubf a) s = .next (s2.setMe ({ t with lp := some f }.advance 4)).ran))

/-- R207: BIND writes an n register and UNBIND clears it; a nonzero field above the 24 bits traps PROTECTION with cause
RESERVED_BITS. -/
def Obligations.BindingsAreWritten : Prop :=
  (∀ (k : BitVec 4) (a : Src) (s : State), s.Issues [a.x] → (s.me.xr a.r).toNat < 2 ^ 24 →
    exec (.bind k a) s = .next (s.after (s.me.setN k (s.me.xr a.r)) 4)) ∧
  (∀ (k : BitVec 4) (a : Src) (s : State), s.Issues [a.x] → 2 ^ 24 ≤ (s.me.xr a.r).toNat →
    s.TakesTrap (.bind k a) (.protection 16) s.me.pc) ∧
  (∀ (k : BitVec 4) (s : State), s.Issues [] → exec (.unbind k) s = .next (s.after (s.me.setN k 0) 4))

/-- R19, R77, R193, R202, R203: RETIRE releases by the distance to its join counter (PACKAGE for the seed counter, log
11) and takes no release where the counter is in the own cluster; a handler's RETIRE releases as the context it is
bound to would; SYNC reserves the frame's counter, and its write and check follow as the edge. Both wait until every
register is filled.

R208 to R210: BARI sets a barrier's count and releases it at once where as many have arrived; BARQ of an own barrier
gives its episode, count and arrivals; BAR releases by the distance to the barrier's core and then arrives. -/
def Obligations.JoinsAndBarriersAreEdges : Prop :=
  ((∀ (s : State), s.Issues [] → slotIdx s.here ≠ 4 → s.me.filled = true → s.edgeReady s.me = true →
     let k := slotCore s.here / 32
     let plain := exec .retire s = .next ((s.emit (s.whoAt s.here)).beginEdge s.here [] false .retire).ran
     let by' := fun (r : Dom) => exec .retire s = .next (s.releaseThen s.here r .retire).ran
     (∀ b, s.me.bound = some b → exec .retire s = .next (s.boundRelease s.here b).ran) ∧
     (s.me.bound = none → s.me.jl = none → plain) ∧
     (s.me.bound = none → s.me.jl = some .seed → by' .package) ∧
     (∀ c, s.me.bound = none → s.me.jl = some (.counter c) →
       (ctrClus c = k → plain) ∧ (ctrClus c ≠ k → by' (distance k (ctrClus c))))) ∧
   (∀ (a : Src) (s s1 : State) (v info : Nat), s.Issues [a.x] →
     let t := s.me
     let f := t.xr a.r
     let c := fnCtr f
     let h := BitVec.ofNat 64 v
     slotIdx s.here ≠ 4 → s.nameOk t f = true → frameReg a.r = true → t.filled = true → t.walking = false → headerAddr t.nextHeader = true →
     s.code t (slotCore s.here) t.nextHeader 8 = .ok s1 v → s1.readRec t.launch (recOf f) 24 8 = some info →
     (s1.ctr t.launch c).parked = none → (s1.ctr t.launch c).reserved = false → t.gate (liveOpnds h) = .ok →
     liveLines h ≤ infoSize info →
       exec (.sync a) s = .next ((s1.setCtr t.launch c { s1.ctr t.launch c with reserved := true }).setMe
         { t with edge := some ⟨[], false, .sync a.r f t.nextHeader h⟩, walk := none }).ran)) ∧
  ((∀ (a b : Src) (s : State), s.Issues [a.x, b.x] →
     let n := s.me.xr a.r
     let v := (s.me.xr b.r).toNat
     let c := s.coreOf s.me.launch (barCore n)
     let x := c.barrier (barIdx n)
     s.barOk s.me n = true → v ≠ 0 → v ≤ 65535 →
       let s1 := s.setCoreOf s.me.launch (barCore n)
         { c with barriers := c.barriers.put (barIdx n) { x with count := BitVec.ofNat 16 v } }
       let s2 := if v ≤ x.arrived.toNat then s1.completeBarrier s.me.launch n else s1
       exec (.bari a b) s = .next (s2.setMe (s2.me.advance 4)).ran) ∧
   (∀ (d : RegNo) (a : Src) (s : State), s.Issues [a.x, .xd d] → (s.me.xr a.r).toNat < 2 ^ 22 →
     barCore (s.me.xr a.r) = slotCore s.here →
       let x := (s.core (slotCore s.here)).barrier (barIdx (s.me.xr a.r))
       exec (.barq d a) s = .next (s.after (s.me.setX d (x.episode ++ (x.count ++ x.arrived))) 4)) ∧
   (∀ (a : Src) (s : State) (f : Word) (chdr : Nat), s.Issues [a.x] →
     let b := s.me.xr a.r
     slotIdx s.here ≠ 4 → s.barOk s.me b = true → s.me.lp = some f → s.readRec s.me.launch (recOf f) 0 8 = some chdr →
     BitVec.ofNat 64 (chdr % 2 ^ 58) = s.me.nextHeader → s.me.filled = true → s.edgeReady s.me = true →
       exec (.bar a) s = .next (s.releaseThen s.here (distance (slotCore s.here / 32) (barCore b / 32))
         (.barArrive b f s.me.nextHeader)).ran))

/-- R191 to R193, R211: DLG, DLGN, MSG and MSGV release by the distance to the target's cluster and then send; DLG leaves
its destination empty for the reply. DRET, in the SERVER slot, releases by the distance to the caller and then
answers.

R212 to R214: TENQ releases with reach DIE and then places its record; TREC releases with the reach of its counter's
home and then decrements it; DONATE of an aligned record to a peer package of the group reads the record as LD reads. -/
def Obligations.MessagesAndTasksAreReleased : Prop :=
  ((∀ (a : Src) (payload : RegNo) (type : BitVec 8) (s : State),
     let t := s.me
     let core := slotCore s.here
     let target := (t.xr a.r).toNat % 2 ^ 16
     let m : Activation :=
       { type := type, sender := core, target := target, wid := t.wid, words := [], payload := 0, hdr := 0, prio := 0,
         launch := t.launch, frame := none, saved := none, reply := none, origin := t.ctx, order := 0 }
     s.coreOk t (t.xr a.r) = true → s.edgeReady t = true → s.pathRoom t.launch target = true →
       (s.Issues [a.x, .xs payload false] → exec (.msg a payload type) s = .next (s.releaseThen s.here
         (distance (core / 32) (target / 32))
         (.send { m with words := [t.xr payload, BitVec.ofNat 64 core] } 0 0 0)).ran) ∧
       (s.Issues [a.x, .vs payload false] → exec (.msgv a payload type) s = .next (s.releaseThen s.here
         (distance (core / 32) (target / 32))
         (.send { m with words := [0, BitVec.ofNat 64 (core + 2 ^ 16)], payload := t.vr payload } 0 0 0)).ran)) ∧
   (∀ (d : RegNo) (a b : Src) (s : State),
     let t := s.me
     let core := slotCore s.here
     let target := (t.xr a.r).toNat % 2 ^ 16
     let regs : List Opnd := [1, 2, 3, 4, 5, 6].map fun r => .xs r false
     let m : Activation :=
       { type := 4, sender := core, target := target, wid := t.wid, words := [1, 2, 3, 4, 5, 6].map fun r => t.xr r,
         payload := 0, hdr := t.xr b.r, prio := 0, launch := t.launch, frame := none, saved := none, reply := none,
         origin := t.ctx, order := 0 }
     s.coreOk t (t.xr a.r) = true → s.edgeReady t = true → s.pathRoom t.launch target = true →
       (slotIdx s.here ≠ 4 ∨ target ≠ core → s.Issues (a.x :: b.x :: regs ++ [.xd d]) →
         exec (.dlg d a b) s = .next ((s.setMe (t.pendDestX d)).releaseThen s.here (distance (core / 32) (target / 32))
           (.send { m with reply := some (t.ctx, d, core) } (wordOf (.dlg d a b)) (t.xr a.r) (t.xr b.r))).ran) ∧
       (s.Issues (a.x :: b.x :: regs) →
         exec (.dlgn a b) s = .next (s.releaseThen s.here (distance (core / 32) (target / 32))
           (.send m (wordOf (.dlgn a b)) (t.xr a.r) (t.xr b.r))).ran)) ∧
   (∀ (b : Src) (s : State) (ctx : Nat) (d : RegNo) (core : Nat), s.Issues [b.x] → slotIdx s.here = 4 → s.me.filled = true →
     s.edgeReady s.me = true → s.me.caller = some (ctx, d, core) →
       exec (.dret b) s = .next (s.releaseThen s.here (distance (slotCore s.here / 32) (core / 32))
         (.dret (s.me.xr b.r))).ran)) ∧
  ((∀ (a b : Src) (s : State), s.Issues [a.x, b.x] → taskOk (s.me.xr b.r ++ s.me.xr a.r) = true → s.edgeReady s.me = true →
     exec (.tenq a b) s = .next (s.releaseThen s.here .die (.tenq (s.me.xr b.r ++ s.me.xr a.r))).ran) ∧
   (∀ (d : RegNo) (a b : Src) (s : State) (x : Xlat), s.Issues [a.x, b.x, .xd d] →
     let r := s.me.xr b.r ++ s.me.xr a.r
     let va := s.depCounter s.me r &&& 0x03FFFFFFFFFFFFFF
     let core := slotCore s.here
     let p := s.placeBy core x va.toNat
     taskOk r = true → s.lookup s.me core va.toNat = some x → x.w = true → s.edgeReady s.me = true →
       exec (.trec d a b) s = .next (s.releaseThen s.here (if p.remote (core / 8192) then .package else .die)
         (.trec d r (p.remote (core / 8192)) va (s.me.xr a.r) (s.me.xr b.r) (wordOf (.trec d a b)))).ran) ∧
   (∀ (a b : Src) (s : State) (p : Place), s.Issues [a.x, b.x] →
     let pkg := s.me.xr a.r
     let c : Cap := { addr := s.me.xr b.r, opa := pkg, opb := s.me.xr b.r }
     let w := s.whoAt s.here
     pkg.toNat < 8 → pkg.toNat ≠ s.pkg.toNat → s.inGroup pkg.toNat = true → s.Reaches .donate c p → p.remote w.die = false →
     p.unc = false → (s.cluster w.clus).caches = true →
       exec (.donate a b) s = .next ((s.enter (.donate a b) .donate c .flight s.me).loadCached w p c.addr (p.pa / 128)
         (p.pa % 128) 16 s.serial (.donate s.me.ctx s.serial (pkg.extractLsb' 0 3))).ran))

/-- R38, R215: FPUSH and FPOP move halves of 128 B entries: the low half first, then the high half that completes an
entry or frees it. -/
def Obligations.FifoBanksMoveHalves : Prop :=
  (∀ (bank : BitVec 5) (b : Src) (s : State), s.Issues [b.v] →
    let n := slotCore s.here / 32
    let k := s.cluster n
    let f := k.fifos.get bank.toNat .reset
    let leaves := fun (f' : Fifo) => exec (.fpush bank b) s =
      .next ((s.setCluster n { k with fifos := k.fifos.put bank.toNat f' }).setMe (s.me.advance 4)).ran
    k.busyBank bank.toNat = false → k.mode bank.toNat = .fifo → s.sramBusy n (16384 * bank.toNat) 16384 = false →
      (f.low = none → f.entries.length < 128 → leaves { f with low := some (s.me.vr b.r) }) ∧
      (∀ low, f.low = some low → leaves { f with
        entries := f.entries ++ [s.me.vr b.r ++ low], bad := f.bad ++ [0], low := none })) ∧
  (∀ (d : RegNo) (bank : BitVec 5) (s : State) (e : Line) (r : List Line), s.Issues [.vd d] →
    let n := slotCore s.here / 32
    let k := s.cluster n
    let f := k.fifos.get bank.toNat .reset
    let leaves := fun (v : Vec) (f' : Fifo) => exec (.fpop d bank) s =
      .next ((s.setCluster n { k with fifos := k.fifos.put bank.toNat f' }).setMe ((s.me.setV d v).advance 4)).ran
    k.busyBank bank.toNat = false → k.mode bank.toNat = .fifo → s.sramBusy n (16384 * bank.toNat) 16384 = false →
    f.entries = e :: r → f.readBytes = 0 →
      (f.popHigh = false → leaves (e.extractLsb' 0 512) { f with popHigh := true }) ∧
      (f.popHigh = true → leaves (e.extractLsb' 512 512) { f with entries := r, bad := f.bad.drop 1, popHigh := false }))

/-! The matrix unit, engines and exchange (spec/11_isa_matrix.md, spec/12_isa_engines.md). -/

/-- R233 to R236, R249: MFMT of a legal descriptor emits the buffered sums and makes the strand's slot the setter of its
core's matrix context; MSTAT gives a counter and clears it unless told to keep it.

R237, R238, R242: MMA and MMAT of the setter queue a request with the translations of their footprint, in an
accumulate range that may be written, while fewer than four requests are queued and no copy in flight holds a line of
it. Every named bank is in FIFO mode, and the companions of a compensated range lie in a compensated range.

R238, R243, R246 to R248: ACCZ, ACCRD and ACCCVT of the setter first emit the buffered sums. ACCZ then writes zeros
to its footprint and the companions, ACCRD reads an element (with its companion in a compensated format), and ACCCVT
gathers 16 elements to be converted; each acts at the homes of its lines. -/
def Obligations.MatrixInstructionsAct : Prop :=
  ((∀ (a b : Src) (s : State), s.Issues [a.x, b.x] →
     let core := slotCore s.here
     let d := s.me.xr a.r
     let s1 := s.emit (s.whoAt s.here)
     bits d.toNat 29 3 = 0 → formatOk d (s.me.xr b.r) = true → s.matIdle core = true → s.emitFree core = true → (s.core core).restoring = false →
       exec (.mfmt a b) s = .next ((s1.setMat core { s1.mat core with
         descA := d, descB := s.me.xr b.r, syn := synOf d, setter := some (slotIdx s.here, s.me.ctx),
         bind := s.me.nr (BitVec.ofNat 4 (bits d.toNat 48 4)), kpos := 0, key := none }).setMe (s.me.advance 4)).ran) ∧
   (∀ (d : RegNo) (a : Src) (s : State), s.Issues [a.x, .xd d] →
     let core := slotCore s.here
     let v := (s.me.xr a.r).toNat
     let ctr := bits v 0 4
     let unit := bits v 4 3
     let idx := bits v 8 8
     mstatOk (s.me.xr a.r) = true → (unit = 0 → s.matIdle core = true) →
       exec (.mstat d a) s = .next ((if v.testBit 7 then s else s.clearStat core unit idx ctr).setMe
         ((s.me.setX d ((s.stat core unit idx ctr).zeroExtend 64)).advance 4)).ran)) ∧
  (∀ (tags : Bool) (fa fb : BitVec 5) (a b : Src) (s : State) (spots : List (Nat × Place)), s.Issues [a.x, b.x] →
     let t := s.me
     let core := slotCore s.here
     let m := s.mat core
     let k := s.cluster (core / 32)
     let va := t.xr a.r
     let dims := t.xr b.r
     let rows := (footprint m va dims).flatMap fun r => pageParts r.1 r.2
     let regions := s.regionsOf core (pagesOf rows)
     let comp := if m.cf < 2 then s.companions core rows else []
     va.toNat % m.esize = 0 → m.setter = some (slotIdx s.here, t.ctx) → dimsOk dims (matDepth m.af) true tags = true →
     (∀ n ∈ m.banks fa.toNat fb.toNat tags, k.mode n = .fifo ∧ k.busyBank n = false) →
     (tags = true → m.syn = .native ∧ m.bsf = 0 ∧ bindSize m.bind ≠ 0) → addrKind va = .virtual →
     accOk regions = true → (m.cf = 1 → allCmp regions = true) → s.compOk core comp = true → anyRo regions = false → t.walking = false →
     m.reqs.length < 4 → (s.core core).restoring = false →
     s.resolve t core [] true (pagesOf (rows ++ comp)) = .ok spots →
     (∀ q ∈ rows ++ comp, ∀ p, spotOf spots q.1 = some p → k.boardMem p.pa q.2 true = false) →
       exec (if tags then .mmat fa fb a b else .mma fa fb a b) s = .next ((s.setMat core { m with
         reqs := m.reqs ++ [⟨tags, va, dims, fa.toNat, fb.toNat, t.ctx, spots⟩] }).setMe (t.advance 4)).ran) ∧
  (∀ (a b : Src) (s : State) (spots : List (Nat × Place)),
     let core := slotCore s.here
     let k := s.here
     let t := s.me
     let va := t.xr a.r
     s.me.walking = false → (s.mat core).setter = some (slotIdx s.here, t.ctx) → addrKind va = .virtual →
     s.matIdle core = true → s.emitFree core = true → (s.core core).restoring = false →
       (let i : Instr := .accz a b
        let c : Cap := { addr := va, opa := va, opb := t.xr b.r, acc := { desc := (s.mat core).descA } }
        let s1 := (s.enter i .accz c .flight t).emit (s.whoAt k)
        let rows := (footprint (s.mat core) va (t.xr b.r)).flatMap fun r => pageParts r.1 r.2
        let regions := s1.regionsOf core (pagesOf rows)
        let comp := s1.companions core rows
        let ps := (rows ++ comp).flatMap fun r => pieces r.1 r.2
        let cl := s1.cluster (core / 32)
        s.Issues [a.x, b.x] → va.toNat % (s.mat core).esize = 0 → dimsOk (t.xr b.r) 0 false true = true →
        accOk regions = true → anyRo regions = false → s1.compOk core comp = true →
        s1.resolve (s1.strand k) core [] true (pagesOf (rows ++ comp)) = .ok spots →
        (∀ q ∈ ps, ∀ p, spotOf spots q.1 = some p →
          cl.pendingOn (s1.strand k).ctx (p.pa / 128) = false ∧ cl.boardMem p.pa q.2 true = false) →
          exec i s = .next ((ps.foldl (fun s' q => match spotOf spots q.1 with
            | some p => s'.storeHome (s1.whoAt k) p (BitVec.ofNat 64 q.1) 0 q.2 []
            | none => s') s1).freeAt k s.serial).ran) ∧
       (∀ d : RegNo,
        let i : Instr := .accrd d a
        let c : Cap := { addr := va, opa := va, acc := { desc := (s.mat core).descA } }
        let s1 := (s.enter i (.accrd d) c .flight t).emit (s.whoAt k)
        let m := s.mat core
        let pair := m.cf == 1
        let comp := s1.companions core [(va.toNat, 4)]
        let cells := if pair then (va.toNat, 4) :: comp else [(va.toNat, m.esize)]
        let cl := s1.cluster (core / 32)
        s.Issues [a.x, .xd d] → va.toNat % (s.mat core).esize = 0 →
        (pair = true → comp ≠ [] ∧ s1.compOk core comp = true) →
        s1.resolve (s1.strand k) core [] false (pagesOf cells) = .ok spots →
        (∀ q ∈ cells, ∀ p, spotOf spots q.1 = some p →
          cl.pendingOn (s1.strand k).ctx (p.pa / 128) = false ∧ cl.boardMem p.pa q.2 false = false) →
          let fin : GatherEnd := if pair then .accrd (s1.strand k).ctx s.serial d
            else .x (s1.strand k).ctx s.serial d (if m.cf = 3 then ⟨.w64, true⟩ else ⟨.w32, m.cf == 2⟩) false
          let s2 : State := { s1 with gathers := s1.gathers.put s.serial ⟨s.serial, cells.length, [], none, fin⟩ }
          exec i s = .next (cells.zipIdx.foldl (fun s' q => match spotOf spots q.1.1 with
            | some p => s'.readHome (s1.whoAt k) p (BitVec.ofNat 64 q.1.1) q.1.2 (.gather s.serial q.2)
            | none => s') s2).ran) ∧
       (∀ (src : AccTy) (dst : Elem) (sat : Bool) (rnd : Round) (ws : List (Nat × Place)),
        let i : Instr := .acccvt src dst sat rnd a b
        let out := t.xr b.r
        let mode := cvtMode (s.mat core) t rnd
        let c : Cap := { addr := va, opa := va, opb := out, acc := { desc := (s.mat core).descA, mode := mode } }
        let s1 := (s.enter i (.acccvt src dst sat rnd) c .flight t).emit (s.whoAt k)
        let n := 2 * dst.bits
        let sb := AccTy.bytes src
        let elems := (List.range 16).map fun j => (va.toNat + sb * j, sb)
        let comps := if src == .f32 then s1.companions core elems else []
        let parts := pieces out.toNat n
        let writes := (List.range parts.length).map fun i => s1.serial + i
        let cl := s1.cluster (core / 32)
        s.Issues [a.x, b.x] → va.toNat % sb = 0 → out.toNat % (if dst.bits = 6 then 4 else n) = 0 → addrKind out = .virtual →
        anyRo (s1.regionsOf core (pagesOf [(out.toNat, n)])) = false → s1.compOk core comps = true →
        s1.resolve (s1.strand k) core [] false (pagesOf (elems ++ comps)) = .ok spots →
        s1.resolve (s1.strand k) core [] true (pagesOf [(out.toNat, n)]) = .ok ws →
        (∀ q ∈ ws, q.2.remote (core / 8192) = false) →
        (∀ q ∈ elems ++ comps, ∀ p, spotOf spots q.1 = some p →
          cl.pendingOn (s1.strand k).ctx (p.pa / 128) = false ∧ cl.boardMem p.pa q.2 false = false) →
        (∀ q ∈ parts, ∀ p, spotOf ws q.1 = some p →
          cl.pendingOn (s1.strand k).ctx (p.pa / 128) = false ∧ cl.boardMem p.pa q.2 true = false) →
          let cells := (elems.zipIdx.map fun q => (q.1, 2 * q.2)) ++ elems.zipIdx.filterMap fun q =>
            (s1.companions core (if comps.isEmpty then [] else [q.1])).head?.map fun r => (r, 2 * q.2 + 1)
          let fin : GatherEnd :=
            .acccvt (s1.strand k).ctx core src dst sat mode out none ws writes
          let s2 := s1.cvtPending (s1.whoAt k) core s.serial n out
            (parts.filterMap fun q => (spotOf ws q.1).map fun p => p.pa / 128) none writes
          let s3 : State := { s2 with gathers := s2.gathers.put s.serial ⟨s.serial, cells.length, [], none, fin⟩ }
          exec i s = .next (cells.foldl (fun s' q => match spotOf spots q.1.1 with
            | some p => s'.readHome (s1.whoAt k) p (BitVec.ofNat 64 q.1.1) q.1.2 (.gather s.serial q.2)
            | none => s') s3).ran))

/-- R65, R253 to R258, R340: CRING binds or unbinds a ring of the cluster; CSTG raises the stage counter and never lowers
it; CPY and the near-memory instructions that pass their checks, and that no pending fetch and no ACCCVT of their
strand holds (R37, R72), take their translations and fork an engine operation, with its scoreboard entry in every
named cluster. CPY leaves its status register empty. -/
def Obligations.EngineInstructionsFork : Prop :=
  (∀ (a b : Src) (s : State), s.Issues [a.x, b.x] →
    let k := s.cluster (slotCore s.here / 32)
    let base := s.me.xr a.r
    let img := (s.me.xr b.r).toNat
    let leaves := fun (rings : Tab Ring) => exec (.cring a b) s =
      .next ((s.setCluster (slotCore s.here / 32) { k with rings := rings }).setMe (s.me.advance 4)).ran
    bits img 8 8 = 0 → bits img 32 32 = 0 → bits img 0 5 ≤ 16 → base.toNat % (32 * 2 ^ bits img 0 5) = 0 →
    (bits img 7 1 = 1 → s.inLaunch s.me (bits img 16 16 / 32) = true) →
      (base = 0 → leaves (k.rings.del (bits img 5 2))) ∧
      (∀ p, base ≠ 0 → addrKind base = .virtual → s.me.walking = false → s.me.walk = none → s.spot base.toNat true = some p →
        p.remote (slotCore s.here / 8192) = false → leaves (k.rings.put (bits img 5 2) ⟨base, s.me.xr b.r, 0⟩))) ∧
  (∀ (a : Src) (s : State), s.Issues [a.x] → (s.me.xr a.r).toNat < 2 ^ 32 → s.me.walking = false →
    let k := s.cluster (slotCore s.here / 32)
    let n : BitVec 32 := (s.me.xr a.r).extractLsb' 0 32
    exec (.cstg a) s = .next ((s.setCluster (slotCore s.here / 32)
      { k with sc := if k.sc.toNat < n.toNat then n else k.sc }).setMe (s.me.advance 4)).ran) ∧
  (∀ (d : RegNo) (a b : Src) (e : RegNo) (s : State) (spots : List (Nat × Place)), s.Issues [a.x, b.x, .vs e false, .xd d] →
    let t := s.me
    let core := slotCore s.here
    let kn := core / 32
    let k := s.cluster kn
    let v := t.vr e
    let g := geomBits v
    let ivs := copyIntervals g v (t.xr a.r) (t.xr b.r)
    let cast := castList kn g.mask
    copyChecks g v (t.xr a.r) (t.xr b.r) k (s.core core) t.nr = none → t.walking = false → s.boardFree (kn :: cast) = true →
    (g.tofifo = true → k.busyBank g.fbank = false) →
    (∀ iv ∈ ivs, iv.busy k t.nr = false) →
    translateAll (fun p w => s.resolve t core [] w [p]) ivs = .ok spots →
    k.forkHeld t.ctx (boardOf s.serial k t.nr spots ivs) = false →
      exec (.cpy d a b e) s = .next ((s.fork
        (copyEngine s.serial 1 kn core t.func (geometryOf g v (t.xr a.r) (t.xr b.r) kn k t.nr) spots
          (if g.rrec then some g.ring else none) (if d = 0 then none else some (t.ctx, d)) g.tag)
        (boardOf s.serial k t.nr spots ivs) cast).setMe ((t.pendDestX d).advance 4)).ran) ∧
  (∀ (kind : Nat) (a b : Src) (e : RegNo) (s : State) (spots : List (Nat × Place)) (n : Near), kind ∈ [3, 4, 5] →
    s.Issues [a.x, b.x, .vs e false] →
    let t := s.me
    let core := slotCore s.here
    let kn := core / 32
    let k := s.cluster kn
    let v := t.vr e
    let ring := vbits v 0 2
    let ivs := nearIntervals n
    nearAlign kind v (t.xr a.r) (t.xr b.r) = none → nearOf kind v (frmMode t.frm) (t.xr a.r) (t.xr b.r) = some n → (k.rings.find ring).isSome = true →
    (∀ iv ∈ ivs, iv.formOk = true ∧ iv.tile = none ∧ iv.tooLong = false) →
    (∀ iv ∈ ivs, iv.write = true → ∀ p ∈ iv.pages, anyRo [(s.core core).region (p * 16384)] = false) →
    t.walking = false → s.boardFree [kn] = true →
    translateAll (fun p w => s.resolve t core [] w [p]) ivs = .ok spots →
    k.forkHeld t.ctx (boardOf s.serial k t.nr spots ivs) = false →
      exec (if kind = 3 then .nmg a b e else if kind = 4 then .nmr a b e else .nmc a b e) s = .next ((s.fork
        { id := s.serial, kind := kind, clus := kn, core := core, func := t.func, job := .near n, spots := spots,
          ready := false, todo := [], got := [], offs := [], ring := some ring, status := none,
          tag := BitVec.ofNat 16 (vbits v 144 16), codes := [], bytes := 0, aux := 0, aux2 := 0 }
        (boardOf s.serial k t.nr spots ivs) []).setMe (t.advance 4)).ran)

/-- R260, R261, R263, R264: DPOST in IDLE posts a row that demands only of members and sends it; XSEND hands over a
buffer for an endpoint that has none; XSTAT reads the unit; ROUTE ranks groups of a vector.

R262, R266, R340: XARM and ICFG read their table at its home while no calendar runs; XARM takes the translations of
the bases it arms, and ICFG begins the ingress counters again. -/
def Obligations.ExchangeInstructionsAct : Prop :=
  ((∀ (e : RegNo) (s : State), s.Issues [.vs e false, .vs (e + 1) false] →
     let die := slotCore s.here / 8192
     let x := s.xu die
     let row := demand (s.me.vr e) (s.me.vr (e + 1)) (s.endpoint die)
     x.state = .idle → (∀ c ∈ row.zipIdx, c.1 = 0 ∨ s.member c.2 = true) →
       exec (.dpost e) s = .next (((s.setXu die { x with state := .posted, row := row }).sendPost die).setMe
         (s.me.advance 4)).ran) ∧
   (∀ (a : Src) (e : RegNo) (s : State) (spots : List (Nat × Place)), s.Issues [a.x, .vs e false] →
     let t := s.me
     let core := slotCore s.here
     let die := core / 8192
     let x := s.xu die
     let v := t.vr e
     let dest := (t.xr a.r).toNat
     let rows := vbits v 2 1 == 1
     let bytes := vbits v 32 32
     let buf := BitVec.ofNat 64 (vbits v 64 58)
     let rowl := (x.emap.map XTable.rowl).getD 0
     let iv : Interval := ⟨buf, 0, (bytes : Nat), rows⟩
     buf.toNat % 128 = 0 → vbits v 3 13 = 0 → vbits v 122 390 = 0 → dest < 64 → bytes % 128 = 0 → bytes ≤ 8388480 →
     (rows = true → x.emap.isSome = true ∧ bytes % (128 * (1 + rowl)) = 0) → x.state ≠ .idle →
     (∀ d ∈ x.sends, d.dest ≠ dest) → iv.formOk = true →
     (rows = true → ∀ p ∈ iv.pages, anyRo [(s.core core).region (p * 16384)] = false) → t.walking = false →
     translateAll (fun p w => s.resolve t core [] w [p]) [iv] = .ok spots →
       exec (.xsend a e) s = .next ((s.setXu die { x with sends := x.sends ++ [
         { dest := dest, ring := vbits v 0 2, core := core, func := t.func, tag := BitVec.ofNat 16 (vbits v 16 16),
           rows := rows, rowl := rowl, bytes := bytes, buf := buf.toNat, spots := spots, issued := (s.die die).ptc,
           sent := 0, failed := [], row := [], codes := [], lost := false, reported := false }] }).setMe (t.advance 4)).ran) ∧
   (∀ (d : RegNo) (a : Src) (s : State) (v : Nat), s.Issues [a.x, .xd d] →
     let die := slotCore s.here / 8192
     (s.xu die).item (s.endpoint die) (s.me.xr a.r).toNat = some v →
       exec (.xstat d a) s = .next (s.after (s.me.setX d (BitVec.ofNat 64 v)) 4)) ∧
   (∀ (d : RegNo) (a b : Src) (s : State), s.Issues [a.v, b.x, .vd d] →
     let x := (s.me.xr b.r).toNat
     let epg := bits x 0 5
     let topg := bits x 5 5
     x < 2 ^ 10 → epg ≠ 0 → epg ≤ 16 → topg ≠ 0 → topg ≤ 16 → topg ≤ 16 / epg →
       let best := (rankBy (fun g => rankKey (groupMax (s.me.vr a.r) epg g)) (16 / epg)).take topg
       exec (.route d a b) s = .next (s.after (s.me.setV d
         (packLanes 32 (best ++ List.replicate (16 - topg) 0xFFFFFFFF))) 4))) ∧
  (∀ (a : Src) (s s1 : State) (spots : List (Nat × Place)) (v : Nat), s.Issues [a.x] →
     let t := s.me
     let core := slotCore s.here
     let die := core / 8192
     let va := t.xr a.r
     va.toNat % 128 = 0 → (s.xu die).state ≠ .running → addrKind va = .virtual → t.walking = false →
       (s.resolve t core [] false (pagesOf [(va.toNat, 256)]) = .ok spots →
         s.readTable t core spots va.toNat 256 = .done s1 (v, false) →
         let x : XTable := ⟨wordsOf v 32, core, t.func, t.launch, []⟩
         x.mapBad = false →
           exec (.icfg a) s = .next ((s1.setXu die { s1.xu die with
             emap := some x, iw := 0, dw := 0, dups := 0, deferred := 0 }).setMe (t.advance 4)).ran) ∧
       (s.resolve t core [] false (pagesOf [(va.toNat, 1088)]) = .ok spots →
         s.readTable t core spots va.toNat 1088 = .done s1 (v, false) →
         let x : XTable := ⟨wordsOf v 136, core, t.func, t.launch, []⟩
         let ivs : List Interval := ((List.range 64).filter fun e => x.base e != 0 && !x.ing e).map fun e =>
           ⟨BitVec.ofNat 64 (x.base e), 0, 1, true⟩
         x.armBad = false →
         (∀ iv ∈ ivs, ∀ p ∈ iv.pages, anyRo [(s1.core core).region (p * 16384)] = false) →
         ∀ bases, translateAll (fun p w => s1.resolve t core [] w [p]) ivs = .ok bases →
           exec (.xarm a) s = .next ((s1.setXu die { s1.xu die with arm := some { x with spots := bases }, armPins := true }).setMe
             (t.advance 4)).ran))

/-! Traps and system instructions (spec/12_isa_engines.md, spec/22_traps.md). -/

/-- R268, R269, R343 to R347, R351: a trap that the launch's handler takes moves the context out to the shadow bank of
its core with the trap-frame header, and puts in its slot a strand of the handler's header at vector entry 9:
registers 0 and full but for the header in x1 to x8, bound to the context, with the class and the priority of the
entry. Memory and every other slot stay as they are. This is so where the bank is empty and no older move waits for
it (R352). What becomes of an access that waits for its walk or is on its way is the model's choice (log 19). -/
def Obligations.TrapsEnterTheHandler : Prop :=
  ∀ (k : Nat) (t : Trap) (pc faddr : Word) (w : BitVec 32) (s : State),
    let c := slotCore k
    let u := s.strand k
    let e := (s.core c).vtab.get 9 0
    let hdr := s.headerOf k t.code t.detail pc faddr w
    (∀ r b va, t ≠ .translation r b va) → (∀ b va pa, t ≠ .foreignDie b va pa) →
    u.bound = none → vecValid e = true → slotIdx k ≠ 4 → s.bankFree k = true → (s.mat c).setBy (slotIdx k) u.ctx = false →
      ∃ s', s.takeTrap k t pc faddr w = some s' ∧
        s'.strand k = { Strand.fresh (s.serial + 16) u.launch u.func u.wid (vecHandler e) .handler (vecClass e) (vecPrio e) 9
          (s.launchBindings u.launch) with x := handlerRegs hdr, bound := some u.ctx } ∧
        s'.core c = { s.core c with
          moves := (s.core c).moves.filter fun m => !(m.out && m.slot == slotIdx k)
          shadow := (some
            { slot := slotIdx k, strand := { u with queue := leaveQueue u.queue s.serial, walk := none, trap := none },
              outgoing := true, why := .bound, header := hdr, mat := none, said := false, acq := none } : Option Shadow) } ∧
        s'.mem = s.mem ∧ s'.clusters = s.clusters ∧ (∀ j, j ≠ k → s'.strand j = s.strand j) ∧
        (∀ j, j ≠ c → s'.core j = s.core j)

/-- R150, R268, R344: TRAP, BRK and a word that the tables do not define take their trap at their own address, once no
access of the strand stands in the replay queue; the trap stays with the strand until then.

R343, R346, R347: a trap in a handler, and one of a launch that has no valid handler, ends the launch with FAULT and
the strand with it. -/
def Obligations.TrapInstructionsTakeTheirTrap : Prop :=
  (∀ (s : State), s.Issues [] →
     let takes := fun (i : Instr) (t : Trap) => s.TakesTrap i t s.me.pc
     (∀ e, takes (.trap e) (.software e.toNat)) ∧ (∀ e, takes (.brk e) (.breakpoint e.toNat)) ∧
     (∀ w, takes (.illegalInstruction w) .illegal)) ∧
  (∀ (k : Nat) (t : Trap) (pc faddr : Word) (w : BitVec 32) (s : State) (n : Nat) (l : Launch),
     (∀ r b va, t ≠ .translation r b va) → (∀ b va pa, t ≠ .foreignDie b va pa) →
     (s.strand k).bound.isSome = true ∨ vecValid ((s.core (slotCore k)).vtab.get 9 0) = false →
     (s.strand k).launch = some n → s.launches.find n = some l → l.state = .ready →
       s.takeTrap k t pc faddr w =
         some ({ s with launches := s.launches.put n { l with state := .ended 7 } }.setStrand k .idle))

/-- R82, R273, R346, R348: RTE in a handler whose registers are full and whose queue is empty ends the handler and queues
the move of its bound context back into its slot, a delegated routine's into the SERVER slot of its own core; in a
cluster other than the context's last one the move comes after a release there, of the reach of the distance. Outside
a handler it raises PROTECTION.

R271, R273: the replay instructions act on the spilled image of the bound context: RQRD reads a word of an entry,
RQWR writes one that is not fixed, RQDEL clears the entry and the pending marks of its destination. They wait while a
write of a line of the image is held (R73).

R193, R268, R274, R313, R328: HALT releases with reach DIE and then ends its strand and its launch; TLBI and REGI of
a privileged launch release with reach PACKAGE and then begin a shootdown; without the privilege they raise
PROTECTION. -/
def Obligations.HandlersReturnAndEdit : Prop :=
  ((∀ (s : State) (b : Nat) (v : Saved), s.Issues [] → s.me.bound = some b → s.savedOf b = some v → v.spilled = true →
     s.me.filled = true → s.me.queue = [] →
       let to' := if slotIdx v.slot = 4 then v.slot else s.here
       let c := slotCore to'
       let old := slotCore v.slot / 32
       let s1 := s.setStrand s.here .idle
       let r := s1.releaseCluster (s1.whoFor old) (distance old (c / 32))
       (old = c / 32 → exec .rte s = .next (s1.setCore c
         { s1.core c with moves := (s1.core c).moves ++ [⟨slotIdx to', v.ctx, false, []⟩] }).ran) ∧
       (old ≠ c / 32 → exec .rte s = .next (r.1.setCore c
         { r.1.core c with moves := (r.1.core c).moves ++ [⟨slotIdx to', v.ctx, false, r.2⟩] }).ran)) ∧
   (∀ (s s' : State), s.Issues [] → s.me.bound = none → s.me.queue = [] →
     s.takeTrap s.here (.protection 38) s.me.pc 0 (wordOf .rte) = some s' → exec .rte s = .next s'.ran)) ∧
  (∀ (s : State) (b : Nat) (v : Saved) (q : BitVec 4) (w : BitVec 6), s.me.bound = some b → s.savedOf b = some v →
     v.spilled = true → s.framesFree v.frame1 v.frame2 = true →
     let at' := fun (j : Nat) => 128 + 128 * q.toNat + 8 * j
     let rd := fun (off n : Nat) => s.readImage v.frame1 v.frame2 off n
     (∀ d : RegNo, s.Issues [.xd d] →
       exec (.rqrd d q w) s = .next (s.after (s.me.setX d (BitVec.ofNat 64 (rd (at' w.toNat) 8))) 4)) ∧
     (∀ a : Src, s.Issues [a.x] → 3 ≤ w.toNat → w.toNat ≠ 15 → bits (rd (at' 1) 8) 63 1 = 1 →
       exec (.rqwr a q w) s = .next
         ((s.writeImage v.frame1 v.frame2 [⟨at' w.toNat, 8, (s.me.xr a.r).toNat⟩]).setMe (s.me.advance 4)).ran) ∧
     (s.Issues [] → bits (rd (at' 1) 8) 63 1 = 1 →
       let m := (entryOf (rd (at' 0) 8)).marks
       exec (.rqdel q) s = .next ((s.writeImage v.frame1 v.frame2
         [⟨at' 1, 8, rd (at' 1) 8 % 2 ^ 63⟩, ⟨104, 4, (BitVec.ofNat 32 (rd 104 4) &&& ~~~m.1).toNat⟩,
          ⟨108, 4, (BitVec.ofNat 32 (rd 108 4) &&& ~~~m.2).toNat⟩]).setMe (s.me.advance 4)).ran)) ∧
  ((∀ s : State, s.Issues [] → s.me.filled = true → s.edgeReady s.me = true →
     exec .halt s = .next (s.releaseThen s.here .die .halt).ran) ∧
   (∀ (a : Src) (s : State), s.Issues [a.x] →
     let v := s.me.xr a.r
     (s.privileged s.me = true → s.edgeReady s.me = true →
       (bits v.toNat 59 5 = 0 → exec (.tlbi a) s = .next (s.releaseThen s.here .package (.shoot false v)).ran) ∧
       (bits v.toNat 9 55 = 0 → exec (.regi a) s = .next (s.releaseThen s.here .package (.shoot true v)).ran)) ∧
     (s.privileged s.me = false → s.me.queue = [] →
       (∀ s', s.takeTrap s.here (.protection 41) s.me.pc 0 (wordOf (.tlbi a)) = some s' → exec (.tlbi a) s = .next s'.ran) ∧
       (∀ s', s.takeTrap s.here (.protection 41) s.me.pc 0 (wordOf (.regi a)) = some s' → exec (.regi a) s = .next s'.ran))))

/-- R70, R72, R131, R272: an instruction whose strand is held (an edge or an answer is awaited, a trap of it waits to be
taken, the replay queue is full, an entry has faulted or waits for its re-injection, a walk is under way) changes
nothing; the same holds for every instruction that has an encoding. That a held attempt leaves a mark and nothing
else is the model's form (log 2).

R131: what an empty register does to an instruction that names it. A source with no producer traps, and so does one
with the t bit set; any other empty source stalls, and so does a destination while its producer is pending. Once
every field is full the instruction issues; a write fills its register.

R131: an instruction of registers or of memory whose strand is not held waits while a register that it names makes it
stall, and takes REGISTER_EMPTY where one makes it trap. That a stalled attempt leaves a mark and nothing else is the
model's form (log 2). -/
def Obligations.HeldStrandsAndEmptyRegisters : Prop :=
  (∀ (i : Instr) (s : State), (encode i).isSome = true → s.me.ready = false → exec i s = .next s.waits) ∧
  (∀ (t : Strand) (r : RegNo) (m : Bool) (v : Word) (d : RegNo), r ≠ 0 →
     let empty := t.emptyX.getLsbD r.toNat
     let pend := t.pendX.getLsbD r.toNat
     t.gateOf (.xs r m) = (if empty = false then .ok else if pend = false ∨ m = true then .trap else .stall) ∧
     t.gateOf (.xd r) = (if empty = true ∧ pend = true then .stall else .ok) ∧
     t.gateOf (.xs 0 m) = .ok ∧ t.gateOf (.xd 0) = .ok ∧ t.xr 0 = 0 ∧ t.setX 0 v = t ∧
     (t.setX r v).xr r = v ∧ (t.setX r v).gateOf (.xs r m) = .ok ∧ (t.setX r v).gateOf (.xd r) = .ok ∧
     (d ≠ r → (t.setX r v).xr d = t.xr d ∧ (t.setX r v).gateOf (.xs d m) = t.gateOf (.xs d m)) ∧
     (t.pendDestX r).gateOf (.xs r false) = .stall ∧ (t.pendDestX r).gateOf (.xs r true) = .trap) ∧
  (∀ (i : Instr) (s : State) (ops : List Opnd),
     registerForm i = some ops ∨ (∃ o c u, memoryForm s.me i = some (ops, o, c, u)) → s.me.ready = true →
     (s.me.gate ops = .stall → exec i s = .next s.waits) ∧ (s.me.gate ops = .trap → s.TakesTrap i .empty s.me.pc))

/-! Events of strands and of work (spec/01_execution.md, spec/03_ordering.md). -/

/-- R19, R22, R70, R75 to R77, R203, R213, R274: an EDGE whose accesses are all performed completes, and the
instruction's own effect follows: a fence or a message goes on, a full fence begins its acquire, an acquire ends,
TENQ places its record, DRET answers and ends, and HALT ends the strand and its launch. RETIRE decrements its join
link, here or at the counter's cluster, and pops. SYNC writes the record; at a counter of 0 it goes on after an
acquire, and otherwise it parks the frame and ends. TREC sends the decrement to the home of its counter and waits for
the answer. TLBI and REGI begin their shootdown and wait. -/
def Obligations.EdgesComplete : Prop :=
  ∀ (k : Nat) (s : State) (e : Edge), (s.strand k).edge = some e → s.allDone e.system e.waits = true →
    let t := s.strand k
    let does := fun (s' : State) => exec (.edge k) s = .next s'.ran
    (e.after = .advance → does (s.setStrand k { t with pc := t.pc + 4, walk := none, edge := none, wait := none })) ∧
    (∀ r h, e.after = .thenAcquire r h → does (s.beginAcquire k r h)) ∧
    (∀ r, e.after = .acquire r none →
      let s1 := s.invalidate (s.whoAt k) r
      does (s1.setStrand k (({ s1.strand k with edge := none, wait := none } : Strand).advance 4))) ∧
    (∀ r, e.after = .tenq r → does ((s.enqueueTask (slotCore k / 8192) r t.func).goOn k none)) ∧
    (∀ v ctx d core, e.after = .dret v → t.caller = some (ctx, d, core) →
      does (({ s with replies := s.replies ++ [⟨ctx, d, core, slotCore k, v⟩] } : State).setStrand k .idle)) ∧
    (∀ m w x y, e.after = .send m w x y → s.pathRoom m.launch m.target = true →
      does ((s.sendMsg k m w x y).goOn k none)) ∧
    (e.after = .halt → t.bound = none → slotIdx k ≠ 4 → does ((s.endLaunch t.launch 5).setStrand k .idle)) ∧
    (e.after = .retire → t.bound = none → t.jl = none →
      let s1 := s.setStrand k { t with edge := (some ⟨[], false, .pop⟩ : Option Edge), jl := none }
      does ((s1.popAt k).getD s1)) ∧
    (∀ b f h, e.after = .barArrive b f h → s.boundReady t = true → does (s.barSend k b f h)) ∧
    (e.after = .retire → t.bound = none →
      let pops := fun (s0 : State) =>
        let s1 := s0.setStrand k { s0.strand k with edge := (some ⟨[], false, .pop⟩ : Option Edge), jl := none }
        does ((s1.popAt k).getD s1)
      (∀ n l, t.jl = some .seed → t.launch = some n → s.launches.find n = some l →
        let s0 : State := { s with launches := s.launches.put n { l with seedCtr := l.seedCtr - 1 } }
        pops (if l.seedCtr = 1 then s0.endLaunch (some n) 0 else s0)) ∧
      (∀ c, t.jl = some (.counter c) →
        (ctrClus c = slotCore k / 32 → pops (s.decrement t.launch c)) ∧
        (ctrClus c ≠ slotCore k / 32 →
          pops { s with decs := s.decs ++ [⟨slotCore k / 32, t.launch, c, .decrement, []⟩] }))) ∧
    (∀ a f hdr live info s1, e.after = .sync a f hdr live → t.bound = none → s.readRec t.launch (recOf f) 24 8 = some info →
      s.writeFields t.launch (recOf f) (publishFields t a.toNat hdr live (infoSize info)) = some s1 →
        let c := fnCtr f
        let here := slotCore k / 32
        let j : JoinCounter := { s1.ctr t.launch c with reserved := false }
        (j.value = 0 →
          (ctrClus c = here → does ((s1.setCtr t.launch c j).beginAcquire k .die (some hdr))) ∧
          (ctrClus c ≠ here → does ((s1.setCtr t.launch c j).syncRelease k (ctrClus c) (distance (ctrClus c) here) hdr))) ∧
        (j.value ≠ 0 →
          let s2 := s1.setCtr t.launch c { j with parked := some f, prio := t.prio }
          does ((if ctrClus c = fnClus f then s2 else { s2 with parks := s2.parks ++ [⟨f, t.launch⟩] } : State).endParked k))) ∧
    (∀ d task far va opa opb word x, e.after = .trec d task far va opa opb word →
      s.lookup t (slotCore k) va.toNat = some x → x.w = true →
      let p := s.placeBy (slotCore k) x va.toNat
      let w := s.whoAt k
      (p.remote w.die = true → far = true) →
        let q : Entry := { serial := s.serial, iword := word, lit := 0, pc := t.pc, addr := va, opa := opa, opb := opb, opd := 0,
                           vop := 0, phase := .flight }
        let s1 : State := { s.setStrand k { (t.pendDestX d).advance 4 with
          edge := none, wait := some .trec, queue := t.queue ++ [q] } with serial := s.serial + 1 }
        does ((if p.remote w.die then s1 else s1.evictLine w (p.pa / 128)).post w va (p.pa / 128)
          (.atomic ⟨.dec, 0, 0, true⟩ (p.pa % 128) (.trec t.ctx s.serial w.die d task va)) s.serial [] true)) ∧
    (∀ entry image, e.after = .shoot entry image →
      let s0 := s.setStrand k (({ t with edge := none, wait := none } : Strand).advance 4)
      let s1 := s0.setStrand k { s0.strand k with wait := some .shootdown }
      does { s1 with
        serial := s.serial + 1
        shoots := s.shoots ++ [⟨s.serial, t.func, entry, image, [], [], some t.ctx, false, none⟩] })

/-- R9 to R12, R192, R211, R291: a message arrives after the earlier ones of its strand to its core and takes a place in
the activation queue, with the priority of its vector entry; a message that no vector entry takes is counted and
recorded. An idle slot takes its activation with registers 0 and full but for the words of the message. A donation's
activation has no acquire (R77). The value of DRET fills the caller's register. -/
def Obligations.MessagesArriveAndActivate : Prop :=
  (∀ (i : Nat) (s : State) (a : Activation), s.transit[i]? = some a →
    (∀ b ∈ s.transit.take i, b.origin ≠ a.origin ∨ b.target ≠ a.target) →
    let s1 := ({ s with transit := s.transit.eraseIdx i } : State).handed a
    s.pathHeld a = [] →
    (s.discarded a = true → exec (.messageArrival i) s = .next (s1.discardMsg a).ran) ∧
    (∀ p, s.discarded a = false → (s.core a.target).actq.length < 16 → s.isSaved a.launch (a.target / 32) = false →
      s.prioOf a = some p →
      exec (.messageArrival i) s = .next ({ s1.setCore a.target { s1.core a.target with
        actq := (s1.core a.target).actq ++ [{ a with prio := p, order := s1.serial }] } with
          serial := s1.serial + 1 } : State).ran)) ∧
  (∀ (k : Nat) (s : State) (a : Activation), s.idleSlot k = true →
    let c := slotCore k
    (s.core c).nextAct (slotIdx k) (s.serverBusy c) = some a → a.frame = none → a.type ≠ 7 → a.type ≠ 9 →
    let s0 := s.setCore c { (s.core c).worked with actq := (s.core c).actq.filter fun q => q.order != a.order }
    s.discarded a = false →
      let s1 : State := { s0.setStrand k (s0.actStrand c a) with serial := s0.serial + 1 }
      (a.type ≠ 3 → exec (.activation k) s = .next (s1.invalidate (s1.whoAt k) (distance (c / 32) (a.sender / 32))).ran) ∧
      (a.type = 3 → exec (.activation k) s = .next s1.ran)) ∧
  (∀ (i k : Nat) (s : State) (r : Reply), s.replies[i]? = some r → s.findCtx r.ctx = .slot k →
    let reach := distance (slotCore k / 32) (r.server / 32)
    (reach = .cluster ∨ s.allDone false (s.loadsOf r.ctx) = true) → s.way (r.server / 8192) (slotCore k / 8192) = .clear →
      let s1 : State := { s with replies := s.replies.eraseIdx i }
      exec (.dlgReply i) s = .next ((s1.onCtx r.ctx fun t => t.setX r.d r.value).invalidate
        ⟨slotCore k, r.ctx, ((s.ctxStrand r.ctx).map fun t => t.func).getD 0, 5⟩ reach).ran)

/-- R31, R32, R308, R317: a seed starts in an idle slot that owns its index at every level of the launch, once, with the
launch's header, class, priority, function and bindings, and counts for the launch.

R321: an idle slot of a graph launch takes the task of its die of the highest priority that is the oldest, with the
node's header, p0 naming its argument line, and the line's words gone home; the task leaves the queue and counts for
the launch, and the activation acquires with reach DIE (R213). -/
def Obligations.SeedsAndTasksStart : Prop :=
  (∀ (slot n : Nat) (wid : Word) (s : State) (l : Launch), s.launches.find n = some l →
     let c := slotCore slot
     s.running (c / 32) = some n → l.graph = false → s.idleSlot slot = true → slotIdx slot ≠ 4 → wid ∉ l.seeded →
     l.widOk wid = true → l.mine slot wid = true → s.seedPlace l slot = true →
       let t := { Strand.fresh s.serial (some n) l.func wid (l.word 64) .branch l.cls (BitVec.ofNat 8 l.prio) 1
         (s.launchBindings (some n)) with jl := some .seed }
       let s1 := (s.setStrand slot t).setCore c (s.core c).worked
       exec (.seedActivation slot n wid) s = .next { s1 with
         serial := s.serial + 1, stalled := false
         launches := s.launches.put n { l with
           activated := l.activated + 1, firstSeed := some (l.firstSeed.getD s.now), seeded := wid :: l.seeded } }) ∧
  (∀ (slot n : Nat) (s s2 : State) (l : Launch) (t : BitVec 128 × Nat × Nat) (nd : Node),
     let c := slotCore slot
     let k := coreClus c
     s.running k = some n → s.launches.find n = some l → l.graph = true → slotIdx slot ≠ 4 → s.idleSlot slot = true →
     s.nextTask l (clusDie k) = some t → l.nodes[taskNode t.1]? = some nd →
     let base := ((l.word 416).toNat + 64 * ((32 * l.rank k + c % 32) * 5 + slotIdx slot)) % 2 ^ 58
     let u := { Strand.fresh s.serial (some n) l.func (BitVec.ofNat 64 (taskNode t.1 * 2 ^ 48 + taskInst t.1))
       ((nd[0]?).getD 0) .branch l.cls (taskPrio t.1) 1 (s.launchBindings (some n)) with
       jl := some .seed, p0 := some (BitVec.ofNat 64 base, 8 * nodeArgs nd) }
     let s1 : State := { s.setStrand slot u with serial := s.serial + 1 }
     s1.writeArgs l slot nd (taskInst t.1) base (nodeArgs nd) = some s2 →
       let s3 := s2.setDie (clusDie k) { s2.die (clusDie k) with
         tasks := (s2.die (clusDie k)).tasks.filter fun q => q.2.2 != t.2.2 }
       let s4 := s3.setCore c (s3.core c).worked
       let s5 : State := { s4 with launches := s4.launches.put n { l with
         activated := l.activated + 1, firstSeed := some (l.firstSeed.getD s4.now) } }
       exec (.taskActivation slot) s = .next (s5.invalidate (s4.whoAt slot) .die).ran)

/-- R18, R20, R24, R25: an idle general slot with no activation, no entry of its own in the deque and no ready frame
starts a round of its core's steal engine; the deque spills its 16 oldest entries to the backing store and refills
the group written last, under what was pushed since, after which the slot that waits looks at the tail; a probe that
finds nothing moves to the next victim; the back-off ends and a new round begins.

R23, R26, R27: a published head of a core of the own cluster is stolen: it leaves the victim's deque, and once a slot
is idle its continuation resumes there. -/
def Obligations.IdleSlotsFindWork : Prop :=
  ((∀ (k : Nat) (s : State), s.freeSlot k = true → slotIdx k ≠ 4 →
     let c := slotCore k
     let co := s.core c
     co.nextAct (slotIdx k) false = none → (s.running (c / 32)).isSome = true →
       ((co.tail (slotIdx k) = .empty ∨ co.tail (slotIdx k) = .notMine) → (s.cluster (c / 32)).ready = [] →
         s.idleSlot k = true → co.engine.running = false → co.engine.waiting = false → co.engine.moving = none →
         exec (.pickWork k) s = .next (s.setCore c
           { co with engine := { co.engine with running := true, probed := [0, 0, 0] } }).ran) ∧
       (∀ e s', co.tail (slotIdx k) = .entry e →
         (s.setCore c { co.worked with deque := co.deque.dropLast }).resume k (entRec e) (entChdr e) (s.running (c / 32))
           (s.funcOf (s.running (c / 32))) = some s' →
         exec (.pickWork k) s = .next s'.ran)) ∧
   (∀ (c : Nat) (s s1 : State), (s.core c).spilling = true → 16 ≤ (s.core c).deque.length →
     s.writeGroup (s.coreLaunch c) c (s.core c).groups ((s.core c).deque.take 16) = some s1 →
       exec (.dequeSpill c) s = .next (s1.setCore c { s.core c with
         deque := (s.core c).deque.drop 16, groups := (s.core c).groups + 1, spilling := false }).ran) ∧
   (∀ (c n : Nat) (s : State) (l : List (BitVec 128)), (s.core c).refilling = some n → (s.core c).groups ≠ 0 →
     (s.core c).deque.length < 16 → s.readGroup (s.coreLaunch c) c ((s.core c).groups - 1) = some l →
       exec (.dequeRefill c) s = .next ((s.setCore c { s.core c with
         deque := l ++ (s.core c).deque, groups := (s.core c).groups - 1, short := (s.core c).short.del ((s.core c).groups - 1)
         refilling := none }).afterRefill (slotKey c n)).ran) ∧
   (∀ (c lvl : Nat) (s : State),
     let co := s.core c
     let list := victims c lvl
     let pos := (co.engine.pos[lvl]?).getD 0
     let e : StealEngine := { co.engine with
       pos := co.engine.pos.set lvl ((pos + 1) % list.length)
       probed := co.engine.probed.set lvl ((co.engine.probed[lvl]?).getD 0 + 1) }
     co.engine.running = true → co.engine.moving = none → s.mayProbe c = true → co.engine.level = some lvl →
     let v := (list[pos % list.length]?).getD 0
     (lvl = 2 → s.way (c / 8192) v = .clear) → s.probe c lvl v = none →
       exec (.stealProbe c) s = .next (s.setCore c { co with engine := if e.level = none then e.emptyRound else e }).ran) ∧
   (∀ (c : Nat) (s : State), (s.core c).engine.waiting = true →
     exec (.stealBackoffExpiry c) s = .next (s.setCore c { s.core c with
       engine := { (s.core c).engine with waiting := false, running := true } }).ran)) ∧
  ((∀ (c vc : Nat) (s : State) (ent : BitVec 128) (info : Nat),
     let co := s.core c
     let list := victims c 0
     let pos := (co.engine.pos[0]?).getD 0
     let e : StealEngine := { co.engine with
       pos := co.engine.pos.set 0 ((pos + 1) % list.length)
       probed := co.engine.probed.set 0 ((co.engine.probed[0]?).getD 0 + 1) }
     let r := entRec ent
     co.engine.running = true → co.engine.moving = none → s.mayProbe c = true → co.engine.level = some 0 →
     s.probe c 0 ((list[pos % list.length]?).getD 0) = some (vc, ent) →
     vc / 32 = c / 32 → vc ≠ c → s.readRec (s.running (c / 32)) r 24 8 = some info →
       exec (.stealProbe c) s = .next ((s.setCore vc { s.core vc with deque := (s.core vc).deque.drop 1 }).setCore c { co with
         engine := { e with running := false, probed := [0, 0, 0], empties := 0, moving :=
           (some ⟨ent, vc, [], 128 * (r.off / 128), r.spill, [], []⟩ : Option StealMove) } }).ran) ∧
   (∀ (c n : Nat) (s s' : State) (m : StealMove),
     let co := s.core c
     let k := c / 32
     let r := entRec m.entry
     co.engine.moving = some m → m.walks = [] → m.victim / 32 = k →
     [0, 1, 2, 3].find? (fun n => s.idleSlot (slotKey c n)) = some n → s.allDone false m.waits = true →
     (s.running k).isSome = true →
     (s.setCore c { co with engine := { co.engine with moving := none } }).resume (slotKey c n)
       (entRec (entMoved m.entry r)) (entChdr (entMoved m.entry r)) (s.running k) (s.funcOf (s.running k)) = some s' →
       exec (.stealMove c) s = .next (s'.invalidate (s'.whoAt (slotKey c n)) .cluster).ran))

/-- R21, R22, R29, R204, R208, R209: a decrement reaches its counter; a parked frame whose move finds room moves to the
counter's cluster, with its tiles, and is known there by its new name, and one that finds none stays where it lies;
an arrival that is not the last is registered and its strand ends, and the last one releases the registrations,
begins a new episode and lets its strand go on. What comes from another die crosses the links to it: it waits while
one sleeps or retrains, and the decrement that a lost link stops is dropped with a REMOTE_LOST record (R343, R362,
R387; log 32). A registration beyond the join area is an entry of the spill table (R206); which one is the model's
choice (log 43).

R214, R322, R362: the donation intake takes the records that wait as far as it can. Then it refuses a record with a
reserved bit (reason 3), one without a ready launch that takes it (reason 2) and one that finds 64 records waiting
(reason 1); a record that waits is refused after 100 µs (reason 1) or when its launch has ended (reason 4). A record
that it takes joins the die with the fewest queued tasks, and firmware is activated with it; while that die is not
powered the record waits, and the die is woken. That the intake and the driver's log are lists, and the core that is
activated, are the model's (log 26). -/
def Obligations.CountersBarriersAndDonations : Prop :=
  ((∀ (i : Nat) (s : State) (d : Dec), s.decs[i]? = some d → s.allDone false d.waits = true → d.kind = .decrement →
     let way := s.way (d.src / 256) (ctrClus d.counter / 256)
     let woken := s.wakeLinks (pathLinks (d.src / 256) (ctrClus d.counter / 256) 8)
     let gone : State := { s with decs := s.decs.eraseIdx i }
     (way = .clear → exec (.joinDecrement i) s = .next (gone.decrement d.launch d.counter).ran) ∧
     (way = .held → exec (.joinDecrement i) s = .next (if woken.links = s.links then s.waits else woken.ran)) ∧
     (∀ l, way = .lost l → exec (.joinDecrement i) s = .next (gone.error 25 2 (l / 8 % 8) (s.funcOf d.launch) 1 0 l).ran)) ∧
   (∀ (i info : Nat) (s : State) (p : Park), s.parks[i]? = some p → s.readRec p.launch (recOf p.frame) 24 8 = some info →
     s.way (fnClus p.frame / 256) (ctrClus (fnCtr p.frame) / 256) = .clear →
     s.planMove p.launch (recOf p.frame) (ctrClus (fnCtr p.frame)) = none →
       exec (.parkMove i) s = .next (({ s with parks := s.parks.filter fun q => q.frame != p.frame } : State).giveParked
         p.launch (fnCtr p.frame)).ran) ∧
   (∀ (i info line : Nat) (sp : Bool) (tiles : List (Nat × Nat)) (s s1 : State) (p : Park), s.parks[i]? = some p →
     let c := fnCtr p.frame
     let r := recOf p.frame
     let dst : Rec := ⟨ctrClus c, sp, 128 * line⟩
     let gone : State := { s with parks := s.parks.filter fun q => q.frame != p.frame }
     s.way (fnClus p.frame / 256) (ctrClus c / 256) = .clear →
     s.readRec p.launch r 24 8 = some info → s.planMove p.launch r (ctrClus c) = some (sp, line, tiles) →
     (gone.takeRoom p.launch (ctrClus c) sp line (infoSize info) (gone.tileSizes p.launch r tiles)).moveRec p.launch r dst tiles =
       some s1 →
       let j := s1.ctr p.launch c
       exec (.parkMove i) s = .next ((s1.setCtr p.launch c { j with
         parked := j.parked.map fun f => if f = p.frame then fnMoved f dst else f }).giveParked p.launch c).ran) ∧
   (∀ (i : Nat) (s : State) (a : Arrival), s.arrivals[i]? = some a →
     s.way (a.core / 8192) (barCore a.barrier / 8192) = .clear →
     let c := barCore a.barrier
     let co := s.coreOf a.launch c
     let x := co.barrier (barIdx a.barrier)
     let k := s.clusterOf a.launch (c / 32)
     let s0 : State := { s with arrivals := s.arrivals.eraseIdx i }
     (x.arrived + 1 ≠ x.count →
       allocated k.counters + allocated k.spilled + s0.registrations a.launch (c / 32) + (k.ready.length - 64) < 4608 →
       let s1 := s0.setCoreOf a.launch c { co with
         barriers := co.barriers.put (barIdx a.barrier)
           { x with arrived := x.arrived + 1, waiting := x.waiting ++ [(a.frame, a.core)] } }
       exec (.barrierArrival i) s = .next ((if allocated k.counters + s1.registrations a.launch (c / 32) ≤ 512 then s1
         else s1.spillWrite a.launch (c / 32) (4095 - (s1.spillUsed a.launch (c / 32) - allocated k.spilled - 1))).barWait
           a.ctx).ran) ∧
     (x.arrived + 1 = x.count →
       let s1 := s0.completeBarrier a.launch a.barrier
       let hdr := match (s1.ctxStrand a.ctx).bind fun t => t.wait with
         | some (.barrier h) => h
         | _ => 0
       exec (.barrierArrival i) s = .next (s1.barLast a.ctx (distance (a.core / 32) (c / 32)) hdr).ran))) ∧
  ((∀ (sender : BitVec 3) (task : BitVec 128) (s0 : State),
     let s := s0.donations.foldl (fun s d => s.takeDonation d.sender d.task d.time true) { s0 with donations := [] }
     let refuses := fun (n : Nat) => exec (.donationIntake sender task) s0 = .next { s with
       stalled := false
       refusals := s.refusals ++
         [BitVec.ofNat 256 (task.toNat + n * 2 ^ 128 + s.pkg.toNat * 2 ^ 136 + s.now.toNat * 2 ^ 192)] }
     (s0.donations = [] → s = s0) ∧
     (task.extractLsb' 99 29 ≠ 0 → refuses 3) ∧
     (task.extractLsb' 99 29 = 0 → s.donationLaunch task true = none → refuses 2) ∧
     (task.extractLsb' 99 29 = 0 → (s.donationLaunch task true).isSome = true → 64 ≤ s.donations.length → refuses 1) ∧
     (∀ n l d, task.extractLsb' 99 29 = 0 → s.donationLaunch task true = some (n, l) → s.donations.length < 64 →
       s.fewest l = some d →
         (s.dieOn d = true → exec (.donationIntake sender task) s0 = .next
           ((({ s with
             launches := s.launches.put n { l with seedCtr := l.seedCtr + 1 }, donLog := s.donLog ++ [task] } : State).enqueueTask d
             (task ||| (1#128 <<< 98)) l.func).donationNotice n task).ran) ∧
         (s.dieOn d = false → exec (.donationIntake sender task) s0 = .next
           { s.wakeDie d with stalled := false, donations := s.donations ++ [⟨task, sender, s.now⟩] }))) ∧
   (∀ (i : Nat) (s : State) (d : Donation), s.donations[i]? = some d →
     let refuses := fun (n : Nat) => exec (.donationWaitExpiry i) s = .next { s with
       donations := s.donations.eraseIdx i, stalled := false
       refusals := s.refusals ++
         [BitVec.ofNat 256 (d.task.toNat + n * 2 ^ 128 + s.pkg.toNat * 2 ^ 136 + s.now.toNat * 2 ^ 192)] }
     (s.donationLaunch d.task true = none → refuses 4) ∧
     ((s.donationLaunch d.task true).isSome = true → 100000 ≤ (s.now - d.time).toNat → refuses 1)))

/-! The ordering machine (spec/02_memory.md, spec/03_ordering.md, spec/23_host.md). -/

/-- R68 to R72: DRAIN performs the head of a posting buffer and INGRESS the head of an ingress buffer, once what the item
must follow is performed and no held write stands before it; HOP carries the head of a remote queue one die on, into
an ingress buffer at its home, and wakes a link that sleeps; EVICT sends any line of a cluster home, in the queue of
a core of which the cluster is serving an access, or of core 0. -/
def Obligations.QueuesServeTheirHeads : Prop :=
  (∀ (core h : Nat) (s : State) (it : Item) (r : List Item), s.posting.get (64 * core + h) [] = it :: r → h < 64 →
    s.dieOn (core / 8192) = true → s.servable it = true →
      exec (.drain core h) s =
        .next (({ s with posting := s.posting.put (64 * core + h) r } : State).perform it).sweep.ran) ∧
  (∀ (link h : Nat) (s : State) (it : Item) (r : List Item), s.ingress.get (64 * link + h) [] = it :: r → h < 64 →
    s.dieOn it.die = true → s.servable it = true →
      exec (.ingress link h) s =
        .next (({ s with ingress := s.ingress.put (64 * link + h) r } : State).perform it).sweep.ran) ∧
  (∀ (link : Nat) (s : State) (it : Item) (r : List Item), (s.link link).queue = it :: r →
    let s1 := s.setLink link { s.link link with queue := r }
    let key := 64 * link + homeSlice (128 * it.line)
    ((s.link link).state = .up →
      (it.die = link % 8 → exec (.hop link) s =
        .next ({ s1 with ingress := s1.ingress.put key (s1.ingress.get key [] ++ [it]) } : State).ran) ∧
      (it.die ≠ link % 8 → exec (.hop link) s = .next (s1.forward (link % 8) it).ran)) ∧
    (∀ slow, (s.link link).state = .asleep none slow → exec (.hop link) s =
      .next (s.setLink link { s.link link with state := .asleep (some s.now) slow }).ran)) ∧
  (∀ (core line : Nat) (s : State) (c : CLine), (s.cluster (core / 32)).findLine line = some c →
    (core % 32 = 0 ∨ ∃ l ∈ s.live, slotCore l.slot = core) → s.wayBusy (core / 32) line = false →
    exec (.evict core line) s =
      .next (s.evictLine { s.whoFor (core / 32) with core := core } line).sweep.ran)

/-- R51, R58, R62, R70: what an item does at the home of a line of device memory that is neither poisoned nor shared with
the host: a read delivers its bytes to an entry that still waits for them (log 19), a write merges exactly its masked
bytes, an increment adds element by element and counts its flags. An atomic of any kind (AMO, CAS, FAMO, RED, TDEC)
writes its new value; a returning one delivers the old value and its flags, another counts its flags at the slice; a
decrement of zero writes nothing. Elements that change nothing are left out of an increment here (log 10). Each
access that reads or writes the line counts as a use of it in the die's L2 (log 37).

R62, R70: FILL of a cluster's only fetch installs the line with the cluster's own later writes, answers the loads
that wait on it with its bytes, and lets the atomics that wait on it act. The installed line stands behind the
contexts that wrote past the fetch (log 9). A poisoned line installs nothing: it fails the loads and returning
atomics, and the others are discarded and counted. -/
def Obligations.ItemsActAtTheirHome : Prop :=
  (∀ (s : State) (it : Item), paHost (128 * it.line) = false → s.poison.contains it.line = false →
     (∀ c ∈ s.copies, c.line ≠ it.line) → (∀ p, ∀ e ∈ s.filters.get p [], e.line ≠ it.line) →
     (s.slice it.slice).sharers = [] → (s.slice it.slice).held = [] →
       let old := s.readLine it.line
       let use := fun (x : State) => x.l2Touch it.die it.line
       (∀ off n k, it.act = .read off n k →
         s.perform it = ((use s).performed it.serial).deliverRead k (lineBytes old off n)) ∧
       (∀ d m h, it.act = .write d m h → s.perform it = ((use s).mergeLine it.line d m).performed it.serial) ∧
       (∀ f d m, it.act = .incr f d m →
         let s1 := use (s.performed it.serial)
         let r := addElems f true old d m (s.slice it.slice).ctr
         s.perform it = (use (s1.setSlice it.slice { s.slice it.slice with ctr := r.2 })).mergeLine it.line r.1 m) ∧
       (∀ q off k, it.act = .atomic q off k →
         let x := lineBytes old off q.kind.bytes
         let v := q.apply x
         let none := q.kind = .dec ∧ x = 0
         let s1 := use (s.performed it.serial)
         let s2 := if none then s1
           else (use s1).mergeLine it.line (lineAt v.1 off) (byteMask off q.kind.bytes)
         (q.returning = true → s.perform it = (s2.deliver k x).sinkFlags k v.2) ∧
         (q.returning = false → s.perform it =
           s2.setSlice it.slice { s2.slice it.slice with ctr := countFlags (s2.slice it.slice).ctr v.2 }))) ∧
  (∀ (clus line n : Nat) (s : State) (f : Fetch) (d : Line), (s.cluster clus).fetches = [f] → f.line = line →
     f.got = some (n, d) → s.wayBusy clus line = false →
     let w : Who := ⟨f.core, f.ctx, f.func, 5⟩
     let s1 := (s.setCluster clus { s.cluster clus with fetches := [] }).performed f.serial
     let bytes := f.bytes d
     (f.poisoned = true → exec (.fill clus line) s =
       .next (f.atoms.foldl (fun s' a =>
           if a.req.returning then (s'.performed a.serial).failSink a.sink .poison
           else (s'.performed a.serial).discardAt (64 * servedAt w.die line + homeSlice (128 * line)) 1)
         (f.loads.foldl (fun s' x => s'.answerLoad x d true) s1)).sweep.ran) ∧
     (f.poisoned = false →
       let r := s1.install w line bytes f.place f.va f.behind
       let held := match r.2 with
         | some c => if c.st = LState.a then bytes else c.data
         | none => bytes
       exec (.fill clus line) s = .next (f.atoms.foldl (fun s' a => s'.runAtom w f.place f.va line a)
         (f.loads.foldl (fun s' x => s'.answerLoad x held false) r.1)).sweep.ran))

/-- R55, R62, R70, R73, R358 to R360: a host link that carries traffic answers an invalidation and completes the writes
queued on it; a snoop is served once the dies that hold the line are awake, and one of a line that no die holds
completes the write-back of it that is queued; a host processor reads and writes at its own copy of a line and keeps
what it read; an access to an address that does not exist stops the machine (log 3); an uncorrectable error poisons
its line, and a line of a cluster goes home as poison (R62); the atomic at the head of a fabric port acts on host
memory or, once the host's copies are pulled, on device memory, and one that returns nothing counts its flags at the
port. -/
def Obligations.HostTrafficIsServed : Prop :=
  (∀ (line p : Nat) (s : State), s.hostCarries p = true →
    ((∃ e ∈ (s.slice (sliceOf line)).sharers, e.1 = line ∧ e.2.1 = p) → s.dieAwake (paDie (128 * line)) = true →
      exec (.biack line p) s = .next (s.answerInv line p).ran) ∧
    (∀ it r, (s.hostLink p).queue = it :: r →
      exec (.hostw p) s = .next ((s.setHostLink p { s.hostLink p with queue := r }).hostWrite it).ran) ∧
    (s.tracker p line = none →
      (s.queuedBack line = true ∧ s.hostFree line = false → exec (.hostSnoop line p) s = .next s.waits) ∧
      (s.queuedBack line = false ∨ s.hostFree line = true →
        exec (.hostSnoop line p) s = .next (s.hostFlushLine line).ran)) ∧
    (∀ q e, s.tracker p line = some (q, e) → (∀ d, d < 8 → setHas e.mask d = true → s.dieOn d = true → s.dieAwake d = true) →
      exec (.hostSnoop line p) s = .next (s.serveSnoop q e false).ran)) ∧
  (∀ (pa : BitVec 52) (v : Word) (w : Width) (p : BitVec 1) (s : State),
    let line := pa.toNat / 128
    let n := w.bytes
    (paValid pa.toNat = false → exec (.host (.load pa w p)) s = .fault .noSuchAddress ∧
      exec (.host (.store pa w v p)) s = .fault .noSuchAddress) ∧
    (paValid pa.toNat = true → pa.toNat % n = 0 →
      (paHost pa.toNat = true →
        (s.mayOwn line false = true → exec (.host (.load pa w p)) s =
          .next ((s.hostOwns line false).hostReturn ((s.hostOwns line false).hostRead pa.toNat n)).ran) ∧
        (s.mayOwn line true = true → exec (.host (.store pa w v p)) s = .next ((s.hostOwns line true).mergeLine line
          (lineAt (v.toNat % 2 ^ (8 * n)) (pa.toNat % 128)) (byteMask (pa.toNat % 128) n)).ran)) ∧
      (∀ s1, paHost pa.toNat = false → s.hostFetch line p.toNat = some s1 →
        exec (.host (.load pa w p)) s = .next (s1.hostReturn (s1.hostRead pa.toNat n)).ran ∧
        exec (.host (.store pa w v p)) s = .next ({ s1 with copies := s1.copies.map fun c =>
          if c.line = line then
            { c with dirty := true
                     data := mergeBytes c.data (lineAt (v.toNat % 2 ^ (8 * n)) (pa.toNat % 128)) (byteMask (pa.toNat % 128) n) }
          else c } : State).ran))) ∧
  (∀ (place : ErrorPlace) (line : Nat) (s : State),
    (place = .hbm → exec (.uncorrectableError place line) s = .next (s.poisonLine line 0 (paDie (128 * line))).ran) ∧
    (∀ d, place = .l2 d → exec (.uncorrectableError place line) s = .next (s.poisonLine line 1 d.toNat).ran) ∧
    (∀ d, place = .link d → exec (.uncorrectableError place line) s = .next (s.poisonLine line 3 d.toNat).ran) ∧
    (∀ k c, place = .clusterSram k → (s.cluster k).findLine line = some c →
      let s1 := s.setCluster k ((s.cluster k).dropLine c.line)
      exec (.uncorrectableError place line) s =
        .next (if c.st = LState.s then s1 else s1.postBack (s.whoFor k) c (.poison (some 2))).ran)) ∧
  (∀ (p : Nat) (s : State) (o : PortOp) (r : List PortOp), (s.port p).queue = o :: r → s.allDone false o.after = true →
    s.poison.contains (o.pa / 128) = false →
      let n := o.req.kind.bytes
      let line := o.pa / 128
      let s0 := (s.setPort p { s.port p with queue := r }).performed o.serial
      ∀ s1, (paHost o.pa = true ∧ s.hostCarries p = true ∧ s.mayOwn line true = true ∧
          s1 = (s0.hostFlushLine line).hostOwns line true) ∨
        (paHost o.pa = false ∧ s.heldOn (sliceOf line) line = false ∧ s.rowBusy (paDie o.pa) line = false ∧
          s1 = s0.pullHost line true) →
      let old := s1.readMem o.pa n
      let v := o.req.apply old
      let s2 := s1.mergeLine line (lineAt v.1 (o.pa % 128)) (byteMask (o.pa % 128) n)
      (o.req.returning = true → exec (.fabricPortAtomic p) s =
        .next ((s2.deliver o.sink old).sinkFlags o.sink v.2).sweep.ran) ∧
      (o.req.returning = false → exec (.fabricPortAtomic p) s =
        .next (s2.setPort p { s2.port p with ctr := countFlags (s2.port p).ctr v.2 }).sweep.ran))

/-! Engines, exchange and the Centroid (spec/12_isa_engines.md, spec/24_centroid.md). -/

/-- R80, R252, R255: an access of a copy from scratch reads its element, which is then to be written; a write into
scratch reaches every named cluster, with its poison (R252); an access to a row of SRAM under remap waits (R386); and
after the last access, once no slice holds a write of the operation, the scoreboard entry retires and the status word
fills its register.

R64: the base die of the one stack that holds an operation's data takes it up; data on two stacks ends it with
SPLIT_STACK, and nothing acts.

R257: the next entry of a cluster's copy schedule starts once SC has reached its count: a legal one is forked as the
copy that its geometry gives, and one with a bad field completes with RANGE and moves nothing. -/
def Obligations.EnginesMoveTheirElements : Prop :=
  (∀ (e i : Nat) (s : State) (x : Engine) (g : Geometry), s.engine e = some x → x.job = .copy g →
     (∀ j k b, x.todo[i]? = some (.read j k) → g.src = .sram b → g.fifo = none →
       let k := s.cluster x.clus
       let at' := sramAt b (g.srcOff x.offs j)
       (s.sramBusy x.clus at' g.esz = true → exec (.eng e i) s = .next s.waits) ∧
       (s.sramBusy x.clus at' g.esz = false → exec (.eng e i) s = .next (s.setEngine { x with
         todo := x.todo.eraseIdx i ++ [.write j (k.readSram at' g.esz) (k.badAt at' g.esz)]
         codes := if k.badAt at' g.esz then codePoison :: x.codes.filter fun c => c != codePoison else x.codes }).sweep.ran)) ∧
     (∀ j v bad b, x.todo[i]? = some (.write j v bad) → g.dst = .sram b → x.todo.length ≠ 1 →
       let r := s.castWrite { x with todo := x.todo.eraseIdx i } g b (sramAt b (g.dstOff j)) v bad
       ((∃ c ∈ g.mcast, s.sramBusy c (sramAt b (g.dstOff j)) g.esz = true) → exec (.eng e i) s = .next s.waits) ∧
       ((∀ c ∈ g.mcast, s.sramBusy c (sramAt b (g.dstOff j)) g.esz = false) →
         exec (.eng e i) s = .next (r.1.setEngine r.2).sweep.ran)) ∧
     (∀ ctx d, x.todo = [] → x.ready = true → x.ring = none → s.engHeld x.id = false →
       x.status = some (ctx, d) →
       let s1 := s.onCtx ctx fun t => t.setX d (BitVec.ofNat 64 (statusWord (lowestCode x.codes) x.kind x.tag x.bytes))
       exec (.eng e i) s = .next ({ s1 with
         engines := s1.engines.filter fun o => o.id != x.id
         clusters := s1.clusters.map fun c => (c.1, { c.2 with board := c.2.board.filter fun b => b.engine != x.id }) } :
         State).ran)) ∧
  (∀ (e : Nat) (s : State) (x : Engine) (n : Near) (p : Place), s.engine e = some x → x.job = .near n → x.ready = false →
     spotOf x.spots n.src = some p → stackOf p.pa ≠ 16 →
     ((∀ q ∈ x.spots, stackOf q.2.pa = stackOf p.pa) →
       exec (.nearMemoryExec e) s = .next (s.setEngine { x with
         ready := true, bytes := packedBytes n.det n.count
         todo := (List.range n.count).flatMap fun i => (List.range n.nsrc).map fun k => EngAcc.read i k }).ran) ∧
     ((∃ q ∈ x.spots, stackOf q.2.pa ≠ stackOf p.pa) →
       exec (.nearMemoryExec e) s = .next (s.setEngine { x with ready := true, codes := [codeSplit] }).ran)) ∧
  (∀ (clus n r : Nat) (s : State) (l : Launch),
     let k := s.cluster clus
     k.holder = some n → s.launches.find n = some l → k.started = true → k.sched < bits (l.word 432).toNat 0 16 →
     s.readVa l.func ((l.word 424).toNat + l.rank clus * (l.word 440).toNat + 128 * k.sched) 128 = some r →
     bits r 0 32 ≤ k.sc.toNat → k.board.length < 32 →
       let core := 32 * clus
       let v : Vec := BitVec.ofNat 512 (bits r 512 512)
       let g := geomBits v
       let xa := BitVec.ofNat 64 (bits r 64 64)
       let xb := BitVec.ofNat 64 (bits r 128 64)
       let bind := fun (n : BitVec 4) => l.binding n.toNat
       let ring := bits r 32 2
       let ivs := copyIntervals g v xa xb
       let s1 := s.setCluster clus { k with sched := k.sched + 1 }
       let bad := bits r 34 30 ≠ 0 ∨ bits r 192 320 ≠ 0 ∨ k.rings.find ring = none ∨
         (copyChecks g v xa xb k (s.core core) bind).isSome = true
       (bad → ∃ e, exec (.scheduleEntryStart clus) s =
           .next ({ s1 with engines := s1.engines ++ [e], serial := s1.serial + 1 } : State).ran ∧
         e.id = s.serial ∧ e.kind = 2 ∧ e.todo = [] ∧ e.codes = [codeRange] ∧ e.ring = some ring ∧ e.tag = g.tag) ∧
       (∀ spots, ¬ bad → s.boardFree (clus :: castList clus g.mask) = true →
         (g.tofifo && k.busyBank g.fbank) = false → (∀ v ∈ ivs, v.busy k bind = false) →
         translateAll (s.walkPage core l.func) ivs = .ok spots →
           exec (.scheduleEntryStart clus) s = .next (s1.fork (copyEngine s.serial 2 clus core l.func
             (geometryOf g v xa xb clus k bind) spots (some ring) none g.tag) (boardOf s.serial k bind spots ivs)
             (castList clus g.mask)).ran))

/-- R259, R261, R374: a unit takes the calendar of its generation and is GRANTED, drops one of an older generation, and
leaves one of a newer generation or beside a calendar that it runs to a later event (log 28); at TS it runs; the next
own phase begins at its start; in the end it is IDLE again with ROUND one more. The parts of a phase's end are the
model's (log 28).

R261, R267: the ingress unit drops and counts a row that it has had, and otherwise takes it up and writes it once for
each chosen expert, copy by copy, as far as the rings have room; after the last copy the row is accepted; a link that
fails in a phase ends the send of the pair at the bytes that its peer has. The CRC's form is PRESUMED (log 15), and
peers are inputs (log 23). -/
def Obligations.ExchangeRoundsRun : Prop :=
  ((∀ (die i e : Nat) (s : State) (c : Calendar),
     s.cg.calendars.findIdx? (fun q => q.1 == s.endpoint die) = some i → s.cg.calendars[i]? = some (e, c) →
     let s1 : State := { s with cg := { s.cg with calendars := s.cg.calendars.eraseIdx i } }
     let x := s.xu die
     (c.gen.toNat < x.known.toNat → exec (.calendarArrival die) s = .next s1.ran) ∧
     (x.known.toNat < c.gen.toNat ∨ c.gen = x.known ∧ (x.state = .granted ∨ x.state = .running) →
       exec (.calendarArrival die) s = .next s.waits) ∧
     (c.gen = x.known → x.state = .idle ∨ x.state = .posted →
       exec (.calendarArrival die) s = .next (s1.setXu die { x with
         state := .granted, gen := c.gen, cal := some c, phase := 0, sentEnd := 0, ended := 0, moving := none
         voided := (c.grants.zipIdx.filter fun g => c.ts.toNat + g.1.offset < (s.die die).ptc.toNat).map fun g => g.2 }).ran)) ∧
   (∀ (die : Nat) (s : State) (c : Calendar), (s.xu die).state = .granted → (s.xu die).cal = some c →
     c.ts.toNat ≤ (s.die die).ptc.toNat → (s.xu die).nextPhase = none →
       exec (.phaseStart die) s = .next (s.setXu die { s.xu die with state := .running }).ran) ∧
   (∀ (die p : Nat) (s : State),
     let x := s.xu die
     x.state = .running → x.phase = x.ended → x.nextPhase = some p → (x.phaseTime p).1 ≤ (s.die die).ptc.toNat →
     ({ x with phase := p } : Exchange).grantIn p false = none →
       exec (.phaseStart die) s =
         .next ({ s.setXu die { x with phase := p, moving := none } with serial := s.serial + 1 } : State).ran) ∧
   (∀ (die : Nat) (s : State),
     let x := s.xu die
     x.state = .running → x.records = [] →
     (x.phase ≠ x.ended → (x.phaseTime x.phase).2 ≤ (s.die die).ptc.toNat →
       (x.phase ≠ x.sentEnd → x.grantIn x.phase false = none →
         exec (.phaseEnd die) s = .next (s.setXu die { x with sentEnd := x.phase, moving := none }).ran) ∧
       (x.phase = x.sentEnd → x.grants.find? (fun g => g.phase == x.phase && g.rx) = none →
         exec (.phaseEnd die) s = .next (s.setXu die { x with ended := x.phase }).ran)) ∧
     (x.phase = x.ended → x.nextPhase = none → ((x.cal.map fun c => c.stop.toNat).getD 0) ≤ (s.die die).ptc.toNat →
       (∀ d, x.sends.find? (fun d => !d.reported) = some d → (∀ r ∈ x.receives, x.rowHeld r.1 = false) →
         exec (.phaseEnd die) s = .next (s.setXu die (x.sendRecord d)).ran) ∧
       (x.sends.find? (fun d => !d.reported) = none → x.emap = none → x.arm = none →
         exec (.phaseEnd die) s = .next (s.setXu die { x with
           past := x.cal.map fun c =>
             (c.gen, c.round, (x.grants.zipIdx.filter fun g => !g.1.rx && x.voided.contains g.2).map fun g => g.1.partner)
           state := .idle, armPins := false, round := x.round + 1, phase := 0, sentEnd := 0, ended := 0, voided := [], moving := none,
           sends := [], receives := [], residual := 0, lastResidual := x.residual, accepted := 0, roundDups := 0,
           roundDeferred := 0, layerDone := false }).ran)))) ∧
  ((∀ (die e : Nat) (s : State) (m : XTable),
     let x := s.xu die
     let r : Receive := Tab.get x.receives e .reset
     let h := ((r.lines.head?).map fun l => l.data).getD 0
     let src := rowBits h 608 6
     let seq := rowBits h 576 32
     let old := Tab.get x.seen src []
     let n := 128 * r.lines.length
     x.emap = some m → x.rowHeld e = true →
     (r.copies = none → (∀ l ∈ r.lines, l.bad = false) →
       crc32c ((r.lines.drop 1).map fun l => l.data) = rowBits h 672 32 →
       (seenRow old seq = true → exec (.ingressRow die e) s =
         .next ((s.setXu die x.dropDup).setReceive die e { r with lines := [], put := r.put + n }).ran) ∧
       (seenRow old seq = false →
         let chosen := (rankBy (fun j => scoreKey (rowBits h (32 * j) 32)) m.epg).take m.topk
         let s0 := s.setReceive die e { r with copies := some chosen }
         exec (.ingressRow die e) s = .next ((s0.spread die e m chosen).getD s0).ran)) ∧
     (∀ j l s1, r.copies = some (j :: l) → s.putCopy die e m r.lines j = some s1 →
       let s2 := s1.setReceive die e { r with copies := some l }
       exec (.ingressRow die e) s = .next ((s2.spread die e m l).getD s2).ran) ∧
     (r.copies = some [] → exec (.ingressRow die e) s =
       .next ((s.setXu die { x with accepted := x.accepted + 1, seen := x.seen.put src ((seq :: old).take 4096) }).setReceive
         die e { r with lines := [], copies := none, put := r.put + n, last := r.lines }).ran)) ∧
   (∀ (die e bytes : Nat) (s : State) (g : Grant) (d : Send),
     let x := s.xu die
     x.state = .running → x.phase ≠ x.ended → x.phase ≠ x.sentEnd → x.grantIn x.phase false = some g → g.partner = e →
     s.dieOf e = none → x.sendTo e = some d →
       exec (.exchangeLinkFailure die e bytes) s = .next (s.setXu die
         { x.putSend { d with lost := true, sent := min d.sent (bytes / 128 * 128) } with moving := none }).ran))

/-- R369, R370, R376, R377: the Centroid takes a member's post of its generation into the round, drops one from outside
the group, and counts one that is late or of another generation; a member's count toward itself is 0 there; the round
closes when every member has posted or when its deadline has passed; a die that learns of a generation posts again
what it has posted; one that is not newer than what it knows changes nothing, and CGST never goes back.

R365, R369, R375, R376: the active Centroid sends a heartbeat every 1 µs; the first live Centroid after it, once 8 in
a row are missed, takes over with a new generation; an exchange whose times fit the clocks, over a link that is
trained and has had none for 10 µs, sets the correction to be slewed and two bounds that hold now; a register of the
Centroid is written by the owner, on the leader's package with a new generation, and a write by another master is
dropped and recorded, after a lease that has run out has ended. The offset in the record is a free value (log 29),
and what a peer does is an input (log 23). -/
def Obligations.TheCentroidRuns : Prop :=
  ((∀ (i : Nat) (s : State) (p : Post), s.cg.posts[i]? = some p → s.centroidHere = true → s.group.en = true →
     s.overdue = false →
     let c := { s.cg with posts := s.cg.posts.eraseIdx i }
     let s0 : State := { s with cg := c }
     (p.late = true ∨ p.gen ≠ c.gen → exec (.centroidPost i) s = .next ({ s with cg := c.countLate } : State).ran) ∧
     (p.late = false → p.gen = c.gen →
       (s0.group.members.contains p.endpoint = false → exec (.centroidPost i) s = .next s0.ran) ∧
       (s0.group.members.contains p.endpoint = true →
         let s1 : State := { s with cg := { c with
           rows := c.rows.put p.endpoint (p.row.set p.endpoint 0), openAt := some (c.openAt.getD s.now) } }
         (s1.allPosted = false → exec (.centroidPost i) s = .next s1.ran) ∧
         (s1.allPosted = true → s1.groupSkew ≠ 0xFFFF → exec (.centroidPost i) s = .next s1.closeRound.ran)))) ∧
   (∀ (s : State) (t : Word), s.centroidHere = true → s.cg.openAt = some t → s.group.deadline ≤ (s.now - t).toNat →
     s.groupSkew ≠ 0xFFFF → exec .roundDeadlineExpiry s = .next s.closeRound.ran) ∧
   (∀ (die : Nat) (gen : BitVec 32) (s : State),
     let learn := fun (s : State) =>
       let s1 := s.setXu die { s.xu die with known := gen }
       if (s.xu die).state = .posted then s1.sendPost die else s1
     (gen.toNat ≤ (s.xu die).known.toNat → exec (.generationChange die gen) s = .next s.waits) ∧
     ((s.xu die).known.toNat < gen.toNat →
       (s.centroidHere = true → gen = s.cg.gen → exec (.generationChange die gen) s = .next (learn s).ran) ∧
       (s.centroidHere = false → gen.toNat ≤ s.cg.gen.toNat → exec (.generationChange die gen) s = .next (learn s).ran) ∧
       (s.centroidHere = false → s.cg.gen.toNat < gen.toNat → exec (.generationChange die gen) s =
         .next (learn { s with cg := { s.cg with gen := gen } }).ran)))) ∧
  ((∀ (s : State), s.group.en = true → s.centroidHere = true → 1000 ≤ (s.now - s.cg.beatAt).toNat →
     exec .heartbeatTimer s = .next ({ s with cg := { s.cg with
       beat := some ⟨s.cg.gen, s.cg.round, s.cg.prevEnd⟩, beatAt := s.now, missed := 0 } } : State).ran) ∧
   (∀ (pkg : BitVec 3) (iod : Bool) (n m : Nat) (s : State),
     s.group.line.findIdx? (fun p => p == (pkg.toNat, iod)) = some n →
     s.group.line.findIdx? (fun p => p == (s.cg.pkg.toNat, s.cg.iod)) = some m → s.group.en = true → m < n →
     8 ≤ s.cg.missed → (∀ p ∈ (s.group.line.take n).drop (m + 1), p.1 ≠ s.pkg.toNat) →
       exec (.centroidTakeover pkg iod) s = .next ({ s with cg := { s.cg with
         gen := s.cg.gen + 1, rows := [], openAt := none, pkg := pkg, iod := iod, missed := 0,
         prevEnd := (s.cg.beat.map fun b => b.stop).getD s.cg.prevEnd } } : State).ran) ∧
   (∀ (die : Nat) (t1 t2 t3 t4 : Word) (pkgSkew grpSkew : BitVec 16) (s : State), die < 8 →
     s.boundOk pkgSkew 2 = true → s.boundOk grpSkew 20 = true → s.exchangeFits die t1 t2 t3 t4 = true →
     s.exchangeDue die = true → s.centroidHere = false →
       exec (.gnomonExchange die t1 t2 t3 t4 pkgSkew grpSkew) s = .next (s.setDie die { s.die die with
         slew := ((t2 - t1).toInt - (t4 - t3).toInt) / 2, pkgSkew := pkgSkew, grpSkew := grpSkew, exchanged := some (s.die die).ptc }).ran) ∧
   (∀ (reg : CgReg) (value : Word) (who : BitVec 16) (s : State), s.boot.running.isSome = true →
     (s.owns who = false → exec (.cgConfigWrite reg value who) s = .next (s.expireLease.error 15 1 0 0 1
       (Config.registerOffset (match reg with
         | .cgmem => 0
         | .cgctl => 1
         | .cgrate => 2)) who.toNat).ran) ∧
     (s.owns who = true → reg = .cgmem → s.cg.leader = s.pkg.toNat →
       exec (.cgConfigWrite reg value who) s = .next ({ s with cg := { s.cg with
         cgmem := value, gen := s.cg.gen + 1, rows := [], openAt := none } } : State).ran)))

/-! Translation, migration and the moves of contexts (spec/21_translation.md, spec/22_traps.md). -/

/-- R175, R327, R328: a walk ends: the translation goes into the three levels of TLBs; an instruction that was held goes
on with it, and an access that waits is made; a load whose page has no translation has faulted. A walk that waits at
a migrating page is tried again after 1 µs, and fails with reason MIGRATION after 1 ms; one that comes to wait there
counts from the first that waits at that page. The entry that a full TLB gives up is an input (log 17).

R326, R328: a write of TLBINV or RINV starts a shootdown, waits behind the one in progress of its function, or is
recorded where 15 wait; a die drops what the shootdown names and emits what its buffers hold of it, and acknowledges
once the accesses that may have used it are performed and nothing pins it. The two parts of an acknowledgement are
the model's (log 18). -/
def Obligations.WalksAndShootdownsEnd : Prop :=
  ((∀ (k seq : Nat) (v : Victims) (s : State) (w : Walk) (x : Xlat), (s.strand k).active = true →
     (s.strand k).walk = some w → w.busy = true → 16 ≤ seq →
     s.walkFor (slotCore k) (s.strand k).func (w.va.toNat % 2 ^ 58) = .ok x →
       let gets := fun (v : Victims) => (s.fillTlbs (slotCore k) x v).setStrand k { s.strand k with
         walk := (some { w with busy := false, waiting := none, got := x :: w.got } : Option Walk) }
       (w.waiting = none → exec (.translationWalkDone k seq v) s = .next (gets v).sweep.ran) ∧
       (∀ t, w.waiting = some t → 1000 ≤ (s.now - t).toNat →
         exec (.migWalkRetry k seq) s = .next (gets ⟨0, 0, 0⟩).sweep.ran)) ∧
   (∀ (k seq leaf : Nat) (v : Victims) (s : State) (w : Walk), (s.strand k).active = true →
     (s.strand k).walk = some w → w.busy = true → 16 ≤ seq → w.waiting = none →
     s.walkFor (slotCore k) (s.strand k).func (w.va.toNat % 2 ^ 58) = .wait leaf →
       exec (.translationWalkDone k seq v) s = .next (s.setStrand k { s.strand k with walk :=
         (some { w with waiting := some (s.waitFrom (coreDie (slotCore k)) (s.strand k).func leaf) } : Option Walk) }).sweep.ran) ∧
   (∀ (k seq : Nat) (v : Victims) (s : State) (e : Entry) (w : Walk), (s.strand k).active = true → seq < 16 →
     (s.strand k).queue[seq]? = some e → e.phase = .walking w →
       (∀ x s', w.waiting = none → s.walkFor (slotCore k) (s.strand k).func (w.va.toNat % 2 ^ 58) = .ok x →
         (s.fillTlbs (slotCore k) x v).retry k e (x :: w.got) false = some s' →
           exec (.translationWalkDone k seq v) s = .next s'.sweep.ran) ∧
       (∀ z d g, e.memOp = some (.load z d g) →
         (∀ r, w.waiting = none → s.walkFor (slotCore k) (s.strand k).func (w.va.toNat % 2 ^ 58) = .fail r →
           exec (.translationWalkDone k seq v) s = .next (s.setStrand k
             ((s.strand k).setPhase e.serial (.faulted (.translation r w.write w.va)))).sweep.ran) ∧
         (∀ t, w.waiting = some t → 1000000 ≤ (s.now - t).toNat →
           exec (.migTimeout k seq) s = .next (s.setStrand k
             ((s.strand k).setPhase e.serial (.faulted (.translation 6 w.write w.va)))).ran)))) ∧
  ((∀ (f : Nat) (value : Word) (s : State), f ≤ 512 → s.boot.running.isSome = true →
     let q := s.fn f
     let writes := fun (i : Instr) (w : InvWrite) =>
       (q.busy = false →
         exec i s = .next ((s.setFn f { q with busy := true }).startShoot f w.entry w.image none true none).ran) ∧
       (q.busy = true → q.inv.length < 15 → exec i s = .next (s.setFn f { q with inv := q.inv ++ [w] }).ran) ∧
       (q.busy = true → 15 ≤ q.inv.length → exec i s = .next (s.error 5 1 0 f 1 0 w.image.toNat).ran)
     writes (.tlbinv f value) ⟨false, value &&& 0x07FFFFFFFFFFC000⟩ ∧ writes (.rinv f value) ⟨true, value &&& 0x1FF⟩) ∧
   (∀ (i die : Nat) (s : State) (h : Shoot), s.shoots[i]? = some h → die < 8 → die ∉ h.acked → h.entry = false →
     (∀ w, h.waits.find die = some w → s.allDone false w = true → s.pinned h die = false →
       exec (.shootdownAck i die) s = .next (s.ackShoot h die).ran) ∧
     (h.waits.find die = none → s.matNamed h die = false →
       let s1 := (s.dropXlats h die).emitNamed h die
       let w := s1.liveNamed h die
       let h1 : Shoot := { h with waits := h.waits.put die w }
       let s2 := s1.setShoot h1
       exec (.shootdownAck i die) s =
         .next (if w.isEmpty && !s2.pinned h1 die then s2.ackShoot h1 die else s2).ran)))

/-- R334 to R337: the fault unit adds the oldest fault to a page that is pending already, and otherwise makes the page,
of the size of its leaf, pending; the record of the oldest pending page that has none is written, with the contexts
that wait then. FRES ends a pending page: its contexts resume, or their launches end with FAULT. The registers of the
unit are the owner's.

R337, R339: MIGCMD starts a migration, or leaves the RESULT that tells why it does not; a write while one is under
way does nothing. Once its shootdown is over the frame's lines go home, and once that is done an unmapped page's leaf
is cleared and the migration is over. The order of its parts is the model's (log 18). -/
def Obligations.PageFaultsAndMigrations : Prop :=
  ((∀ (die : Nat) (s : State) (f : PageFault) (r : List PageFault) (v : Saved), die < 8 → (s.die die).faultq = f :: r →
     s.savedOf f.ctx = some v → v.spilled = true → (s.die die).fault.en = true →
       let d := s.die die
       let va := f.va.toNat % 2 ^ 58
       let log := match s.leafOf f.func va with
         | .ok (_, _, log) => log
         | .error _ => 14
       let same := fun (p : PendingPage) => p.fault.func == f.func &&
         (p.page == va / 2 ^ p.log || p.page * 2 ^ p.log / 2 ^ log == va / 2 ^ log)
       let rest := d.faultq.filter fun g => g.ctx != f.ctx
       let taken := fun (pending : List PendingPage) => s.setDie die { d with faultq := rest, pending := pending }
       (d.pending.any same = true →
         let s1 := taken (d.pending.map fun p => if same p then { p with ctxs := p.ctxs ++ [f.ctx] } else p)
         exec (.pageFault die) s = .next ((s1.recordFault die).getD s1).ran) ∧
       (d.pending.any same = false → d.pending.length < 256 →
         let s1 := taken (d.pending ++ [⟨f, va / 2 ^ log, log, none, [f.ctx]⟩])
         exec (.pageFault die) s = .next ((s1.recordFault die).getD s1).ran)) ∧
   (∀ (die : Nat) (s : State) (p : PendingPage), die < 8 → (s.die die).fault.en = true →
     (s.die die).faultq = [] → (s.die die).pending.find? (fun p => p.record.isNone) = some p →
     (s.die die).fault.full = false →
       let d := s.die die
       let f := p.fault
       let s1 := s.putFault die (
         { kind := f.kind, reason := f.reason, wr := f.write, home := f.home, func := f.func, count := p.ctxs.length,
           va := f.va.toNat, pa := f.pa / 2 ^ p.log * 2 ^ p.log } : FaultRecord)
       exec (.pageFault die) s = .next (s1.setDie die { s1.die die with
         pending := d.pending.map fun q =>
           if q == p then { q with record := some (BitVec.ofNat 12 d.fault.frtail.toNat) } else q }).ran) ∧
   (∀ (die : Nat) (record : BitVec 12) (value : Word) (who : BitVec 16) (s : State), die < 8 → s.boot.running.isSome = true →
     s.owns who = true →
       let d := s.die die
       let s1 := s.setDie die { d with pending := d.pending.filter fun p => p.record != some record }
       (∀ p, d.pending.find? (fun p => p.record == some record) = some p →
         exec (.fresRetry die record who) s = .next (p.ctxs.foldl (fun s c => s.resolved c) s1).ran ∧
         exec (.fresKill die record who) s = .next (p.ctxs.foldl (fun s c => match s.savedOf c with
           | some v => s.endLaunch v.shell.launch 7
           | none => s) s1).ran) ∧
       exec (.faultRingHeadWrite die value who) s =
         .next (s.setDie die { d with fault := { d.fault with frhead := BitVec.ofNat 32 value.toNat } }).ran ∧
       (bits value.toNat 16 16 = 0 → exec (.faultUnitEnable die value who) s =
         .next (s.setDie die { d with fault := { d.fault with frctl := value &&& 0xFFFF0003 ||| 0x10000 } }).ran) ∧
       (bits value.toNat 16 16 ≠ 0 → exec (.faultUnitEnable die value who) s =
         .next (s.setDie die { d with fault := { d.fault with frctl := value &&& 0xFFFF0003 } }).ran))) ∧
  ((∀ (die : Nat) (value : Word) (who : BitVec 16) (s : State), die < 8 → s.boot.running.isSome = true → s.owns who = true →
     let d := s.die die
     let dst := d.fault.migdst.toNat
     let start := s.startMigration die (bits dst 52 10) (bits value.toNat 14 44 * 2 ^ 14) (bits dst 14 38 * 2 ^ 14) true false
     (d.fault.migst.getLsbD 0 = true → exec (.migcmd die value who) s = .next s.ran) ∧
     (d.fault.migst.getLsbD 0 = false →
       (∀ r, start = .error r → exec (.migcmd die value who) s =
         .next (s.setDie die { d with fault := { d.fault with migst := BitVec.ofNat 64 (2 * r) } }).ran) ∧
       (∀ s1, start = .ok s1 → exec (.migcmd die value who) s =
         .next (s1.setDie die { s1.die die with fault := { (s1.die die).fault with migst := 1 } }).ran))) ∧
   (∀ (die : Nat) (s : State) (m : Migration), (s.die die).mig = [m] →
     (∀ h ∈ s.shoots, h.migration ≠ some m.shoot) →
     let h : Shoot := ⟨0, m.func, false, m.page, [], [], none, false, none⟩
     (m.drain = none → (∀ d, d < 8 → s.pinned h d = false) →
       let s1 := (s.drainFrame m.old m.size).invFrame m.old m.size
       exec (.migrationComplete die) s = .next (s1.setDie die { s1.die die with
         mig := (s1.die die).mig.map fun o =>
           if o.shoot = m.shoot then { o with drain := some (s1.frameItems m.old m.size) } else o }).ran) ∧
     (∀ w, m.drain = some w → s.allDone false w = true → s.frameClear m.old m.size = true → m.new = 0 →
       let leaf := m.leaf.toNat
       let s1 := s.writeSys m.leafPa (leaf - bits leaf 0 1 - bits leaf 56 1 * 2 ^ 56) 8
       let d := s1.die die
       exec (.migrationComplete die) s = .next (s1.setDie die { d with
         mig := d.mig.filter fun o => o.shoot != m.shoot
         fault := if m.command then { d.fault with migst := 0 } else d.fault }).ran)))

/-- R344, R349 to R354: the trap of the oldest entry is taken once every entry has faulted or finished; a context that
has left its slot is written to two frames of the die's stack; the image of the oldest move goes into an empty shadow
bank and its frames are free again, once the die's PTC has come to where the context left (R161); a staged context
and its slot change places. The stack of frames is the owner's. What stays with a context besides its image is the
model's (log 19). -/
def Obligations.ContextsMoveThroughTheShadowBank : Prop :=
  (∀ (k : Nat) (s s' : State) (e : Entry) (r : List Entry) (t : Trap),
    let u := s.strand k
    u.active = true → u.settled = true → u.edge = none → u.wait = none → u.queue = e :: r → e.phase = .faulted t →
    (∀ a b va, t ≠ .translation a b va) → (∀ b va pa, t ≠ .foreignDie b va pa) →
    s.takeTrap k t e.pc e.addr e.iword = some s' → exec (.trapTake k) s = .next s'.ran) ∧
  (∀ (c f1 f2 : Nat) (s s1 : State) (b : Shadow), (s.core c).shadow = some b → b.outgoing = true →
    s.takeFrames (coreDie c) 2 = (s1, some [f1, f2]) → s.framesFree f1 f2 = true →
      let s2 := s1.writeImage f1 f2 (imageFields f2 b.why.kind b.header b.strand b.mat)
      exec (.contextSpill c) s = .next ({ s2.setCore c { s2.core c with shadow := none } with
        saved := s2.saved ++ [{
          ctx := b.strand.ctx, slot := slotKey c b.slot, why := b.why, frame1 := f1, frame2 := f2, spilled := true,
          shell := b.strand, held := (b.mat.map fun m => m.held).getD .reset
          left := (b.header[6]?).getD 0 }] } : State).ran) ∧
  (∀ (c : Nat) (s : State) (m : CtxMove) (r : List CtxMove) (v : Saved), (s.core c).shadow = none →
    s.requests c = m :: r → m.out = false → s.savedOf m.saved = some v → v.spilled = true →
    s.allDone false m.waits = true → s.framesFree v.frame1 v.frame2 = true →
      let s1 := s.dropSaved m.saved
      ((s.die (coreDie c)).ptc.ult v.left = true → exec (.stagingFill c) s = .next s.waits) ∧
      ((s.die (coreDie c)).ptc.ult v.left = false → exec (.stagingFill c) s = .next (s1.setCore c { s1.core c with
        moves := r
        shadow := (some
          { slot := m.slot, strand := s.loadImage v.frame1 v.frame2 v.shell, outgoing := false, why := v.why, header := [],
            mat := s.loadMat v.frame1 v.frame2 v.held, said := false, acq := v.acquire c } : Option Shadow) }).ran)) ∧
  (∀ (c : Nat) (s : State) (b : Shadow), (s.core c).shadow = some b → b.outgoing = false → b.mat = none → b.acq = none →
    (s.strand (slotKey c b.slot)).active = false →
      exec (.contextSwap c) s =
        .next ((s.setCore c { s.core c with shadow := none }).setStrand (slotKey c b.slot) b.strand).ran) ∧
  (∀ (die : Nat) (value : Word) (who : BitVec 16) (s : State), die < 8 → s.boot.running.isSome = true → s.owns who = true →
    let d := s.die die
    exec (.sfladd die value who) s = .next (s.pushFrame die (bits value.toNat 12 40 * 4096)).ran ∧
    (value.getLsbD 4 = false → exec (.saveFrameStackEnable die value who) s =
      .next ((s.setDie die { d with save := { d.save with sflctl := value &&& 0xFFFF001F } }).lowCheck die d.save.isLow).ran))

/-! Launches and clusters (spec/20_launch.md). -/

/-- R310, R315, R381: a doorbell stores the tail, but that of a VF that is not enabled, and a tail too far ahead disables
its queue with a record; the queue whose turn it is gives its oldest entry to the launch table, with a priority that
does not exceed its ceiling.

R312 to R314: a launch that waits for nothing more is decided: a record that breaks a rule is REJECTED, partitions
that are not the function's give NOT_OWNED, one without seeds has ended at once, and any other is ready with its seed
count. A launch times out TMO ms after its first seed. The moments of the launch unit are the model's (log 30). -/
def Obligations.QueuesFeedTheLaunchTable : Prop :=
  ((∀ (f : Nat) (tail : BitVec 32) (s : State), f ≤ 512 → s.boot.running.isSome = true →
     let q := s.fn f
     let s1 := s.setFn f { q with qtail := tail }
     (s.fnOn f = false → exec (.qtailDoorbell f tail) s = .next s.ran) ∧
     (s.fnOn f = true →
       (q.en = false ∨ (tail - q.qhead).toNat ≤ 2 ^ q.log → exec (.qtailDoorbell f tail) s = .next s1.ran) ∧
       (q.en = true → 2 ^ q.log < (tail - q.qhead).toNat → exec (.qtailDoorbell f tail) s =
         .next ((s1.setFn f { q with qtail := tail, qctl := q.qctl &&& ~~~(16 : Word) }).error 4 1 0 f 1 0 tail.toNat).ran))) ∧
   (∀ (f : Nat) (s s1 s2 : State) (a : Word) (words : List Word),
     let q := s.fn f
     s.nextQueue = some f → q.pending ≤ 2 ^ q.log → addrWord a = true →
     s.readSys f (bits q.qbase.toNat 0 58 + 16 * (q.qhead.toNat % 2 ^ q.log)) 2 = some (s1, [a, 0]) →
     s1.readSys f (a.toNat % 2 ^ 58) 72 = some (s2, words) →
       let n := s2.serial
       let l : Launch :=
         { words := clampPrio words q.maxprio, func := f, order := n, waitn := 0, pf := false, state := .waiting,
           seedCtr := 0, seeded := [], activated := 0, firstSeed := none, aged := 0, ageFrom := 0, startedAt := 0,
           flushing := none, nodes := [] }
       let wait := l.byteBits 520 0 16
       let s3 : State := { s2.setFn f { s2.fn f with qhead := q.qhead + 1 } with
         serial := n + 1, launches := s2.launches.put n { l with waitn := wait }, pf := { s2.pf with turn := f } }
       exec (.launchEntryTake f) s =
         .next (if wait = 0 then (s3.decide n { l with waitn := 0 }).getD s3 else s3).ran)) ∧
  ((∀ (n : Nat) (s : State) (l : Launch), s.launches.find n = some l → l.state = .waiting → l.waitn = 0 →
     let ends := fun (c : Nat) => exec (.launchComplete n) s =
       .next ({ s with launches := s.launches.put n { l with state := .ended c } } : State).ran
     let bad := l.badFormat || l.badFields || (l.priv && l.func != 0)
     (l.pf = true → l.ie = false → ends 4) ∧
     (l.pf = false ∨ l.ie = true → bad = true → ends 2) ∧
     (l.pf = false ∨ l.ie = true → bad = false → l.graph = false →
       (s.badPartition l = true → ends 3) ∧
       (s.badPartition l = false → l.seeds = 0 → ends 1) ∧
       (s.badPartition l = false → l.seeds ≠ 0 → exec (.launchComplete n) s =
         .next ({ s with launches := s.launches.put n { l with
           state := .ready, seedCtr := BitVec.ofNat 64 l.seeds, aged := 0
           ageFrom := if s.blocked n l then s.now else 0 } } : State).ran))) ∧
   (∀ (n : Nat) (s : State) (l : Launch) (t : Word), s.launches.find n = some l → l.state = .ready →
     l.firstSeed = some t → l.byteBits 512 32 32 ≠ 0 → l.byteBits 512 32 32 * 1000000 ≤ (s.now - t).toNat →
       exec (.launchTimeout n) s =
         .next ({ s with launches := s.launches.put n { l with state := .ended 6 } } : State).ran))

/-- R313, R314, R316: once a launch has ended and nothing of it runs, the lines of its clusters go home; after that its
completion record is written to the ring of its queue, if that has one, on a page that may be written, it leaves the
table, and its successors are released: each waits for one launch less, and one that waits for none is decided. What
of an ended launch is dropped, and when a successor that cannot be decided at once is decided, is the model's (log
30). -/
def Obligations.LaunchesCompleteAfterTheirFlush : Prop :=
  (∀ (n k : Nat) (s : State) (l : Launch) (st : Nat), s.launches.find n = some l → l.state = .ended st → l.flushing = none →
    s.heldBy n = [k] → s.stoppedIn k = true →
      let r := s.flushCluster k
      r.1.allDone true r.2 = false →
      exec (.launchComplete n) s =
        .next ({ r.1 with launches := r.1.launches.put n { l with flushing := some r.2 } } : State).ran) ∧
  (∀ (n : Nat) (s : State) (l : Launch) (st : Nat) (w : List Nat), s.launches.find n = some l → l.state = .ended st →
    l.flushing = some w → s.allDone true w = true → s.heldBy n = [] →
      let f := s.fn l.func
      let base := bits f.crbase.toNat 0 58
      let log := bits f.crbase.toNat 58 4
      let leaves := fun (s' : State) => exec (.launchComplete n) s =
        .next (l.successors.foldl (fun s lid => s.releaseSuccessor l.func st lid)
          ({ s'.dropLaunch n with launches := (s'.dropLaunch n).launches.del n } : State)).ran
      (base = 0 → leaves s) ∧
      (∀ pa, base ≠ 0 → s.translateW l.func (base + 32 * (f.crw.toNat % 2 ^ log)) = some pa → s.sysReady pa true = true →
        let ph := if bits f.crw.toNat log 1 = 0 then 2 ^ 255 else 0
        let s1 := s.writeSys pa (l.completion st s.now + ph) 32
        s1.heldBy n = [] → leaves (s1.setFn l.func { s1.fn l.func with crw := f.crw + 1 }))) ∧
  (∀ (func st lid n : Nat) (s : State) (l : Launch),
    let waits := fun (e : Nat × Launch) => e.2.func == func && e.2.lid == lid && e.2.state == .waiting && e.2.waitn != 0
    (s.launches.find? waits = none → s.releaseSuccessor func st lid = s) ∧
    (s.launches.find? waits = some (n, l) →
      let l1 : Launch := { l with waitn := l.waitn - 1, pf := l.pf || 2 ≤ st }
      let s1 : State := { s with launches := s.launches.put n l1 }
      (l.waitn ≠ 1 → s.releaseSuccessor func st lid = s1) ∧
      (l.waitn = 1 → ∀ s2, s1.decide n l1 = some s2 → s.releaseSuccessor func st lid = s2)))

/-- R317 to R319: a free cluster goes to the launch that it was saved for, or to the best of those that may gain it; a
launch that waits ages by one each AGEQ; a holder whose quantum has ended gives way to a launch of no lower effective
priority; and a cluster of the lowest priority is pre-empted for a launch that stands PDELTA above it. -/
def Obligations.ClustersGoToTheirLaunches : Prop :=
  (∀ (k n : Nat) (s : State) (l : Launch), k < 2048 → (s.cluster k).holder = none → s.nextHolder k = some (n, l) →
    s.dieOn (clusDie k) = true →
      let first := (s.heldBy n).isEmpty && !(s.savedClusters.any fun v => v.launch == n)
      let s1 := s.setHolder k (some n)
      let s2 := s1.setCluster k { s1.cluster k with next := none, started := false }
      exec (.clusterGrant k) s = .next ({ s2 with launches := s2.launches.put n { l with
        aged := 0, ageFrom := if s2.blocked n l then s2.now else 0
        startedAt := if first then s2.now else l.startedAt } } : State).ran) ∧
  (∀ (n : Nat) (s : State) (l : Launch), s.launches.find n = some l → l.state = .ready → s.blocked n l = true →
    let step := 1000 * max 1 s.pf.ageq.toNat
    step ≤ (s.now - l.ageFrom).toNat →
      exec (.ageingStep n) s = .next ({ s with launches := s.launches.put n { l with
        aged := l.aged + 1, ageFrom := l.ageFrom + BitVec.ofNat 64 step } } : State).ran) ∧
  (∀ (k n : Nat) (s : State) (l : Launch) (e : Nat × Launch) (r : List (Nat × Launch)),
    (s.cluster k).holder = some n → s.launches.find n = some l → l.state = .ready → (s.cluster k).started = true →
    (s.cluster k).save = .off → 1000 * s.pf.quant.toNat ≤ (s.now - (s.cluster k).heldAt).toNat →
    s.launches.filter (fun e => e.1 != n && s.mayGain k e.2 && s.effPrio l ≤ s.effPrio e.2) = e :: r →
      exec (.quantumExpiry k) s = .next (s.setCluster k { s.cluster k with
        save := .swapping, next := some (r.foldl (fun a b => s.better a b) e).1 }).ran) ∧
  (∀ (n : Nat) (s : State) (l : Launch), s.launches.find n = some l →
    let may := fun (e : Nat × Cluster) (h : Launch) => ∃ m, e.2.holder = some m ∧ m ≠ n ∧ s.launches.find m = some h ∧
      h.state = .ready ∧ e.2.started = true ∧ e.2.save = .off ∧ s.mayGain e.1 l = true ∧
      h.prio + s.pf.pdelta.toNat ≤ l.prio ∧ s.wants n l e.1 = true
    (∃ e ∈ s.clusters, ∃ h, may e h) →
      ∃ e ∈ s.clusters, ∃ h, may e h ∧ (∀ e' ∈ s.clusters, ∀ h', may e' h' → h.prio ≤ h'.prio) ∧
        exec (.preempt n) s =
          .next (s.setCluster e.1 { s.cluster e.1 with save := .swapping, next := some n }).ran)

/-- R10, R195, R317, R330, R345, R356: a launch starts on a cluster with the banks, rings, vector tables and regions that
its record gives, and every core without work; a cluster is saved once its contexts have left it and its lines are
home, and a saved cluster is restored as it was, its FIFO banks among the frames (R356), with an empty cache. What
the 104 frames hold is the model's choice (log 21). -/
def Obligations.ClustersStartAndAreSaved : Prop :=
  (∀ (k n : Nat) (s s1 s2 : State) (l : Launch) (vt rt : Tab (BitVec 128)), (s.cluster k).holder = some n →
    s.launches.find n = some l → (s.cluster k).started = false → l.state = .ready →
    (∀ v ∈ s.savedClusters, ¬ (v.clus = k ∧ v.launch = n)) → s.dieOn (clusDie k) = true →
    s.vectors l = some (s1, vt) → s1.regionTable l (clusDie k) = some (s2, rt) →
      ∃ t, exec (.clusterLaunchStart k) s = .next t ∧
        t.cluster k = { (s.cluster k).freed with
          modes := l.bankModes, rings := l.rings, holder := some n, heldAt := (s.cluster k).heldAt, started := true } ∧
        (∀ i, i < 32 → t.core (32 * k + i) = { (s2.core (32 * k + i)).cleared with vtab := vt, regions := rt }) ∧
        t.mem = s2.mem) ∧
  (∀ (k n : Nat) (s : State), (s.cluster k).holder = some n → (s.cluster k).save = .swapping → s.saveDeque k = none →
    s.saveSlot k = none → s.savable k = true →
      let r := s.flushCluster k
      exec (.clusterSave k) s = .next (r.1.setCluster k { r.1.cluster k with save := .flushing r.2 false }).ran) ∧
  (∀ (k n : Nat) (s s1 : State) (w : List Nat) (said : Bool) (f : List Nat), (s.cluster k).holder = some n →
    (s.cluster k).save = .flushing w said → s.allDone true w = true → s.takeFrames (clusDie k) 104 = (s1, some f) →
    s1.framesReady f = true →
      exec (.clusterSave k) s = .next (s1.putAway k n f).ran) ∧
  (∀ (k n : Nat) (s s1 : State) (l : Launch) (v : SavedCluster) (vt : Tab (BitVec 128)), (s.cluster k).holder = some n →
    s.launches.find n = some l → s.savedClusters.find? (fun v => v.clus == k && v.launch == n) = some v →
    (s.cluster k).started = false → l.state = .ready → s.dieOn (clusDie k) = true → s.framesReady v.frames = true →
    s.vectors l = some (s1, vt) →
      let s2 := State.claimFrames
        { s1 with savedClusters := s1.savedClusters.filter fun o => !(o.clus == k && o.launch == n) } v.frames
      ∃ t, exec (.clusterRestore k) s = .next t ∧
        t.cluster k = { ({ v.cluster with sram := s2.readBanks v.frames } : Cluster).refill with
          lines := [], holder := some n, heldAt := (s.cluster k).heldAt, next := none,
          started := true, save := .off,
          tlb := (s.cluster k).tlb } ∧
        (∀ i, i < 32 → (t.core (32 * k + i)).vtab = vt) ∧
        t.savedClusters = s1.savedClusters.filter fun o => !(o.clus == k && o.launch == n))

/-! Host links, dies and the fleet (spec/23_host.md, spec/25_fleet.md). -/

/-- R361, R387: a host link is declared down when the link layer reports it, or when a back-invalidation has had no
answer for 1 ms, and a warm reset ends that; another link is declared down with its record and what was queued on it
lost. The numbers of links are the model's (log 32).

R362: an idle die that is drained is power-gated and its links sleep; a warm reset follows a drain, and a fatal one
does not wait; both leave the clock of the die and give what it holds its reset values. A link that has been waking
for 1.5 µs is recorded, a die that no link reaches for 200 µs is dead, and a trained link is up again with the die
behind it, whose held writes' back-invalidations go out then. What a reset die loses is DEDUCED (log 22). -/
def Obligations.LinksAndDiesChangeState : Prop :=
  ((∀ (p : Nat) (s : State), p < 2 → (s.hostLink p).down = false →
     exec (.hostLinkDown p) s = .next (s.declareDown p).ran ∧
     ((∃ e ∈ s.slices, ∃ x ∈ e.2.sharers, ∃ t, x.2.1 = p ∧ x.2.2 = some t ∧ 1000000 ≤ (s.now - t).toNat) →
       exec (.bisnpTimeout p) s = .next (s.declareDown p).ran)) ∧
   (∀ (p : Nat) (s : State), p < 2 → (s.hostLink p).viral = true →
     exec (.hostLinkWarmReset p) s = .next (s.setHostLink p { s.hostLink p with down := false, viral := false }).ran) ∧
   (∀ (l : Nat) (s : State), linkExists l = true → l ≠ 64 → l ≠ 65 → (s.link l).state ≠ .down →
     exec (.linkDown l) s = .next (s.loseLink l).ran)) ∧
  ((∀ (die : Nat) (s s1 : State), die < 8 → s.dieOn die = true → s.drainDie die = some s1 →
     (s.idleDie die = true → exec (.diePowerGate die) s =
       .next ((s1.setDie die { s1.die die with power := .gated }).setLinks die (.asleep none false)).ran) ∧
     exec (.dieWarmReset die) s = .next (s1.resetDie die).ran) ∧
   (∀ (die : Nat) (s : State), die < 8 → s.dieOn die = true → s.slicesOf die = [] →
     (∀ e ∈ s.posting, e.1 / 64 / 8192 ≠ die) → (∀ e ∈ s.ingress, e.1 / 64 % 8 ≠ die) →
       exec (.dieFatalReset die) s = .next (s.resetDie die).sweep.ran) ∧
   (∀ (die : Nat) (s : State),
     let t := s.resetDie die
     let x := s.die die
     t.die die = { Die.reset with ptc := x.ptc, slew := x.slew, frac := x.frac, exchanged := x.exchanged, pkgSkew := x.pkgSkew, grpSkew := x.grpSkew } ∧
       (∀ k, coreDie (slotCore k) = die → t.strand k = .idle) ∧ (∀ c, coreDie c = die → t.core c = .reset) ∧
       (∀ k, clusDie k = die → t.cluster k = .reset) ∧
       (∀ k, coreDie (slotCore k) ≠ die → t.strand k = s.strand k) ∧ t.mem = s.mem) ∧
   (∀ (l : Nat) (s : State) (t : Word), (s.link l).state = .asleep (some t) false → 1500 ≤ (s.now - t).toNat →
     exec (.linkwakeMaxExpiry l) s = .next ((s.setLink l { s.link l with state := .asleep (some t) true }).error 12 0
       (l / 8 % 8) 0 1 0 l).ran) ∧
   (∀ (die n : Nat) (s : State) (t : Word) (slow : Bool), die < 8 → (s.die die).power ≠ .dead → s.dieAwake die = false →
     n ∈ neighbours die → (s.link (linkKey n die)).state = .asleep (some t) slow → 200000 ≤ (s.now - t).toNat →
       exec (.diedeadTmoExpiry die) s =
         .next (((s.loseHeld die).poisonDie die).setDie die { s.die die with power := .dead }).ran) ∧
   (∀ (a b : Nat) (s : State) (t : Word) (slow : Bool), a < 8 → b < 8 → a ≠ b →
     (s.link (8 * a + b)).state = .asleep (some t) slow → (s.link (8 * b + a)).state = .up → (s.die a).power = .on →
     (s.die b).power = .gated →
       exec (.dieLinkTrained (8 * a + b)) s =
         .next ((((s.setLink (8 * a + b) { s.link (8 * a + b) with state := .up }).setDie b
           { s.die b with power := .on }).sendInvs a).sendInvs b).ran))

/-- R363 to R365: CLAIM takes effect only with the owner and the generation that it expects; it takes the device, keeps
it, hands it on or gives it up, and CLAIMST of its interface says which; a lease runs down with time, and one that
has run down leaves the device without an owner, with a record, which a CLAIM finds so. That no SELF is 0, and that a
device given up has no lease (REMAIN 0), are DEDUCED (log 34). The offset in the record is a free value (log 29).

R365, R378, R379: the owner's write of a PART register makes a change wait, and another one replaces it; the change
takes effect once no launch holds a cluster of the partition, after its lines are home and zeros are written where it
asks for a scrub. The moment of the scrub is the model's (log 31). -/
def Obligations.OwnersClaimAndPartition : Prop :=
  ((∀ (value : Word) (ch : Nat) (s : State), ch ≤ 256 → s.boot.running.isSome = true →
     let m := s.mgmt
     let self := claimSelf value ch
     let heir := value.extractLsb' 16 16
     let held := m.owner = 0 ∨ m.lease ≠ 0
     let fits := held ∧ self ≠ 0 ∧ value.extractLsb' 0 16 = m.owner ∧ value.extractLsb' 48 16 = m.gen.extractLsb' 0 16
     let gives := fun (m' : Mgmt) =>
       exec (.claim value ch) s = .next ({ s with mgmt := { m' with claimst := m.claimst.put ch 3 } } : State).ran
     (fits → m.owner = 0 → heir = self → gives { m with owner := self, gen := m.gen + 1, lease := 100000000 }) ∧
     (fits → m.owner ≠ 0 → self = m.owner → heir = self → gives { m with lease := 100000000 }) ∧
     (fits → m.owner ≠ 0 → self = m.owner → heir = 0 → gives { m with owner := 0, gen := m.gen + 1, lease := 0 }) ∧
     (fits → m.owner ≠ 0 → self = m.owner → heir ≠ self → heir ≠ 0 →
       gives { m with owner := heir, gen := m.gen + 1, lease := 100000000 }) ∧
     (held → ¬ fits ∨ (m.owner = 0 ∧ heir ≠ self) ∨ (m.owner ≠ 0 ∧ self ≠ m.owner) →
       exec (.claim value ch) s =
         .next ({ s with mgmt := { m with claimst := m.claimst.put ch 1 } } : State).ran) ∧
     (¬ held → exec (.claim value ch) s =
       exec (.claim value ch) (({ s with mgmt := { m with owner := 0, gen := m.gen + 1 } } : State).error
         14 0 0 0 1 (Config.registerOffset 47) m.owner.toNat))) ∧
   (∀ (ns : Nat) (s : State), s.mgmt.owner ≠ 0 → s.mgmt.lease ≠ 0 → ∃ t, s.turn (.elapse ns) = .next t ∧
     (s.mgmt.lease.toNat ≤ ns → t.mgmt.owner = 0 ∧ t.mgmt.gen = s.mgmt.gen + 1 ∧ t.mgmt.lease = 0) ∧
     (ns < s.mgmt.lease.toNat → t.mgmt.owner = s.mgmt.owner ∧ t.mgmt.gen = s.mgmt.gen ∧
       t.mgmt.lease.toNat = s.mgmt.lease.toNat - ns)) ∧
   (∀ (s : State), s.mgmt.owner ≠ 0 → s.mgmt.lease = 0 →
     exec .leaseExpiry s = .next (({ s with mgmt := { s.mgmt with owner := 0, gen := s.mgmt.gen + 1 } } : State).error
       14 0 0 0 1 (Config.registerOffset 47) s.mgmt.owner.toNat).ran)) ∧
  ((∀ (k : BitVec 6) (value : Word) (who : BitVec 16) (s : State), s.boot.running.isSome = true → s.owns who = true →
     let p := s.part k.toNat
     let f : BitVec 10 := if 513 ≤ bits value.toNat 0 10 then 0 else value.extractLsb' 0 10
     let en := value.getLsbD 10
     let writes := fun (p' : Part) => exec (.partWrite k value who) s = .next (s.setPart k.toNat p').ran
     (p.busy = true → writes { p with next := some (f, en), scrub := p.scrub || value.getLsbD 11 }) ∧
     (p.busy = false → f = p.func → en = p.en → writes p) ∧
     (p.busy = false → ¬ (f = p.func ∧ en = p.en) →
       writes { p with busy := true, next := some (f, en), scrub := value.getLsbD 11, drain := none })) ∧
   (∀ (k : BitVec 6) (s : State) (f : BitVec 10) (en : Bool), (s.part k.toNat).next = some (f, en) →
     s.partHeld k.toNat = false →
     let p := s.part k.toNat
     (p.scrub = false → exec (.partitionChange k) s = .next (s.assign k.toNat f en).ran) ∧
     (∀ w, p.scrub = true → p.drain = some w → s.allDone false w = true →
       s.frameClear (partBase k.toNat) partSize = true →
         exec (.partitionChange k) s = .next ((s.scrub k.toNat).assign k.toNat f en).ran)))

/-- R366 to R368: secure start takes the image of slot A, else that of slot B, with the measurements of its stages and
the record's defaults, else the device is in recovery, where only an image that passes the first check is written;
until an image runs no register answers; a report is signed with the next leaf, and none after the last; the owner
replaces the older copy of the record. Which signatures hold, and what the hashed bytes are, are free values (log
14); that a replacement by another master is dropped without a record is DEDUCED (log 34). -/
def Obligations.TheDeviceStartsSecurely : Prop :=
  (∀ (s : State), s.boot.running = none → s.boot.recovery = false →
    let b := s.boot
    (b.candidate b.slotA = none → b.candidate b.slotB = none →
      exec .secureBoot s = .next ({ s with boot := { b with recovery := true } } : State).ran) ∧
    (∀ i r, b.candidate b.slotA = some (i, r) ∨ (b.candidate b.slotA = none ∧ b.candidate b.slotB = some (i, r)) →
      let s1 := ({ s with boot := { b with
        running := some i, record := some r, mrs := measure i.stages } } : State).applyRecord r
      exec .secureBoot s = .next s1.ran)) ∧
  (∀ (reg : BarReg) (value : Word) (who : BitVec 16) (ch : Nat) (s : State), s.boot.running = none →
    exec (.registerWrite reg value who) s = .next s.waits ∧ exec (.claim value ch) s = .next s.waits) ∧
  (∀ (slotB : Bool) (i : Image) (s : State), s.boot.recovery = true →
    (imageGood i = false → exec (.recoveryImageWrite slotB i) s = .next s.ran) ∧
    (imageGood i = true → exec (.recoveryImageWrite slotB i) s =
      .next ({ s with boot := if slotB then { s.boot with slotB := some i } else { s.boot with slotA := some i } } :
        State).ran)) ∧
  (∀ (nonce : BitVec 256) (s : State) (r : ConfigRecord), s.boot.record = some r → s.boot.recovery = false →
    let b := s.boot
    (b.leaf < 1048576 → exec (.attestationReport nonce) s = .next ({ s with boot := { b with
      leaf := b.leaf + 1, reports := b.reports ++ [b.report nonce r] } } : State).ran) ∧
    (1048576 ≤ b.leaf → exec (.attestationReport nonce) s =
      .next ({ s with boot := { b with reports := b.reports ++ [[]] } } : State).ran)) ∧
  (∀ (record : ConfigRecord) (who : BitVec 16) (s : State) (i : Image), s.boot.running = some i →
    s.boot.recovery = false →
    (s.owns who = false ∨ recordGood i.configKeyHash record = false →
      exec (.configRecordReplace record who) s = .next s.ran) ∧
    (s.owns who = true → recordGood i.configKeyHash record = true →
      (∀ r, s.boot.select i.configKeyHash = some (r, true) → exec (.configRecordReplace record who) s =
        .next ({ s with boot := { s.boot with copyB := some record } } : State).ran) ∧
      (∀ r, s.boot.select i.configKeyHash = some (r, false) → exec (.configRecordReplace record who) s =
        .next ({ s with boot := { s.boot with copyA := some record } } : State).ran)))

/-- R385 to R388: correctable errors of a resource count within their window, and at the threshold the resource is
replaced, with a record: a row has been remapped, or a link has lost a lane; the governor cuts the clock by 25 MHz
where the power is above its limit, and then the duty, and gives them back where it is below 97 % of it. The codes of
resources and the numbers of links are the model's (log 32). -/
def Obligations.WearAndPowerAreManaged : Prop :=
  (∀ (kind : Resource) (die addr : Nat) (s : State), die < 8 → laneLink kind (addr / 32) = true →
    let new : Tracked := ⟨kind, die, addr, [], false⟩
    let old := (s.ras.tracked.find? fun t => sameRes t new).getD new
    let now := (s.die die).ptc
    let times := (now :: old.times).take s.ras.cethr
    let count := (times.filter fun t => (now - t).toNat < s.ras.cewin * 1000000000).length
    (old.acting = true → exec (.correctableError kind die addr) s = .next s.ran) ∧
    (old.acting = false → count < s.ras.cethr → exec (.correctableError kind die addr) s =
      .next ({ s with ras := s.ras.charge { old with times := times } } : State).ran) ∧
    (old.acting = false → s.ras.cethr ≤ count → exec (.correctableError kind die addr) s =
      .next ((s.error 18 1 die 0 count addr (Config.resourceCode (Resource.code kind))).act { old with times := times }).ran)) ∧
  (∀ (i : Nat) (s : State) (t : Tracked), s.ras.tracked[i]? = some t → t.acting = true →
    t.kind = .hbmRow ∨ t.kind = .l2Row ∨ t.kind = .sramRow →
      exec (.rowRemap i) s =
        .next (({ s with ras := s.ras.done t } : State).error 19 1 t.die 0 1 t.address (s.ras.left t)).ran) ∧
  (∀ (l : Nat) (s : State) (t : Tracked), 64 ≤ l → s.ras.laneOf l = some t → (s.ras.done t).laneOf l = none →
    (s.link l).state = .retraining → linkLanes l ≤ 2 * (linkLanes l - ((s.link l).lost + 1)) →
      let s1 : State := { s with ras := s.ras.done t }
      exec (.laneRetire l) s = .next ((s1.setLink l { s.link l with lost := (s.link l).lost + 1, state := .up }).error
        21 1 0 0 1 l (linkLanes l - ((s.link l).lost + 1))).ran) ∧
  (∀ (power : BitVec 12) (temp : BitVec 10) (s : State), 20000 ≤ (s.now - s.power.tickAt).toNat →
    let g := s.power
    let slow := if g.freq = 1000 then g.floorTicks + 1 else 0
    let g1 : Governor := { g with power := power, temp := temp, tickAt := s.now, floorTicks := slow }
    let ends := fun (g' : Governor) => exec (.governorTick power temp) s = .next ({ s with power := g' } : State).ran
    (g.plim < power.toNat → 1000 < g.freq.toNat → ends { g1 with freq := g.freq - 25 }) ∧
    (g.plim < power.toNat → g.freq.toNat ≤ 1000 → 50 ≤ slow → 8 < g.duty.toNat →
      exec (.governorTick power temp) s = .next (({ s with power := { g1 with duty := g.duty - 1 } } : State).error
        23 1 0 0 1 0 (g.duty.toNat - 1)).ran) ∧
    (g.plim < power.toNat → g.freq.toNat ≤ 1000 → slow < 50 ∨ g.duty.toNat ≤ 8 → ends g1) ∧
    (power.toNat ≤ g.plim → 100 * power.toNat < 97 * g.plim →
      (g.duty.toNat < 16 → ends { g1 with duty := g.duty + 1 }) ∧
      (16 ≤ g.duty.toNat → ends { g1 with freq := BitVec.ofNat 11 (min (g.freq.toNat + 25) g.fmax) })) ∧
    (power.toNat ≤ g.plim → 97 * g.plim ≤ 100 * power.toNat → ends g1))

/-- R5, R315, R365: a write of a register without behaviour of its own stores the bits that the register has, and a
read-only one ignores it; where the owner governs it, the write of another master is dropped and recorded as
NOT_OWNER; a VF's write of MAXPRIO is dropped. A read returns the register's value, 0 for a write-only one. The
offset in the record is a free value (log 29); how a read comes about is the model's (log 40). -/
def Obligations.RegistersTakeTheirOwnersWrites : Prop :=
  (∀ (fn : Nat) (reg : PlainReg) (value : Word) (who : BitVec 16) (s : State), regExists reg = true →
    regReached fn reg = true → s.boot.running.isSome = true →
      let v := value &&& regMask reg
      let i : Instr := .registerWrite ⟨fn, reg⟩ value who
      (regNumber reg = none →
        ((∀ f, reg ≠ .maxprio f) ∨ fn = 0 → exec i s = .next (s.writeReg reg v).ran) ∧
        (∀ f, reg = .maxprio f → fn ≠ 0 → exec i s = .next s.ran)) ∧
      (∀ n, regNumber reg = some n →
        (s.owns who = false → s.mgmt.owner = 0 ∨ s.mgmt.lease ≠ 0 →
          exec i s = .next (s.error 15 1 0 0 1 (Config.registerOffset n) who.toNat).ran) ∧
        (s.owns who = true → exec i s = .next (s.writeReg reg v).ran) ∧
        (s.owns who = true → regMask reg = 0 → exec i s = .next s.ran))) ∧
  (∀ (fn : Nat) (r : PlainReg ⊕ OtherReg) (s : State), s.boot.running.isSome = true → regReadable fn r = true →
    s.turn (.registerRead fn r) = .next ({ s with hostGot := s.readReg r :: s.hostGot } : State).ran) ∧
  (∀ (f d : Nat) (s : State), ∀ r ∈ [OtherReg.fres d, .migcmd d, .sfladd d, .tlbinv f, .rinv f, .claim],
    s.readReg (.inr r) = 0)

/-- R239 to R245: the matrix unit serves the oldest request of a core once its operands are there: it pops them, counts
the request's depth, and commits the sums to the buffer of the context, but waits while a row of a bank is being
remapped (R386) or a tile that a tag names is not to be had yet (R37, R40); an emission that a commit caused is
delivered for the strand of the request, unless a copy in flight holds a line of it. -/
def Obligations.MatrixRequestsAreServed : Prop :=
  (∀ (clus c : Nat) (s : State) (m m1 : MatCtx) (r : MatReq) (rest : List MatReq) (k1 : Cluster) (a b : Nat), c < 32 →
    let k := s.cluster clus
    (∀ d, d < 32 → d ≠ c → (k.mats.get d .reset).reqs = []) → k.mats.get c .reset = m → m.reqs = r :: rest →
    m.emitting = none → k.popOperands m r = some (k1, m1, a, b) →
      let acc := k1.compute (s.tileHeld clus r.ctx) m1 r a b
      let m2 : MatCtx := { acc.ctx with reqs := rest, kpos := m1.kpos + matDepth m1.af }
      (s.banksBusy clus (m.banks r.fa r.fb r.mmat) = true ∨ acc.wait = true →
        exec (.matrixRequestServe clus) s = .next s.waits) ∧
      (s.banksBusy clus (m.banks r.fa r.fb r.mmat) = false → acc.wait = false → exec (.matrixRequestServe clus) s =
        .next (s.setCluster clus { k1 with mats := k1.mats.put c (m2.commit r acc), served := c }).ran)) ∧
  (∀ (m : MatCtx) (r : MatReq) (acc : TagAcc) (b : CoalBuf), m.buf = some b → m.emitting = none →
    (b.addr ≠ r.addr → (m.commit r acc).emitting =
        some { b with slot := (m.setter.map fun e => e.1).getD 5, ctx := r.ctx } ∧
      ((m.commit r acc).buf.map fun x => (x.addr, x.count)) = some (r.addr, 1)) ∧
    (b.addr = r.addr → b.count + 1 ≠ 64 → (m.commit r acc).emitting = none ∧
      ((m.commit r acc).buf.map fun x => (x.addr, x.count)) = some (r.addr, b.count + 1)) ∧
    (b.addr = r.addr → b.count = 63 → (m.commit r acc).buf = none ∧
      ((m.commit r acc).emitting.map fun x => (x.addr, x.count)) = some (r.addr, 64))) ∧
  (∀ (core : Nat) (s : State) (b : CoalBuf),
    let m := s.mat core
    m.emitting = some b → s.boardBuf (coreClus core) m b = false →
      exec (.coalescingEmit core) s = .next ((s.setMat core { m with emitting := none }).emitBuf
        ⟨core, b.ctx, ((s.ctxStrand b.ctx).map fun t => t.func).getD 0, b.slot⟩ m b).sweep.ran)

/-! Frames, memory, decoding, the step, and what every step keeps. -/

/-- R131, R160, R217: an instruction on registers leaves everything but the strand that issues as it was, every byte of
memory with it, and of that strand everything but its destination, the program counter, and for a float instruction
the flags and the LFSR. -/
def Obligations.RegisterInstructionsLeaveTheRest : Prop :=
  ∀ (i : Instr) (ops : List Opnd) (s t : State), registerForm i = some ops → s.Issues ops → exec i s = .next t →
    let u := s.me
    let v := t.me
    t = { s with strands := t.strands, stalled := t.stalled } ∧ (∀ a, t.readByte a = s.readByte a) ∧
    (∀ k, k ≠ s.here → t.strand k = s.strand k) ∧
    (∀ r, Opnd.xd r ∉ ops → v.xr r = u.xr r ∧ v.emptyX.getLsbD r.toNat = u.emptyX.getLsbD r.toNat) ∧
    (∀ r, Opnd.vd r ∉ ops → v.vr r = u.vr r ∧ v.emptyV.getLsbD r.toNat = u.emptyV.getLsbD r.toNat) ∧
    (∀ k, maskDest i ≠ some k → v.mr k = u.mr k) ∧ v.xr 0 = 0 ∧ v.mr 0 = BitVec.allOnes 64 ∧
    (raisesFlags i = false → v.fflags = u.fflags ∧ v.frm = u.frm) ∧
    v = { u with
      pc := v.pc, walk := v.walk, x := v.x, v := v.v, m := v.m, emptyX := v.emptyX, pendX := v.pendX, emptyV := v.emptyV,
      pendV := v.pendV, fflags := v.fflags, frm := v.frm }

/-- R56, R176: a store to a line that the cluster holds in S or D changes exactly its bytes of that line: every other
byte of the line, every other line of the cluster, every other cluster, every byte of memory and every register keeps
its value. -/
def Obligations.StoresLeaveTheOtherBytes : Prop :=
  ∀ (i : Instr) (s t : State) (ops : List Opnd) (o : MemOp) (c : Cap) (u : Strand) (p : Place) (x : CLine) (v n : Nat),
    memoryForm s.me i = some (ops, o, c, u) → s.Issues ops → s.Reaches o c p → p.remote (s.whoAt s.here).die = false →
    (∃ z, o = .store z false ∧ n = z.w.bytes ∧ v = c.opb.toNat % 2 ^ (8 * n)) ∨ (o = .storeV ∧ n = 64 ∧ v = c.vop.toNat) →
    let kn := coreClus (slotCore s.here)
    p.unc = false → (s.cluster kn).caches = true → (s.cluster kn).findLine (p.pa / 128) = some x → x.st ≠ LState.a →
    exec i s = .next t →
      let off := p.pa % 128
      (∃ y, (t.cluster kn).findLine (p.pa / 128) = some y ∧ y.st = LState.d ∧
        (∀ j, j < 128 → off ≤ j → j < off + n → lineBytes y.data j 1 = v / 2 ^ (8 * (j - off)) % 256 ∧ y.dirty.getLsbD j = true) ∧
        (∀ j, j < 128 → j < off ∨ off + n ≤ j →
          lineBytes y.data j 1 = lineBytes x.data j 1 ∧ y.dirty.getLsbD j = x.dirty.getLsbD j)) ∧
      (∀ l, l ≠ p.pa / 128 → (t.cluster kn).findLine l = (s.cluster kn).findLine l) ∧
      (∀ k, k ≠ kn → t.cluster k = s.cluster k) ∧ (∀ a, t.readByte a = s.readByte a) ∧
      (∀ k, k ≠ s.here → t.strand k = s.strand k) ∧ (∀ r, t.me.xr r = s.me.xr r) ∧ (∀ r, t.me.vr r = s.me.vr r) ∧
      (∀ r, t.me.mr r = s.me.mr r) ∧ t.me.fflags = s.me.fflags

/-- R4, R51, R323: memory in its canonical form (log 3) reads back what was written and is left as it was elsewhere: a
number of `n` bytes stands little-endian, bytes that do not exist hold nothing (log 3), and a masked merge of a line
changes exactly the bytes that its mask names. -/
def Obligations.MemoryReadsBackWhatWasWritten : Prop :=
  ∀ (s : State), Safety.MemoryCanonical s →
    (∀ a v n, bytesExist a n = true → (s.writeMem a v n).readMem a n = v % 2 ^ (8 * n)) ∧
    (∀ a v n, bytesExist a n = false → s.writeMem a v n = s) ∧
    (∀ a v n b, b < a ∨ a + n ≤ b → (s.writeMem a v n).readByte b = s.readByte b) ∧
    (∀ (l : Nat) (d : Line) (m : ByteMask) (j : Nat), j < 128 → (s.mergeLine l d m).readByte (128 * l + j) =
      if m.getLsbD j then BitVec.ofNat 8 (lineBytes d j 1) else s.readByte (128 * l + j)) ∧
    (∀ (l : Nat) (d : Line) (m : ByteMask) (a : Nat), a / 128 ≠ l → (s.mergeLine l d m).readByte a = s.readByte a)

/-- R127 to R150: decoding the words of a well-formed instruction gives it back, with every operand at every value that
its encoding admits; and a word that is decoded is the word of its instruction, so no bit of it is dropped and no
reserved bit let through. -/
def Obligations.DecodingUndoesEncoding : Prop :=
  (∀ (i : Instr) (w : BitVec 32) (l : Option (BitVec 32)), i.wf = true → encode i = some (w, l) →
    decode w l = .ok i ∧ (i.isLong = false → ∀ x, decode w x = .ok i)) ∧
  (∀ (w : BitVec 32) (x : Option (BitVec 32)) (i : Instr), decode w x = .ok i →
    i.wf = true ∧ encode i = some (w, if i.isLong then x else none))

/-- R127, R132 to R149: words written field by field from the tables of the encoding decode to the instructions that they
stand for. -/
def Obligations.WordsOfTheTablesDecode : Prop :=
  decode 0b000001_01011_10001_1_10111_0_011_000000#32 none = .ok (.add ⟨.w16, true⟩ 11 ⟨17, true⟩ ⟨23, false⟩) ∧
  decode 0b010010_0100_10001_00110_100011110001#32 none = .ok (.brc .lo 17 6 0x8F1) ∧
  decode 0b011110_00011_00010_1_00111_0_000_100_011#32 none = .ok (.amo .min .n64 3 ⟨2, true⟩ ⟨7, false⟩) ∧
  decode 0b011101_10110_00000_0_110_000000000010#32 none = .ok (.mode 22 .fifo) ∧
  decode 0b101011_00100_01001_1_01001_1_011_001101#32 none = .ok (.vcvt .f32 .e4m3 true 4 ⟨9, true⟩ 3) ∧
  decode 0b101100_00001_00010_00011_00100_1_10_010#32 none = .ok (.vfmaF32F64 true 1 2 3 4 2 .rtz) ∧
  decode 0b110100_00101_00110_0_00111_1_11011_0000#32 none = .ok (.cpy 5 ⟨6, false⟩ ⟨7, true⟩ 27) ∧
  decode 0b001100_10011_00000_0_000000000000000#32 (some 0x89ABCDEF#32) = .ok (.li 19 0x89ABCDEF)

/-- R69, R70, R127 to R130: a step takes the next turn of the agenda, and with none left the core of `here` issues: the
words at the program counter inside the block are decoded, and the step is their instruction's, after which the
counters of the core's selection are as R13 gives. The agenda and `here` are the model's own (log 1). -/
def Obligations.AStepRunsTheDecodedInstruction : Prop :=
  (∀ (s : State) (i : Instr) (r : List Turn), s.agenda = .event i :: r → step s = exec i { s with agenda := r }) ∧
  (∀ (s s1 : State) (v : Nat),
    let t := s.me
    let w := BitVec.ofNat 32 v
    t.way = none → t.pc ≠ t.nextHeader → t.hword.getLsbD 14 = false → s.code t (slotCore s.here) t.pc 4 = .ok s1 v →
      (∀ i, decode w none = .ok i → s.fetch s.here = .instr s1 i) ∧
      (∀ e, decode w none = .error e → e ≠ .literalMissing → s.fetch s.here = .instr s1 (.illegalInstruction w)) ∧
      (∀ s2 x i, decode w none = .error .literalMissing → t.pc + 4 ≠ t.nextHeader →
        s1.code t (slotCore s.here) (t.pc + 4) 4 = .ok s2 x → decode w (some (BitVec.ofNat 32 x)) = .ok i →
          s.fetch s.here = .instr s2 i)) ∧
  (∀ (s s1 s2 : State) (i : Instr),
    let n := slotIdx s.here
    let c := slotCore s.here
    s.agenda = [] → s.stalled = false → n < 5 → (∀ m, m < 5 → m ≠ n → (s.strand (slotKey c m)).active = false) →
    (s.die (coreDie c)).power = .on → s.stopped s.me = false → s.me.ready = true → s.me.reload = none →
    s.fetch s.here = .instr s1 i → exec i s1 = .next s2 → s2.stalled = false →
      step s = .next (s2.setCore c ((s2.core c).issued n s.me.cls [n]
        (decide ((s.core c).age.toNat ≤ (s.core c).pass.get n 0)))))

/-- Log 3: every step keeps the canonical form of memory. -/
def Obligations.EveryStepKeepsMemoryCanonical : Prop :=
  ∀ (s s' : State), Safety.MemoryCanonical s → step s = .next s' → Safety.MemoryCanonical s'

/-- R14: at every core, and in every cluster that is saved, AGE keeps to its range and no pass counter exceeds it,
whatever step is taken. -/
def Obligations.EveryStepKeepsAgeLegal : Prop :=
  ∀ (s s' : State), Safety.AgeLegal s → step s = .next s' → Safety.AgeLegal s'

/-- The values that the rules give for cold reset, and an empty memory (log 3) on which the invariants hold. -/
def Obligations.ResetLeavesTheManualsValues : Prop :=
  let s := State.reset
  Safety.MemoryCanonical s ∧ Safety.AgeLegal s ∧ (∀ k b, (s.cluster k).mode b = .cache) ∧
  (∀ k, (s.strand k).active = false) ∧ s.pf.ageq = 1000 ∧ s.pf.quant = 2000 ∧ s.pf.pdelta = 16 ∧
  (∀ f, (s.fn f).maxprio = 255 ∧ (s.fn f).enabled = false) ∧
  (∀ d, (s.die d).fault.frctl = 0x1000000 ∧ (s.die d).save.sflctl = 0x400000 ∧ (s.die d).xu.state = .idle ∧
    (s.die d).pkgSkew = 0xFFFF ∧ (s.die d).grpSkew = 0xFFFF) ∧
  s.er.ctl = 0x40 ∧ s.power.plim = 3600 ∧ s.power.fmax = 1600 ∧ s.power.freq = 1600 ∧ s.power.duty = 16 ∧
  s.ras.cewin = 3600 ∧ s.ras.cethr = 16 ∧ s.mgmt.owner = 0 ∧ s.cg.deadline = 10000 ∧ s.cg.rate = 1600

end
end

