-- ==== Sys2Proof/Laws/Tab.lean ====
section
/-! SUPPORT. A table reads back what was put into it, and keeps every other key. -/

namespace Sys2Proof.Machine

theorem get_put {α : Type} (t : Tab α) (k : Nat) (v d : α) : Tab.get (Tab.put t k v) k d = v := by
  induction t with
  | nil => simp [Tab.put, Tab.get]
  | cons e r ih =>
    obtain ⟨j, w⟩ := e
    simp only [Tab.put]
    split
    · simp [Tab.get]
    · split
      · simp [Tab.get]
      · rename_i h1 h2
        simp [Tab.get, h1, ih]

theorem get_put_ne {α : Type} (t : Tab α) (j k : Nat) (v d : α) (h : j ≠ k) : Tab.get (Tab.put t k v) j d = Tab.get t j d := by
  induction t with
  | nil => simp [Tab.put, Tab.get, Ne.symm h]
  | cons e r ih =>
    obtain ⟨a, w⟩ := e
    simp only [Tab.put]
    split
    · rename_i h1; subst h1; simp [Tab.get, Ne.symm h]
    · split
      · simp [Tab.get, Ne.symm h]
      · simp [Tab.get, ih]

end Sys2Proof.Machine
end

