-- ==== Sys2Proof/Laws/State.lean ====
section
/-! SUPPORT. What each named update of the state leaves in each field, so that no proof unfolds a record update. -/

namespace Sys2Proof.Machine

/-! `State.ran` -/

@[simp] theorem State.ran_agenda (s : State) : s.ran.agenda = s.agenda := rfl
@[simp] theorem State.ran_here (s : State) : s.ran.here = s.here := rfl
@[simp] theorem State.ran_serial (s : State) : s.ran.serial = s.serial := rfl
@[simp] theorem State.ran_stalled (s : State) : s.ran.stalled = false := rfl
@[simp] theorem State.ran_live (s : State) : s.ran.live = s.live := rfl
@[simp] theorem State.ran_hostLive (s : State) : s.ran.hostLive = s.hostLive := rfl
@[simp] theorem State.ran_mem (s : State) : s.ran.mem = s.mem := rfl
@[simp] theorem State.ran_poison (s : State) : s.ran.poison = s.poison := rfl
@[simp] theorem State.ran_l2host (s : State) : s.ran.l2host = s.l2host := rfl
@[simp] theorem State.ran_l2sets (s : State) : s.ran.l2sets = s.l2sets := rfl
@[simp] theorem State.ran_strands (s : State) : s.ran.strands = s.strands := rfl
@[simp] theorem State.ran_cores (s : State) : s.ran.cores = s.cores := rfl
@[simp] theorem State.ran_clusters (s : State) : s.ran.clusters = s.clusters := rfl
@[simp] theorem State.ran_dies (s : State) : s.ran.dies = s.dies := rfl
@[simp] theorem State.ran_slices (s : State) : s.ran.slices = s.slices := rfl
@[simp] theorem State.ran_posting (s : State) : s.ran.posting = s.posting := rfl
@[simp] theorem State.ran_links (s : State) : s.ran.links = s.links := rfl
@[simp] theorem State.ran_ingress (s : State) : s.ran.ingress = s.ingress := rfl
@[simp] theorem State.ran_gathers (s : State) : s.ran.gathers = s.gathers := rfl
@[simp] theorem State.ran_engines (s : State) : s.ran.engines = s.engines := rfl
@[simp] theorem State.ran_transit (s : State) : s.ran.transit = s.transit := rfl
@[simp] theorem State.ran_arrivals (s : State) : s.ran.arrivals = s.arrivals := rfl
@[simp] theorem State.ran_replies (s : State) : s.ran.replies = s.replies := rfl
@[simp] theorem State.ran_decs (s : State) : s.ran.decs = s.decs := rfl
@[simp] theorem State.ran_parks (s : State) : s.ran.parks = s.parks := rfl
@[simp] theorem State.ran_saved (s : State) : s.ran.saved = s.saved := rfl
@[simp] theorem State.ran_savedClusters (s : State) : s.ran.savedClusters = s.savedClusters := rfl
@[simp] theorem State.ran_launches (s : State) : s.ran.launches = s.launches := rfl
@[simp] theorem State.ran_fns (s : State) : s.ran.fns = s.fns := rfl
@[simp] theorem State.ran_pf (s : State) : s.ran.pf = s.pf := rfl
@[simp] theorem State.ran_parts (s : State) : s.ran.parts = s.parts := rfl
@[simp] theorem State.ran_er (s : State) : s.ran.er = s.er := rfl
@[simp] theorem State.ran_ras (s : State) : s.ran.ras = s.ras := rfl
@[simp] theorem State.ran_power (s : State) : s.ran.power = s.power := rfl
@[simp] theorem State.ran_mgmt (s : State) : s.ran.mgmt = s.mgmt := rfl
@[simp] theorem State.ran_boot (s : State) : s.ran.boot = s.boot := rfl
@[simp] theorem State.ran_cg (s : State) : s.ran.cg = s.cg := rfl
@[simp] theorem State.ran_donations (s : State) : s.ran.donations = s.donations := rfl
@[simp] theorem State.ran_donOut (s : State) : s.ran.donOut = s.donOut := rfl
@[simp] theorem State.ran_refusals (s : State) : s.ran.refusals = s.refusals := rfl
@[simp] theorem State.ran_refusalRing (s : State) : s.ran.refusalRing = s.refusalRing := rfl
@[simp] theorem State.ran_donLog (s : State) : s.ran.donLog = s.donLog := rfl
@[simp] theorem State.ran_fabric (s : State) : s.ran.fabric = s.fabric := rfl
@[simp] theorem State.ran_host (s : State) : s.ran.host = s.host := rfl
@[simp] theorem State.ran_copies (s : State) : s.ran.copies = s.copies := rfl
@[simp] theorem State.ran_hostGot (s : State) : s.ran.hostGot = s.hostGot := rfl
@[simp] theorem State.ran_filters (s : State) : s.ran.filters = s.filters := rfl
@[simp] theorem State.ran_shoots (s : State) : s.ran.shoots = s.shoots := rfl
@[simp] theorem State.ran_pkg (s : State) : s.ran.pkg = s.pkg := rfl

/-! `State.waits` -/

@[simp] theorem State.waits_agenda (s : State) : s.waits.agenda = s.agenda := rfl
@[simp] theorem State.waits_here (s : State) : s.waits.here = s.here := rfl
@[simp] theorem State.waits_serial (s : State) : s.waits.serial = s.serial := rfl
@[simp] theorem State.waits_stalled (s : State) : s.waits.stalled = true := rfl
@[simp] theorem State.waits_live (s : State) : s.waits.live = s.live := rfl
@[simp] theorem State.waits_hostLive (s : State) : s.waits.hostLive = s.hostLive := rfl
@[simp] theorem State.waits_mem (s : State) : s.waits.mem = s.mem := rfl
@[simp] theorem State.waits_poison (s : State) : s.waits.poison = s.poison := rfl
@[simp] theorem State.waits_l2host (s : State) : s.waits.l2host = s.l2host := rfl
@[simp] theorem State.waits_l2sets (s : State) : s.waits.l2sets = s.l2sets := rfl
@[simp] theorem State.waits_strands (s : State) : s.waits.strands = s.strands := rfl
@[simp] theorem State.waits_cores (s : State) : s.waits.cores = s.cores := rfl
@[simp] theorem State.waits_clusters (s : State) : s.waits.clusters = s.clusters := rfl
@[simp] theorem State.waits_dies (s : State) : s.waits.dies = s.dies := rfl
@[simp] theorem State.waits_slices (s : State) : s.waits.slices = s.slices := rfl
@[simp] theorem State.waits_posting (s : State) : s.waits.posting = s.posting := rfl
@[simp] theorem State.waits_links (s : State) : s.waits.links = s.links := rfl
@[simp] theorem State.waits_ingress (s : State) : s.waits.ingress = s.ingress := rfl
@[simp] theorem State.waits_gathers (s : State) : s.waits.gathers = s.gathers := rfl
@[simp] theorem State.waits_engines (s : State) : s.waits.engines = s.engines := rfl
@[simp] theorem State.waits_transit (s : State) : s.waits.transit = s.transit := rfl
@[simp] theorem State.waits_arrivals (s : State) : s.waits.arrivals = s.arrivals := rfl
@[simp] theorem State.waits_replies (s : State) : s.waits.replies = s.replies := rfl
@[simp] theorem State.waits_decs (s : State) : s.waits.decs = s.decs := rfl
@[simp] theorem State.waits_parks (s : State) : s.waits.parks = s.parks := rfl
@[simp] theorem State.waits_saved (s : State) : s.waits.saved = s.saved := rfl
@[simp] theorem State.waits_savedClusters (s : State) : s.waits.savedClusters = s.savedClusters := rfl
@[simp] theorem State.waits_launches (s : State) : s.waits.launches = s.launches := rfl
@[simp] theorem State.waits_fns (s : State) : s.waits.fns = s.fns := rfl
@[simp] theorem State.waits_pf (s : State) : s.waits.pf = s.pf := rfl
@[simp] theorem State.waits_parts (s : State) : s.waits.parts = s.parts := rfl
@[simp] theorem State.waits_er (s : State) : s.waits.er = s.er := rfl
@[simp] theorem State.waits_ras (s : State) : s.waits.ras = s.ras := rfl
@[simp] theorem State.waits_power (s : State) : s.waits.power = s.power := rfl
@[simp] theorem State.waits_mgmt (s : State) : s.waits.mgmt = s.mgmt := rfl
@[simp] theorem State.waits_boot (s : State) : s.waits.boot = s.boot := rfl
@[simp] theorem State.waits_cg (s : State) : s.waits.cg = s.cg := rfl
@[simp] theorem State.waits_donations (s : State) : s.waits.donations = s.donations := rfl
@[simp] theorem State.waits_donOut (s : State) : s.waits.donOut = s.donOut := rfl
@[simp] theorem State.waits_refusals (s : State) : s.waits.refusals = s.refusals := rfl
@[simp] theorem State.waits_refusalRing (s : State) : s.waits.refusalRing = s.refusalRing := rfl
@[simp] theorem State.waits_donLog (s : State) : s.waits.donLog = s.donLog := rfl
@[simp] theorem State.waits_fabric (s : State) : s.waits.fabric = s.fabric := rfl
@[simp] theorem State.waits_host (s : State) : s.waits.host = s.host := rfl
@[simp] theorem State.waits_copies (s : State) : s.waits.copies = s.copies := rfl
@[simp] theorem State.waits_hostGot (s : State) : s.waits.hostGot = s.hostGot := rfl
@[simp] theorem State.waits_filters (s : State) : s.waits.filters = s.filters := rfl
@[simp] theorem State.waits_shoots (s : State) : s.waits.shoots = s.shoots := rfl
@[simp] theorem State.waits_pkg (s : State) : s.waits.pkg = s.pkg := rfl

/-! `State.fresh` -/

@[simp] theorem State.fresh_agenda (s : State) : s.fresh.agenda = s.agenda := rfl
@[simp] theorem State.fresh_here (s : State) : s.fresh.here = s.here := rfl
@[simp] theorem State.fresh_serial (s : State) : s.fresh.serial = s.serial + 1 := rfl
@[simp] theorem State.fresh_stalled (s : State) : s.fresh.stalled = s.stalled := rfl
@[simp] theorem State.fresh_live (s : State) : s.fresh.live = s.live := rfl
@[simp] theorem State.fresh_hostLive (s : State) : s.fresh.hostLive = s.hostLive := rfl
@[simp] theorem State.fresh_mem (s : State) : s.fresh.mem = s.mem := rfl
@[simp] theorem State.fresh_poison (s : State) : s.fresh.poison = s.poison := rfl
@[simp] theorem State.fresh_l2host (s : State) : s.fresh.l2host = s.l2host := rfl
@[simp] theorem State.fresh_l2sets (s : State) : s.fresh.l2sets = s.l2sets := rfl
@[simp] theorem State.fresh_strands (s : State) : s.fresh.strands = s.strands := rfl
@[simp] theorem State.fresh_cores (s : State) : s.fresh.cores = s.cores := rfl
@[simp] theorem State.fresh_clusters (s : State) : s.fresh.clusters = s.clusters := rfl
@[simp] theorem State.fresh_dies (s : State) : s.fresh.dies = s.dies := rfl
@[simp] theorem State.fresh_slices (s : State) : s.fresh.slices = s.slices := rfl
@[simp] theorem State.fresh_posting (s : State) : s.fresh.posting = s.posting := rfl
@[simp] theorem State.fresh_links (s : State) : s.fresh.links = s.links := rfl
@[simp] theorem State.fresh_ingress (s : State) : s.fresh.ingress = s.ingress := rfl
@[simp] theorem State.fresh_gathers (s : State) : s.fresh.gathers = s.gathers := rfl
@[simp] theorem State.fresh_engines (s : State) : s.fresh.engines = s.engines := rfl
@[simp] theorem State.fresh_transit (s : State) : s.fresh.transit = s.transit := rfl
@[simp] theorem State.fresh_arrivals (s : State) : s.fresh.arrivals = s.arrivals := rfl
@[simp] theorem State.fresh_replies (s : State) : s.fresh.replies = s.replies := rfl
@[simp] theorem State.fresh_decs (s : State) : s.fresh.decs = s.decs := rfl
@[simp] theorem State.fresh_parks (s : State) : s.fresh.parks = s.parks := rfl
@[simp] theorem State.fresh_saved (s : State) : s.fresh.saved = s.saved := rfl
@[simp] theorem State.fresh_savedClusters (s : State) : s.fresh.savedClusters = s.savedClusters := rfl
@[simp] theorem State.fresh_launches (s : State) : s.fresh.launches = s.launches := rfl
@[simp] theorem State.fresh_fns (s : State) : s.fresh.fns = s.fns := rfl
@[simp] theorem State.fresh_pf (s : State) : s.fresh.pf = s.pf := rfl
@[simp] theorem State.fresh_parts (s : State) : s.fresh.parts = s.parts := rfl
@[simp] theorem State.fresh_er (s : State) : s.fresh.er = s.er := rfl
@[simp] theorem State.fresh_ras (s : State) : s.fresh.ras = s.ras := rfl
@[simp] theorem State.fresh_power (s : State) : s.fresh.power = s.power := rfl
@[simp] theorem State.fresh_mgmt (s : State) : s.fresh.mgmt = s.mgmt := rfl
@[simp] theorem State.fresh_boot (s : State) : s.fresh.boot = s.boot := rfl
@[simp] theorem State.fresh_cg (s : State) : s.fresh.cg = s.cg := rfl
@[simp] theorem State.fresh_donations (s : State) : s.fresh.donations = s.donations := rfl
@[simp] theorem State.fresh_donOut (s : State) : s.fresh.donOut = s.donOut := rfl
@[simp] theorem State.fresh_refusals (s : State) : s.fresh.refusals = s.refusals := rfl
@[simp] theorem State.fresh_refusalRing (s : State) : s.fresh.refusalRing = s.refusalRing := rfl
@[simp] theorem State.fresh_donLog (s : State) : s.fresh.donLog = s.donLog := rfl
@[simp] theorem State.fresh_fabric (s : State) : s.fresh.fabric = s.fabric := rfl
@[simp] theorem State.fresh_host (s : State) : s.fresh.host = s.host := rfl
@[simp] theorem State.fresh_copies (s : State) : s.fresh.copies = s.copies := rfl
@[simp] theorem State.fresh_hostGot (s : State) : s.fresh.hostGot = s.hostGot := rfl
@[simp] theorem State.fresh_filters (s : State) : s.fresh.filters = s.filters := rfl
@[simp] theorem State.fresh_shoots (s : State) : s.fresh.shoots = s.shoots := rfl
@[simp] theorem State.fresh_pkg (s : State) : s.fresh.pkg = s.pkg := rfl

/-! `State.setStrand` -/

@[simp] theorem State.setStrand_agenda (s : State) (k : Nat) (t : Strand) : (s.setStrand k t).agenda = s.agenda := rfl
@[simp] theorem State.setStrand_here (s : State) (k : Nat) (t : Strand) : (s.setStrand k t).here = s.here := rfl
@[simp] theorem State.setStrand_serial (s : State) (k : Nat) (t : Strand) : (s.setStrand k t).serial = s.serial := rfl
@[simp] theorem State.setStrand_stalled (s : State) (k : Nat) (t : Strand) : (s.setStrand k t).stalled = s.stalled := rfl
@[simp] theorem State.setStrand_live (s : State) (k : Nat) (t : Strand) : (s.setStrand k t).live = s.live := rfl
@[simp] theorem State.setStrand_hostLive (s : State) (k : Nat) (t : Strand) : (s.setStrand k t).hostLive = s.hostLive := rfl
@[simp] theorem State.setStrand_mem (s : State) (k : Nat) (t : Strand) : (s.setStrand k t).mem = s.mem := rfl
@[simp] theorem State.setStrand_poison (s : State) (k : Nat) (t : Strand) : (s.setStrand k t).poison = s.poison := rfl
@[simp] theorem State.setStrand_l2host (s : State) (k : Nat) (t : Strand) : (s.setStrand k t).l2host = s.l2host := rfl
@[simp] theorem State.setStrand_l2sets (s : State) (k : Nat) (t : Strand) : (s.setStrand k t).l2sets = s.l2sets := rfl
@[simp] theorem State.setStrand_strands (s : State) (k : Nat) (t : Strand) : (s.setStrand k t).strands = s.strands.put k t := rfl
@[simp] theorem State.setStrand_cores (s : State) (k : Nat) (t : Strand) : (s.setStrand k t).cores = s.cores := rfl
@[simp] theorem State.setStrand_clusters (s : State) (k : Nat) (t : Strand) : (s.setStrand k t).clusters = s.clusters := rfl
@[simp] theorem State.setStrand_dies (s : State) (k : Nat) (t : Strand) : (s.setStrand k t).dies = s.dies := rfl
@[simp] theorem State.setStrand_slices (s : State) (k : Nat) (t : Strand) : (s.setStrand k t).slices = s.slices := rfl
@[simp] theorem State.setStrand_posting (s : State) (k : Nat) (t : Strand) : (s.setStrand k t).posting = s.posting := rfl
@[simp] theorem State.setStrand_links (s : State) (k : Nat) (t : Strand) : (s.setStrand k t).links = s.links := rfl
@[simp] theorem State.setStrand_ingress (s : State) (k : Nat) (t : Strand) : (s.setStrand k t).ingress = s.ingress := rfl
@[simp] theorem State.setStrand_gathers (s : State) (k : Nat) (t : Strand) : (s.setStrand k t).gathers = s.gathers := rfl
@[simp] theorem State.setStrand_engines (s : State) (k : Nat) (t : Strand) : (s.setStrand k t).engines = s.engines := rfl
@[simp] theorem State.setStrand_transit (s : State) (k : Nat) (t : Strand) : (s.setStrand k t).transit = s.transit := rfl
@[simp] theorem State.setStrand_arrivals (s : State) (k : Nat) (t : Strand) : (s.setStrand k t).arrivals = s.arrivals := rfl
@[simp] theorem State.setStrand_replies (s : State) (k : Nat) (t : Strand) : (s.setStrand k t).replies = s.replies := rfl
@[simp] theorem State.setStrand_decs (s : State) (k : Nat) (t : Strand) : (s.setStrand k t).decs = s.decs := rfl
@[simp] theorem State.setStrand_parks (s : State) (k : Nat) (t : Strand) : (s.setStrand k t).parks = s.parks := rfl
@[simp] theorem State.setStrand_saved (s : State) (k : Nat) (t : Strand) : (s.setStrand k t).saved = s.saved := rfl
@[simp] theorem State.setStrand_savedClusters (s : State) (k : Nat) (t : Strand) : (s.setStrand k t).savedClusters = s.savedClusters := rfl
@[simp] theorem State.setStrand_launches (s : State) (k : Nat) (t : Strand) : (s.setStrand k t).launches = s.launches := rfl
@[simp] theorem State.setStrand_fns (s : State) (k : Nat) (t : Strand) : (s.setStrand k t).fns = s.fns := rfl
@[simp] theorem State.setStrand_pf (s : State) (k : Nat) (t : Strand) : (s.setStrand k t).pf = s.pf := rfl
@[simp] theorem State.setStrand_parts (s : State) (k : Nat) (t : Strand) : (s.setStrand k t).parts = s.parts := rfl
@[simp] theorem State.setStrand_er (s : State) (k : Nat) (t : Strand) : (s.setStrand k t).er = s.er := rfl
@[simp] theorem State.setStrand_ras (s : State) (k : Nat) (t : Strand) : (s.setStrand k t).ras = s.ras := rfl
@[simp] theorem State.setStrand_power (s : State) (k : Nat) (t : Strand) : (s.setStrand k t).power = s.power := rfl
@[simp] theorem State.setStrand_mgmt (s : State) (k : Nat) (t : Strand) : (s.setStrand k t).mgmt = s.mgmt := rfl
@[simp] theorem State.setStrand_boot (s : State) (k : Nat) (t : Strand) : (s.setStrand k t).boot = s.boot := rfl
@[simp] theorem State.setStrand_cg (s : State) (k : Nat) (t : Strand) : (s.setStrand k t).cg = s.cg := rfl
@[simp] theorem State.setStrand_donations (s : State) (k : Nat) (t : Strand) : (s.setStrand k t).donations = s.donations := rfl
@[simp] theorem State.setStrand_donOut (s : State) (k : Nat) (t : Strand) : (s.setStrand k t).donOut = s.donOut := rfl
@[simp] theorem State.setStrand_refusals (s : State) (k : Nat) (t : Strand) : (s.setStrand k t).refusals = s.refusals := rfl
@[simp] theorem State.setStrand_refusalRing (s : State) (k : Nat) (t : Strand) : (s.setStrand k t).refusalRing = s.refusalRing := rfl
@[simp] theorem State.setStrand_donLog (s : State) (k : Nat) (t : Strand) : (s.setStrand k t).donLog = s.donLog := rfl
@[simp] theorem State.setStrand_fabric (s : State) (k : Nat) (t : Strand) : (s.setStrand k t).fabric = s.fabric := rfl
@[simp] theorem State.setStrand_host (s : State) (k : Nat) (t : Strand) : (s.setStrand k t).host = s.host := rfl
@[simp] theorem State.setStrand_copies (s : State) (k : Nat) (t : Strand) : (s.setStrand k t).copies = s.copies := rfl
@[simp] theorem State.setStrand_hostGot (s : State) (k : Nat) (t : Strand) : (s.setStrand k t).hostGot = s.hostGot := rfl
@[simp] theorem State.setStrand_filters (s : State) (k : Nat) (t : Strand) : (s.setStrand k t).filters = s.filters := rfl
@[simp] theorem State.setStrand_shoots (s : State) (k : Nat) (t : Strand) : (s.setStrand k t).shoots = s.shoots := rfl
@[simp] theorem State.setStrand_pkg (s : State) (k : Nat) (t : Strand) : (s.setStrand k t).pkg = s.pkg := rfl

/-! `State.setMe` -/

@[simp] theorem State.setMe_agenda (s : State) (t : Strand) : (s.setMe t).agenda = s.agenda := rfl
@[simp] theorem State.setMe_here (s : State) (t : Strand) : (s.setMe t).here = s.here := rfl
@[simp] theorem State.setMe_serial (s : State) (t : Strand) : (s.setMe t).serial = s.serial := rfl
@[simp] theorem State.setMe_stalled (s : State) (t : Strand) : (s.setMe t).stalled = s.stalled := rfl
@[simp] theorem State.setMe_live (s : State) (t : Strand) : (s.setMe t).live = s.live := rfl
@[simp] theorem State.setMe_hostLive (s : State) (t : Strand) : (s.setMe t).hostLive = s.hostLive := rfl
@[simp] theorem State.setMe_mem (s : State) (t : Strand) : (s.setMe t).mem = s.mem := rfl
@[simp] theorem State.setMe_poison (s : State) (t : Strand) : (s.setMe t).poison = s.poison := rfl
@[simp] theorem State.setMe_l2host (s : State) (t : Strand) : (s.setMe t).l2host = s.l2host := rfl
@[simp] theorem State.setMe_l2sets (s : State) (t : Strand) : (s.setMe t).l2sets = s.l2sets := rfl
@[simp] theorem State.setMe_strands (s : State) (t : Strand) : (s.setMe t).strands = s.strands.put s.here t := rfl
@[simp] theorem State.setMe_cores (s : State) (t : Strand) : (s.setMe t).cores = s.cores := rfl
@[simp] theorem State.setMe_clusters (s : State) (t : Strand) : (s.setMe t).clusters = s.clusters := rfl
@[simp] theorem State.setMe_dies (s : State) (t : Strand) : (s.setMe t).dies = s.dies := rfl
@[simp] theorem State.setMe_slices (s : State) (t : Strand) : (s.setMe t).slices = s.slices := rfl
@[simp] theorem State.setMe_posting (s : State) (t : Strand) : (s.setMe t).posting = s.posting := rfl
@[simp] theorem State.setMe_links (s : State) (t : Strand) : (s.setMe t).links = s.links := rfl
@[simp] theorem State.setMe_ingress (s : State) (t : Strand) : (s.setMe t).ingress = s.ingress := rfl
@[simp] theorem State.setMe_gathers (s : State) (t : Strand) : (s.setMe t).gathers = s.gathers := rfl
@[simp] theorem State.setMe_engines (s : State) (t : Strand) : (s.setMe t).engines = s.engines := rfl
@[simp] theorem State.setMe_transit (s : State) (t : Strand) : (s.setMe t).transit = s.transit := rfl
@[simp] theorem State.setMe_arrivals (s : State) (t : Strand) : (s.setMe t).arrivals = s.arrivals := rfl
@[simp] theorem State.setMe_replies (s : State) (t : Strand) : (s.setMe t).replies = s.replies := rfl
@[simp] theorem State.setMe_decs (s : State) (t : Strand) : (s.setMe t).decs = s.decs := rfl
@[simp] theorem State.setMe_parks (s : State) (t : Strand) : (s.setMe t).parks = s.parks := rfl
@[simp] theorem State.setMe_saved (s : State) (t : Strand) : (s.setMe t).saved = s.saved := rfl
@[simp] theorem State.setMe_savedClusters (s : State) (t : Strand) : (s.setMe t).savedClusters = s.savedClusters := rfl
@[simp] theorem State.setMe_launches (s : State) (t : Strand) : (s.setMe t).launches = s.launches := rfl
@[simp] theorem State.setMe_fns (s : State) (t : Strand) : (s.setMe t).fns = s.fns := rfl
@[simp] theorem State.setMe_pf (s : State) (t : Strand) : (s.setMe t).pf = s.pf := rfl
@[simp] theorem State.setMe_parts (s : State) (t : Strand) : (s.setMe t).parts = s.parts := rfl
@[simp] theorem State.setMe_er (s : State) (t : Strand) : (s.setMe t).er = s.er := rfl
@[simp] theorem State.setMe_ras (s : State) (t : Strand) : (s.setMe t).ras = s.ras := rfl
@[simp] theorem State.setMe_power (s : State) (t : Strand) : (s.setMe t).power = s.power := rfl
@[simp] theorem State.setMe_mgmt (s : State) (t : Strand) : (s.setMe t).mgmt = s.mgmt := rfl
@[simp] theorem State.setMe_boot (s : State) (t : Strand) : (s.setMe t).boot = s.boot := rfl
@[simp] theorem State.setMe_cg (s : State) (t : Strand) : (s.setMe t).cg = s.cg := rfl
@[simp] theorem State.setMe_donations (s : State) (t : Strand) : (s.setMe t).donations = s.donations := rfl
@[simp] theorem State.setMe_donOut (s : State) (t : Strand) : (s.setMe t).donOut = s.donOut := rfl
@[simp] theorem State.setMe_refusals (s : State) (t : Strand) : (s.setMe t).refusals = s.refusals := rfl
@[simp] theorem State.setMe_refusalRing (s : State) (t : Strand) : (s.setMe t).refusalRing = s.refusalRing := rfl
@[simp] theorem State.setMe_donLog (s : State) (t : Strand) : (s.setMe t).donLog = s.donLog := rfl
@[simp] theorem State.setMe_fabric (s : State) (t : Strand) : (s.setMe t).fabric = s.fabric := rfl
@[simp] theorem State.setMe_host (s : State) (t : Strand) : (s.setMe t).host = s.host := rfl
@[simp] theorem State.setMe_copies (s : State) (t : Strand) : (s.setMe t).copies = s.copies := rfl
@[simp] theorem State.setMe_hostGot (s : State) (t : Strand) : (s.setMe t).hostGot = s.hostGot := rfl
@[simp] theorem State.setMe_filters (s : State) (t : Strand) : (s.setMe t).filters = s.filters := rfl
@[simp] theorem State.setMe_shoots (s : State) (t : Strand) : (s.setMe t).shoots = s.shoots := rfl
@[simp] theorem State.setMe_pkg (s : State) (t : Strand) : (s.setMe t).pkg = s.pkg := rfl

/-! `State.setCore` -/

@[simp] theorem State.setCore_agenda (s : State) (k : Nat) (t : Core) : (s.setCore k t).agenda = s.agenda := rfl
@[simp] theorem State.setCore_here (s : State) (k : Nat) (t : Core) : (s.setCore k t).here = s.here := rfl
@[simp] theorem State.setCore_serial (s : State) (k : Nat) (t : Core) : (s.setCore k t).serial = s.serial := rfl
@[simp] theorem State.setCore_stalled (s : State) (k : Nat) (t : Core) : (s.setCore k t).stalled = s.stalled := rfl
@[simp] theorem State.setCore_live (s : State) (k : Nat) (t : Core) : (s.setCore k t).live = s.live := rfl
@[simp] theorem State.setCore_hostLive (s : State) (k : Nat) (t : Core) : (s.setCore k t).hostLive = s.hostLive := rfl
@[simp] theorem State.setCore_mem (s : State) (k : Nat) (t : Core) : (s.setCore k t).mem = s.mem := rfl
@[simp] theorem State.setCore_poison (s : State) (k : Nat) (t : Core) : (s.setCore k t).poison = s.poison := rfl
@[simp] theorem State.setCore_l2host (s : State) (k : Nat) (t : Core) : (s.setCore k t).l2host = s.l2host := rfl
@[simp] theorem State.setCore_l2sets (s : State) (k : Nat) (t : Core) : (s.setCore k t).l2sets = s.l2sets := rfl
@[simp] theorem State.setCore_strands (s : State) (k : Nat) (t : Core) : (s.setCore k t).strands = s.strands := rfl
@[simp] theorem State.setCore_cores (s : State) (k : Nat) (t : Core) : (s.setCore k t).cores = s.cores.put k t := rfl
@[simp] theorem State.setCore_clusters (s : State) (k : Nat) (t : Core) : (s.setCore k t).clusters = s.clusters := rfl
@[simp] theorem State.setCore_dies (s : State) (k : Nat) (t : Core) : (s.setCore k t).dies = s.dies := rfl
@[simp] theorem State.setCore_slices (s : State) (k : Nat) (t : Core) : (s.setCore k t).slices = s.slices := rfl
@[simp] theorem State.setCore_posting (s : State) (k : Nat) (t : Core) : (s.setCore k t).posting = s.posting := rfl
@[simp] theorem State.setCore_links (s : State) (k : Nat) (t : Core) : (s.setCore k t).links = s.links := rfl
@[simp] theorem State.setCore_ingress (s : State) (k : Nat) (t : Core) : (s.setCore k t).ingress = s.ingress := rfl
@[simp] theorem State.setCore_gathers (s : State) (k : Nat) (t : Core) : (s.setCore k t).gathers = s.gathers := rfl
@[simp] theorem State.setCore_engines (s : State) (k : Nat) (t : Core) : (s.setCore k t).engines = s.engines := rfl
@[simp] theorem State.setCore_transit (s : State) (k : Nat) (t : Core) : (s.setCore k t).transit = s.transit := rfl
@[simp] theorem State.setCore_arrivals (s : State) (k : Nat) (t : Core) : (s.setCore k t).arrivals = s.arrivals := rfl
@[simp] theorem State.setCore_replies (s : State) (k : Nat) (t : Core) : (s.setCore k t).replies = s.replies := rfl
@[simp] theorem State.setCore_decs (s : State) (k : Nat) (t : Core) : (s.setCore k t).decs = s.decs := rfl
@[simp] theorem State.setCore_parks (s : State) (k : Nat) (t : Core) : (s.setCore k t).parks = s.parks := rfl
@[simp] theorem State.setCore_saved (s : State) (k : Nat) (t : Core) : (s.setCore k t).saved = s.saved := rfl
@[simp] theorem State.setCore_savedClusters (s : State) (k : Nat) (t : Core) : (s.setCore k t).savedClusters = s.savedClusters := rfl
@[simp] theorem State.setCore_launches (s : State) (k : Nat) (t : Core) : (s.setCore k t).launches = s.launches := rfl
@[simp] theorem State.setCore_fns (s : State) (k : Nat) (t : Core) : (s.setCore k t).fns = s.fns := rfl
@[simp] theorem State.setCore_pf (s : State) (k : Nat) (t : Core) : (s.setCore k t).pf = s.pf := rfl
@[simp] theorem State.setCore_parts (s : State) (k : Nat) (t : Core) : (s.setCore k t).parts = s.parts := rfl
@[simp] theorem State.setCore_er (s : State) (k : Nat) (t : Core) : (s.setCore k t).er = s.er := rfl
@[simp] theorem State.setCore_ras (s : State) (k : Nat) (t : Core) : (s.setCore k t).ras = s.ras := rfl
@[simp] theorem State.setCore_power (s : State) (k : Nat) (t : Core) : (s.setCore k t).power = s.power := rfl
@[simp] theorem State.setCore_mgmt (s : State) (k : Nat) (t : Core) : (s.setCore k t).mgmt = s.mgmt := rfl
@[simp] theorem State.setCore_boot (s : State) (k : Nat) (t : Core) : (s.setCore k t).boot = s.boot := rfl
@[simp] theorem State.setCore_cg (s : State) (k : Nat) (t : Core) : (s.setCore k t).cg = s.cg := rfl
@[simp] theorem State.setCore_donations (s : State) (k : Nat) (t : Core) : (s.setCore k t).donations = s.donations := rfl
@[simp] theorem State.setCore_donOut (s : State) (k : Nat) (t : Core) : (s.setCore k t).donOut = s.donOut := rfl
@[simp] theorem State.setCore_refusals (s : State) (k : Nat) (t : Core) : (s.setCore k t).refusals = s.refusals := rfl
@[simp] theorem State.setCore_refusalRing (s : State) (k : Nat) (t : Core) : (s.setCore k t).refusalRing = s.refusalRing := rfl
@[simp] theorem State.setCore_donLog (s : State) (k : Nat) (t : Core) : (s.setCore k t).donLog = s.donLog := rfl
@[simp] theorem State.setCore_fabric (s : State) (k : Nat) (t : Core) : (s.setCore k t).fabric = s.fabric := rfl
@[simp] theorem State.setCore_host (s : State) (k : Nat) (t : Core) : (s.setCore k t).host = s.host := rfl
@[simp] theorem State.setCore_copies (s : State) (k : Nat) (t : Core) : (s.setCore k t).copies = s.copies := rfl
@[simp] theorem State.setCore_hostGot (s : State) (k : Nat) (t : Core) : (s.setCore k t).hostGot = s.hostGot := rfl
@[simp] theorem State.setCore_filters (s : State) (k : Nat) (t : Core) : (s.setCore k t).filters = s.filters := rfl
@[simp] theorem State.setCore_shoots (s : State) (k : Nat) (t : Core) : (s.setCore k t).shoots = s.shoots := rfl
@[simp] theorem State.setCore_pkg (s : State) (k : Nat) (t : Core) : (s.setCore k t).pkg = s.pkg := rfl

/-! `State.setCluster` -/

@[simp] theorem State.setCluster_agenda (s : State) (k : Nat) (t : Cluster) : (s.setCluster k t).agenda = s.agenda := rfl
@[simp] theorem State.setCluster_here (s : State) (k : Nat) (t : Cluster) : (s.setCluster k t).here = s.here := rfl
@[simp] theorem State.setCluster_serial (s : State) (k : Nat) (t : Cluster) : (s.setCluster k t).serial = s.serial := rfl
@[simp] theorem State.setCluster_stalled (s : State) (k : Nat) (t : Cluster) : (s.setCluster k t).stalled = s.stalled := rfl
@[simp] theorem State.setCluster_live (s : State) (k : Nat) (t : Cluster) : (s.setCluster k t).live = s.live := rfl
@[simp] theorem State.setCluster_hostLive (s : State) (k : Nat) (t : Cluster) : (s.setCluster k t).hostLive = s.hostLive := rfl
@[simp] theorem State.setCluster_mem (s : State) (k : Nat) (t : Cluster) : (s.setCluster k t).mem = s.mem := rfl
@[simp] theorem State.setCluster_poison (s : State) (k : Nat) (t : Cluster) : (s.setCluster k t).poison = s.poison := rfl
@[simp] theorem State.setCluster_l2host (s : State) (k : Nat) (t : Cluster) : (s.setCluster k t).l2host = s.l2host := rfl
@[simp] theorem State.setCluster_l2sets (s : State) (k : Nat) (t : Cluster) : (s.setCluster k t).l2sets = s.l2sets := rfl
@[simp] theorem State.setCluster_strands (s : State) (k : Nat) (t : Cluster) : (s.setCluster k t).strands = s.strands := rfl
@[simp] theorem State.setCluster_cores (s : State) (k : Nat) (t : Cluster) : (s.setCluster k t).cores = s.cores := rfl
@[simp] theorem State.setCluster_clusters (s : State) (k : Nat) (t : Cluster) : (s.setCluster k t).clusters = s.clusters.put k t := rfl
@[simp] theorem State.setCluster_dies (s : State) (k : Nat) (t : Cluster) : (s.setCluster k t).dies = s.dies := rfl
@[simp] theorem State.setCluster_slices (s : State) (k : Nat) (t : Cluster) : (s.setCluster k t).slices = s.slices := rfl
@[simp] theorem State.setCluster_posting (s : State) (k : Nat) (t : Cluster) : (s.setCluster k t).posting = s.posting := rfl
@[simp] theorem State.setCluster_links (s : State) (k : Nat) (t : Cluster) : (s.setCluster k t).links = s.links := rfl
@[simp] theorem State.setCluster_ingress (s : State) (k : Nat) (t : Cluster) : (s.setCluster k t).ingress = s.ingress := rfl
@[simp] theorem State.setCluster_gathers (s : State) (k : Nat) (t : Cluster) : (s.setCluster k t).gathers = s.gathers := rfl
@[simp] theorem State.setCluster_engines (s : State) (k : Nat) (t : Cluster) : (s.setCluster k t).engines = s.engines := rfl
@[simp] theorem State.setCluster_transit (s : State) (k : Nat) (t : Cluster) : (s.setCluster k t).transit = s.transit := rfl
@[simp] theorem State.setCluster_arrivals (s : State) (k : Nat) (t : Cluster) : (s.setCluster k t).arrivals = s.arrivals := rfl
@[simp] theorem State.setCluster_replies (s : State) (k : Nat) (t : Cluster) : (s.setCluster k t).replies = s.replies := rfl
@[simp] theorem State.setCluster_decs (s : State) (k : Nat) (t : Cluster) : (s.setCluster k t).decs = s.decs := rfl
@[simp] theorem State.setCluster_parks (s : State) (k : Nat) (t : Cluster) : (s.setCluster k t).parks = s.parks := rfl
@[simp] theorem State.setCluster_saved (s : State) (k : Nat) (t : Cluster) : (s.setCluster k t).saved = s.saved := rfl
@[simp] theorem State.setCluster_savedClusters (s : State) (k : Nat) (t : Cluster) : (s.setCluster k t).savedClusters = s.savedClusters := rfl
@[simp] theorem State.setCluster_launches (s : State) (k : Nat) (t : Cluster) : (s.setCluster k t).launches = s.launches := rfl
@[simp] theorem State.setCluster_fns (s : State) (k : Nat) (t : Cluster) : (s.setCluster k t).fns = s.fns := rfl
@[simp] theorem State.setCluster_pf (s : State) (k : Nat) (t : Cluster) : (s.setCluster k t).pf = s.pf := rfl
@[simp] theorem State.setCluster_parts (s : State) (k : Nat) (t : Cluster) : (s.setCluster k t).parts = s.parts := rfl
@[simp] theorem State.setCluster_er (s : State) (k : Nat) (t : Cluster) : (s.setCluster k t).er = s.er := rfl
@[simp] theorem State.setCluster_ras (s : State) (k : Nat) (t : Cluster) : (s.setCluster k t).ras = s.ras := rfl
@[simp] theorem State.setCluster_power (s : State) (k : Nat) (t : Cluster) : (s.setCluster k t).power = s.power := rfl
@[simp] theorem State.setCluster_mgmt (s : State) (k : Nat) (t : Cluster) : (s.setCluster k t).mgmt = s.mgmt := rfl
@[simp] theorem State.setCluster_boot (s : State) (k : Nat) (t : Cluster) : (s.setCluster k t).boot = s.boot := rfl
@[simp] theorem State.setCluster_cg (s : State) (k : Nat) (t : Cluster) : (s.setCluster k t).cg = s.cg := rfl
@[simp] theorem State.setCluster_donations (s : State) (k : Nat) (t : Cluster) : (s.setCluster k t).donations = s.donations := rfl
@[simp] theorem State.setCluster_donOut (s : State) (k : Nat) (t : Cluster) : (s.setCluster k t).donOut = s.donOut := rfl
@[simp] theorem State.setCluster_refusals (s : State) (k : Nat) (t : Cluster) : (s.setCluster k t).refusals = s.refusals := rfl
@[simp] theorem State.setCluster_refusalRing (s : State) (k : Nat) (t : Cluster) : (s.setCluster k t).refusalRing = s.refusalRing := rfl
@[simp] theorem State.setCluster_donLog (s : State) (k : Nat) (t : Cluster) : (s.setCluster k t).donLog = s.donLog := rfl
@[simp] theorem State.setCluster_fabric (s : State) (k : Nat) (t : Cluster) : (s.setCluster k t).fabric = s.fabric := rfl
@[simp] theorem State.setCluster_host (s : State) (k : Nat) (t : Cluster) : (s.setCluster k t).host = s.host := rfl
@[simp] theorem State.setCluster_copies (s : State) (k : Nat) (t : Cluster) : (s.setCluster k t).copies = s.copies := rfl
@[simp] theorem State.setCluster_hostGot (s : State) (k : Nat) (t : Cluster) : (s.setCluster k t).hostGot = s.hostGot := rfl
@[simp] theorem State.setCluster_filters (s : State) (k : Nat) (t : Cluster) : (s.setCluster k t).filters = s.filters := rfl
@[simp] theorem State.setCluster_shoots (s : State) (k : Nat) (t : Cluster) : (s.setCluster k t).shoots = s.shoots := rfl
@[simp] theorem State.setCluster_pkg (s : State) (k : Nat) (t : Cluster) : (s.setCluster k t).pkg = s.pkg := rfl

/-! `State.setDie` -/

@[simp] theorem State.setDie_agenda (s : State) (k : Nat) (t : Die) : (s.setDie k t).agenda = s.agenda := rfl
@[simp] theorem State.setDie_here (s : State) (k : Nat) (t : Die) : (s.setDie k t).here = s.here := rfl
@[simp] theorem State.setDie_serial (s : State) (k : Nat) (t : Die) : (s.setDie k t).serial = s.serial := rfl
@[simp] theorem State.setDie_stalled (s : State) (k : Nat) (t : Die) : (s.setDie k t).stalled = s.stalled := rfl
@[simp] theorem State.setDie_live (s : State) (k : Nat) (t : Die) : (s.setDie k t).live = s.live := rfl
@[simp] theorem State.setDie_hostLive (s : State) (k : Nat) (t : Die) : (s.setDie k t).hostLive = s.hostLive := rfl
@[simp] theorem State.setDie_mem (s : State) (k : Nat) (t : Die) : (s.setDie k t).mem = s.mem := rfl
@[simp] theorem State.setDie_poison (s : State) (k : Nat) (t : Die) : (s.setDie k t).poison = s.poison := rfl
@[simp] theorem State.setDie_l2host (s : State) (k : Nat) (t : Die) : (s.setDie k t).l2host = s.l2host := rfl
@[simp] theorem State.setDie_l2sets (s : State) (k : Nat) (t : Die) : (s.setDie k t).l2sets = s.l2sets := rfl
@[simp] theorem State.setDie_strands (s : State) (k : Nat) (t : Die) : (s.setDie k t).strands = s.strands := rfl
@[simp] theorem State.setDie_cores (s : State) (k : Nat) (t : Die) : (s.setDie k t).cores = s.cores := rfl
@[simp] theorem State.setDie_clusters (s : State) (k : Nat) (t : Die) : (s.setDie k t).clusters = s.clusters := rfl
@[simp] theorem State.setDie_dies (s : State) (k : Nat) (t : Die) : (s.setDie k t).dies = s.dies.put k t := rfl
@[simp] theorem State.setDie_slices (s : State) (k : Nat) (t : Die) : (s.setDie k t).slices = s.slices := rfl
@[simp] theorem State.setDie_posting (s : State) (k : Nat) (t : Die) : (s.setDie k t).posting = s.posting := rfl
@[simp] theorem State.setDie_links (s : State) (k : Nat) (t : Die) : (s.setDie k t).links = s.links := rfl
@[simp] theorem State.setDie_ingress (s : State) (k : Nat) (t : Die) : (s.setDie k t).ingress = s.ingress := rfl
@[simp] theorem State.setDie_gathers (s : State) (k : Nat) (t : Die) : (s.setDie k t).gathers = s.gathers := rfl
@[simp] theorem State.setDie_engines (s : State) (k : Nat) (t : Die) : (s.setDie k t).engines = s.engines := rfl
@[simp] theorem State.setDie_transit (s : State) (k : Nat) (t : Die) : (s.setDie k t).transit = s.transit := rfl
@[simp] theorem State.setDie_arrivals (s : State) (k : Nat) (t : Die) : (s.setDie k t).arrivals = s.arrivals := rfl
@[simp] theorem State.setDie_replies (s : State) (k : Nat) (t : Die) : (s.setDie k t).replies = s.replies := rfl
@[simp] theorem State.setDie_decs (s : State) (k : Nat) (t : Die) : (s.setDie k t).decs = s.decs := rfl
@[simp] theorem State.setDie_parks (s : State) (k : Nat) (t : Die) : (s.setDie k t).parks = s.parks := rfl
@[simp] theorem State.setDie_saved (s : State) (k : Nat) (t : Die) : (s.setDie k t).saved = s.saved := rfl
@[simp] theorem State.setDie_savedClusters (s : State) (k : Nat) (t : Die) : (s.setDie k t).savedClusters = s.savedClusters := rfl
@[simp] theorem State.setDie_launches (s : State) (k : Nat) (t : Die) : (s.setDie k t).launches = s.launches := rfl
@[simp] theorem State.setDie_fns (s : State) (k : Nat) (t : Die) : (s.setDie k t).fns = s.fns := rfl
@[simp] theorem State.setDie_pf (s : State) (k : Nat) (t : Die) : (s.setDie k t).pf = s.pf := rfl
@[simp] theorem State.setDie_parts (s : State) (k : Nat) (t : Die) : (s.setDie k t).parts = s.parts := rfl
@[simp] theorem State.setDie_er (s : State) (k : Nat) (t : Die) : (s.setDie k t).er = s.er := rfl
@[simp] theorem State.setDie_ras (s : State) (k : Nat) (t : Die) : (s.setDie k t).ras = s.ras := rfl
@[simp] theorem State.setDie_power (s : State) (k : Nat) (t : Die) : (s.setDie k t).power = s.power := rfl
@[simp] theorem State.setDie_mgmt (s : State) (k : Nat) (t : Die) : (s.setDie k t).mgmt = s.mgmt := rfl
@[simp] theorem State.setDie_boot (s : State) (k : Nat) (t : Die) : (s.setDie k t).boot = s.boot := rfl
@[simp] theorem State.setDie_cg (s : State) (k : Nat) (t : Die) : (s.setDie k t).cg = s.cg := rfl
@[simp] theorem State.setDie_donations (s : State) (k : Nat) (t : Die) : (s.setDie k t).donations = s.donations := rfl
@[simp] theorem State.setDie_donOut (s : State) (k : Nat) (t : Die) : (s.setDie k t).donOut = s.donOut := rfl
@[simp] theorem State.setDie_refusals (s : State) (k : Nat) (t : Die) : (s.setDie k t).refusals = s.refusals := rfl
@[simp] theorem State.setDie_refusalRing (s : State) (k : Nat) (t : Die) : (s.setDie k t).refusalRing = s.refusalRing := rfl
@[simp] theorem State.setDie_donLog (s : State) (k : Nat) (t : Die) : (s.setDie k t).donLog = s.donLog := rfl
@[simp] theorem State.setDie_fabric (s : State) (k : Nat) (t : Die) : (s.setDie k t).fabric = s.fabric := rfl
@[simp] theorem State.setDie_host (s : State) (k : Nat) (t : Die) : (s.setDie k t).host = s.host := rfl
@[simp] theorem State.setDie_copies (s : State) (k : Nat) (t : Die) : (s.setDie k t).copies = s.copies := rfl
@[simp] theorem State.setDie_hostGot (s : State) (k : Nat) (t : Die) : (s.setDie k t).hostGot = s.hostGot := rfl
@[simp] theorem State.setDie_filters (s : State) (k : Nat) (t : Die) : (s.setDie k t).filters = s.filters := rfl
@[simp] theorem State.setDie_shoots (s : State) (k : Nat) (t : Die) : (s.setDie k t).shoots = s.shoots := rfl
@[simp] theorem State.setDie_pkg (s : State) (k : Nat) (t : Die) : (s.setDie k t).pkg = s.pkg := rfl

/-! `State.setSlice` -/

@[simp] theorem State.setSlice_agenda (s : State) (k : Nat) (t : Slice) : (s.setSlice k t).agenda = s.agenda := rfl
@[simp] theorem State.setSlice_here (s : State) (k : Nat) (t : Slice) : (s.setSlice k t).here = s.here := rfl
@[simp] theorem State.setSlice_serial (s : State) (k : Nat) (t : Slice) : (s.setSlice k t).serial = s.serial := rfl
@[simp] theorem State.setSlice_stalled (s : State) (k : Nat) (t : Slice) : (s.setSlice k t).stalled = s.stalled := rfl
@[simp] theorem State.setSlice_live (s : State) (k : Nat) (t : Slice) : (s.setSlice k t).live = s.live := rfl
@[simp] theorem State.setSlice_hostLive (s : State) (k : Nat) (t : Slice) : (s.setSlice k t).hostLive = s.hostLive := rfl
@[simp] theorem State.setSlice_mem (s : State) (k : Nat) (t : Slice) : (s.setSlice k t).mem = s.mem := rfl
@[simp] theorem State.setSlice_poison (s : State) (k : Nat) (t : Slice) : (s.setSlice k t).poison = s.poison := rfl
@[simp] theorem State.setSlice_l2host (s : State) (k : Nat) (t : Slice) : (s.setSlice k t).l2host = s.l2host := rfl
@[simp] theorem State.setSlice_l2sets (s : State) (k : Nat) (t : Slice) : (s.setSlice k t).l2sets = s.l2sets := rfl
@[simp] theorem State.setSlice_strands (s : State) (k : Nat) (t : Slice) : (s.setSlice k t).strands = s.strands := rfl
@[simp] theorem State.setSlice_cores (s : State) (k : Nat) (t : Slice) : (s.setSlice k t).cores = s.cores := rfl
@[simp] theorem State.setSlice_clusters (s : State) (k : Nat) (t : Slice) : (s.setSlice k t).clusters = s.clusters := rfl
@[simp] theorem State.setSlice_dies (s : State) (k : Nat) (t : Slice) : (s.setSlice k t).dies = s.dies := rfl
@[simp] theorem State.setSlice_slices (s : State) (k : Nat) (t : Slice) : (s.setSlice k t).slices = s.slices.put k t := rfl
@[simp] theorem State.setSlice_posting (s : State) (k : Nat) (t : Slice) : (s.setSlice k t).posting = s.posting := rfl
@[simp] theorem State.setSlice_links (s : State) (k : Nat) (t : Slice) : (s.setSlice k t).links = s.links := rfl
@[simp] theorem State.setSlice_ingress (s : State) (k : Nat) (t : Slice) : (s.setSlice k t).ingress = s.ingress := rfl
@[simp] theorem State.setSlice_gathers (s : State) (k : Nat) (t : Slice) : (s.setSlice k t).gathers = s.gathers := rfl
@[simp] theorem State.setSlice_engines (s : State) (k : Nat) (t : Slice) : (s.setSlice k t).engines = s.engines := rfl
@[simp] theorem State.setSlice_transit (s : State) (k : Nat) (t : Slice) : (s.setSlice k t).transit = s.transit := rfl
@[simp] theorem State.setSlice_arrivals (s : State) (k : Nat) (t : Slice) : (s.setSlice k t).arrivals = s.arrivals := rfl
@[simp] theorem State.setSlice_replies (s : State) (k : Nat) (t : Slice) : (s.setSlice k t).replies = s.replies := rfl
@[simp] theorem State.setSlice_decs (s : State) (k : Nat) (t : Slice) : (s.setSlice k t).decs = s.decs := rfl
@[simp] theorem State.setSlice_parks (s : State) (k : Nat) (t : Slice) : (s.setSlice k t).parks = s.parks := rfl
@[simp] theorem State.setSlice_saved (s : State) (k : Nat) (t : Slice) : (s.setSlice k t).saved = s.saved := rfl
@[simp] theorem State.setSlice_savedClusters (s : State) (k : Nat) (t : Slice) : (s.setSlice k t).savedClusters = s.savedClusters := rfl
@[simp] theorem State.setSlice_launches (s : State) (k : Nat) (t : Slice) : (s.setSlice k t).launches = s.launches := rfl
@[simp] theorem State.setSlice_fns (s : State) (k : Nat) (t : Slice) : (s.setSlice k t).fns = s.fns := rfl
@[simp] theorem State.setSlice_pf (s : State) (k : Nat) (t : Slice) : (s.setSlice k t).pf = s.pf := rfl
@[simp] theorem State.setSlice_parts (s : State) (k : Nat) (t : Slice) : (s.setSlice k t).parts = s.parts := rfl
@[simp] theorem State.setSlice_er (s : State) (k : Nat) (t : Slice) : (s.setSlice k t).er = s.er := rfl
@[simp] theorem State.setSlice_ras (s : State) (k : Nat) (t : Slice) : (s.setSlice k t).ras = s.ras := rfl
@[simp] theorem State.setSlice_power (s : State) (k : Nat) (t : Slice) : (s.setSlice k t).power = s.power := rfl
@[simp] theorem State.setSlice_mgmt (s : State) (k : Nat) (t : Slice) : (s.setSlice k t).mgmt = s.mgmt := rfl
@[simp] theorem State.setSlice_boot (s : State) (k : Nat) (t : Slice) : (s.setSlice k t).boot = s.boot := rfl
@[simp] theorem State.setSlice_cg (s : State) (k : Nat) (t : Slice) : (s.setSlice k t).cg = s.cg := rfl
@[simp] theorem State.setSlice_donations (s : State) (k : Nat) (t : Slice) : (s.setSlice k t).donations = s.donations := rfl
@[simp] theorem State.setSlice_donOut (s : State) (k : Nat) (t : Slice) : (s.setSlice k t).donOut = s.donOut := rfl
@[simp] theorem State.setSlice_refusals (s : State) (k : Nat) (t : Slice) : (s.setSlice k t).refusals = s.refusals := rfl
@[simp] theorem State.setSlice_refusalRing (s : State) (k : Nat) (t : Slice) : (s.setSlice k t).refusalRing = s.refusalRing := rfl
@[simp] theorem State.setSlice_donLog (s : State) (k : Nat) (t : Slice) : (s.setSlice k t).donLog = s.donLog := rfl
@[simp] theorem State.setSlice_fabric (s : State) (k : Nat) (t : Slice) : (s.setSlice k t).fabric = s.fabric := rfl
@[simp] theorem State.setSlice_host (s : State) (k : Nat) (t : Slice) : (s.setSlice k t).host = s.host := rfl
@[simp] theorem State.setSlice_copies (s : State) (k : Nat) (t : Slice) : (s.setSlice k t).copies = s.copies := rfl
@[simp] theorem State.setSlice_hostGot (s : State) (k : Nat) (t : Slice) : (s.setSlice k t).hostGot = s.hostGot := rfl
@[simp] theorem State.setSlice_filters (s : State) (k : Nat) (t : Slice) : (s.setSlice k t).filters = s.filters := rfl
@[simp] theorem State.setSlice_shoots (s : State) (k : Nat) (t : Slice) : (s.setSlice k t).shoots = s.shoots := rfl
@[simp] theorem State.setSlice_pkg (s : State) (k : Nat) (t : Slice) : (s.setSlice k t).pkg = s.pkg := rfl

/-! `State.setLink` -/

@[simp] theorem State.setLink_agenda (s : State) (k : Nat) (t : Link) : (s.setLink k t).agenda = s.agenda := rfl
@[simp] theorem State.setLink_here (s : State) (k : Nat) (t : Link) : (s.setLink k t).here = s.here := rfl
@[simp] theorem State.setLink_serial (s : State) (k : Nat) (t : Link) : (s.setLink k t).serial = s.serial := rfl
@[simp] theorem State.setLink_stalled (s : State) (k : Nat) (t : Link) : (s.setLink k t).stalled = s.stalled := rfl
@[simp] theorem State.setLink_live (s : State) (k : Nat) (t : Link) : (s.setLink k t).live = s.live := rfl
@[simp] theorem State.setLink_hostLive (s : State) (k : Nat) (t : Link) : (s.setLink k t).hostLive = s.hostLive := rfl
@[simp] theorem State.setLink_mem (s : State) (k : Nat) (t : Link) : (s.setLink k t).mem = s.mem := rfl
@[simp] theorem State.setLink_poison (s : State) (k : Nat) (t : Link) : (s.setLink k t).poison = s.poison := rfl
@[simp] theorem State.setLink_l2host (s : State) (k : Nat) (t : Link) : (s.setLink k t).l2host = s.l2host := rfl
@[simp] theorem State.setLink_l2sets (s : State) (k : Nat) (t : Link) : (s.setLink k t).l2sets = s.l2sets := rfl
@[simp] theorem State.setLink_strands (s : State) (k : Nat) (t : Link) : (s.setLink k t).strands = s.strands := rfl
@[simp] theorem State.setLink_cores (s : State) (k : Nat) (t : Link) : (s.setLink k t).cores = s.cores := rfl
@[simp] theorem State.setLink_clusters (s : State) (k : Nat) (t : Link) : (s.setLink k t).clusters = s.clusters := rfl
@[simp] theorem State.setLink_dies (s : State) (k : Nat) (t : Link) : (s.setLink k t).dies = s.dies := rfl
@[simp] theorem State.setLink_slices (s : State) (k : Nat) (t : Link) : (s.setLink k t).slices = s.slices := rfl
@[simp] theorem State.setLink_posting (s : State) (k : Nat) (t : Link) : (s.setLink k t).posting = s.posting := rfl
@[simp] theorem State.setLink_links (s : State) (k : Nat) (t : Link) : (s.setLink k t).links = s.links.put k t := rfl
@[simp] theorem State.setLink_ingress (s : State) (k : Nat) (t : Link) : (s.setLink k t).ingress = s.ingress := rfl
@[simp] theorem State.setLink_gathers (s : State) (k : Nat) (t : Link) : (s.setLink k t).gathers = s.gathers := rfl
@[simp] theorem State.setLink_engines (s : State) (k : Nat) (t : Link) : (s.setLink k t).engines = s.engines := rfl
@[simp] theorem State.setLink_transit (s : State) (k : Nat) (t : Link) : (s.setLink k t).transit = s.transit := rfl
@[simp] theorem State.setLink_arrivals (s : State) (k : Nat) (t : Link) : (s.setLink k t).arrivals = s.arrivals := rfl
@[simp] theorem State.setLink_replies (s : State) (k : Nat) (t : Link) : (s.setLink k t).replies = s.replies := rfl
@[simp] theorem State.setLink_decs (s : State) (k : Nat) (t : Link) : (s.setLink k t).decs = s.decs := rfl
@[simp] theorem State.setLink_parks (s : State) (k : Nat) (t : Link) : (s.setLink k t).parks = s.parks := rfl
@[simp] theorem State.setLink_saved (s : State) (k : Nat) (t : Link) : (s.setLink k t).saved = s.saved := rfl
@[simp] theorem State.setLink_savedClusters (s : State) (k : Nat) (t : Link) : (s.setLink k t).savedClusters = s.savedClusters := rfl
@[simp] theorem State.setLink_launches (s : State) (k : Nat) (t : Link) : (s.setLink k t).launches = s.launches := rfl
@[simp] theorem State.setLink_fns (s : State) (k : Nat) (t : Link) : (s.setLink k t).fns = s.fns := rfl
@[simp] theorem State.setLink_pf (s : State) (k : Nat) (t : Link) : (s.setLink k t).pf = s.pf := rfl
@[simp] theorem State.setLink_parts (s : State) (k : Nat) (t : Link) : (s.setLink k t).parts = s.parts := rfl
@[simp] theorem State.setLink_er (s : State) (k : Nat) (t : Link) : (s.setLink k t).er = s.er := rfl
@[simp] theorem State.setLink_ras (s : State) (k : Nat) (t : Link) : (s.setLink k t).ras = s.ras := rfl
@[simp] theorem State.setLink_power (s : State) (k : Nat) (t : Link) : (s.setLink k t).power = s.power := rfl
@[simp] theorem State.setLink_mgmt (s : State) (k : Nat) (t : Link) : (s.setLink k t).mgmt = s.mgmt := rfl
@[simp] theorem State.setLink_boot (s : State) (k : Nat) (t : Link) : (s.setLink k t).boot = s.boot := rfl
@[simp] theorem State.setLink_cg (s : State) (k : Nat) (t : Link) : (s.setLink k t).cg = s.cg := rfl
@[simp] theorem State.setLink_donations (s : State) (k : Nat) (t : Link) : (s.setLink k t).donations = s.donations := rfl
@[simp] theorem State.setLink_donOut (s : State) (k : Nat) (t : Link) : (s.setLink k t).donOut = s.donOut := rfl
@[simp] theorem State.setLink_refusals (s : State) (k : Nat) (t : Link) : (s.setLink k t).refusals = s.refusals := rfl
@[simp] theorem State.setLink_refusalRing (s : State) (k : Nat) (t : Link) : (s.setLink k t).refusalRing = s.refusalRing := rfl
@[simp] theorem State.setLink_donLog (s : State) (k : Nat) (t : Link) : (s.setLink k t).donLog = s.donLog := rfl
@[simp] theorem State.setLink_fabric (s : State) (k : Nat) (t : Link) : (s.setLink k t).fabric = s.fabric := rfl
@[simp] theorem State.setLink_host (s : State) (k : Nat) (t : Link) : (s.setLink k t).host = s.host := rfl
@[simp] theorem State.setLink_copies (s : State) (k : Nat) (t : Link) : (s.setLink k t).copies = s.copies := rfl
@[simp] theorem State.setLink_hostGot (s : State) (k : Nat) (t : Link) : (s.setLink k t).hostGot = s.hostGot := rfl
@[simp] theorem State.setLink_filters (s : State) (k : Nat) (t : Link) : (s.setLink k t).filters = s.filters := rfl
@[simp] theorem State.setLink_shoots (s : State) (k : Nat) (t : Link) : (s.setLink k t).shoots = s.shoots := rfl
@[simp] theorem State.setLink_pkg (s : State) (k : Nat) (t : Link) : (s.setLink k t).pkg = s.pkg := rfl

/-! `State.setFn` -/

@[simp] theorem State.setFn_agenda (s : State) (k : Nat) (t : Fn) : (s.setFn k t).agenda = s.agenda := rfl
@[simp] theorem State.setFn_here (s : State) (k : Nat) (t : Fn) : (s.setFn k t).here = s.here := rfl
@[simp] theorem State.setFn_serial (s : State) (k : Nat) (t : Fn) : (s.setFn k t).serial = s.serial := rfl
@[simp] theorem State.setFn_stalled (s : State) (k : Nat) (t : Fn) : (s.setFn k t).stalled = s.stalled := rfl
@[simp] theorem State.setFn_live (s : State) (k : Nat) (t : Fn) : (s.setFn k t).live = s.live := rfl
@[simp] theorem State.setFn_hostLive (s : State) (k : Nat) (t : Fn) : (s.setFn k t).hostLive = s.hostLive := rfl
@[simp] theorem State.setFn_mem (s : State) (k : Nat) (t : Fn) : (s.setFn k t).mem = s.mem := rfl
@[simp] theorem State.setFn_poison (s : State) (k : Nat) (t : Fn) : (s.setFn k t).poison = s.poison := rfl
@[simp] theorem State.setFn_l2host (s : State) (k : Nat) (t : Fn) : (s.setFn k t).l2host = s.l2host := rfl
@[simp] theorem State.setFn_l2sets (s : State) (k : Nat) (t : Fn) : (s.setFn k t).l2sets = s.l2sets := rfl
@[simp] theorem State.setFn_strands (s : State) (k : Nat) (t : Fn) : (s.setFn k t).strands = s.strands := rfl
@[simp] theorem State.setFn_cores (s : State) (k : Nat) (t : Fn) : (s.setFn k t).cores = s.cores := rfl
@[simp] theorem State.setFn_clusters (s : State) (k : Nat) (t : Fn) : (s.setFn k t).clusters = s.clusters := rfl
@[simp] theorem State.setFn_dies (s : State) (k : Nat) (t : Fn) : (s.setFn k t).dies = s.dies := rfl
@[simp] theorem State.setFn_slices (s : State) (k : Nat) (t : Fn) : (s.setFn k t).slices = s.slices := rfl
@[simp] theorem State.setFn_posting (s : State) (k : Nat) (t : Fn) : (s.setFn k t).posting = s.posting := rfl
@[simp] theorem State.setFn_links (s : State) (k : Nat) (t : Fn) : (s.setFn k t).links = s.links := rfl
@[simp] theorem State.setFn_ingress (s : State) (k : Nat) (t : Fn) : (s.setFn k t).ingress = s.ingress := rfl
@[simp] theorem State.setFn_gathers (s : State) (k : Nat) (t : Fn) : (s.setFn k t).gathers = s.gathers := rfl
@[simp] theorem State.setFn_engines (s : State) (k : Nat) (t : Fn) : (s.setFn k t).engines = s.engines := rfl
@[simp] theorem State.setFn_transit (s : State) (k : Nat) (t : Fn) : (s.setFn k t).transit = s.transit := rfl
@[simp] theorem State.setFn_arrivals (s : State) (k : Nat) (t : Fn) : (s.setFn k t).arrivals = s.arrivals := rfl
@[simp] theorem State.setFn_replies (s : State) (k : Nat) (t : Fn) : (s.setFn k t).replies = s.replies := rfl
@[simp] theorem State.setFn_decs (s : State) (k : Nat) (t : Fn) : (s.setFn k t).decs = s.decs := rfl
@[simp] theorem State.setFn_parks (s : State) (k : Nat) (t : Fn) : (s.setFn k t).parks = s.parks := rfl
@[simp] theorem State.setFn_saved (s : State) (k : Nat) (t : Fn) : (s.setFn k t).saved = s.saved := rfl
@[simp] theorem State.setFn_savedClusters (s : State) (k : Nat) (t : Fn) : (s.setFn k t).savedClusters = s.savedClusters := rfl
@[simp] theorem State.setFn_launches (s : State) (k : Nat) (t : Fn) : (s.setFn k t).launches = s.launches := rfl
@[simp] theorem State.setFn_fns (s : State) (k : Nat) (t : Fn) : (s.setFn k t).fns = s.fns.put k t := rfl
@[simp] theorem State.setFn_pf (s : State) (k : Nat) (t : Fn) : (s.setFn k t).pf = s.pf := rfl
@[simp] theorem State.setFn_parts (s : State) (k : Nat) (t : Fn) : (s.setFn k t).parts = s.parts := rfl
@[simp] theorem State.setFn_er (s : State) (k : Nat) (t : Fn) : (s.setFn k t).er = s.er := rfl
@[simp] theorem State.setFn_ras (s : State) (k : Nat) (t : Fn) : (s.setFn k t).ras = s.ras := rfl
@[simp] theorem State.setFn_power (s : State) (k : Nat) (t : Fn) : (s.setFn k t).power = s.power := rfl
@[simp] theorem State.setFn_mgmt (s : State) (k : Nat) (t : Fn) : (s.setFn k t).mgmt = s.mgmt := rfl
@[simp] theorem State.setFn_boot (s : State) (k : Nat) (t : Fn) : (s.setFn k t).boot = s.boot := rfl
@[simp] theorem State.setFn_cg (s : State) (k : Nat) (t : Fn) : (s.setFn k t).cg = s.cg := rfl
@[simp] theorem State.setFn_donations (s : State) (k : Nat) (t : Fn) : (s.setFn k t).donations = s.donations := rfl
@[simp] theorem State.setFn_donOut (s : State) (k : Nat) (t : Fn) : (s.setFn k t).donOut = s.donOut := rfl
@[simp] theorem State.setFn_refusals (s : State) (k : Nat) (t : Fn) : (s.setFn k t).refusals = s.refusals := rfl
@[simp] theorem State.setFn_refusalRing (s : State) (k : Nat) (t : Fn) : (s.setFn k t).refusalRing = s.refusalRing := rfl
@[simp] theorem State.setFn_donLog (s : State) (k : Nat) (t : Fn) : (s.setFn k t).donLog = s.donLog := rfl
@[simp] theorem State.setFn_fabric (s : State) (k : Nat) (t : Fn) : (s.setFn k t).fabric = s.fabric := rfl
@[simp] theorem State.setFn_host (s : State) (k : Nat) (t : Fn) : (s.setFn k t).host = s.host := rfl
@[simp] theorem State.setFn_copies (s : State) (k : Nat) (t : Fn) : (s.setFn k t).copies = s.copies := rfl
@[simp] theorem State.setFn_hostGot (s : State) (k : Nat) (t : Fn) : (s.setFn k t).hostGot = s.hostGot := rfl
@[simp] theorem State.setFn_filters (s : State) (k : Nat) (t : Fn) : (s.setFn k t).filters = s.filters := rfl
@[simp] theorem State.setFn_shoots (s : State) (k : Nat) (t : Fn) : (s.setFn k t).shoots = s.shoots := rfl
@[simp] theorem State.setFn_pkg (s : State) (k : Nat) (t : Fn) : (s.setFn k t).pkg = s.pkg := rfl

/-! `State.setPart` -/

@[simp] theorem State.setPart_agenda (s : State) (k : Nat) (t : Part) : (s.setPart k t).agenda = s.agenda := rfl
@[simp] theorem State.setPart_here (s : State) (k : Nat) (t : Part) : (s.setPart k t).here = s.here := rfl
@[simp] theorem State.setPart_serial (s : State) (k : Nat) (t : Part) : (s.setPart k t).serial = s.serial := rfl
@[simp] theorem State.setPart_stalled (s : State) (k : Nat) (t : Part) : (s.setPart k t).stalled = s.stalled := rfl
@[simp] theorem State.setPart_live (s : State) (k : Nat) (t : Part) : (s.setPart k t).live = s.live := rfl
@[simp] theorem State.setPart_hostLive (s : State) (k : Nat) (t : Part) : (s.setPart k t).hostLive = s.hostLive := rfl
@[simp] theorem State.setPart_mem (s : State) (k : Nat) (t : Part) : (s.setPart k t).mem = s.mem := rfl
@[simp] theorem State.setPart_poison (s : State) (k : Nat) (t : Part) : (s.setPart k t).poison = s.poison := rfl
@[simp] theorem State.setPart_l2host (s : State) (k : Nat) (t : Part) : (s.setPart k t).l2host = s.l2host := rfl
@[simp] theorem State.setPart_l2sets (s : State) (k : Nat) (t : Part) : (s.setPart k t).l2sets = s.l2sets := rfl
@[simp] theorem State.setPart_strands (s : State) (k : Nat) (t : Part) : (s.setPart k t).strands = s.strands := rfl
@[simp] theorem State.setPart_cores (s : State) (k : Nat) (t : Part) : (s.setPart k t).cores = s.cores := rfl
@[simp] theorem State.setPart_clusters (s : State) (k : Nat) (t : Part) : (s.setPart k t).clusters = s.clusters := rfl
@[simp] theorem State.setPart_dies (s : State) (k : Nat) (t : Part) : (s.setPart k t).dies = s.dies := rfl
@[simp] theorem State.setPart_slices (s : State) (k : Nat) (t : Part) : (s.setPart k t).slices = s.slices := rfl
@[simp] theorem State.setPart_posting (s : State) (k : Nat) (t : Part) : (s.setPart k t).posting = s.posting := rfl
@[simp] theorem State.setPart_links (s : State) (k : Nat) (t : Part) : (s.setPart k t).links = s.links := rfl
@[simp] theorem State.setPart_ingress (s : State) (k : Nat) (t : Part) : (s.setPart k t).ingress = s.ingress := rfl
@[simp] theorem State.setPart_gathers (s : State) (k : Nat) (t : Part) : (s.setPart k t).gathers = s.gathers := rfl
@[simp] theorem State.setPart_engines (s : State) (k : Nat) (t : Part) : (s.setPart k t).engines = s.engines := rfl
@[simp] theorem State.setPart_transit (s : State) (k : Nat) (t : Part) : (s.setPart k t).transit = s.transit := rfl
@[simp] theorem State.setPart_arrivals (s : State) (k : Nat) (t : Part) : (s.setPart k t).arrivals = s.arrivals := rfl
@[simp] theorem State.setPart_replies (s : State) (k : Nat) (t : Part) : (s.setPart k t).replies = s.replies := rfl
@[simp] theorem State.setPart_decs (s : State) (k : Nat) (t : Part) : (s.setPart k t).decs = s.decs := rfl
@[simp] theorem State.setPart_parks (s : State) (k : Nat) (t : Part) : (s.setPart k t).parks = s.parks := rfl
@[simp] theorem State.setPart_saved (s : State) (k : Nat) (t : Part) : (s.setPart k t).saved = s.saved := rfl
@[simp] theorem State.setPart_savedClusters (s : State) (k : Nat) (t : Part) : (s.setPart k t).savedClusters = s.savedClusters := rfl
@[simp] theorem State.setPart_launches (s : State) (k : Nat) (t : Part) : (s.setPart k t).launches = s.launches := rfl
@[simp] theorem State.setPart_fns (s : State) (k : Nat) (t : Part) : (s.setPart k t).fns = s.fns := rfl
@[simp] theorem State.setPart_pf (s : State) (k : Nat) (t : Part) : (s.setPart k t).pf = s.pf := rfl
@[simp] theorem State.setPart_parts (s : State) (k : Nat) (t : Part) : (s.setPart k t).parts = s.parts.put k t := rfl
@[simp] theorem State.setPart_er (s : State) (k : Nat) (t : Part) : (s.setPart k t).er = s.er := rfl
@[simp] theorem State.setPart_ras (s : State) (k : Nat) (t : Part) : (s.setPart k t).ras = s.ras := rfl
@[simp] theorem State.setPart_power (s : State) (k : Nat) (t : Part) : (s.setPart k t).power = s.power := rfl
@[simp] theorem State.setPart_mgmt (s : State) (k : Nat) (t : Part) : (s.setPart k t).mgmt = s.mgmt := rfl
@[simp] theorem State.setPart_boot (s : State) (k : Nat) (t : Part) : (s.setPart k t).boot = s.boot := rfl
@[simp] theorem State.setPart_cg (s : State) (k : Nat) (t : Part) : (s.setPart k t).cg = s.cg := rfl
@[simp] theorem State.setPart_donations (s : State) (k : Nat) (t : Part) : (s.setPart k t).donations = s.donations := rfl
@[simp] theorem State.setPart_donOut (s : State) (k : Nat) (t : Part) : (s.setPart k t).donOut = s.donOut := rfl
@[simp] theorem State.setPart_refusals (s : State) (k : Nat) (t : Part) : (s.setPart k t).refusals = s.refusals := rfl
@[simp] theorem State.setPart_refusalRing (s : State) (k : Nat) (t : Part) : (s.setPart k t).refusalRing = s.refusalRing := rfl
@[simp] theorem State.setPart_donLog (s : State) (k : Nat) (t : Part) : (s.setPart k t).donLog = s.donLog := rfl
@[simp] theorem State.setPart_fabric (s : State) (k : Nat) (t : Part) : (s.setPart k t).fabric = s.fabric := rfl
@[simp] theorem State.setPart_host (s : State) (k : Nat) (t : Part) : (s.setPart k t).host = s.host := rfl
@[simp] theorem State.setPart_copies (s : State) (k : Nat) (t : Part) : (s.setPart k t).copies = s.copies := rfl
@[simp] theorem State.setPart_hostGot (s : State) (k : Nat) (t : Part) : (s.setPart k t).hostGot = s.hostGot := rfl
@[simp] theorem State.setPart_filters (s : State) (k : Nat) (t : Part) : (s.setPart k t).filters = s.filters := rfl
@[simp] theorem State.setPart_shoots (s : State) (k : Nat) (t : Part) : (s.setPart k t).shoots = s.shoots := rfl
@[simp] theorem State.setPart_pkg (s : State) (k : Nat) (t : Part) : (s.setPart k t).pkg = s.pkg := rfl

/-! `State.setPort` -/

@[simp] theorem State.setPort_agenda (s : State) (k : Nat) (t : Port) : (s.setPort k t).agenda = s.agenda := rfl
@[simp] theorem State.setPort_here (s : State) (k : Nat) (t : Port) : (s.setPort k t).here = s.here := rfl
@[simp] theorem State.setPort_serial (s : State) (k : Nat) (t : Port) : (s.setPort k t).serial = s.serial := rfl
@[simp] theorem State.setPort_stalled (s : State) (k : Nat) (t : Port) : (s.setPort k t).stalled = s.stalled := rfl
@[simp] theorem State.setPort_live (s : State) (k : Nat) (t : Port) : (s.setPort k t).live = s.live := rfl
@[simp] theorem State.setPort_hostLive (s : State) (k : Nat) (t : Port) : (s.setPort k t).hostLive = s.hostLive := rfl
@[simp] theorem State.setPort_mem (s : State) (k : Nat) (t : Port) : (s.setPort k t).mem = s.mem := rfl
@[simp] theorem State.setPort_poison (s : State) (k : Nat) (t : Port) : (s.setPort k t).poison = s.poison := rfl
@[simp] theorem State.setPort_l2host (s : State) (k : Nat) (t : Port) : (s.setPort k t).l2host = s.l2host := rfl
@[simp] theorem State.setPort_l2sets (s : State) (k : Nat) (t : Port) : (s.setPort k t).l2sets = s.l2sets := rfl
@[simp] theorem State.setPort_strands (s : State) (k : Nat) (t : Port) : (s.setPort k t).strands = s.strands := rfl
@[simp] theorem State.setPort_cores (s : State) (k : Nat) (t : Port) : (s.setPort k t).cores = s.cores := rfl
@[simp] theorem State.setPort_clusters (s : State) (k : Nat) (t : Port) : (s.setPort k t).clusters = s.clusters := rfl
@[simp] theorem State.setPort_dies (s : State) (k : Nat) (t : Port) : (s.setPort k t).dies = s.dies := rfl
@[simp] theorem State.setPort_slices (s : State) (k : Nat) (t : Port) : (s.setPort k t).slices = s.slices := rfl
@[simp] theorem State.setPort_posting (s : State) (k : Nat) (t : Port) : (s.setPort k t).posting = s.posting := rfl
@[simp] theorem State.setPort_links (s : State) (k : Nat) (t : Port) : (s.setPort k t).links = s.links := rfl
@[simp] theorem State.setPort_ingress (s : State) (k : Nat) (t : Port) : (s.setPort k t).ingress = s.ingress := rfl
@[simp] theorem State.setPort_gathers (s : State) (k : Nat) (t : Port) : (s.setPort k t).gathers = s.gathers := rfl
@[simp] theorem State.setPort_engines (s : State) (k : Nat) (t : Port) : (s.setPort k t).engines = s.engines := rfl
@[simp] theorem State.setPort_transit (s : State) (k : Nat) (t : Port) : (s.setPort k t).transit = s.transit := rfl
@[simp] theorem State.setPort_arrivals (s : State) (k : Nat) (t : Port) : (s.setPort k t).arrivals = s.arrivals := rfl
@[simp] theorem State.setPort_replies (s : State) (k : Nat) (t : Port) : (s.setPort k t).replies = s.replies := rfl
@[simp] theorem State.setPort_decs (s : State) (k : Nat) (t : Port) : (s.setPort k t).decs = s.decs := rfl
@[simp] theorem State.setPort_parks (s : State) (k : Nat) (t : Port) : (s.setPort k t).parks = s.parks := rfl
@[simp] theorem State.setPort_saved (s : State) (k : Nat) (t : Port) : (s.setPort k t).saved = s.saved := rfl
@[simp] theorem State.setPort_savedClusters (s : State) (k : Nat) (t : Port) : (s.setPort k t).savedClusters = s.savedClusters := rfl
@[simp] theorem State.setPort_launches (s : State) (k : Nat) (t : Port) : (s.setPort k t).launches = s.launches := rfl
@[simp] theorem State.setPort_fns (s : State) (k : Nat) (t : Port) : (s.setPort k t).fns = s.fns := rfl
@[simp] theorem State.setPort_pf (s : State) (k : Nat) (t : Port) : (s.setPort k t).pf = s.pf := rfl
@[simp] theorem State.setPort_parts (s : State) (k : Nat) (t : Port) : (s.setPort k t).parts = s.parts := rfl
@[simp] theorem State.setPort_er (s : State) (k : Nat) (t : Port) : (s.setPort k t).er = s.er := rfl
@[simp] theorem State.setPort_ras (s : State) (k : Nat) (t : Port) : (s.setPort k t).ras = s.ras := rfl
@[simp] theorem State.setPort_power (s : State) (k : Nat) (t : Port) : (s.setPort k t).power = s.power := rfl
@[simp] theorem State.setPort_mgmt (s : State) (k : Nat) (t : Port) : (s.setPort k t).mgmt = s.mgmt := rfl
@[simp] theorem State.setPort_boot (s : State) (k : Nat) (t : Port) : (s.setPort k t).boot = s.boot := rfl
@[simp] theorem State.setPort_cg (s : State) (k : Nat) (t : Port) : (s.setPort k t).cg = s.cg := rfl
@[simp] theorem State.setPort_donations (s : State) (k : Nat) (t : Port) : (s.setPort k t).donations = s.donations := rfl
@[simp] theorem State.setPort_donOut (s : State) (k : Nat) (t : Port) : (s.setPort k t).donOut = s.donOut := rfl
@[simp] theorem State.setPort_refusals (s : State) (k : Nat) (t : Port) : (s.setPort k t).refusals = s.refusals := rfl
@[simp] theorem State.setPort_refusalRing (s : State) (k : Nat) (t : Port) : (s.setPort k t).refusalRing = s.refusalRing := rfl
@[simp] theorem State.setPort_donLog (s : State) (k : Nat) (t : Port) : (s.setPort k t).donLog = s.donLog := rfl
@[simp] theorem State.setPort_fabric (s : State) (k : Nat) (t : Port) : (s.setPort k t).fabric = s.fabric.put k t := rfl
@[simp] theorem State.setPort_host (s : State) (k : Nat) (t : Port) : (s.setPort k t).host = s.host := rfl
@[simp] theorem State.setPort_copies (s : State) (k : Nat) (t : Port) : (s.setPort k t).copies = s.copies := rfl
@[simp] theorem State.setPort_hostGot (s : State) (k : Nat) (t : Port) : (s.setPort k t).hostGot = s.hostGot := rfl
@[simp] theorem State.setPort_filters (s : State) (k : Nat) (t : Port) : (s.setPort k t).filters = s.filters := rfl
@[simp] theorem State.setPort_shoots (s : State) (k : Nat) (t : Port) : (s.setPort k t).shoots = s.shoots := rfl
@[simp] theorem State.setPort_pkg (s : State) (k : Nat) (t : Port) : (s.setPort k t).pkg = s.pkg := rfl

/-! `State.setHostLink` -/

@[simp] theorem State.setHostLink_agenda (s : State) (k : Nat) (t : HostLink) : (s.setHostLink k t).agenda = s.agenda := rfl
@[simp] theorem State.setHostLink_here (s : State) (k : Nat) (t : HostLink) : (s.setHostLink k t).here = s.here := rfl
@[simp] theorem State.setHostLink_serial (s : State) (k : Nat) (t : HostLink) : (s.setHostLink k t).serial = s.serial := rfl
@[simp] theorem State.setHostLink_stalled (s : State) (k : Nat) (t : HostLink) : (s.setHostLink k t).stalled = s.stalled := rfl
@[simp] theorem State.setHostLink_live (s : State) (k : Nat) (t : HostLink) : (s.setHostLink k t).live = s.live := rfl
@[simp] theorem State.setHostLink_hostLive (s : State) (k : Nat) (t : HostLink) : (s.setHostLink k t).hostLive = s.hostLive := rfl
@[simp] theorem State.setHostLink_mem (s : State) (k : Nat) (t : HostLink) : (s.setHostLink k t).mem = s.mem := rfl
@[simp] theorem State.setHostLink_poison (s : State) (k : Nat) (t : HostLink) : (s.setHostLink k t).poison = s.poison := rfl
@[simp] theorem State.setHostLink_l2host (s : State) (k : Nat) (t : HostLink) : (s.setHostLink k t).l2host = s.l2host := rfl
@[simp] theorem State.setHostLink_l2sets (s : State) (k : Nat) (t : HostLink) : (s.setHostLink k t).l2sets = s.l2sets := rfl
@[simp] theorem State.setHostLink_strands (s : State) (k : Nat) (t : HostLink) : (s.setHostLink k t).strands = s.strands := rfl
@[simp] theorem State.setHostLink_cores (s : State) (k : Nat) (t : HostLink) : (s.setHostLink k t).cores = s.cores := rfl
@[simp] theorem State.setHostLink_clusters (s : State) (k : Nat) (t : HostLink) : (s.setHostLink k t).clusters = s.clusters := rfl
@[simp] theorem State.setHostLink_dies (s : State) (k : Nat) (t : HostLink) : (s.setHostLink k t).dies = s.dies := rfl
@[simp] theorem State.setHostLink_slices (s : State) (k : Nat) (t : HostLink) : (s.setHostLink k t).slices = s.slices := rfl
@[simp] theorem State.setHostLink_posting (s : State) (k : Nat) (t : HostLink) : (s.setHostLink k t).posting = s.posting := rfl
@[simp] theorem State.setHostLink_links (s : State) (k : Nat) (t : HostLink) : (s.setHostLink k t).links = s.links := rfl
@[simp] theorem State.setHostLink_ingress (s : State) (k : Nat) (t : HostLink) : (s.setHostLink k t).ingress = s.ingress := rfl
@[simp] theorem State.setHostLink_gathers (s : State) (k : Nat) (t : HostLink) : (s.setHostLink k t).gathers = s.gathers := rfl
@[simp] theorem State.setHostLink_engines (s : State) (k : Nat) (t : HostLink) : (s.setHostLink k t).engines = s.engines := rfl
@[simp] theorem State.setHostLink_transit (s : State) (k : Nat) (t : HostLink) : (s.setHostLink k t).transit = s.transit := rfl
@[simp] theorem State.setHostLink_arrivals (s : State) (k : Nat) (t : HostLink) : (s.setHostLink k t).arrivals = s.arrivals := rfl
@[simp] theorem State.setHostLink_replies (s : State) (k : Nat) (t : HostLink) : (s.setHostLink k t).replies = s.replies := rfl
@[simp] theorem State.setHostLink_decs (s : State) (k : Nat) (t : HostLink) : (s.setHostLink k t).decs = s.decs := rfl
@[simp] theorem State.setHostLink_parks (s : State) (k : Nat) (t : HostLink) : (s.setHostLink k t).parks = s.parks := rfl
@[simp] theorem State.setHostLink_saved (s : State) (k : Nat) (t : HostLink) : (s.setHostLink k t).saved = s.saved := rfl
@[simp] theorem State.setHostLink_savedClusters (s : State) (k : Nat) (t : HostLink) : (s.setHostLink k t).savedClusters = s.savedClusters := rfl
@[simp] theorem State.setHostLink_launches (s : State) (k : Nat) (t : HostLink) : (s.setHostLink k t).launches = s.launches := rfl
@[simp] theorem State.setHostLink_fns (s : State) (k : Nat) (t : HostLink) : (s.setHostLink k t).fns = s.fns := rfl
@[simp] theorem State.setHostLink_pf (s : State) (k : Nat) (t : HostLink) : (s.setHostLink k t).pf = s.pf := rfl
@[simp] theorem State.setHostLink_parts (s : State) (k : Nat) (t : HostLink) : (s.setHostLink k t).parts = s.parts := rfl
@[simp] theorem State.setHostLink_er (s : State) (k : Nat) (t : HostLink) : (s.setHostLink k t).er = s.er := rfl
@[simp] theorem State.setHostLink_ras (s : State) (k : Nat) (t : HostLink) : (s.setHostLink k t).ras = s.ras := rfl
@[simp] theorem State.setHostLink_power (s : State) (k : Nat) (t : HostLink) : (s.setHostLink k t).power = s.power := rfl
@[simp] theorem State.setHostLink_mgmt (s : State) (k : Nat) (t : HostLink) : (s.setHostLink k t).mgmt = s.mgmt := rfl
@[simp] theorem State.setHostLink_boot (s : State) (k : Nat) (t : HostLink) : (s.setHostLink k t).boot = s.boot := rfl
@[simp] theorem State.setHostLink_cg (s : State) (k : Nat) (t : HostLink) : (s.setHostLink k t).cg = s.cg := rfl
@[simp] theorem State.setHostLink_donations (s : State) (k : Nat) (t : HostLink) : (s.setHostLink k t).donations = s.donations := rfl
@[simp] theorem State.setHostLink_donOut (s : State) (k : Nat) (t : HostLink) : (s.setHostLink k t).donOut = s.donOut := rfl
@[simp] theorem State.setHostLink_refusals (s : State) (k : Nat) (t : HostLink) : (s.setHostLink k t).refusals = s.refusals := rfl
@[simp] theorem State.setHostLink_refusalRing (s : State) (k : Nat) (t : HostLink) : (s.setHostLink k t).refusalRing = s.refusalRing := rfl
@[simp] theorem State.setHostLink_donLog (s : State) (k : Nat) (t : HostLink) : (s.setHostLink k t).donLog = s.donLog := rfl
@[simp] theorem State.setHostLink_fabric (s : State) (k : Nat) (t : HostLink) : (s.setHostLink k t).fabric = s.fabric := rfl
@[simp] theorem State.setHostLink_host (s : State) (k : Nat) (t : HostLink) : (s.setHostLink k t).host = s.host.put k t := rfl
@[simp] theorem State.setHostLink_copies (s : State) (k : Nat) (t : HostLink) : (s.setHostLink k t).copies = s.copies := rfl
@[simp] theorem State.setHostLink_hostGot (s : State) (k : Nat) (t : HostLink) : (s.setHostLink k t).hostGot = s.hostGot := rfl
@[simp] theorem State.setHostLink_filters (s : State) (k : Nat) (t : HostLink) : (s.setHostLink k t).filters = s.filters := rfl
@[simp] theorem State.setHostLink_shoots (s : State) (k : Nat) (t : HostLink) : (s.setHostLink k t).shoots = s.shoots := rfl
@[simp] theorem State.setHostLink_pkg (s : State) (k : Nat) (t : HostLink) : (s.setHostLink k t).pkg = s.pkg := rfl

/-! `State.writeMem` -/

@[simp] theorem State.writeMem_agenda (s : State) (a v n : Nat) : (s.writeMem a v n).agenda = s.agenda := by
  unfold State.writeMem; split <;> rfl
@[simp] theorem State.writeMem_here (s : State) (a v n : Nat) : (s.writeMem a v n).here = s.here := by
  unfold State.writeMem; split <;> rfl
@[simp] theorem State.writeMem_serial (s : State) (a v n : Nat) : (s.writeMem a v n).serial = s.serial := by
  unfold State.writeMem; split <;> rfl
@[simp] theorem State.writeMem_stalled (s : State) (a v n : Nat) : (s.writeMem a v n).stalled = s.stalled := by
  unfold State.writeMem; split <;> rfl
@[simp] theorem State.writeMem_live (s : State) (a v n : Nat) : (s.writeMem a v n).live = s.live := by
  unfold State.writeMem; split <;> rfl
@[simp] theorem State.writeMem_hostLive (s : State) (a v n : Nat) : (s.writeMem a v n).hostLive = s.hostLive := by
  unfold State.writeMem; split <;> rfl
@[simp] theorem State.writeMem_mem (s : State) (a v n : Nat) :
    (s.writeMem a v n).mem = if bytesExist a n then Memory.writeN s.mem a v n else s.mem := by
  unfold State.writeMem; split <;> rfl
@[simp] theorem State.writeMem_poison (s : State) (a v n : Nat) : (s.writeMem a v n).poison = s.poison := by
  unfold State.writeMem; split <;> rfl
@[simp] theorem State.writeMem_l2host (s : State) (a v n : Nat) : (s.writeMem a v n).l2host = s.l2host := by
  unfold State.writeMem; split <;> rfl
@[simp] theorem State.writeMem_l2sets (s : State) (a v n : Nat) : (s.writeMem a v n).l2sets = s.l2sets := by
  unfold State.writeMem; split <;> rfl
@[simp] theorem State.writeMem_strands (s : State) (a v n : Nat) : (s.writeMem a v n).strands = s.strands := by
  unfold State.writeMem; split <;> rfl
@[simp] theorem State.writeMem_cores (s : State) (a v n : Nat) : (s.writeMem a v n).cores = s.cores := by
  unfold State.writeMem; split <;> rfl
@[simp] theorem State.writeMem_clusters (s : State) (a v n : Nat) : (s.writeMem a v n).clusters = s.clusters := by
  unfold State.writeMem; split <;> rfl
@[simp] theorem State.writeMem_dies (s : State) (a v n : Nat) : (s.writeMem a v n).dies = s.dies := by
  unfold State.writeMem; split <;> rfl
@[simp] theorem State.writeMem_slices (s : State) (a v n : Nat) : (s.writeMem a v n).slices = s.slices := by
  unfold State.writeMem; split <;> rfl
@[simp] theorem State.writeMem_posting (s : State) (a v n : Nat) : (s.writeMem a v n).posting = s.posting := by
  unfold State.writeMem; split <;> rfl
@[simp] theorem State.writeMem_links (s : State) (a v n : Nat) : (s.writeMem a v n).links = s.links := by
  unfold State.writeMem; split <;> rfl
@[simp] theorem State.writeMem_ingress (s : State) (a v n : Nat) : (s.writeMem a v n).ingress = s.ingress := by
  unfold State.writeMem; split <;> rfl
@[simp] theorem State.writeMem_gathers (s : State) (a v n : Nat) : (s.writeMem a v n).gathers = s.gathers := by
  unfold State.writeMem; split <;> rfl
@[simp] theorem State.writeMem_engines (s : State) (a v n : Nat) : (s.writeMem a v n).engines = s.engines := by
  unfold State.writeMem; split <;> rfl
@[simp] theorem State.writeMem_transit (s : State) (a v n : Nat) : (s.writeMem a v n).transit = s.transit := by
  unfold State.writeMem; split <;> rfl
@[simp] theorem State.writeMem_arrivals (s : State) (a v n : Nat) : (s.writeMem a v n).arrivals = s.arrivals := by
  unfold State.writeMem; split <;> rfl
@[simp] theorem State.writeMem_replies (s : State) (a v n : Nat) : (s.writeMem a v n).replies = s.replies := by
  unfold State.writeMem; split <;> rfl
@[simp] theorem State.writeMem_decs (s : State) (a v n : Nat) : (s.writeMem a v n).decs = s.decs := by
  unfold State.writeMem; split <;> rfl
@[simp] theorem State.writeMem_parks (s : State) (a v n : Nat) : (s.writeMem a v n).parks = s.parks := by
  unfold State.writeMem; split <;> rfl
@[simp] theorem State.writeMem_saved (s : State) (a v n : Nat) : (s.writeMem a v n).saved = s.saved := by
  unfold State.writeMem; split <;> rfl
@[simp] theorem State.writeMem_savedClusters (s : State) (a v n : Nat) : (s.writeMem a v n).savedClusters = s.savedClusters := by
  unfold State.writeMem; split <;> rfl
@[simp] theorem State.writeMem_launches (s : State) (a v n : Nat) : (s.writeMem a v n).launches = s.launches := by
  unfold State.writeMem; split <;> rfl
@[simp] theorem State.writeMem_fns (s : State) (a v n : Nat) : (s.writeMem a v n).fns = s.fns := by
  unfold State.writeMem; split <;> rfl
@[simp] theorem State.writeMem_pf (s : State) (a v n : Nat) : (s.writeMem a v n).pf = s.pf := by
  unfold State.writeMem; split <;> rfl
@[simp] theorem State.writeMem_parts (s : State) (a v n : Nat) : (s.writeMem a v n).parts = s.parts := by
  unfold State.writeMem; split <;> rfl
@[simp] theorem State.writeMem_er (s : State) (a v n : Nat) : (s.writeMem a v n).er = s.er := by
  unfold State.writeMem; split <;> rfl
@[simp] theorem State.writeMem_ras (s : State) (a v n : Nat) : (s.writeMem a v n).ras = s.ras := by
  unfold State.writeMem; split <;> rfl
@[simp] theorem State.writeMem_power (s : State) (a v n : Nat) : (s.writeMem a v n).power = s.power := by
  unfold State.writeMem; split <;> rfl
@[simp] theorem State.writeMem_mgmt (s : State) (a v n : Nat) : (s.writeMem a v n).mgmt = s.mgmt := by
  unfold State.writeMem; split <;> rfl
@[simp] theorem State.writeMem_boot (s : State) (a v n : Nat) : (s.writeMem a v n).boot = s.boot := by
  unfold State.writeMem; split <;> rfl
@[simp] theorem State.writeMem_cg (s : State) (a v n : Nat) : (s.writeMem a v n).cg = s.cg := by
  unfold State.writeMem; split <;> rfl
@[simp] theorem State.writeMem_donations (s : State) (a v n : Nat) : (s.writeMem a v n).donations = s.donations := by
  unfold State.writeMem; split <;> rfl
@[simp] theorem State.writeMem_donOut (s : State) (a v n : Nat) : (s.writeMem a v n).donOut = s.donOut := by
  unfold State.writeMem; split <;> rfl
@[simp] theorem State.writeMem_refusals (s : State) (a v n : Nat) : (s.writeMem a v n).refusals = s.refusals := by
  unfold State.writeMem; split <;> rfl
@[simp] theorem State.writeMem_refusalRing (s : State) (a v n : Nat) : (s.writeMem a v n).refusalRing = s.refusalRing := by
  unfold State.writeMem; split <;> rfl
@[simp] theorem State.writeMem_donLog (s : State) (a v n : Nat) : (s.writeMem a v n).donLog = s.donLog := by
  unfold State.writeMem; split <;> rfl
@[simp] theorem State.writeMem_fabric (s : State) (a v n : Nat) : (s.writeMem a v n).fabric = s.fabric := by
  unfold State.writeMem; split <;> rfl
@[simp] theorem State.writeMem_host (s : State) (a v n : Nat) : (s.writeMem a v n).host = s.host := by
  unfold State.writeMem; split <;> rfl
@[simp] theorem State.writeMem_copies (s : State) (a v n : Nat) : (s.writeMem a v n).copies = s.copies := by
  unfold State.writeMem; split <;> rfl
@[simp] theorem State.writeMem_hostGot (s : State) (a v n : Nat) : (s.writeMem a v n).hostGot = s.hostGot := by
  unfold State.writeMem; split <;> rfl
@[simp] theorem State.writeMem_filters (s : State) (a v n : Nat) : (s.writeMem a v n).filters = s.filters := by
  unfold State.writeMem; split <;> rfl
@[simp] theorem State.writeMem_shoots (s : State) (a v n : Nat) : (s.writeMem a v n).shoots = s.shoots := by
  unfold State.writeMem; split <;> rfl
@[simp] theorem State.writeMem_pkg (s : State) (a v n : Nat) : (s.writeMem a v n).pkg = s.pkg := by
  unfold State.writeMem; split <;> rfl

/-! The parts of the state after an update of another part, and after an update of the same. -/

@[simp] theorem State.strand_setStrand (s : State) (k : Nat) (t : Strand) : (s.setStrand k t).strand k = t := get_put _ _ _ _
theorem State.strand_setStrand_ne (s : State) (j k : Nat) (t : Strand) (h : j ≠ k) : (s.setStrand k t).strand j = s.strand j :=
  get_put_ne _ _ _ _ _ h
@[simp] theorem State.core_setStrand (s : State) (j k : Nat) (t : Strand) : (s.setStrand k t).core j = s.core j := rfl
@[simp] theorem State.cluster_setStrand (s : State) (j k : Nat) (t : Strand) : (s.setStrand k t).cluster j = s.cluster j := rfl
@[simp] theorem State.die_setStrand (s : State) (j k : Nat) (t : Strand) : (s.setStrand k t).die j = s.die j := rfl
@[simp] theorem State.slice_setStrand (s : State) (j k : Nat) (t : Strand) : (s.setStrand k t).slice j = s.slice j := rfl
@[simp] theorem State.link_setStrand (s : State) (j k : Nat) (t : Strand) : (s.setStrand k t).link j = s.link j := rfl
@[simp] theorem State.fn_setStrand (s : State) (j k : Nat) (t : Strand) : (s.setStrand k t).fn j = s.fn j := rfl
@[simp] theorem State.part_setStrand (s : State) (j k : Nat) (t : Strand) : (s.setStrand k t).part j = s.part j := rfl
@[simp] theorem State.port_setStrand (s : State) (j k : Nat) (t : Strand) : (s.setStrand k t).port j = s.port j := rfl
@[simp] theorem State.hostLink_setStrand (s : State) (j k : Nat) (t : Strand) : (s.setStrand k t).hostLink j = s.hostLink j := rfl
@[simp] theorem State.strand_ran (s : State) (k : Nat) : s.ran.strand k = s.strand k := rfl
@[simp] theorem State.strand_waits (s : State) (k : Nat) : s.waits.strand k = s.strand k := rfl
@[simp] theorem State.strand_fresh (s : State) (k : Nat) : s.fresh.strand k = s.strand k := rfl

@[simp] theorem State.core_setCore (s : State) (k : Nat) (t : Core) : (s.setCore k t).core k = t := get_put _ _ _ _
theorem State.core_setCore_ne (s : State) (j k : Nat) (t : Core) (h : j ≠ k) : (s.setCore k t).core j = s.core j :=
  get_put_ne _ _ _ _ _ h
@[simp] theorem State.strand_setCore (s : State) (j k : Nat) (t : Core) : (s.setCore k t).strand j = s.strand j := rfl
@[simp] theorem State.cluster_setCore (s : State) (j k : Nat) (t : Core) : (s.setCore k t).cluster j = s.cluster j := rfl
@[simp] theorem State.die_setCore (s : State) (j k : Nat) (t : Core) : (s.setCore k t).die j = s.die j := rfl
@[simp] theorem State.slice_setCore (s : State) (j k : Nat) (t : Core) : (s.setCore k t).slice j = s.slice j := rfl
@[simp] theorem State.link_setCore (s : State) (j k : Nat) (t : Core) : (s.setCore k t).link j = s.link j := rfl
@[simp] theorem State.fn_setCore (s : State) (j k : Nat) (t : Core) : (s.setCore k t).fn j = s.fn j := rfl
@[simp] theorem State.part_setCore (s : State) (j k : Nat) (t : Core) : (s.setCore k t).part j = s.part j := rfl
@[simp] theorem State.port_setCore (s : State) (j k : Nat) (t : Core) : (s.setCore k t).port j = s.port j := rfl
@[simp] theorem State.hostLink_setCore (s : State) (j k : Nat) (t : Core) : (s.setCore k t).hostLink j = s.hostLink j := rfl
@[simp] theorem State.core_ran (s : State) (k : Nat) : s.ran.core k = s.core k := rfl
@[simp] theorem State.core_waits (s : State) (k : Nat) : s.waits.core k = s.core k := rfl
@[simp] theorem State.core_fresh (s : State) (k : Nat) : s.fresh.core k = s.core k := rfl

@[simp] theorem State.cluster_setCluster (s : State) (k : Nat) (t : Cluster) : (s.setCluster k t).cluster k = t := get_put _ _ _ _
theorem State.cluster_setCluster_ne (s : State) (j k : Nat) (t : Cluster) (h : j ≠ k) : (s.setCluster k t).cluster j = s.cluster j :=
  get_put_ne _ _ _ _ _ h
@[simp] theorem State.strand_setCluster (s : State) (j k : Nat) (t : Cluster) : (s.setCluster k t).strand j = s.strand j := rfl
@[simp] theorem State.core_setCluster (s : State) (j k : Nat) (t : Cluster) : (s.setCluster k t).core j = s.core j := rfl
@[simp] theorem State.die_setCluster (s : State) (j k : Nat) (t : Cluster) : (s.setCluster k t).die j = s.die j := rfl
@[simp] theorem State.slice_setCluster (s : State) (j k : Nat) (t : Cluster) : (s.setCluster k t).slice j = s.slice j := rfl
@[simp] theorem State.link_setCluster (s : State) (j k : Nat) (t : Cluster) : (s.setCluster k t).link j = s.link j := rfl
@[simp] theorem State.fn_setCluster (s : State) (j k : Nat) (t : Cluster) : (s.setCluster k t).fn j = s.fn j := rfl
@[simp] theorem State.part_setCluster (s : State) (j k : Nat) (t : Cluster) : (s.setCluster k t).part j = s.part j := rfl
@[simp] theorem State.port_setCluster (s : State) (j k : Nat) (t : Cluster) : (s.setCluster k t).port j = s.port j := rfl
@[simp] theorem State.hostLink_setCluster (s : State) (j k : Nat) (t : Cluster) : (s.setCluster k t).hostLink j = s.hostLink j := rfl
@[simp] theorem State.cluster_ran (s : State) (k : Nat) : s.ran.cluster k = s.cluster k := rfl
@[simp] theorem State.cluster_waits (s : State) (k : Nat) : s.waits.cluster k = s.cluster k := rfl
@[simp] theorem State.cluster_fresh (s : State) (k : Nat) : s.fresh.cluster k = s.cluster k := rfl

@[simp] theorem State.die_setDie (s : State) (k : Nat) (t : Die) : (s.setDie k t).die k = t := get_put _ _ _ _
theorem State.die_setDie_ne (s : State) (j k : Nat) (t : Die) (h : j ≠ k) : (s.setDie k t).die j = s.die j :=
  get_put_ne _ _ _ _ _ h
@[simp] theorem State.strand_setDie (s : State) (j k : Nat) (t : Die) : (s.setDie k t).strand j = s.strand j := rfl
@[simp] theorem State.core_setDie (s : State) (j k : Nat) (t : Die) : (s.setDie k t).core j = s.core j := rfl
@[simp] theorem State.cluster_setDie (s : State) (j k : Nat) (t : Die) : (s.setDie k t).cluster j = s.cluster j := rfl
@[simp] theorem State.slice_setDie (s : State) (j k : Nat) (t : Die) : (s.setDie k t).slice j = s.slice j := rfl
@[simp] theorem State.link_setDie (s : State) (j k : Nat) (t : Die) : (s.setDie k t).link j = s.link j := rfl
@[simp] theorem State.fn_setDie (s : State) (j k : Nat) (t : Die) : (s.setDie k t).fn j = s.fn j := rfl
@[simp] theorem State.part_setDie (s : State) (j k : Nat) (t : Die) : (s.setDie k t).part j = s.part j := rfl
@[simp] theorem State.port_setDie (s : State) (j k : Nat) (t : Die) : (s.setDie k t).port j = s.port j := rfl
@[simp] theorem State.hostLink_setDie (s : State) (j k : Nat) (t : Die) : (s.setDie k t).hostLink j = s.hostLink j := rfl
@[simp] theorem State.die_ran (s : State) (k : Nat) : s.ran.die k = s.die k := rfl
@[simp] theorem State.die_waits (s : State) (k : Nat) : s.waits.die k = s.die k := rfl
@[simp] theorem State.die_fresh (s : State) (k : Nat) : s.fresh.die k = s.die k := rfl

@[simp] theorem State.slice_setSlice (s : State) (k : Nat) (t : Slice) : (s.setSlice k t).slice k = t := get_put _ _ _ _
theorem State.slice_setSlice_ne (s : State) (j k : Nat) (t : Slice) (h : j ≠ k) : (s.setSlice k t).slice j = s.slice j :=
  get_put_ne _ _ _ _ _ h
@[simp] theorem State.strand_setSlice (s : State) (j k : Nat) (t : Slice) : (s.setSlice k t).strand j = s.strand j := rfl
@[simp] theorem State.core_setSlice (s : State) (j k : Nat) (t : Slice) : (s.setSlice k t).core j = s.core j := rfl
@[simp] theorem State.cluster_setSlice (s : State) (j k : Nat) (t : Slice) : (s.setSlice k t).cluster j = s.cluster j := rfl
@[simp] theorem State.die_setSlice (s : State) (j k : Nat) (t : Slice) : (s.setSlice k t).die j = s.die j := rfl
@[simp] theorem State.link_setSlice (s : State) (j k : Nat) (t : Slice) : (s.setSlice k t).link j = s.link j := rfl
@[simp] theorem State.fn_setSlice (s : State) (j k : Nat) (t : Slice) : (s.setSlice k t).fn j = s.fn j := rfl
@[simp] theorem State.part_setSlice (s : State) (j k : Nat) (t : Slice) : (s.setSlice k t).part j = s.part j := rfl
@[simp] theorem State.port_setSlice (s : State) (j k : Nat) (t : Slice) : (s.setSlice k t).port j = s.port j := rfl
@[simp] theorem State.hostLink_setSlice (s : State) (j k : Nat) (t : Slice) : (s.setSlice k t).hostLink j = s.hostLink j := rfl
@[simp] theorem State.slice_ran (s : State) (k : Nat) : s.ran.slice k = s.slice k := rfl
@[simp] theorem State.slice_waits (s : State) (k : Nat) : s.waits.slice k = s.slice k := rfl
@[simp] theorem State.slice_fresh (s : State) (k : Nat) : s.fresh.slice k = s.slice k := rfl

@[simp] theorem State.link_setLink (s : State) (k : Nat) (t : Link) : (s.setLink k t).link k = t := get_put _ _ _ _
theorem State.link_setLink_ne (s : State) (j k : Nat) (t : Link) (h : j ≠ k) : (s.setLink k t).link j = s.link j :=
  get_put_ne _ _ _ _ _ h
@[simp] theorem State.strand_setLink (s : State) (j k : Nat) (t : Link) : (s.setLink k t).strand j = s.strand j := rfl
@[simp] theorem State.core_setLink (s : State) (j k : Nat) (t : Link) : (s.setLink k t).core j = s.core j := rfl
@[simp] theorem State.cluster_setLink (s : State) (j k : Nat) (t : Link) : (s.setLink k t).cluster j = s.cluster j := rfl
@[simp] theorem State.die_setLink (s : State) (j k : Nat) (t : Link) : (s.setLink k t).die j = s.die j := rfl
@[simp] theorem State.slice_setLink (s : State) (j k : Nat) (t : Link) : (s.setLink k t).slice j = s.slice j := rfl
@[simp] theorem State.fn_setLink (s : State) (j k : Nat) (t : Link) : (s.setLink k t).fn j = s.fn j := rfl
@[simp] theorem State.part_setLink (s : State) (j k : Nat) (t : Link) : (s.setLink k t).part j = s.part j := rfl
@[simp] theorem State.port_setLink (s : State) (j k : Nat) (t : Link) : (s.setLink k t).port j = s.port j := rfl
@[simp] theorem State.hostLink_setLink (s : State) (j k : Nat) (t : Link) : (s.setLink k t).hostLink j = s.hostLink j := rfl
@[simp] theorem State.link_ran (s : State) (k : Nat) : s.ran.link k = s.link k := rfl
@[simp] theorem State.link_waits (s : State) (k : Nat) : s.waits.link k = s.link k := rfl
@[simp] theorem State.link_fresh (s : State) (k : Nat) : s.fresh.link k = s.link k := rfl

@[simp] theorem State.fn_setFn (s : State) (k : Nat) (t : Fn) : (s.setFn k t).fn k = t := get_put _ _ _ _
theorem State.fn_setFn_ne (s : State) (j k : Nat) (t : Fn) (h : j ≠ k) : (s.setFn k t).fn j = s.fn j :=
  get_put_ne _ _ _ _ _ h
@[simp] theorem State.strand_setFn (s : State) (j k : Nat) (t : Fn) : (s.setFn k t).strand j = s.strand j := rfl
@[simp] theorem State.core_setFn (s : State) (j k : Nat) (t : Fn) : (s.setFn k t).core j = s.core j := rfl
@[simp] theorem State.cluster_setFn (s : State) (j k : Nat) (t : Fn) : (s.setFn k t).cluster j = s.cluster j := rfl
@[simp] theorem State.die_setFn (s : State) (j k : Nat) (t : Fn) : (s.setFn k t).die j = s.die j := rfl
@[simp] theorem State.slice_setFn (s : State) (j k : Nat) (t : Fn) : (s.setFn k t).slice j = s.slice j := rfl
@[simp] theorem State.link_setFn (s : State) (j k : Nat) (t : Fn) : (s.setFn k t).link j = s.link j := rfl
@[simp] theorem State.part_setFn (s : State) (j k : Nat) (t : Fn) : (s.setFn k t).part j = s.part j := rfl
@[simp] theorem State.port_setFn (s : State) (j k : Nat) (t : Fn) : (s.setFn k t).port j = s.port j := rfl
@[simp] theorem State.hostLink_setFn (s : State) (j k : Nat) (t : Fn) : (s.setFn k t).hostLink j = s.hostLink j := rfl
@[simp] theorem State.fn_ran (s : State) (k : Nat) : s.ran.fn k = s.fn k := rfl
@[simp] theorem State.fn_waits (s : State) (k : Nat) : s.waits.fn k = s.fn k := rfl
@[simp] theorem State.fn_fresh (s : State) (k : Nat) : s.fresh.fn k = s.fn k := rfl

@[simp] theorem State.part_setPart (s : State) (k : Nat) (t : Part) : (s.setPart k t).part k = t := get_put _ _ _ _
theorem State.part_setPart_ne (s : State) (j k : Nat) (t : Part) (h : j ≠ k) : (s.setPart k t).part j = s.part j :=
  get_put_ne _ _ _ _ _ h
@[simp] theorem State.strand_setPart (s : State) (j k : Nat) (t : Part) : (s.setPart k t).strand j = s.strand j := rfl
@[simp] theorem State.core_setPart (s : State) (j k : Nat) (t : Part) : (s.setPart k t).core j = s.core j := rfl
@[simp] theorem State.cluster_setPart (s : State) (j k : Nat) (t : Part) : (s.setPart k t).cluster j = s.cluster j := rfl
@[simp] theorem State.die_setPart (s : State) (j k : Nat) (t : Part) : (s.setPart k t).die j = s.die j := rfl
@[simp] theorem State.slice_setPart (s : State) (j k : Nat) (t : Part) : (s.setPart k t).slice j = s.slice j := rfl
@[simp] theorem State.link_setPart (s : State) (j k : Nat) (t : Part) : (s.setPart k t).link j = s.link j := rfl
@[simp] theorem State.fn_setPart (s : State) (j k : Nat) (t : Part) : (s.setPart k t).fn j = s.fn j := rfl
@[simp] theorem State.port_setPart (s : State) (j k : Nat) (t : Part) : (s.setPart k t).port j = s.port j := rfl
@[simp] theorem State.hostLink_setPart (s : State) (j k : Nat) (t : Part) : (s.setPart k t).hostLink j = s.hostLink j := rfl
@[simp] theorem State.part_ran (s : State) (k : Nat) : s.ran.part k = s.part k := rfl
@[simp] theorem State.part_waits (s : State) (k : Nat) : s.waits.part k = s.part k := rfl
@[simp] theorem State.part_fresh (s : State) (k : Nat) : s.fresh.part k = s.part k := rfl

@[simp] theorem State.port_setPort (s : State) (k : Nat) (t : Port) : (s.setPort k t).port k = t := get_put _ _ _ _
theorem State.port_setPort_ne (s : State) (j k : Nat) (t : Port) (h : j ≠ k) : (s.setPort k t).port j = s.port j :=
  get_put_ne _ _ _ _ _ h
@[simp] theorem State.strand_setPort (s : State) (j k : Nat) (t : Port) : (s.setPort k t).strand j = s.strand j := rfl
@[simp] theorem State.core_setPort (s : State) (j k : Nat) (t : Port) : (s.setPort k t).core j = s.core j := rfl
@[simp] theorem State.cluster_setPort (s : State) (j k : Nat) (t : Port) : (s.setPort k t).cluster j = s.cluster j := rfl
@[simp] theorem State.die_setPort (s : State) (j k : Nat) (t : Port) : (s.setPort k t).die j = s.die j := rfl
@[simp] theorem State.slice_setPort (s : State) (j k : Nat) (t : Port) : (s.setPort k t).slice j = s.slice j := rfl
@[simp] theorem State.link_setPort (s : State) (j k : Nat) (t : Port) : (s.setPort k t).link j = s.link j := rfl
@[simp] theorem State.fn_setPort (s : State) (j k : Nat) (t : Port) : (s.setPort k t).fn j = s.fn j := rfl
@[simp] theorem State.part_setPort (s : State) (j k : Nat) (t : Port) : (s.setPort k t).part j = s.part j := rfl
@[simp] theorem State.hostLink_setPort (s : State) (j k : Nat) (t : Port) : (s.setPort k t).hostLink j = s.hostLink j := rfl
@[simp] theorem State.port_ran (s : State) (k : Nat) : s.ran.port k = s.port k := rfl
@[simp] theorem State.port_waits (s : State) (k : Nat) : s.waits.port k = s.port k := rfl
@[simp] theorem State.port_fresh (s : State) (k : Nat) : s.fresh.port k = s.port k := rfl

@[simp] theorem State.hostLink_setHostLink (s : State) (k : Nat) (t : HostLink) : (s.setHostLink k t).hostLink k = t := get_put _ _ _ _
theorem State.hostLink_setHostLink_ne (s : State) (j k : Nat) (t : HostLink) (h : j ≠ k) : (s.setHostLink k t).hostLink j = s.hostLink j :=
  get_put_ne _ _ _ _ _ h
@[simp] theorem State.strand_setHostLink (s : State) (j k : Nat) (t : HostLink) : (s.setHostLink k t).strand j = s.strand j := rfl
@[simp] theorem State.core_setHostLink (s : State) (j k : Nat) (t : HostLink) : (s.setHostLink k t).core j = s.core j := rfl
@[simp] theorem State.cluster_setHostLink (s : State) (j k : Nat) (t : HostLink) : (s.setHostLink k t).cluster j = s.cluster j := rfl
@[simp] theorem State.die_setHostLink (s : State) (j k : Nat) (t : HostLink) : (s.setHostLink k t).die j = s.die j := rfl
@[simp] theorem State.slice_setHostLink (s : State) (j k : Nat) (t : HostLink) : (s.setHostLink k t).slice j = s.slice j := rfl
@[simp] theorem State.link_setHostLink (s : State) (j k : Nat) (t : HostLink) : (s.setHostLink k t).link j = s.link j := rfl
@[simp] theorem State.fn_setHostLink (s : State) (j k : Nat) (t : HostLink) : (s.setHostLink k t).fn j = s.fn j := rfl
@[simp] theorem State.part_setHostLink (s : State) (j k : Nat) (t : HostLink) : (s.setHostLink k t).part j = s.part j := rfl
@[simp] theorem State.port_setHostLink (s : State) (j k : Nat) (t : HostLink) : (s.setHostLink k t).port j = s.port j := rfl
@[simp] theorem State.hostLink_ran (s : State) (k : Nat) : s.ran.hostLink k = s.hostLink k := rfl
@[simp] theorem State.hostLink_waits (s : State) (k : Nat) : s.waits.hostLink k = s.hostLink k := rfl
@[simp] theorem State.hostLink_fresh (s : State) (k : Nat) : s.fresh.hostLink k = s.hostLink k := rfl

@[simp] theorem State.me_setMe (s : State) (t : Strand) : (s.setMe t).me = t := get_put _ _ _ _
@[simp] theorem State.me_ran (s : State) : s.ran.me = s.me := rfl
@[simp] theorem State.me_waits (s : State) : s.waits.me = s.me := rfl
theorem State.strand_setMe_ne (s : State) (k : Nat) (t : Strand) (h : k ≠ s.here) : (s.setMe t).strand k = s.strand k :=
  get_put_ne _ _ _ _ _ h

/-! A strand that advances. -/

@[simp] theorem Strand.advance_active (t : Strand) (n : Nat) : (t.advance n).active = t.active := rfl
@[simp] theorem Strand.advance_pc (t : Strand) (n : Nat) : (t.advance n).pc = t.pc + BitVec.ofNat 64 n := rfl
@[simp] theorem Strand.advance_hdr (t : Strand) (n : Nat) : (t.advance n).hdr = t.hdr := rfl
@[simp] theorem Strand.advance_hword (t : Strand) (n : Nat) : (t.advance n).hword = t.hword := rfl
@[simp] theorem Strand.advance_way (t : Strand) (n : Nat) : (t.advance n).way = t.way := rfl
@[simp] theorem Strand.advance_x (t : Strand) (n : Nat) : (t.advance n).x = t.x := rfl
@[simp] theorem Strand.advance_v (t : Strand) (n : Nat) : (t.advance n).v = t.v := rfl
@[simp] theorem Strand.advance_m (t : Strand) (n : Nat) : (t.advance n).m = t.m := rfl
@[simp] theorem Strand.advance_n (t : Strand) (n : Nat) : (t.advance n).n = t.n := rfl
@[simp] theorem Strand.advance_emptyX (t : Strand) (n : Nat) : (t.advance n).emptyX = t.emptyX := rfl
@[simp] theorem Strand.advance_pendX (t : Strand) (n : Nat) : (t.advance n).pendX = t.pendX := rfl
@[simp] theorem Strand.advance_emptyV (t : Strand) (n : Nat) : (t.advance n).emptyV = t.emptyV := rfl
@[simp] theorem Strand.advance_pendV (t : Strand) (n : Nat) : (t.advance n).pendV = t.pendV := rfl
@[simp] theorem Strand.advance_wid (t : Strand) (n : Nat) : (t.advance n).wid = t.wid := rfl
@[simp] theorem Strand.advance_fflags (t : Strand) (n : Nat) : (t.advance n).fflags = t.fflags := rfl
@[simp] theorem Strand.advance_frm (t : Strand) (n : Nat) : (t.advance n).frm = t.frm := rfl
@[simp] theorem Strand.advance_enable (t : Strand) (n : Nat) : (t.advance n).enable = t.enable := rfl
@[simp] theorem Strand.advance_region (t : Strand) (n : Nat) : (t.advance n).region = t.region := rfl
@[simp] theorem Strand.advance_jl (t : Strand) (n : Nat) : (t.advance n).jl = t.jl := rfl
@[simp] theorem Strand.advance_tm (t : Strand) (n : Nat) : (t.advance n).tm = t.tm := rfl
@[simp] theorem Strand.advance_lp (t : Strand) (n : Nat) : (t.advance n).lp = t.lp := rfl
@[simp] theorem Strand.advance_cls (t : Strand) (n : Nat) : (t.advance n).cls = t.cls := rfl
@[simp] theorem Strand.advance_prio (t : Strand) (n : Nat) : (t.advance n).prio = t.prio := rfl
@[simp] theorem Strand.advance_type (t : Strand) (n : Nat) : (t.advance n).type = t.type := rfl
@[simp] theorem Strand.advance_ctx (t : Strand) (n : Nat) : (t.advance n).ctx = t.ctx := rfl
@[simp] theorem Strand.advance_launch (t : Strand) (n : Nat) : (t.advance n).launch = t.launch := rfl
@[simp] theorem Strand.advance_func (t : Strand) (n : Nat) : (t.advance n).func = t.func := rfl
@[simp] theorem Strand.advance_queue (t : Strand) (n : Nat) : (t.advance n).queue = t.queue := rfl
@[simp] theorem Strand.advance_edge (t : Strand) (n : Nat) : (t.advance n).edge = t.edge := rfl
@[simp] theorem Strand.advance_wait (t : Strand) (n : Nat) : (t.advance n).wait = t.wait := rfl
@[simp] theorem Strand.advance_trap (t : Strand) (n : Nat) : (t.advance n).trap = t.trap := rfl
@[simp] theorem Strand.advance_walk (t : Strand) (n : Nat) : (t.advance n).walk = none := rfl
@[simp] theorem Strand.advance_bound (t : Strand) (n : Nat) : (t.advance n).bound = t.bound := rfl
@[simp] theorem Strand.advance_caller (t : Strand) (n : Nat) : (t.advance n).caller = t.caller := rfl
@[simp] theorem Strand.advance_p0 (t : Strand) (n : Nat) : (t.advance n).p0 = t.p0 := rfl
@[simp] theorem Strand.advance_reload (t : Strand) (n : Nat) : (t.advance n).reload = t.reload := rfl

end Sys2Proof.Machine
end

