-- ==== Sys2Proof/Laws/Ops.lean ====
section
/-! SUPPORT. Issuing an instruction, taking its trap and ending an event: everything that each can answer. -/

namespace Sys2Proof.Machine

@[simp] theorem out_done (s t : State) (i : Instr) : (Res.done t).out s i = .next t.ran := rfl
@[simp] theorem out_hold (s : State) (i : Instr) : Res.hold.out s i = .next s.waits := rfl
@[simp] theorem out_walk (s : State) (i : Instr) (va : Word) (w x : Bool) :
    (Res.walk va w x).out s i = .next (s.setMe (s.me.startWalk va w x)).waits := rfl
@[simp] theorem event_some (s t : State) : event s (some t) = .next t.ran := rfl
@[simp] theorem event_none (s : State) : event s none = .next s.waits := rfl

/-- An event answers a next state: what it did, or the state as it was, held. -/
theorem event_next {s t : State} {o : Option State} (h : event s o = .next t) :
    (∃ s', o = some s' ∧ t = s'.ran) ∨ (o = none ∧ t = s.waits) := by
  cases o with
  | none => exact .inr ⟨rfl, by simpa using h.symm⟩
  | some s' => exact .inl ⟨s', rfl, by simpa using h.symm⟩

/-- Where the registers let an instruction issue, its own part decides (R131). -/
theorem issued {s : State} {ops : List Opnd} (h : s.Issues ops) (i : Instr) (f : Strand → Res) :
    issue i ops f s = (f s.me).out s i := by
  simp [issue, h.1, h.2]

theorem issuedReg {s : State} {ops : List Opnd} (h : s.Issues ops) (i : Instr) (g : Strand → Strand) :
    issueReg i ops g s = .next (s.after (g s.me) 4) := by
  simp [issueReg, issued h, State.after]

/-- Everything an issue can answer: the instruction's effect, a hold, the walk that it waits for, or its trap. -/
theorem out_next {r : Res} {s t : State} {i : Instr} (h : r.out s i = .next t) :
    (∃ s', r = .done s' ∧ t = s'.ran) ∨ t = s.waits ∨ (∃ va w x, r = .walk va w x ∧ t = (s.setMe (s.me.startWalk va w x)).waits) ∨
      ∃ tr a pc fa, r = .trap tr a ∧ t = (s.trapAtIssue s.here tr pc fa (wordOf i)).ran := by
  cases r with
  | done s' => exact .inl ⟨s', rfl, by simpa using h.symm⟩
  | hold => exact .inr (.inl (by simpa using h.symm))
  | walk va w x => exact .inr (.inr (.inl ⟨va, w, x, rfl, by simpa using h.symm⟩))
  | trap tr a =>
    refine .inr (.inr (.inr ⟨tr, a, ?_⟩))
    cases tr <;> exact ⟨_, _, rfl, by simpa [Res.out] using h.symm⟩

theorem issue_next {i : Instr} {ops : List Opnd} {f : Strand → Res} {s t : State} (h : issue i ops f s = .next t) :
    t = s.waits ∨ (s.me.ready = true ∧ (f s.me).out s i = .next t) ∨
      (s.me.ready = true ∧ s.me.gate ops = .trap ∧ (Res.trap .empty 0).out s i = .next t) := by
  unfold issue at h
  cases hr : s.me.ready with
  | false => exact .inl (by simpa [hr] using h.symm)
  | true =>
    simp only [hr] at h
    cases hg : s.me.gate ops <;> simp only [hg] at h
    · exact .inr (.inl ⟨rfl, h⟩)
    · exact .inl (by simpa using h.symm)
    · exact .inr (.inr ⟨rfl, rfl, h⟩)

/-- A trap at issue that can be taken is taken (R344). -/
theorem trapAtIssue_taken {s s' : State} {k : Nat} {t : Trap} {pc fa : Word} {w : BitVec 32}
    (hq : (s.strand k).queue = []) (hs : s.takeTrap k t pc fa w = some s') : s.trapAtIssue k t pc fa w = s' := by
  simp [State.trapAtIssue, hq, hs]

/-- One that cannot be taken stays with its strand (R344). -/
theorem trapAtIssue_latched {s : State} {k : Nat} {t : Trap} {pc fa : Word} {w : BitVec 32}
    (h : (s.strand k).queue ≠ [] ∨ s.takeTrap k t pc fa w = none) :
    s.trapAtIssue k t pc fa w = s.latchTrap k ⟨t, pc, fa, w⟩ := by
  rcases h with h | h <;> simp [State.trapAtIssue, h]

/-- A BLOCK_FRAMING trap names the header in PC (R269). -/
theorem takesFraming {s : State} {ops : List Opnd} (h : s.Issues ops) {i : Instr} {f : Strand → Res} {a : Word}
    (he : exec i s = issue i ops f s) (hf : f s.me = .trap .framing a) : s.TakesTrap i .framing a := by
  have ho : exec i s = .next (s.trapAtIssue s.here .framing a 0 (wordOf i)).ran := by
    rw [he, issued h, hf]
    rfl
  exact ⟨fun hq s' hs => by rw [ho, trapAtIssue_taken hq hs], fun hq => by rw [ho, trapAtIssue_latched hq]⟩

/-- Any other trap names the instruction (R344). -/
theorem takesTrap {s : State} {ops : List Opnd} (h : s.Issues ops) {i : Instr} {f : Strand → Res} {t : Trap}
    (he : exec i s = issue i ops f s) (ht : t ≠ .framing) (hf : f s.me = .trap t 0) : s.TakesTrap i t s.me.pc := by
  have ho : exec i s = .next (s.trapAtIssue s.here t s.me.pc 0 (wordOf i)).ran := by
    rw [he, issued h, hf]
    cases t <;> first | exact absurd rfl ht | simp only [Res.out]
  exact ⟨fun hq s' hs => by rw [ho, trapAtIssue_taken hq hs], fun hq => by rw [ho, trapAtIssue_latched hq]⟩

/-- A trap for the launch's handler: it ends the launch, or it moves the context out (R343 to R348). -/
theorem toHandler_some {s s' : State} {k : Nat} {t : Trap} {pc fa : Word} {w : BitVec 32}
    (h : s.toHandler k t pc fa w = some s') :
    s' = (s.endLaunch (s.strand k).launch 7).endStrand k ∨
      ∃ s1, s.swapOut k .bound (s.headerOf k t.code t.detail pc fa w) = some s1 := by
  simp only [State.toHandler] at h
  split at h
  · exact .inl (by simpa using h.symm)
  · right
    by_cases h4 : slotIdx k = 4
    · rw [if_pos h4, Option.map_eq_some_iff] at h
      obtain ⟨s1, h1, -⟩ := h
      exact ⟨s1, h1⟩
    · rw [if_neg h4, Option.map_eq_some_iff] at h
      obtain ⟨s1, h1, -⟩ := h
      exact ⟨s1, h1⟩

/-! The homes of lines change no position: what writes memory and moves copies leaves `here` as it is. -/

theorem foldl_here {α : Type} {f : State → α → State} (hf : ∀ s x, (f s x).here = s.here) (l : List α) (s : State) :
    (l.foldl f s).here = s.here := by
  induction l generalizing s with
  | nil => rfl
  | cons x r ih => rw [List.foldl_cons, ih, hf]

@[simp] theorem writeMem_here (s : State) (a v n : Nat) : (s.writeMem a v n).here = s.here := by
  unfold State.writeMem; split <;> rfl

@[simp] theorem mergeLine_here (s : State) (l : Nat) (d : Line) (m : ByteMask) : (s.mergeLine l d m).here = s.here := rfl

@[simp] theorem refreshCopies_here (s : State) (l : Nat) : (s.refreshCopies l).here = s.here :=
  foldl_here (fun s d => by split <;> rfl) ..

@[simp] theorem hostFlushLine_here (s : State) (l : Nat) : (s.hostFlushLine l).here = s.here :=
  foldl_here (fun s p => by
    simp only []
    split
    · rfl
    · rw [foldl_here fun s it => by unfold State.hostWrite; split <;> simp [State.hostDone, State.mergeLine]]
      rfl) ..

@[simp] theorem releaseHeld_here (s : State) (k l : Nat) : (s.releaseHeld k l).here = s.here := by
  simp only [State.releaseHeld]
  split
  · rfl
  · rw [foldl_here fun s it => by split <;> rfl]
    rfl

@[simp] theorem pullHost_here (s : State) (l : Nat) (d : Bool) : (s.pullHost l d).here = s.here := by
  have h : ∀ (c : List HostCopy) (s : State), (c.foldl (fun s c =>
      if c.dirty then s.mergeLine l c.data (BitVec.allOnes 128) else s) s).here = s.here :=
    foldl_here fun s c => by rw [apply_ite State.here, mergeLine_here, ite_self]
  unfold State.pullHost
  simp only []
  split
  · split
    · exact h ..
    · exact (releaseHeld_here ..).trans (h ..)
  · split
    · exact h ..
    · exact h ..

@[simp] theorem hwWrite_here (s : State) (a v n : Nat) : (s.hwWrite a v n).here = s.here := by
  simp only [State.hwWrite]
  split
  · simp
  · split <;> simp

@[simp] theorem error_here (s : State) (k v d f c a x : Nat) : (s.error k v d f c a x).here = s.here := by
  simp only [State.error]
  generalize (if k = 8 then { s.er with exh := true } else s.er) = e
  split
  · rfl
  · split <;> simp

@[simp] theorem serveSnoop_here (s : State) (p : Nat) (e : FilterEntry) (d : Bool) : (s.serveSnoop p e d).here = s.here := by
  have h : ∀ (s : State) l m, (s.snoopMask l m d).here = s.here := fun s l m =>
    foldl_here (fun s x => by
      split
      · unfold State.snoopDie; split
        · rfl
        · simp only []; split <;> simp [State.mergeLine]
      · rfl) ..
  have hp : ∀ (s : State) l x q, (s.snoopPoison l x q).here = s.here := fun s l x q => by
    simp only [State.snoopPoison, error_here, State.poisonLine]
    split <;> simp
  simp only [State.serveSnoop]
  split <;> simp [h, hp]

@[simp] theorem writeSys_here (s : State) (a v n : Nat) : (s.writeSys a v n).here = s.here := by
  have h : ∀ (s : State) l w, (s.hostOwns l w).here = s.here := fun s l w => by
    simp only [State.hostOwns]
    split
    · split <;> simp
    · simp
  simp only [State.writeSys, State.claimLine]
  split
  · split <;> simp [h]
  · simp

/-- Writing a counter changes no position (R197). -/
@[simp] theorem setCtr_here (s : State) (l : Option Nat) (c : BitVec 24) (j : JoinCounter) : (s.setCtr l c j).here = s.here := by
  have hs : ∀ (s : State) k x, (s.setClusterOf l k x).here = s.here := by
    intro s k x; simp only [State.setClusterOf]; split <;> rfl
  simp only [State.setCtr, State.spillWrite]
  split
  · split
    · split <;> simp [hs]
    · exact hs ..
  · exact hs ..

/-! Messages of the hardware between dies (R343, R362, R387). -/

/-- No message of a die to itself crosses a link. -/
@[simp] theorem way_self (s : State) (a : Nat) : s.way a a = .clear := by simp [State.way, pathLinks]

/-- Everything that a message of the hardware can come to, by its way. -/
theorem across_eq (s : State) (a b : Nat) (ln : Option Nat) (arrive lose : Unit → Option State) :
    s.across a b ln arrive lose = match s.way a b with
      | .clear => arrive ()
      | .held => if (s.wakeLinks (pathLinks a b 8)).links = s.links then none else some (s.wakeLinks (pathLinks a b 8))
      | .lost l => (lose ()).map fun s => s.error 25 2 (l / 8 % 8) (s.funcOf ln) 1 0 l := rfl

theorem across_clear {s : State} {a b : Nat} {ln : Option Nat} {arrive lose : Unit → Option State} (h : s.way a b = .clear) :
    s.across a b ln arrive lose = arrive () := by rw [across_eq, h]

/-! The sets of a die's L2 (R45). -/

/-- Filter entries change, and with them none of memory, host copies, poison and slices. -/
theorem untrack_keeps (s : State) (l : Option Nat) (g : BitVec 8) :
    (s.untrack l g).mem = s.mem ∧ (s.untrack l g).copies = s.copies ∧ (s.untrack l g).poison = s.poison ∧
      (s.untrack l g).slices = s.slices := by
  simp [State.untrack]

theorem l2Evict_keeps (s : State) (d l : Nat) :
    (s.l2Evict d l).mem = s.mem ∧ (s.l2Evict d l).copies = s.copies ∧ (s.l2Evict d l).poison = s.poison ∧
      (s.l2Evict d l).slices = s.slices := by
  unfold State.l2Evict
  split
  · exact ⟨rfl, rfl, rfl, rfl⟩
  · have h := fun (x : State) => untrack_keeps x (some l) (1#8 <<< d)
    simp only [h]
    split <;> exact ⟨rfl, rfl, rfl, rfl⟩

/-- A die's L2 takes a line and gives up another one: memory, host copies, poison and slices stay as they are. -/
theorem l2Touch_keeps (s : State) (d l : Nat) :
    (s.l2Touch d l).mem = s.mem ∧ (s.l2Touch d l).copies = s.copies ∧ (s.l2Touch d l).poison = s.poison ∧
      (s.l2Touch d l).slices = s.slices := by
  unfold State.l2Touch
  simp only []
  split
  · exact ⟨rfl, rfl, rfl, rfl⟩
  · exact l2Evict_keeps ..

end Sys2Proof.Machine
end

