-- ==== Sys2Proof/Laws/Access.lean ====
section
/-! SUPPORT. Accesses: an instruction that reaches its place takes an entry and is made on its line. -/

namespace Sys2Proof.Machine

/-- What an instruction of `memoryForm` does where its registers let it issue. -/
theorem form_exec {i : Instr} {s : State} {ops o c u} (h : memoryForm s.me i = some (ops, o, c, u)) (hi : s.Issues ops) :
    exec i s = (issueMem s i o c u).out s i := by
  unfold memoryForm at h
  split at h <;> simp only [Option.some.injEq, Prod.mk.injEq, reduceCtorEq] at h
  all_goals obtain ⟨rfl, rfl, rfl, rfl⟩ := h
  case h_13 =>
    rename_i op ty d a b
    simp only [exec, execFamo, issued hi]
    cases op <;> cases hh : frmMode s.me.frm <;> simp
  all_goals
    simp only [exec, execLd, execLdg, execLdv, execSt, execSts, execStv, execPf, execFlush, execInvl, execAmo, execRed, execCas, execFredMinmax, execGet, execPut, execPutf, memLoad, memStore, atomic, putTo, issued hi]

/-- The strand after its access took a replay-queue entry. -/
theorem enter_strand (s : State) (i : Instr) (o : MemOp) (c : Cap) (u : Strand) :
    (s.enter i o c .flight u).strand s.here =
      (o.pend { u with queue := u.queue ++ [c.entry i u s.serial .flight] }).advance 4 := by
  simp [State.enter, isFaulted, State.setMe, State.setStrand, State.strand, get_put]

@[simp] theorem enter_cluster (s : State) (i : Instr) (o : MemOp) (c : Cap) (u : Strand) (k : Nat) :
    (s.enter i o c .flight u).cluster k = s.cluster k := rfl

@[simp] theorem enter_core (s : State) (i : Instr) (o : MemOp) (c : Cap) (u : Strand) (k : Nat) :
    (s.enter i o c .flight u).core k = s.core k := rfl

@[simp] theorem enter_portOps (s : State) (i : Instr) (o : MemOp) (c : Cap) (u : Strand) (ctx k : Nat) :
    (s.enter i o c .flight u).portOps ctx k = s.portOps ctx k := rfl

@[simp] theorem enter_here (s : State) (i : Instr) (o : MemOp) (c : Cap) (u : Strand) :
    (s.enter i o c .flight u).here = s.here := rfl

theorem pend_ctx (o : MemOp) (t : Strand) : (o.pend t).ctx = t.ctx ∧ (o.pend t).func = t.func ∧ (o.pend t).n = t.n ∧ (o.pend t).launch = t.launch ∧ (o.pend t).active = t.active := by
  unfold MemOp.pend
  split <;> simp [Strand.pendDestX, Strand.pendDestV] <;> (split <;> simp)

/-- What the entry leaves of the strand. -/
theorem enter_ctx (s : State) (i : Instr) (o : MemOp) (c : Cap) (u : Strand) :
    let v := (s.enter i o c .flight u).strand s.here
    v.ctx = u.ctx ∧ v.func = u.func ∧ v.n = u.n ∧ v.launch = u.launch ∧ v.walk = none := by
  have h := pend_ctx o { u with queue := u.queue ++ [c.entry i u s.serial .flight] }
  simp only [enter_strand, Strand.advance]
  simp_all

/-- The strand with what the issue changes keeps its context, function, bindings and launch. -/
theorem form_same {t : Strand} {i : Instr} {ops o c u} (h : memoryForm t i = some (ops, o, c, u)) :
    u.ctx = t.ctx ∧ u.func = t.func ∧ u.n = t.n ∧ u.launch = t.launch := by
  unfold memoryForm at h
  split at h <;> simp only [Option.some.injEq, Prod.mk.injEq, reduceCtorEq] at h
  all_goals obtain ⟨rfl, rfl, rfl, rfl⟩ := h
  all_goals first | simp | (split <;> simp)

/-- The entry does not change who accesses. -/
theorem enter_who {s : State} {i : Instr} {o : MemOp} {c : Cap} {u : Strand} (h : u.ctx = s.me.ctx) (h2 : u.func = s.me.func) :
    (s.enter i o c .flight u).whoAt s.here = s.whoAt s.here := by
  have e := enter_ctx s i o c u
  simp only [State.whoAt]
  simp_all [State.me]

theorem page_region (k : Core) (a : Nat) : k.region (a / 16384 * 16384) = k.region a := by
  have : a / 16384 * 16384 / 16384 = a / 16384 := by omega
  simp [Core.region, this]

/-- The access is made at one address through the line that holds it. -/
def plainForm : MemOp → Prop
  | .accz | .accrd _ | .acccvt .. | .ldp .. => False
  | _ => True

/-- A remote operation names no CLUSTER range (R188). -/
def scopeOk (s : State) (c : Cap) : MemOp → Prop
  | .get .. | .put .. => ((s.core (slotCore s.here)).region c.addr.toNat).map rgnDom ≠ some .cluster
  | _ => True

/-- An access that reaches its place is made on the line there. -/
theorem access_line {s : State} {i : Instr} {o : MemOp} {c : Cap} {u : Strand} {p : Place}
    (h1 : u.func = s.me.func) (hr : s.Reaches o c p) (ho : plainForm o) (hs : scopeOk s c o) :
    access (s.enter i o c .flight u) s.here o c s.serial [] true =
      lineAccess (s.enter i o c .flight u) s.here o c s.serial p := by
  obtain ⟨hw, hk, ha, hp, hro, -, -, -⟩ := hr
  have he := enter_ctx s i o c u
  generalize hs1 : s.enter i o c .flight u = s1 at *
  have hc : ∀ k, s1.core k = s.core k := by intro k; rw [← hs1]; rfl
  simp only [State.spot] at hp
  cases hx : xlatFind (s.core (slotCore s.here)).utlb s.me.func (c.addr.toNat / 16384 * 16384) with
  | none => simp [hx] at hp
  | some x =>
    rw [hx] at hp
    have hwx : (o.writes && !x.w) = false := by
      cases h : (o.writes && !x.w) <;> simp_all
    simp only [hwx, Bool.false_eq_true, if_false, Option.some.injEq] at hp
    have hx1 : xlatFind (s1.core (slotCore s.here)).utlb (s1.strand s.here).func (c.addr.toNat / 16384 * 16384) = some x := by
      rw [hc, he.2.1, h1, hx]
    have hl : s1.resolve (s1.strand s.here) (slotCore s.here) [] o.writes [c.addr.toNat / 16384] =
        .ok [(c.addr.toNat / 16384, s.placeBy (slotCore s.here) x (c.addr.toNat / 16384 * 16384))] := by
      have hn : xlatFind [] (s1.strand s.here).func (c.addr.toNat / 16384 * 16384) = none := rfl
      have hlk : s1.lookup (s1.strand s.here) (slotCore s.here) (c.addr.toNat / 16384 * 16384) = some x := by
        simp only [State.lookup, he.2.2.2.2, Option.bind_none, hx1]
      simp only [State.resolve, hn, hlk, hwx, Bool.false_eq_true, if_false, State.placeBy, hc]
    have hps : spotOf [(c.addr.toNat / 16384, s.placeBy (slotCore s.here) x (c.addr.toNat / 16384 * 16384))] c.addr.toNat = some p := by
      rw [← hp]; simp [spotOf]
    have hpr : (o.writes && anyRo [(s1.core (slotCore s.here)).region c.addr.toNat]) = false := by
      cases hwr : o.writes with
      | false => rfl
      | true =>
        have h2 := hro hwr
        rw [← hp] at h2
        simp only [State.placeBy, page_region] at h2
        simp only [hc]
        cases hg : (s.core (slotCore s.here)).region c.addr.toNat with
        | none => rfl
        | some e => rw [hg] at h2; simpa [anyRo, placeOf] using h2
    have hal : ¬ (o.bytes ≠ 0 ∧ c.addr.toNat % o.bytes ≠ 0) := by
      intro ⟨h, h'⟩; exact h' (ha h)
    have hsg : (∃ z d, o = .get z d) ∨ (∃ z b, o = .put z b) →
        (((s1.core (slotCore s.here)).region c.addr.toNat).map fun g => rgnDom g == .cluster).getD false = false := by
      rw [hc]
      rintro (⟨z, d, rfl⟩ | ⟨z, b, rfl⟩) <;> simp only [scopeOk] at hs
      all_goals (cases hr : (s.core (slotCore s.here)).region c.addr.toNat <;> simp_all)
    clear hs1 he hx1 hro ha hp
    unfold access
    cases o <;> first | (exfalso; exact ho) | skip
    all_goals dsimp only []
    all_goals rw [if_neg hal]
    all_goals simp only [hk]
    case get => simp only [hsg (.inl ⟨_, _, rfl⟩), Bool.false_eq_true, if_false, hpr, hl, hps]
    case put => simp only [hsg (.inr ⟨_, _, rfl⟩), Bool.false_eq_true, if_false, hpr, hl, hps]
    all_goals simp only [Bool.false_eq_true, if_false, hpr, hl, hps]

theorem form_plain {t : Strand} {i : Instr} {ops : List Opnd} {o : MemOp} {c : Cap} {u : Strand}
    (hf : memoryForm t i = some (ops, o, c, u)) : plainForm o := by
  unfold memoryForm at hf
  split at hf <;> simp only [Option.some.injEq, Prod.mk.injEq, reduceCtorEq] at hf
  all_goals (obtain ⟨rfl, rfl, rfl, rfl⟩ := hf; trivial)

/-- Such an access takes nothing of the format context (R246 to R248). -/
theorem form_cap {s : State} {t : Strand} {i : Instr} {ops : List Opnd} {o : MemOp} {c : Cap} {u : Strand}
    (hf : memoryForm t i = some (ops, o, c, u)) (k : Nat) : ({ c with acc := s.accCap k o c } : Cap) = c := by
  have ho := form_plain hf
  have hc : c.acc = {} := by
    unfold memoryForm at hf
    split at hf <;> simp only [Option.some.injEq, Prod.mk.injEq, reduceCtorEq] at hf
    all_goals (obtain ⟨rfl, rfl, rfl, rfl⟩ := hf; rfl)
  have ha : s.accCap k o c = c.acc := by
    rw [hc]
    cases o <;> first | rfl | exact ho.elim
  rw [ha]

/-- An instruction whose access is made on its line completes with it. -/
theorem issue_line {s : State} {i : Instr} {ops : List Opnd} {o : MemOp} {c : Cap} {u : Strand} {p : Place}
    (hf : memoryForm s.me i = some (ops, o, c, u)) (hi : s.Issues ops) (hr : s.Reaches o c p) (hs : scopeOk s c o)
    {s2 : State} (hl : lineAccess (s.enter i o c .flight u) s.here o c s.serial p = .done s2) :
    exec i s = .next s2.ran := by
  rw [form_exec hf hi]
  have := access_line (i := i) (form_same hf).2.1 hr (form_plain hf) hs
  simp only [issueMem, hr.1, Bool.false_eq_true, if_false, form_cap hf, this, hl]
  rfl

end Sys2Proof.Machine
end

