-- ==== Sys2Proof/Laws/Decode.lean ====
section
/-! SUPPORT. The fields of a word laid out by a format read back as they were (R132). -/

namespace Sys2Proof

@[simp] theorem Format.A.major_word (o : BitVec 6) (f : Format.A) : major (f.word o) = o := by
  apply BitVec.eq_of_getLsbD_eq
  intro i hi
  simp only [major, Format.A.word, BitVec.getLsbD_extractLsb', BitVec.getLsbD_append]
  interval_cases i <;> simp

theorem Format.A.word_d (o : BitVec 6) (f : Format.A) :
    (f.word o).extractLsb' 21 5 = f.d := by
  apply BitVec.eq_of_getLsbD_eq
  intro i hi
  simp only [Format.A.word, BitVec.getLsbD_extractLsb', BitVec.getLsbD_append]
  interval_cases i <;> simp

theorem Format.A.word_a (o : BitVec 6) (f : Format.A) :
    (f.word o).extractLsb' 16 5 = f.a := by
  apply BitVec.eq_of_getLsbD_eq
  intro i hi
  simp only [Format.A.word, BitVec.getLsbD_extractLsb', BitVec.getLsbD_append]
  interval_cases i <;> simp

theorem Format.A.word_ta (o : BitVec 6) (f : Format.A) :
    (f.word o).extractLsb' 15 1 = f.ta := by
  apply BitVec.eq_of_getLsbD_eq
  intro i hi
  simp only [Format.A.word, BitVec.getLsbD_extractLsb', BitVec.getLsbD_append]
  interval_cases i <;> simp

theorem Format.A.word_b (o : BitVec 6) (f : Format.A) :
    (f.word o).extractLsb' 10 5 = f.b := by
  apply BitVec.eq_of_getLsbD_eq
  intro i hi
  simp only [Format.A.word, BitVec.getLsbD_extractLsb', BitVec.getLsbD_append]
  interval_cases i <;> simp

theorem Format.A.word_tb (o : BitVec 6) (f : Format.A) :
    (f.word o).extractLsb' 9 1 = f.tb := by
  apply BitVec.eq_of_getLsbD_eq
  intro i hi
  simp only [Format.A.word, BitVec.getLsbD_extractLsb', BitVec.getLsbD_append]
  interval_cases i <;> simp

theorem Format.A.word_func (o : BitVec 6) (f : Format.A) :
    (f.word o).extractLsb' 0 9 = f.func := by
  apply BitVec.eq_of_getLsbD_eq
  intro i hi
  simp only [Format.A.word, BitVec.getLsbD_extractLsb', BitVec.getLsbD_append]
  interval_cases i <;> simp

@[simp] theorem Format.A.of_word (o : BitVec 6) (f : Format.A) : Format.A.of (f.word o) = f := by
  simp only [Format.A.of, Format.A.word_d, Format.A.word_a, Format.A.word_ta, Format.A.word_b, Format.A.word_tb, Format.A.word_func]

@[simp] theorem Format.I.major_word (o : BitVec 6) (f : Format.I) : major (f.word o) = o := by
  apply BitVec.eq_of_getLsbD_eq
  intro i hi
  simp only [major, Format.I.word, BitVec.getLsbD_extractLsb', BitVec.getLsbD_append]
  interval_cases i <;> simp

theorem Format.I.word_d (o : BitVec 6) (f : Format.I) :
    (f.word o).extractLsb' 21 5 = f.d := by
  apply BitVec.eq_of_getLsbD_eq
  intro i hi
  simp only [Format.I.word, BitVec.getLsbD_extractLsb', BitVec.getLsbD_append]
  interval_cases i <;> simp

theorem Format.I.word_a (o : BitVec 6) (f : Format.I) :
    (f.word o).extractLsb' 16 5 = f.a := by
  apply BitVec.eq_of_getLsbD_eq
  intro i hi
  simp only [Format.I.word, BitVec.getLsbD_extractLsb', BitVec.getLsbD_append]
  interval_cases i <;> simp

theorem Format.I.word_ta (o : BitVec 6) (f : Format.I) :
    (f.word o).extractLsb' 15 1 = f.ta := by
  apply BitVec.eq_of_getLsbD_eq
  intro i hi
  simp only [Format.I.word, BitVec.getLsbD_extractLsb', BitVec.getLsbD_append]
  interval_cases i <;> simp

theorem Format.I.word_imm (o : BitVec 6) (f : Format.I) :
    (f.word o).extractLsb' 0 15 = f.imm := by
  apply BitVec.eq_of_getLsbD_eq
  intro i hi
  simp only [Format.I.word, BitVec.getLsbD_extractLsb', BitVec.getLsbD_append]
  interval_cases i <;> simp

@[simp] theorem Format.I.of_word (o : BitVec 6) (f : Format.I) : Format.I.of (f.word o) = f := by
  simp only [Format.I.of, Format.I.word_d, Format.I.word_a, Format.I.word_ta, Format.I.word_imm]

@[simp] theorem Format.M.major_word (o : BitVec 6) (f : Format.M) : major (f.word o) = o := by
  apply BitVec.eq_of_getLsbD_eq
  intro i hi
  simp only [major, Format.M.word, BitVec.getLsbD_extractLsb', BitVec.getLsbD_append]
  interval_cases i <;> simp

theorem Format.M.word_d (o : BitVec 6) (f : Format.M) :
    (f.word o).extractLsb' 21 5 = f.d := by
  apply BitVec.eq_of_getLsbD_eq
  intro i hi
  simp only [Format.M.word, BitVec.getLsbD_extractLsb', BitVec.getLsbD_append]
  interval_cases i <;> simp

theorem Format.M.word_a (o : BitVec 6) (f : Format.M) :
    (f.word o).extractLsb' 16 5 = f.a := by
  apply BitVec.eq_of_getLsbD_eq
  intro i hi
  simp only [Format.M.word, BitVec.getLsbD_extractLsb', BitVec.getLsbD_append]
  interval_cases i <;> simp

theorem Format.M.word_ta (o : BitVec 6) (f : Format.M) :
    (f.word o).extractLsb' 15 1 = f.ta := by
  apply BitVec.eq_of_getLsbD_eq
  intro i hi
  simp only [Format.M.word, BitVec.getLsbD_extractLsb', BitVec.getLsbD_append]
  interval_cases i <;> simp

theorem Format.M.word_sz (o : BitVec 6) (f : Format.M) :
    (f.word o).extractLsb' 12 3 = f.sz := by
  apply BitVec.eq_of_getLsbD_eq
  intro i hi
  simp only [Format.M.word, BitVec.getLsbD_extractLsb', BitVec.getLsbD_append]
  interval_cases i <;> simp

theorem Format.M.word_off (o : BitVec 6) (f : Format.M) :
    (f.word o).extractLsb' 0 12 = f.off := by
  apply BitVec.eq_of_getLsbD_eq
  intro i hi
  simp only [Format.M.word, BitVec.getLsbD_extractLsb', BitVec.getLsbD_append]
  interval_cases i <;> simp

@[simp] theorem Format.M.of_word (o : BitVec 6) (f : Format.M) : Format.M.of (f.word o) = f := by
  simp only [Format.M.of, Format.M.word_d, Format.M.word_a, Format.M.word_ta, Format.M.word_sz, Format.M.word_off]

@[simp] theorem Format.B.major_word (o : BitVec 6) (f : Format.B) : major (f.word o) = o := by
  apply BitVec.eq_of_getLsbD_eq
  intro i hi
  simp only [major, Format.B.word, BitVec.getLsbD_extractLsb', BitVec.getLsbD_append]
  interval_cases i <;> simp

theorem Format.B.word_cond (o : BitVec 6) (f : Format.B) :
    (f.word o).extractLsb' 22 4 = f.cond := by
  apply BitVec.eq_of_getLsbD_eq
  intro i hi
  simp only [Format.B.word, BitVec.getLsbD_extractLsb', BitVec.getLsbD_append]
  interval_cases i <;> simp

theorem Format.B.word_a (o : BitVec 6) (f : Format.B) :
    (f.word o).extractLsb' 17 5 = f.a := by
  apply BitVec.eq_of_getLsbD_eq
  intro i hi
  simp only [Format.B.word, BitVec.getLsbD_extractLsb', BitVec.getLsbD_append]
  interval_cases i <;> simp

theorem Format.B.word_b (o : BitVec 6) (f : Format.B) :
    (f.word o).extractLsb' 12 5 = f.b := by
  apply BitVec.eq_of_getLsbD_eq
  intro i hi
  simp only [Format.B.word, BitVec.getLsbD_extractLsb', BitVec.getLsbD_append]
  interval_cases i <;> simp

theorem Format.B.word_disp (o : BitVec 6) (f : Format.B) :
    (f.word o).extractLsb' 0 12 = f.disp := by
  apply BitVec.eq_of_getLsbD_eq
  intro i hi
  simp only [Format.B.word, BitVec.getLsbD_extractLsb', BitVec.getLsbD_append]
  interval_cases i <;> simp

@[simp] theorem Format.B.of_word (o : BitVec 6) (f : Format.B) : Format.B.of (f.word o) = f := by
  simp only [Format.B.of, Format.B.word_cond, Format.B.word_a, Format.B.word_b, Format.B.word_disp]

@[simp] theorem Format.J.major_word (o : BitVec 6) (f : Format.J) : major (f.word o) = o := by
  apply BitVec.eq_of_getLsbD_eq
  intro i hi
  simp only [major, Format.J.word, BitVec.getLsbD_extractLsb', BitVec.getLsbD_append]
  interval_cases i <;> simp

theorem Format.J.word_disp (o : BitVec 6) (f : Format.J) :
    (f.word o).extractLsb' 0 26 = f.disp := by
  apply BitVec.eq_of_getLsbD_eq
  intro i hi
  simp only [Format.J.word, BitVec.getLsbD_extractLsb', BitVec.getLsbD_append]
  interval_cases i <;> simp

@[simp] theorem Format.J.of_word (o : BitVec 6) (f : Format.J) : Format.J.of (f.word o) = f := by
  simp only [Format.J.of, Format.J.word_disp]

@[simp] theorem Format.V.major_word (o : BitVec 6) (f : Format.V) : major (f.word o) = o := by
  apply BitVec.eq_of_getLsbD_eq
  intro i hi
  simp only [major, Format.V.word, BitVec.getLsbD_extractLsb', BitVec.getLsbD_append]
  interval_cases i <;> simp

theorem Format.V.word_d (o : BitVec 6) (f : Format.V) :
    (f.word o).extractLsb' 21 5 = f.d := by
  apply BitVec.eq_of_getLsbD_eq
  intro i hi
  simp only [Format.V.word, BitVec.getLsbD_extractLsb', BitVec.getLsbD_append]
  interval_cases i <;> simp

theorem Format.V.word_a (o : BitVec 6) (f : Format.V) :
    (f.word o).extractLsb' 16 5 = f.a := by
  apply BitVec.eq_of_getLsbD_eq
  intro i hi
  simp only [Format.V.word, BitVec.getLsbD_extractLsb', BitVec.getLsbD_append]
  interval_cases i <;> simp

theorem Format.V.word_ta (o : BitVec 6) (f : Format.V) :
    (f.word o).extractLsb' 15 1 = f.ta := by
  apply BitVec.eq_of_getLsbD_eq
  intro i hi
  simp only [Format.V.word, BitVec.getLsbD_extractLsb', BitVec.getLsbD_append]
  interval_cases i <;> simp

theorem Format.V.word_b (o : BitVec 6) (f : Format.V) :
    (f.word o).extractLsb' 10 5 = f.b := by
  apply BitVec.eq_of_getLsbD_eq
  intro i hi
  simp only [Format.V.word, BitVec.getLsbD_extractLsb', BitVec.getLsbD_append]
  interval_cases i <;> simp

theorem Format.V.word_tb (o : BitVec 6) (f : Format.V) :
    (f.word o).extractLsb' 9 1 = f.tb := by
  apply BitVec.eq_of_getLsbD_eq
  intro i hi
  simp only [Format.V.word, BitVec.getLsbD_extractLsb', BitVec.getLsbD_append]
  interval_cases i <;> simp

theorem Format.V.word_m (o : BitVec 6) (f : Format.V) :
    (f.word o).extractLsb' 6 3 = f.m := by
  apply BitVec.eq_of_getLsbD_eq
  intro i hi
  simp only [Format.V.word, BitVec.getLsbD_extractLsb', BitVec.getLsbD_append]
  interval_cases i <;> simp

theorem Format.V.word_func (o : BitVec 6) (f : Format.V) :
    (f.word o).extractLsb' 0 6 = f.func := by
  apply BitVec.eq_of_getLsbD_eq
  intro i hi
  simp only [Format.V.word, BitVec.getLsbD_extractLsb', BitVec.getLsbD_append]
  interval_cases i <;> simp

@[simp] theorem Format.V.of_word (o : BitVec 6) (f : Format.V) : Format.V.of (f.word o) = f := by
  simp only [Format.V.of, Format.V.word_d, Format.V.word_a, Format.V.word_ta, Format.V.word_b, Format.V.word_tb, Format.V.word_m, Format.V.word_func]

@[simp] theorem Format.W.major_word (o : BitVec 6) (f : Format.W) : major (f.word o) = o := by
  apply BitVec.eq_of_getLsbD_eq
  intro i hi
  simp only [major, Format.W.word, BitVec.getLsbD_extractLsb', BitVec.getLsbD_append]
  interval_cases i <;> simp

theorem Format.W.word_d (o : BitVec 6) (f : Format.W) :
    (f.word o).extractLsb' 21 5 = f.d := by
  apply BitVec.eq_of_getLsbD_eq
  intro i hi
  simp only [Format.W.word, BitVec.getLsbD_extractLsb', BitVec.getLsbD_append]
  interval_cases i <;> simp

theorem Format.W.word_a (o : BitVec 6) (f : Format.W) :
    (f.word o).extractLsb' 16 5 = f.a := by
  apply BitVec.eq_of_getLsbD_eq
  intro i hi
  simp only [Format.W.word, BitVec.getLsbD_extractLsb', BitVec.getLsbD_append]
  interval_cases i <;> simp

theorem Format.W.word_b (o : BitVec 6) (f : Format.W) :
    (f.word o).extractLsb' 11 5 = f.b := by
  apply BitVec.eq_of_getLsbD_eq
  intro i hi
  simp only [Format.W.word, BitVec.getLsbD_extractLsb', BitVec.getLsbD_append]
  interval_cases i <;> simp

theorem Format.W.word_c (o : BitVec 6) (f : Format.W) :
    (f.word o).extractLsb' 6 5 = f.c := by
  apply BitVec.eq_of_getLsbD_eq
  intro i hi
  simp only [Format.W.word, BitVec.getLsbD_extractLsb', BitVec.getLsbD_append]
  interval_cases i <;> simp

theorem Format.W.word_w (o : BitVec 6) (f : Format.W) :
    (f.word o).extractLsb' 5 1 = f.w := by
  apply BitVec.eq_of_getLsbD_eq
  intro i hi
  simp only [Format.W.word, BitVec.getLsbD_extractLsb', BitVec.getLsbD_append]
  interval_cases i <;> simp

theorem Format.W.word_m (o : BitVec 6) (f : Format.W) :
    (f.word o).extractLsb' 3 2 = f.m := by
  apply BitVec.eq_of_getLsbD_eq
  intro i hi
  simp only [Format.W.word, BitVec.getLsbD_extractLsb', BitVec.getLsbD_append]
  interval_cases i <;> simp

theorem Format.W.word_r (o : BitVec 6) (f : Format.W) :
    (f.word o).extractLsb' 0 3 = f.r := by
  apply BitVec.eq_of_getLsbD_eq
  intro i hi
  simp only [Format.W.word, BitVec.getLsbD_extractLsb', BitVec.getLsbD_append]
  interval_cases i <;> simp

@[simp] theorem Format.W.of_word (o : BitVec 6) (f : Format.W) : Format.W.of (f.word o) = f := by
  simp only [Format.W.of, Format.W.word_d, Format.W.word_a, Format.W.word_b, Format.W.word_c, Format.W.word_w, Format.W.word_m, Format.W.word_r]

@[simp] theorem Format.X.major_word (o : BitVec 6) (f : Format.X) : major (f.word o) = o := by
  apply BitVec.eq_of_getLsbD_eq
  intro i hi
  simp only [major, Format.X.word, BitVec.getLsbD_extractLsb', BitVec.getLsbD_append]
  interval_cases i <;> simp

theorem Format.X.word_d (o : BitVec 6) (f : Format.X) :
    (f.word o).extractLsb' 21 5 = f.d := by
  apply BitVec.eq_of_getLsbD_eq
  intro i hi
  simp only [Format.X.word, BitVec.getLsbD_extractLsb', BitVec.getLsbD_append]
  interval_cases i <;> simp

theorem Format.X.word_a (o : BitVec 6) (f : Format.X) :
    (f.word o).extractLsb' 16 5 = f.a := by
  apply BitVec.eq_of_getLsbD_eq
  intro i hi
  simp only [Format.X.word, BitVec.getLsbD_extractLsb', BitVec.getLsbD_append]
  interval_cases i <;> simp

theorem Format.X.word_ta (o : BitVec 6) (f : Format.X) :
    (f.word o).extractLsb' 15 1 = f.ta := by
  apply BitVec.eq_of_getLsbD_eq
  intro i hi
  simp only [Format.X.word, BitVec.getLsbD_extractLsb', BitVec.getLsbD_append]
  interval_cases i <;> simp

theorem Format.X.word_b (o : BitVec 6) (f : Format.X) :
    (f.word o).extractLsb' 10 5 = f.b := by
  apply BitVec.eq_of_getLsbD_eq
  intro i hi
  simp only [Format.X.word, BitVec.getLsbD_extractLsb', BitVec.getLsbD_append]
  interval_cases i <;> simp

theorem Format.X.word_tb (o : BitVec 6) (f : Format.X) :
    (f.word o).extractLsb' 9 1 = f.tb := by
  apply BitVec.eq_of_getLsbD_eq
  intro i hi
  simp only [Format.X.word, BitVec.getLsbD_extractLsb', BitVec.getLsbD_append]
  interval_cases i <;> simp

theorem Format.X.word_e (o : BitVec 6) (f : Format.X) :
    (f.word o).extractLsb' 4 5 = f.e := by
  apply BitVec.eq_of_getLsbD_eq
  intro i hi
  simp only [Format.X.word, BitVec.getLsbD_extractLsb', BitVec.getLsbD_append]
  interval_cases i <;> simp

theorem Format.X.word_func (o : BitVec 6) (f : Format.X) :
    (f.word o).extractLsb' 0 4 = f.func := by
  apply BitVec.eq_of_getLsbD_eq
  intro i hi
  simp only [Format.X.word, BitVec.getLsbD_extractLsb', BitVec.getLsbD_append]
  interval_cases i <;> simp

@[simp] theorem Format.X.of_word (o : BitVec 6) (f : Format.X) : Format.X.of (f.word o) = f := by
  simp only [Format.X.of, Format.X.word_d, Format.X.word_a, Format.X.word_ta, Format.X.word_b, Format.X.word_tb, Format.X.word_e, Format.X.word_func]

@[simp] theorem Format.S.major_word (o : BitVec 6) (f : Format.S) : major (f.word o) = o := by
  apply BitVec.eq_of_getLsbD_eq
  intro i hi
  simp only [major, Format.S.word, BitVec.getLsbD_extractLsb', BitVec.getLsbD_append]
  interval_cases i <;> simp

theorem Format.S.word_d (o : BitVec 6) (f : Format.S) :
    (f.word o).extractLsb' 21 5 = f.d := by
  apply BitVec.eq_of_getLsbD_eq
  intro i hi
  simp only [Format.S.word, BitVec.getLsbD_extractLsb', BitVec.getLsbD_append]
  interval_cases i <;> simp

theorem Format.S.word_a (o : BitVec 6) (f : Format.S) :
    (f.word o).extractLsb' 16 5 = f.a := by
  apply BitVec.eq_of_getLsbD_eq
  intro i hi
  simp only [Format.S.word, BitVec.getLsbD_extractLsb', BitVec.getLsbD_append]
  interval_cases i <;> simp

theorem Format.S.word_ta (o : BitVec 6) (f : Format.S) :
    (f.word o).extractLsb' 15 1 = f.ta := by
  apply BitVec.eq_of_getLsbD_eq
  intro i hi
  simp only [Format.S.word, BitVec.getLsbD_extractLsb', BitVec.getLsbD_append]
  interval_cases i <;> simp

theorem Format.S.word_func (o : BitVec 6) (f : Format.S) :
    (f.word o).extractLsb' 10 5 = f.func := by
  apply BitVec.eq_of_getLsbD_eq
  intro i hi
  simp only [Format.S.word, BitVec.getLsbD_extractLsb', BitVec.getLsbD_append]
  interval_cases i <;> simp

theorem Format.S.word_imm (o : BitVec 6) (f : Format.S) :
    (f.word o).extractLsb' 0 10 = f.imm := by
  apply BitVec.eq_of_getLsbD_eq
  intro i hi
  simp only [Format.S.word, BitVec.getLsbD_extractLsb', BitVec.getLsbD_append]
  interval_cases i <;> simp

@[simp] theorem Format.S.of_word (o : BitVec 6) (f : Format.S) : Format.S.of (f.word o) = f := by
  simp only [Format.S.of, Format.S.word_d, Format.S.word_a, Format.S.word_ta, Format.S.word_func, Format.S.word_imm]

@[simp] theorem Format.L.major_word (o : BitVec 6) (f : Format.L) : major (f.word o) = o := by
  apply BitVec.eq_of_getLsbD_eq
  intro i hi
  simp only [major, Format.L.word, BitVec.getLsbD_extractLsb', BitVec.getLsbD_append]
  interval_cases i <;> simp

theorem Format.L.word_d (o : BitVec 6) (f : Format.L) :
    (f.word o).extractLsb' 21 5 = f.d := by
  apply BitVec.eq_of_getLsbD_eq
  intro i hi
  simp only [Format.L.word, BitVec.getLsbD_extractLsb', BitVec.getLsbD_append]
  interval_cases i <;> simp

theorem Format.L.word_a (o : BitVec 6) (f : Format.L) :
    (f.word o).extractLsb' 16 5 = f.a := by
  apply BitVec.eq_of_getLsbD_eq
  intro i hi
  simp only [Format.L.word, BitVec.getLsbD_extractLsb', BitVec.getLsbD_append]
  interval_cases i <;> simp

theorem Format.L.word_ta (o : BitVec 6) (f : Format.L) :
    (f.word o).extractLsb' 15 1 = f.ta := by
  apply BitVec.eq_of_getLsbD_eq
  intro i hi
  simp only [Format.L.word, BitVec.getLsbD_extractLsb', BitVec.getLsbD_append]
  interval_cases i <;> simp

theorem Format.L.word_func (o : BitVec 6) (f : Format.L) :
    (f.word o).extractLsb' 0 15 = f.func := by
  apply BitVec.eq_of_getLsbD_eq
  intro i hi
  simp only [Format.L.word, BitVec.getLsbD_extractLsb', BitVec.getLsbD_append]
  interval_cases i <;> simp

@[simp] theorem Format.L.of_word (o : BitVec 6) (f : Format.L) : Format.L.of (f.word o) = f := by
  simp only [Format.L.of, Format.L.word_d, Format.L.word_a, Format.L.word_ta, Format.L.word_func]

end Sys2Proof
end

