-- ==== Sys2Proof/Laws/Memory.lean ====
section
/-! SUPPORT. Memory keeps its canonical form under every operation (log 3), and a byte reads back what was written to it
and is left as it was by a write elsewhere. -/

namespace Sys2Proof.Machine

theorem Memory.wf_tail {c : Host.Cell} {m : Memory} (h : Memory.wf (c :: m) = true) : Memory.wf m = true := by
  obtain ⟨a, v⟩ := c
  cases m with
  | nil => rfl
  | cons d r =>
    obtain ⟨b, w⟩ := d
    simp only [Memory.wf, Bool.and_eq_true] at h
    exact h.2

/-- Every address that a canonical memory lists after the first is above it. -/
theorem Memory.wf_above {a : Nat} {v : Byte} {m : Memory} (h : Memory.wf ((a, v) :: m) = true) : ∀ c ∈ m, a < c.1 := by
  induction m generalizing a v with
  | nil => simp
  | cons d r ih =>
    obtain ⟨b, w⟩ := d
    simp only [Memory.wf, Bool.and_eq_true, decide_eq_true_eq] at h
    intro c hc
    rcases List.mem_cons.1 hc with rfl | hc
    · exact h.1.2
    · exact Nat.lt_trans h.1.2 (ih h.2 c hc)

theorem Memory.wf_head {a : Nat} {v : Byte} {m : Memory} (h : Memory.wf ((a, v) :: m) = true) : v ≠ unlistedByte := by
  cases m with
  | nil => simpa [Memory.wf] using h
  | cons d r =>
    obtain ⟨b, w⟩ := d
    simp only [Memory.wf, Bool.and_eq_true, bne_iff_ne] at h
    exact h.1.1

/-- A canonical memory begins with a listed byte below all the others. -/
theorem Memory.wf_cons {a : Nat} {v : Byte} {m : Memory} (hv : v ≠ unlistedByte) (ha : ∀ c ∈ m, a < c.1)
    (h : Memory.wf m = true) : Memory.wf ((a, v) :: m) = true := by
  cases m with
  | nil => simpa [Memory.wf] using hv
  | cons d r =>
    obtain ⟨b, w⟩ := d
    have hb : a < b := ha (b, w) (List.mem_cons_self ..)
    simp only [Memory.wf, Bool.and_eq_true, bne_iff_ne, decide_eq_true_eq]
    exact ⟨⟨hv, hb⟩, h⟩

theorem Memory.write_mem {m : Memory} {a : Nat} {v : Byte} {c : Host.Cell} (hc : c ∈ m.write a v) :
    c.1 = a ∨ c ∈ m := by
  induction m with
  | nil =>
    simp only [Memory.write] at hc
    split at hc <;> simp_all
  | cons d r ih =>
    obtain ⟨b, w⟩ := d
    simp only [Memory.write] at hc
    split at hc
    · split at hc
      · exact .inr (List.mem_cons_of_mem _ hc)
      · rcases List.mem_cons.1 hc with rfl | hc
        · exact .inl rfl
        · exact .inr (List.mem_cons_of_mem _ hc)
    · split at hc
      · split at hc
        · exact .inr hc
        · rcases List.mem_cons.1 hc with rfl | hc
          · exact .inl rfl
          · exact .inr hc
      · rcases List.mem_cons.1 hc with rfl | hc
        · exact .inr (List.mem_cons_self ..)
        · rcases ih hc with h | h
          · exact .inl h
          · exact .inr (List.mem_cons_of_mem _ h)

theorem Memory.write_wf {m : Memory} (h : Memory.wf m = true) (a : Nat) (v : Byte) : Memory.wf (m.write a v) = true := by
  induction m with
  | nil =>
    simp only [Memory.write]
    split
    · rfl
    · exact Memory.wf_cons (by assumption) (by simp) rfl
  | cons d r ih =>
    obtain ⟨b, w⟩ := d
    have ht := Memory.wf_tail h
    have hab := Memory.wf_above h
    simp only [Memory.write]
    split
    · rename_i hb
      subst hb
      split
      · exact ht
      · exact Memory.wf_cons (by assumption) hab ht
    · split
      · rename_i hlt
        split
        · exact h
        · refine Memory.wf_cons (by assumption) (fun c hc => ?_) h
          rcases List.mem_cons.1 hc with rfl | hc
          · exact hlt
          · exact Nat.lt_trans hlt (hab c hc)
      · refine Memory.wf_cons (Memory.wf_head h) (fun c hc => ?_) (ih ht)
        rcases Memory.write_mem hc with hc | hc
        · rw [hc]; omega
        · exact hab c hc

theorem Memory.writeN_wf (n : Nat) : ∀ {m : Memory}, Memory.wf m = true → ∀ a v, Memory.wf (m.writeN a v n) = true := by
  induction n with
  | zero => intro m h a v; exact h
  | succ n ih => intro m h a v; exact ih (Memory.write_wf h a _) _ _

theorem Memory.writeMasked_wf (n : Nat) : ∀ {m : Memory}, Memory.wf m = true → ∀ a v k,
    Memory.wf (m.writeMasked a v k n) = true := by
  induction n with
  | zero => intro m h a v k; exact h
  | succ n ih =>
    intro m h a v k
    simp only [Memory.writeMasked]
    split
    · exact ih (Memory.write_wf h a _) _ _ _
    · exact ih h _ _ _

/-- A memory that loses cells, as a scrub leaves it, keeps the form. -/
theorem Memory.filter_wf {m : Memory} (h : Memory.wf m = true) (p : Host.Cell → Bool) :
    Memory.wf (m.filter p) = true := by
  induction m with
  | nil => rfl
  | cons d r ih =>
    obtain ⟨a, v⟩ := d
    have hr := ih (Memory.wf_tail h)
    simp only [List.filter]
    split
    · exact Memory.wf_cons (Memory.wf_head h) (fun c hc => Memory.wf_above h c (List.mem_of_mem_filter hc)) hr
    · exact hr

theorem State.writeMem_wf {s : State} (h : Memory.wf s.mem = true) (a v n : Nat) :
    Memory.wf (s.writeMem a v n).mem = true := by
  unfold State.writeMem
  split
  · exact Memory.writeN_wf n h a v
  · exact h

theorem State.mergeLine_wf {s : State} (h : Memory.wf s.mem = true) (l : Nat) (d : Line) (k : ByteMask) :
    Memory.wf (s.mergeLine l d k).mem = true := by
  have e := Memory.writeMasked_wf 128 h (128 * l) d.toNat k.toNat
  simpa only [State.mergeLine] using e

/-- A byte above every listed address reads as unlisted. -/
theorem Memory.read_above {m : Memory} {a : Nat} (h : ∀ c ∈ m, a < c.1) : m.read a = unlistedByte := by
  induction m with
  | nil => rfl
  | cons d r ih =>
    obtain ⟨b, w⟩ := d
    have hb : a < b := h (b, w) (List.mem_cons_self ..)
    simp only [Memory.read, if_neg (show ¬ b = a by omega)]
    exact ih fun c hc => h c (List.mem_cons_of_mem _ hc)

theorem Memory.read_write {m : Memory} (h : Memory.wf m = true) (a : Nat) (v : Byte) : (m.write a v).read a = v := by
  induction m with
  | nil =>
    simp only [Memory.write]
    split
    · rename_i hv; rw [hv]; rfl
    · simp [Memory.read]
  | cons d r ih =>
    obtain ⟨b, w⟩ := d
    have hab := Memory.wf_above h
    simp only [Memory.write]
    split
    · rename_i hb
      subst hb
      split
      · rename_i hv; rw [hv]; exact Memory.read_above hab
      · simp [Memory.read]
    · rename_i hb
      split
      · rename_i hlt
        split
        · rename_i hv
          rw [hv]
          refine Memory.read_above fun c hc => ?_
          rcases List.mem_cons.1 hc with rfl | hc
          · exact hlt
          · exact Nat.lt_trans hlt (hab c hc)
        · simp [Memory.read]
      · simp only [Memory.read, if_neg hb]
        exact ih (Memory.wf_tail h)

theorem Memory.read_write_ne (m : Memory) (a b : Nat) (v : Byte) (hab : b ≠ a) : (m.write a v).read b = m.read b := by
  induction m with
  | nil =>
    simp only [Memory.write]
    split
    · rfl
    · simp [Memory.read, Ne.symm hab]
  | cons d r ih =>
    obtain ⟨c, w⟩ := d
    simp only [Memory.write]
    split
    · rename_i hc
      subst hc
      split <;> simp [Memory.read, Ne.symm hab]
    · split
      · split <;> simp [Memory.read, Ne.symm hab]
      · simp only [Memory.read, ih]

end Sys2Proof.Machine
end

