-- ==== Sys2Proof/Laws/PerInstr.lean ====
section
/-! SUPPORT. The words of each instruction: a literal stands where the instruction is long, and nowhere else; an event has
no words. -/

namespace Sys2Proof.Laws.Words

def Statement (i : Instr) : Prop := ∀ w l, encode i = some (w, l) → l.isSome = i.isLong

theorem add (z : Size) (d : RegNo) (a b : Src) : Statement (.add z d a b) := by
  intro _ _ h; cases h; rfl
theorem adds (z : Size) (d : RegNo) (a b : Src) : Statement (.adds z d a b) := by
  intro _ _ h; cases h; rfl
theorem sub (z : Size) (d : RegNo) (a b : Src) : Statement (.sub z d a b) := by
  intro _ _ h; cases h; rfl
theorem mul (z : Size) (d : RegNo) (a b : Src) : Statement (.mul z d a b) := by
  intro _ _ h; cases h; rfl
theorem mulh (z : Size) (d : RegNo) (a b : Src) : Statement (.mulh z d a b) := by
  intro _ _ h; cases h; rfl
theorem div (z : Size) (d : RegNo) (a b : Src) : Statement (.div z d a b) := by
  intro _ _ h; cases h; rfl
theorem rem (z : Size) (d : RegNo) (a b : Src) : Statement (.rem z d a b) := by
  intro _ _ h; cases h; rfl
theorem neg (z : Size) (d : RegNo) (a : Src) : Statement (.neg z d a) := by
  intro _ _ h; cases h; rfl
theorem and (z : Size) (d : RegNo) (a b : Src) : Statement (.and z d a b) := by
  intro _ _ h; cases h; rfl
theorem andn (z : Size) (d : RegNo) (a b : Src) : Statement (.andn z d a b) := by
  intro _ _ h; cases h; rfl
theorem or (z : Size) (d : RegNo) (a b : Src) : Statement (.or z d a b) := by
  intro _ _ h; cases h; rfl
theorem xor (z : Size) (d : RegNo) (a b : Src) : Statement (.xor z d a b) := by
  intro _ _ h; cases h; rfl
theorem shl (z : Size) (d : RegNo) (a b : Src) : Statement (.shl z d a b) := by
  intro _ _ h; cases h; rfl
theorem shr (z : Size) (d : RegNo) (a b : Src) : Statement (.shr z d a b) := by
  intro _ _ h; cases h; rfl
theorem rot (z : Size) (d : RegNo) (a b : Src) : Statement (.rot z d a b) := by
  intro _ _ h; cases h; rfl
theorem clz (z : Size) (d : RegNo) (a : Src) : Statement (.clz z d a) := by
  intro _ _ h; cases h; rfl
theorem ctz (z : Size) (d : RegNo) (a : Src) : Statement (.ctz z d a) := by
  intro _ _ h; cases h; rfl
theorem popc (z : Size) (d : RegNo) (a : Src) : Statement (.popc z d a) := by
  intro _ _ h; cases h; rfl
theorem brev (z : Size) (d : RegNo) (a : Src) : Statement (.brev z d a) := by
  intro _ _ h; cases h; rfl
theorem min (z : Size) (d : RegNo) (a b : Src) : Statement (.min z d a b) := by
  intro _ _ h; cases h; rfl
theorem max (z : Size) (d : RegNo) (a b : Src) : Statement (.max z d a b) := by
  intro _ _ h; cases h; rfl
theorem sel (z : Size) (d : RegNo) (a b : Src) : Statement (.sel z d a b) := by
  intro _ _ h; cases h; rfl
theorem mov (z : Size) (d : RegNo) (a : Src) : Statement (.mov z d a) := by
  intro _ _ h; cases h; rfl
theorem cmpEq (z : Size) (d : RegNo) (a b : Src) : Statement (.cmpEq z d a b) := by
  intro _ _ h; cases h; rfl
theorem cmpNe (z : Size) (d : RegNo) (a b : Src) : Statement (.cmpNe z d a b) := by
  intro _ _ h; cases h; rfl
theorem cmpLt (z : Size) (d : RegNo) (a b : Src) : Statement (.cmpLt z d a b) := by
  intro _ _ h; cases h; rfl
theorem cmpLe (z : Size) (d : RegNo) (a b : Src) : Statement (.cmpLe z d a b) := by
  intro _ _ h; cases h; rfl
theorem cmpGt (z : Size) (d : RegNo) (a b : Src) : Statement (.cmpGt z d a b) := by
  intro _ _ h; cases h; rfl
theorem cmpGe (z : Size) (d : RegNo) (a b : Src) : Statement (.cmpGe z d a b) := by
  intro _ _ h; cases h; rfl
theorem addi (d : RegNo) (a : Src) (e : BitVec 15) : Statement (.addi d a e) := by
  intro _ _ h; cases h; rfl
theorem andi (d : RegNo) (a : Src) (e : BitVec 15) : Statement (.andi d a e) := by
  intro _ _ h; cases h; rfl
theorem ori (d : RegNo) (a : Src) (e : BitVec 15) : Statement (.ori d a e) := by
  intro _ _ h; cases h; rfl
theorem xori (d : RegNo) (a : Src) (e : BitVec 15) : Statement (.xori d a e) := by
  intro _ _ h; cases h; rfl
theorem shli (d : RegNo) (a : Src) (n : BitVec 6) : Statement (.shli d a n) := by
  intro _ _ h; cases h; rfl
theorem shriN64 (d : RegNo) (a : Src) (n : BitVec 6) : Statement (.shriN64 d a n) := by
  intro _ _ h; cases h; rfl
theorem shriS64 (d : RegNo) (a : Src) (n : BitVec 6) : Statement (.shriS64 d a n) := by
  intro _ _ h; cases h; rfl
theorem cmpi (c : Cond) (unsigned : Bool) (d : RegNo) (a : Src) (e : BitVec 11) : Statement (.cmpi c unsigned d a e) := by
  intro _ _ h; cases h; rfl
theorem extr (signed : Bool) (d : RegNo) (a : Src) (lsb wm1 : BitVec 6) : Statement (.extr signed d a lsb wm1) := by
  intro _ _ h; cases h; rfl
theorem insr (d : RegNo) (a : Src) (lsb wm1 : BitVec 6) : Statement (.insr d a lsb wm1) := by
  intro _ _ h; cases h; rfl
theorem widf (d : RegNo) (k : BitVec 3) : Statement (.widf d k) := by
  intro _ _ h; cases h; rfl
theorem rds (d : RegNo) (r : StateReg) : Statement (.rds d r) := by
  intro _ _ h; cases h; rfl
theorem wrs (r : StateReg) (a : Src) : Statement (.wrs r a) := by
  intro _ _ h; cases h; rfl
theorem li (d : RegNo) (lit : BitVec 32) : Statement (.li d lit) := by
  intro _ _ h; cases h; rfl
theorem lih (d : RegNo) (lit : BitVec 32) : Statement (.lih d lit) := by
  intro _ _ h; cases h; rfl
theorem lea (d : RegNo) (lit : BitVec 32) : Statement (.lea d lit) := by
  intro _ _ h; cases h; rfl
theorem fadd (p : FTy) (rnd : Round) (d : RegNo) (a b : Src) : Statement (.fadd p rnd d a b) := by
  intro _ _ h; cases h; rfl
theorem fsub (p : FTy) (rnd : Round) (d : RegNo) (a b : Src) : Statement (.fsub p rnd d a b) := by
  intro _ _ h; cases h; rfl
theorem fmul (p : FTy) (rnd : Round) (d : RegNo) (a b : Src) : Statement (.fmul p rnd d a b) := by
  intro _ _ h; cases h; rfl
theorem fdiv (p : FTy) (rnd : Round) (d : RegNo) (a b : Src) : Statement (.fdiv p rnd d a b) := by
  intro _ _ h; cases h; rfl
theorem fsqrt (p : FTy) (rnd : Round) (d : RegNo) (a : Src) : Statement (.fsqrt p rnd d a) := by
  intro _ _ h; cases h; rfl
theorem ffma (p : FTy) (rnd : Round) (d : RegNo) (a b : Src) : Statement (.ffma p rnd d a b) := by
  intro _ _ h; cases h; rfl
theorem fmin (p : FTy) (d : RegNo) (a b : Src) : Statement (.fmin p d a b) := by
  intro _ _ h; cases h; rfl
theorem fmax (p : FTy) (d : RegNo) (a b : Src) : Statement (.fmax p d a b) := by
  intro _ _ h; cases h; rfl
theorem fcmpEq (p : FTy) (d : RegNo) (a b : Src) : Statement (.fcmpEq p d a b) := by
  intro _ _ h; cases h; rfl
theorem fcmpLt (p : FTy) (d : RegNo) (a b : Src) : Statement (.fcmpLt p d a b) := by
  intro _ _ h; cases h; rfl
theorem fcmpLe (p : FTy) (d : RegNo) (a b : Src) : Statement (.fcmpLe p d a b) := by
  intro _ _ h; cases h; rfl
theorem fcmpUn (p : FTy) (d : RegNo) (a b : Src) : Statement (.fcmpUn p d a b) := by
  intro _ _ h; cases h; rfl
theorem fclass (p : FTy) (d : RegNo) (a : Src) : Statement (.fclass p d a) := by
  intro _ _ h; cases h; rfl
theorem fcvt (src dst : NumTy) (rnd : Round) (sat : Bool) (d : RegNo) (a : Src) : Statement (.fcvt src dst rnd sat d a) := by
  intro _ _ h; cases h; rfl
theorem br (j : BitVec 26) : Statement (.br j) := by
  intro _ _ h; cases h; rfl
theorem call (j : BitVec 26) : Statement (.call j) := by
  intro _ _ h; cases h; rfl
theorem brc (c : BrCond) (a b : RegNo) (j : BitVec 12) : Statement (.brc c a b j) := by
  intro _ _ h; cases h; rfl
theorem loopn (a : RegNo) (j : BitVec 12) : Statement (.loopn a j) := by
  intro _ _ h; cases h; rfl
theorem bri (a : Src) : Statement (.bri a) := by
  intro _ _ h; cases h; rfl
theorem calli (a : Src) : Statement (.calli a) := by
  intro _ _ h; cases h; rfl
theorem ret (a : Src) : Statement (.ret a) := by
  intro _ _ h; cases h; rfl
theorem vif (k : BitVec 3) : Statement (.vif k) := by
  intro _ _ h; cases h; rfl
theorem velse  : Statement (.velse) := by
  intro _ _ h; cases h; rfl
theorem vend  : Statement (.vend) := by
  intro _ _ h; cases h; rfl
theorem nop  : Statement (.nop) := by
  intro _ _ h; cases h; rfl
theorem ld (z : Size) (d : RegNo) (a : Src) (off : BitVec 12) : Statement (.ld z d a off) := by
  intro _ _ h; cases h; rfl
theorem st (z : Size) (src : RegNo) (a : Src) (off : BitVec 12) : Statement (.st z src a off) := by
  intro _ _ h; cases h; rfl
theorem ldg (z : Size) (d : RegNo) (a : Src) (off : BitVec 12) : Statement (.ldg z d a off) := by
  intro _ _ h; cases h; rfl
theorem sts (z : Size) (src : RegNo) (a : Src) (off : BitVec 12) : Statement (.sts z src a off) := by
  intro _ _ h; cases h; rfl
theorem ldp (z : Size) (d : RegNo) (k : BitVec 3) (a : Src) (off : BitVec 9) : Statement (.ldp z d k a off) := by
  intro _ _ h; cases h; rfl
theorem ldv (v : RegNo) (a : Src) (off : BitVec 12) : Statement (.ldv v a off) := by
  intro _ _ h; cases h; rfl
theorem stv (v : RegNo) (a : Src) (off : BitVec 12) : Statement (.stv v a off) := by
  intro _ _ h; cases h; rfl
theorem pf (a : Src) (off : BitVec 12) : Statement (.pf a off) := by
  intro _ _ h; cases h; rfl
theorem flush (a : Src) (off : BitVec 12) : Statement (.flush a off) := by
  intro _ _ h; cases h; rfl
theorem invl (a : Src) (off : BitVec 12) : Statement (.invl a off) := by
  intro _ _ h; cases h; rfl
theorem fenceAcq (a : Src) (off : BitVec 12) : Statement (.fenceAcq a off) := by
  intro _ _ h; cases h; rfl
theorem fenceRel (a : Src) (off : BitVec 12) : Statement (.fenceRel a off) := by
  intro _ _ h; cases h; rfl
theorem fenceFull (a : Src) (off : BitVec 12) : Statement (.fenceFull a off) := by
  intro _ _ h; cases h; rfl
theorem mode (bank : BitVec 5) (m : BankMode) : Statement (.mode bank m) := by
  intro _ _ h; cases h; rfl
theorem amo (op : AtomOp) (ty : NumTy) (d : RegNo) (a b : Src) : Statement (.amo op ty d a b) := by
  intro _ _ h; cases h; rfl
theorem cas (ty : NumTy) (d : RegNo) (a b : Src) : Statement (.cas ty d a b) := by
  intro _ _ h; cases h; rfl
theorem famo (op : AtomOp) (ty : NumTy) (d : RegNo) (a b : Src) : Statement (.famo op ty d a b) := by
  intro _ _ h; cases h; rfl
theorem red (op : AtomOp) (ty : NumTy) (a b : Src) : Statement (.red op ty a b) := by
  intro _ _ h; cases h; rfl
theorem fredAdd (a b : Src) : Statement (.fredAdd a b) := by
  intro _ _ h; cases h; rfl
theorem fredMinmax (op : AtomOp) (ty : NumTy) (a b : Src) : Statement (.fredMinmax op ty a b) := by
  intro _ _ h; cases h; rfl
theorem vred (ty : NumTy) (a b : Src) : Statement (.vred ty a b) := by
  intro _ _ h; cases h; rfl
theorem get (z : Size) (d : RegNo) (a : Src) : Statement (.get z d a) := by
  intro _ _ h; cases h; rfl
theorem put (z : Size) (a b : Src) : Statement (.put z a b) := by
  intro _ _ h; cases h; rfl
theorem putf (z : Size) (a b : Src) : Statement (.putf z a b) := by
  intro _ _ h; cases h; rfl
theorem dlg (d : RegNo) (a b : Src) : Statement (.dlg d a b) := by
  intro _ _ h; cases h; rfl
theorem dlgn (a b : Src) : Statement (.dlgn a b) := by
  intro _ _ h; cases h; rfl
theorem dret (b : Src) : Statement (.dret b) := by
  intro _ _ h; cases h; rfl
theorem spawn (a : Src) (lit : BitVec 32) : Statement (.spawn a lit) := by
  intro _ _ h; cases h; rfl
theorem sync (a : Src) : Statement (.sync a) := by
  intro _ _ h; cases h; rfl
theorem retire  : Statement (.retire) := by
  intro _ _ h; cases h; rfl
theorem pubf (a : Src) : Statement (.pubf a) := by
  intro _ _ h; cases h; rfl
theorem pubt (a : Src) : Statement (.pubt a) := by
  intro _ _ h; cases h; rfl
theorem bind (k : BitVec 4) (a : Src) : Statement (.bind k a) := by
  intro _ _ h; cases h; rfl
theorem unbind (k : BitVec 4) : Statement (.unbind k) := by
  intro _ _ h; cases h; rfl
theorem jctr (d : RegNo) (a : Src) : Statement (.jctr d a) := by
  intro _ _ h; cases h; rfl
theorem bar (a : Src) : Statement (.bar a) := by
  intro _ _ h; cases h; rfl
theorem bari (a b : Src) : Statement (.bari a b) := by
  intro _ _ h; cases h; rfl
theorem barq (d : RegNo) (a : Src) : Statement (.barq d a) := by
  intro _ _ h; cases h; rfl
theorem donate (a b : Src) : Statement (.donate a b) := by
  intro _ _ h; cases h; rfl
theorem trec (d : RegNo) (a b : Src) : Statement (.trec d a b) := by
  intro _ _ h; cases h; rfl
theorem tenq (a b : Src) : Statement (.tenq a b) := by
  intro _ _ h; cases h; rfl
theorem msg (a : Src) (payload : RegNo) (type : BitVec 8) : Statement (.msg a payload type) := by
  intro _ _ h; cases h; rfl
theorem msgv (a : Src) (payload : RegNo) (type : BitVec 8) : Statement (.msgv a payload type) := by
  intro _ _ h; cases h; rfl
theorem fpush (bank : BitVec 5) (b : Src) : Statement (.fpush bank b) := by
  intro _ _ h; cases h; rfl
theorem fpop (d : RegNo) (bank : BitVec 5) : Statement (.fpop d bank) := by
  intro _ _ h; cases h; rfl
theorem vadd (p : VTy) (d : RegNo) (a b : Src) (m : BitVec 3) : Statement (.vadd p d a b m) := by
  intro _ _ h; cases h; rfl
theorem vsub (p : VTy) (d : RegNo) (a b : Src) (m : BitVec 3) : Statement (.vsub p d a b m) := by
  intro _ _ h; cases h; rfl
theorem vmul (p : VTy) (d : RegNo) (a b : Src) (m : BitVec 3) : Statement (.vmul p d a b m) := by
  intro _ _ h; cases h; rfl
theorem vdiv (p : VTy) (d : RegNo) (a b : Src) (m : BitVec 3) : Statement (.vdiv p d a b m) := by
  intro _ _ h; cases h; rfl
theorem vmin (p : VTy) (d : RegNo) (a b : Src) (m : BitVec 3) : Statement (.vmin p d a b m) := by
  intro _ _ h; cases h; rfl
theorem vmax (p : VTy) (d : RegNo) (a b : Src) (m : BitVec 3) : Statement (.vmax p d a b m) := by
  intro _ _ h; cases h; rfl
theorem vabs (p : VTy) (d : RegNo) (a : Src) (m : BitVec 3) : Statement (.vabs p d a m) := by
  intro _ _ h; cases h; rfl
theorem vneg (p : VTy) (d : RegNo) (a : Src) (m : BitVec 3) : Statement (.vneg p d a m) := by
  intro _ _ h; cases h; rfl
theorem vsqrt (p : VTy) (d : RegNo) (a : Src) (m : BitVec 3) : Statement (.vsqrt p d a m) := by
  intro _ _ h; cases h; rfl
theorem vrcp (p : VTy) (d : RegNo) (a : Src) (m : BitVec 3) : Statement (.vrcp p d a m) := by
  intro _ _ h; cases h; rfl
theorem vrsq (p : VTy) (d : RegNo) (a : Src) (m : BitVec 3) : Statement (.vrsq p d a m) := by
  intro _ _ h; cases h; rfl
theorem vexp2 (p : VTy) (d : RegNo) (a : Src) (m : BitVec 3) : Statement (.vexp2 p d a m) := by
  intro _ _ h; cases h; rfl
theorem vlog2 (p : VTy) (d : RegNo) (a : Src) (m : BitVec 3) : Statement (.vlog2 p d a m) := by
  intro _ _ h; cases h; rfl
theorem vsum (p : VTy) (d : RegNo) (a : Src) (m : BitVec 3) : Statement (.vsum p d a m) := by
  intro _ _ h; cases h; rfl
theorem vrmax (p : VTy) (d : RegNo) (a : Src) (m : BitVec 3) : Statement (.vrmax p d a m) := by
  intro _ _ h; cases h; rfl
theorem vrmin (p : VTy) (d : RegNo) (a : Src) (m : BitVec 3) : Statement (.vrmin p d a m) := by
  intro _ _ h; cases h; rfl
theorem vaddInt (w : Width) (d : RegNo) (a b : Src) (m : BitVec 3) : Statement (.vaddInt w d a b m) := by
  intro _ _ h; cases h; rfl
theorem vsubInt (w : Width) (d : RegNo) (a b : Src) (m : BitVec 3) : Statement (.vsubInt w d a b m) := by
  intro _ _ h; cases h; rfl
theorem vmulInt (w : Width) (d : RegNo) (a b : Src) (m : BitVec 3) : Statement (.vmulInt w d a b m) := by
  intro _ _ h; cases h; rfl
theorem vminS (w : Width) (d : RegNo) (a b : Src) (m : BitVec 3) : Statement (.vminS w d a b m) := by
  intro _ _ h; cases h; rfl
theorem vminN (w : Width) (d : RegNo) (a b : Src) (m : BitVec 3) : Statement (.vminN w d a b m) := by
  intro _ _ h; cases h; rfl
theorem vmaxS (w : Width) (d : RegNo) (a b : Src) (m : BitVec 3) : Statement (.vmaxS w d a b m) := by
  intro _ _ h; cases h; rfl
theorem vmaxN (w : Width) (d : RegNo) (a b : Src) (m : BitVec 3) : Statement (.vmaxN w d a b m) := by
  intro _ _ h; cases h; rfl
theorem vnegInt (w : Width) (d : RegNo) (a : Src) (m : BitVec 3) : Statement (.vnegInt w d a m) := by
  intro _ _ h; cases h; rfl
theorem vshl (w : Width) (d : RegNo) (a b : Src) (m : BitVec 3) : Statement (.vshl w d a b m) := by
  intro _ _ h; cases h; rfl
theorem vshrS (w : Width) (d : RegNo) (a b : Src) (m : BitVec 3) : Statement (.vshrS w d a b m) := by
  intro _ _ h; cases h; rfl
theorem vshrN (w : Width) (d : RegNo) (a b : Src) (m : BitVec 3) : Statement (.vshrN w d a b m) := by
  intro _ _ h; cases h; rfl
theorem vsumInt (w : Width) (d : RegNo) (a : Src) (m : BitVec 3) : Statement (.vsumInt w d a m) := by
  intro _ _ h; cases h; rfl
theorem vimad (w : Width) (d : RegNo) (a b : Src) (m : BitVec 3) : Statement (.vimad w d a b m) := by
  intro _ _ h; cases h; rfl
theorem vcmpEqInt (w : Width) (k : BitVec 3) (a b : Src) (m : BitVec 3) : Statement (.vcmpEqInt w k a b m) := by
  intro _ _ h; cases h; rfl
theorem vcmpLtS (w : Width) (k : BitVec 3) (a b : Src) (m : BitVec 3) : Statement (.vcmpLtS w k a b m) := by
  intro _ _ h; cases h; rfl
theorem vcmpLtN (w : Width) (k : BitVec 3) (a b : Src) (m : BitVec 3) : Statement (.vcmpLtN w k a b m) := by
  intro _ _ h; cases h; rfl
theorem vand (d : RegNo) (a b : Src) (m : BitVec 3) : Statement (.vand d a b m) := by
  intro _ _ h; cases h; rfl
theorem vor (d : RegNo) (a b : Src) (m : BitVec 3) : Statement (.vor d a b m) := by
  intro _ _ h; cases h; rfl
theorem vxor (d : RegNo) (a b : Src) (m : BitVec 3) : Statement (.vxor d a b m) := by
  intro _ _ h; cases h; rfl
theorem vnot (d : RegNo) (a : Src) (m : BitVec 3) : Statement (.vnot d a m) := by
  intro _ _ h; cases h; rfl
theorem vsel (d : RegNo) (a b : Src) (m : BitVec 3) : Statement (.vsel d a b m) := by
  intro _ _ h; cases h; rfl
theorem vmov (d : RegNo) (a : Src) (m : BitVec 3) : Statement (.vmov d a m) := by
  intro _ _ h; cases h; rfl
theorem mand (k i j : BitVec 3) : Statement (.mand k i j) := by
  intro _ _ h; cases h; rfl
theorem mor (k i j : BitVec 3) : Statement (.mor k i j) := by
  intro _ _ h; cases h; rfl
theorem mxor (k i j : BitVec 3) : Statement (.mxor k i j) := by
  intro _ _ h; cases h; rfl
theorem mnot (k i : BitVec 3) : Statement (.mnot k i) := by
  intro _ _ h; cases h; rfl
theorem mpop (d : RegNo) (i : BitVec 3) : Statement (.mpop d i) := by
  intro _ _ h; cases h; rfl
theorem mfirst (d : RegNo) (i : BitVec 3) : Statement (.mfirst d i) := by
  intro _ _ h; cases h; rfl
theorem mset (k : BitVec 3) (a : Src) : Statement (.mset k a) := by
  intro _ _ h; cases h; rfl
theorem mmovx (d : RegNo) (i : BitVec 3) : Statement (.mmovx d i) := by
  intro _ _ h; cases h; rfl
theorem vcmp (p : VTy) (c : VCond) (k : BitVec 3) (a b : Src) (m : BitVec 3) : Statement (.vcmp p c k a b m) := by
  intro _ _ h; cases h; rfl
theorem vperm (w : Width) (d : RegNo) (a b : Src) (m : BitVec 3) : Statement (.vperm w d a b m) := by
  intro _ _ h; cases h; rfl
theorem vshuf (w : Width) (d : RegNo) (a b : Src) (m : BitVec 3) : Statement (.vshuf w d a b m) := by
  intro _ _ h; cases h; rfl
theorem vbcast (w : Width) (d : RegNo) (a : Src) (m : BitVec 3) : Statement (.vbcast w d a m) := by
  intro _ _ h; cases h; rfl
theorem viota (w : Width) (d : RegNo) (m : BitVec 3) : Statement (.viota w d m) := by
  intro _ _ h; cases h; rfl
theorem vcmpr (w : Width) (d : RegNo) (a : Src) (m : BitVec 3) : Statement (.vcmpr w d a m) := by
  intro _ _ h; cases h; rfl
theorem vexpd (w : Width) (d : RegNo) (a : Src) (m : BitVec 3) : Statement (.vexpd w d a m) := by
  intro _ _ h; cases h; rfl
theorem vins (w : Width) (d : RegNo) (a b : Src) (m : BitVec 3) : Statement (.vins w d a b m) := by
  intro _ _ h; cases h; rfl
theorem vext (w : Width) (d : RegNo) (a b : Src) : Statement (.vext w d a b) := by
  intro _ _ h; cases h; rfl
theorem vcvt (src dst : Elem) (sat : Bool) (d : RegNo) (a : Src) (m : BitVec 3) : Statement (.vcvt src dst sat d a m) := by
  intro _ _ h; cases h; rfl
theorem vscale (n : Narrow) (e4m3 : Bool) (d : RegNo) (a : Src) (m : BitVec 3) : Statement (.vscale n e4m3 d a m) := by
  intro _ _ h; cases h; rfl
theorem vqnt (n : Narrow) (d : RegNo) (a b : Src) (m : BitVec 3) : Statement (.vqnt n d a b m) := by
  intro _ _ h; cases h; rfl
theorem vdqnt (n : Narrow) (d : RegNo) (a b : Src) (m : BitVec 3) : Statement (.vdqnt n d a b m) := by
  intro _ _ h; cases h; rfl
theorem vfmaF32F64 (wide : Bool) (d a b c : RegNo) (m : BitVec 2) (rnd : Round) : Statement (.vfmaF32F64 wide d a b c m rnd) := by
  intro _ _ h; cases h; rfl
theorem vfmaBf16F16 (wide : Bool) (d a b c : RegNo) (m : BitVec 2) (rnd : Round) : Statement (.vfmaBf16F16 wide d a b c m rnd) := by
  intro _ _ h; cases h; rfl
theorem vfmsF32F64 (wide : Bool) (d a b c : RegNo) (m : BitVec 2) (rnd : Round) : Statement (.vfmsF32F64 wide d a b c m rnd) := by
  intro _ _ h; cases h; rfl
theorem vfmsBf16F16 (wide : Bool) (d a b c : RegNo) (m : BitVec 2) (rnd : Round) : Statement (.vfmsBf16F16 wide d a b c m rnd) := by
  intro _ _ h; cases h; rfl
theorem mma (fa fb : BitVec 5) (a b : Src) : Statement (.mma fa fb a b) := by
  intro _ _ h; cases h; rfl
theorem mmat (fa fb : BitVec 5) (a b : Src) : Statement (.mmat fa fb a b) := by
  intro _ _ h; cases h; rfl
theorem mfmt (a b : Src) : Statement (.mfmt a b) := by
  intro _ _ h; cases h; rfl
theorem accz (a b : Src) : Statement (.accz a b) := by
  intro _ _ h; cases h; rfl
theorem accrd (d : RegNo) (a : Src) : Statement (.accrd d a) := by
  intro _ _ h; cases h; rfl
theorem mstat (d : RegNo) (a : Src) : Statement (.mstat d a) := by
  intro _ _ h; cases h; rfl
theorem acccvt (src : AccTy) (dst : Elem) (sat : Bool) (rnd : Round) (a b : Src) : Statement (.acccvt src dst sat rnd a b) := by
  intro _ _ h; cases h; rfl
theorem cpy (d : RegNo) (a b : Src) (e : RegNo) : Statement (.cpy d a b e) := by
  intro _ _ h; cases h; rfl
theorem cstg (a : Src) : Statement (.cstg a) := by
  intro _ _ h; cases h; rfl
theorem cring (a b : Src) : Statement (.cring a b) := by
  intro _ _ h; cases h; rfl
theorem nmg (a b : Src) (e : RegNo) : Statement (.nmg a b e) := by
  intro _ _ h; cases h; rfl
theorem nmr (a b : Src) (e : RegNo) : Statement (.nmr a b e) := by
  intro _ _ h; cases h; rfl
theorem nmc (a b : Src) (e : RegNo) : Statement (.nmc a b e) := by
  intro _ _ h; cases h; rfl
theorem dpost (e : RegNo) : Statement (.dpost e) := by
  intro _ _ h; cases h; rfl
theorem xsend (a : Src) (e : RegNo) : Statement (.xsend a e) := by
  intro _ _ h; cases h; rfl
theorem xarm (a : Src) : Statement (.xarm a) := by
  intro _ _ h; cases h; rfl
theorem xstat (d : RegNo) (a : Src) : Statement (.xstat d a) := by
  intro _ _ h; cases h; rfl
theorem route (d : RegNo) (a b : Src) : Statement (.route d a b) := by
  intro _ _ h; cases h; rfl
theorem icfg (a : Src) : Statement (.icfg a) := by
  intro _ _ h; cases h; rfl
theorem trap (e : BitVec 10) : Statement (.trap e) := by
  intro _ _ h; cases h; rfl
theorem rte  : Statement (.rte) := by
  intro _ _ h; cases h; rfl
theorem halt  : Statement (.halt) := by
  intro _ _ h; cases h; rfl
theorem brk (e : BitVec 10) : Statement (.brk e) := by
  intro _ _ h; cases h; rfl
theorem rqrd (d : RegNo) (q : BitVec 4) (w : BitVec 6) : Statement (.rqrd d q w) := by
  intro _ _ h; cases h; rfl
theorem rqwr (a : Src) (q : BitVec 4) (w : BitVec 6) : Statement (.rqwr a q w) := by
  intro _ _ h; cases h; rfl
theorem rqdel (q : BitVec 4) : Statement (.rqdel q) := by
  intro _ _ h; cases h; rfl
theorem tlbi (a : Src) : Statement (.tlbi a) := by
  intro _ _ h; cases h; rfl
theorem regi (a : Src) : Statement (.regi a) := by
  intro _ _ h; cases h; rfl
theorem illegalInstruction (w : BitVec 32) : Statement (.illegalInstruction w) := by
  intro _ _ h; cases h
theorem messageArrival (i : Nat) : Statement (.messageArrival i) := by
  intro _ _ h; cases h
theorem activation (slot : Nat) : Statement (.activation slot) := by
  intro _ _ h; cases h
theorem seedActivation (slot launch : Nat) (wid : Word) : Statement (.seedActivation slot launch wid) := by
  intro _ _ h; cases h
theorem pickWork (slot : Nat) : Statement (.pickWork slot) := by
  intro _ _ h; cases h
theorem dequeSpill (core : Nat) : Statement (.dequeSpill core) := by
  intro _ _ h; cases h
theorem dequeRefill (core : Nat) : Statement (.dequeRefill core) := by
  intro _ _ h; cases h
theorem stealBackoffExpiry (core : Nat) : Statement (.stealBackoffExpiry core) := by
  intro _ _ h; cases h
theorem stealProbe (core : Nat) : Statement (.stealProbe core) := by
  intro _ _ h; cases h
theorem stealMove (core : Nat) : Statement (.stealMove core) := by
  intro _ _ h; cases h
theorem joinDecrement (i : Nat) : Statement (.joinDecrement i) := by
  intro _ _ h; cases h
theorem parkMove (i : Nat) : Statement (.parkMove i) := by
  intro _ _ h; cases h
theorem barrierArrival (i : Nat) : Statement (.barrierArrival i) := by
  intro _ _ h; cases h
theorem dlgReply (i : Nat) : Statement (.dlgReply i) := by
  intro _ _ h; cases h
theorem donationIntake (sender : BitVec 3) (task : BitVec 128) : Statement (.donationIntake sender task) := by
  intro _ _ h; cases h
theorem donationWaitExpiry (i : Nat) : Statement (.donationWaitExpiry i) := by
  intro _ _ h; cases h
theorem drain (core h : Nat) : Statement (.drain core h) := by
  intro _ _ h; cases h
theorem fill (clus line : Nat) : Statement (.fill clus line) := by
  intro _ _ h; cases h
theorem evict (core line : Nat) : Statement (.evict core line) := by
  intro _ _ h; cases h
theorem hop (link : Nat) : Statement (.hop link) := by
  intro _ _ h; cases h
theorem ingress (link h : Nat) : Statement (.ingress link h) := by
  intro _ _ h; cases h
theorem biack (line p : Nat) : Statement (.biack line p) := by
  intro _ _ h; cases h
theorem hostw (p : Nat) : Statement (.hostw p) := by
  intro _ _ h; cases h
theorem host (op : HostOp) : Statement (.host op) := by
  intro _ _ h; cases h
theorem eng (e i : Nat) : Statement (.eng e i) := by
  intro _ _ h; cases h
theorem edge (slot : Nat) : Statement (.edge slot) := by
  intro _ _ h; cases h
theorem modeComplete (clus bank : Nat) : Statement (.modeComplete clus bank) := by
  intro _ _ h; cases h
theorem translationWalkDone (slot seq : Nat) (victim : Victims) : Statement (.translationWalkDone slot seq victim) := by
  intro _ _ h; cases h
theorem scheduleEntryStart (clus : Nat) : Statement (.scheduleEntryStart clus) := by
  intro _ _ h; cases h
theorem nearMemoryExec (e : Nat) : Statement (.nearMemoryExec e) := by
  intro _ _ h; cases h
theorem matrixRequestServe (clus : Nat) : Statement (.matrixRequestServe clus) := by
  intro _ _ h; cases h
theorem coalescingEmit (core : Nat) : Statement (.coalescingEmit core) := by
  intro _ _ h; cases h
theorem centroidPost (i : Nat) : Statement (.centroidPost i) := by
  intro _ _ h; cases h
theorem roundDeadlineExpiry  : Statement (.roundDeadlineExpiry) := by
  intro _ _ h; cases h
theorem calendarArrival (die : Nat) : Statement (.calendarArrival die) := by
  intro _ _ h; cases h
theorem phaseStart (die : Nat) : Statement (.phaseStart die) := by
  intro _ _ h; cases h
theorem phaseEnd (die : Nat) : Statement (.phaseEnd die) := by
  intro _ _ h; cases h
theorem ingressRow (die endpoint : Nat) : Statement (.ingressRow die endpoint) := by
  intro _ _ h; cases h
theorem exchangeLinkFailure (die endpoint bytes : Nat) : Statement (.exchangeLinkFailure die endpoint bytes) := by
  intro _ _ h; cases h
theorem heartbeatTimer  : Statement (.heartbeatTimer) := by
  intro _ _ h; cases h
theorem centroidTakeover (pkg : BitVec 3) (iod : Bool) : Statement (.centroidTakeover pkg iod) := by
  intro _ _ h; cases h
theorem generationChange (die : Nat) (gen : BitVec 32) : Statement (.generationChange die gen) := by
  intro _ _ h; cases h
theorem gnomonExchange (die : Nat) (t1 t2 t3 t4 : Word) (pkgSkew grpSkew : BitVec 16) : Statement (.gnomonExchange die t1 t2 t3 t4 pkgSkew grpSkew) := by
  intro _ _ h; cases h
theorem qtailDoorbell (f : Nat) (tail : BitVec 32) : Statement (.qtailDoorbell f tail) := by
  intro _ _ h; cases h
theorem launchEntryTake (f : Nat) : Statement (.launchEntryTake f) := by
  intro _ _ h; cases h
theorem launchComplete (launch : Nat) : Statement (.launchComplete launch) := by
  intro _ _ h; cases h
theorem launchTimeout (launch : Nat) : Statement (.launchTimeout launch) := by
  intro _ _ h; cases h
theorem clusterGrant (clus : Nat) : Statement (.clusterGrant clus) := by
  intro _ _ h; cases h
theorem ageingStep (launch : Nat) : Statement (.ageingStep launch) := by
  intro _ _ h; cases h
theorem quantumExpiry (clus : Nat) : Statement (.quantumExpiry clus) := by
  intro _ _ h; cases h
theorem preempt (launch : Nat) : Statement (.preempt launch) := by
  intro _ _ h; cases h
theorem clusterSave (clus : Nat) : Statement (.clusterSave clus) := by
  intro _ _ h; cases h
theorem clusterRestore (clus : Nat) : Statement (.clusterRestore clus) := by
  intro _ _ h; cases h
theorem clusterLaunchStart (clus : Nat) : Statement (.clusterLaunchStart clus) := by
  intro _ _ h; cases h
theorem taskActivation (slot : Nat) : Statement (.taskActivation slot) := by
  intro _ _ h; cases h
theorem tlbinv (f : Nat) (value : Word) : Statement (.tlbinv f value) := by
  intro _ _ h; cases h
theorem rinv (f : Nat) (value : Word) : Statement (.rinv f value) := by
  intro _ _ h; cases h
theorem shootdownAck (i die : Nat) : Statement (.shootdownAck i die) := by
  intro _ _ h; cases h
theorem migWalkRetry (slot seq : Nat) : Statement (.migWalkRetry slot seq) := by
  intro _ _ h; cases h
theorem migTimeout (slot seq : Nat) : Statement (.migTimeout slot seq) := by
  intro _ _ h; cases h
theorem pageFault (die : Nat) : Statement (.pageFault die) := by
  intro _ _ h; cases h
theorem fresRetry (die : Nat) (record : BitVec 12) (who : BitVec 16) : Statement (.fresRetry die record who) := by
  intro _ _ h; cases h
theorem fresKill (die : Nat) (record : BitVec 12) (who : BitVec 16) : Statement (.fresKill die record who) := by
  intro _ _ h; cases h
theorem migcmd (die : Nat) (value : Word) (who : BitVec 16) : Statement (.migcmd die value who) := by
  intro _ _ h; cases h
theorem migrationComplete (die : Nat) : Statement (.migrationComplete die) := by
  intro _ _ h; cases h
theorem trapTake (slot : Nat) : Statement (.trapTake slot) := by
  intro _ _ h; cases h
theorem stagingFill (core : Nat) : Statement (.stagingFill core) := by
  intro _ _ h; cases h
theorem contextSwap (core : Nat) : Statement (.contextSwap core) := by
  intro _ _ h; cases h
theorem contextSpill (core : Nat) : Statement (.contextSpill core) := by
  intro _ _ h; cases h
theorem sfladd (die : Nat) (value : Word) (who : BitVec 16) : Statement (.sfladd die value who) := by
  intro _ _ h; cases h
theorem hostSnoop (line p : Nat) : Statement (.hostSnoop line p) := by
  intro _ _ h; cases h
theorem bisnpTimeout (p : Nat) : Statement (.bisnpTimeout p) := by
  intro _ _ h; cases h
theorem hostLinkDown (p : Nat) : Statement (.hostLinkDown p) := by
  intro _ _ h; cases h
theorem diePowerGate (die : Nat) : Statement (.diePowerGate die) := by
  intro _ _ h; cases h
theorem dieWarmReset (die : Nat) : Statement (.dieWarmReset die) := by
  intro _ _ h; cases h
theorem dieFatalReset (die : Nat) : Statement (.dieFatalReset die) := by
  intro _ _ h; cases h
theorem linkwakeMaxExpiry (link : Nat) : Statement (.linkwakeMaxExpiry link) := by
  intro _ _ h; cases h
theorem diedeadTmoExpiry (die : Nat) : Statement (.diedeadTmoExpiry die) := by
  intro _ _ h; cases h
theorem claim (value : Word) (channel : Nat) : Statement (.claim value channel) := by
  intro _ _ h; cases h
theorem leaseExpiry  : Statement (.leaseExpiry) := by
  intro _ _ h; cases h
theorem secureBoot  : Statement (.secureBoot) := by
  intro _ _ h; cases h
theorem recoveryImageWrite (slotB : Bool) (image : Image) : Statement (.recoveryImageWrite slotB image) := by
  intro _ _ h; cases h
theorem attestationReport (nonce : BitVec 256) : Statement (.attestationReport nonce) := by
  intro _ _ h; cases h
theorem configRecordReplace (record : ConfigRecord) (who : BitVec 16) : Statement (.configRecordReplace record who) := by
  intro _ _ h; cases h
theorem cgConfigWrite (reg : CgReg) (value : Word) (who : BitVec 16) : Statement (.cgConfigWrite reg value who) := by
  intro _ _ h; cases h
theorem partWrite (k : BitVec 6) (value : Word) (who : BitVec 16) : Statement (.partWrite k value who) := by
  intro _ _ h; cases h
theorem partitionChange (k : BitVec 6) : Statement (.partitionChange k) := by
  intro _ _ h; cases h
theorem correctableError (kind : Resource) (die address : Nat) : Statement (.correctableError kind die address) := by
  intro _ _ h; cases h
theorem rowRemap (i : Nat) : Statement (.rowRemap i) := by
  intro _ _ h; cases h
theorem laneRetire (link : Nat) : Statement (.laneRetire link) := by
  intro _ _ h; cases h
theorem linkDown (link : Nat) : Statement (.linkDown link) := by
  intro _ _ h; cases h
theorem uncorrectableError (place : ErrorPlace) (line : Nat) : Statement (.uncorrectableError place line) := by
  intro _ _ h; cases h
theorem governorTick (power : BitVec 12) (temp : BitVec 10) : Statement (.governorTick power temp) := by
  intro _ _ h; cases h
theorem registerWrite (reg : BarReg) (value : Word) (who : BitVec 16) : Statement (.registerWrite reg value who) := by
  intro _ _ h; cases h
theorem fabricPortAtomic (port : Nat) : Statement (.fabricPortAtomic port) := by
  intro _ _ h; cases h
theorem dieLinkTrained (link : Nat) : Statement (.dieLinkTrained link) := by
  intro _ _ h; cases h
theorem hostLinkWarmReset (p : Nat) : Statement (.hostLinkWarmReset p) := by
  intro _ _ h; cases h
theorem faultRingHeadWrite (die : Nat) (value : Word) (who : BitVec 16) : Statement (.faultRingHeadWrite die value who) := by
  intro _ _ h; cases h
theorem faultUnitEnable (die : Nat) (value : Word) (who : BitVec 16) : Statement (.faultUnitEnable die value who) := by
  intro _ _ h; cases h
theorem saveFrameStackEnable (die : Nat) (value : Word) (who : BitVec 16) : Statement (.saveFrameStackEnable die value who) := by
  intro _ _ h; cases h

end Sys2Proof.Laws.Words
end

