-- ==== Sys2Proof/Tests/Slice0.lean ====
section
/-! SUPPORT. Tests: the checks of WellFormed, words of every instruction, single steps of worked examples, and for each
statement with hypotheses a state that meets them. -/

namespace Sys2Proof.Tests

open Sys2Proof.Machine

set_option Elab.async false

/-! Small states. -/

/-- A strand of launch 3 that stands in a block of 20 words, its registers 0 and full. -/
def strand0 : Strand :=
  { Strand.fresh 100 (some 3) 0 0 0x4000 .branch .arith 0 0 [] with
    way := none, pc := 0x4008, hdr := 0x4000, hword := 0xFC500002 }

/-- A record without an error (R309): one field of 4 seeds, every partition, entry 0x4000, a time-out of 5 ms. -/
def words0 : List Word :=
  ((((((((((List.replicate 72 0).set 0 0x100001).set 1 (4 + 4 * 2 ^ 6)).set 7 0xFFFFFFFFFFFFFFFF).set 8 0x4000).set 48
    0x100000).set 49 0x200000).set 50 0x300000).set 51 1).set 64 (9 + 5 * 2 ^ 32))

/-- A launch that is ready. -/
def launch0 : Launch :=
  { words := words0, func := 0, order := 3, waitn := 0, pf := false, state := .ready, seedCtr := 1, seeded := [],
    activated := 0, firstSeed := none, aged := 0, ageFrom := 0, startedAt := 0, flushing := none, nodes := [] }

/-- The machine after reset with a strand in a slot of cluster 0 that runs launch 3. -/
def onSlot (k : Nat) (t : Strand) : State :=
  { State.reset with
    here := k, serial := 200, strands := [(k, t)], launches := [(3, launch0)]
    clusters := [(slotCore k / 32, { Cluster.reset with holder := some 3, started := true })] }

def s0 : State := onSlot 0 strand0

/-- A device that has started. -/
def booted : Boot := { State.reset.boot with running := some ⟨[], [], [], 3, 7⟩ }

/-- The machine with x and v registers of the strand set. -/
def regs (xs : List (Nat × Word)) (vs : List (Nat × Vec)) : Strand := { strand0 with x := xs, v := vs }

/-- Code: NOP at 0x4008, a header at 0x4010 and a continuation header at 0x4058, which follows the block. -/
def codeLine : Line :=
  BitVec.ofNat 1024 (0xFC500002 + 0x58000000 * 2 ^ 64 + 0xFC040000 * 2 ^ 128 + 0xFC060000 * 2 ^ 704)

/-- A core that holds translations of a page of code, a page of data of die 0 and one of die 1. -/
def core0 : Core :=
  { Core.reset with
    utlb := [⟨0, 1, 14, 0x10000, false, true⟩, ⟨0, 2, 14, 0x20000, true, false⟩,
      ⟨0, 3, 14, 0x2000020000, true, false⟩]
    icache := [(0x200, codeLine)] }

/-- The strand in a slot of a core that holds those translations. -/
def mapped (t : Strand) : State := { onSlot 0 t with cores := [(0, core0)] }

/-- A whole-page region of the data page with the given flags (R329). -/
def region0 (flags : Nat) : BitVec 128 := BitVec.ofNat 128 (1 + flags + 2 * 2 ^ 14 + 2 ^ 64)

/-- What the statements about accesses assume, as a program finds it (`meets_of`). -/
def meets (s : State) (i : Instr) (q : MemOp → Cap → Place → Bool) : Bool :=
  match memoryForm s.me i with
  | none => false
  | some (ops, o, c, _) =>
    match s.spot c.addr.toNat o.writes with
    | none => false
    | some p =>
      let k := s.cluster (coreClus (slotCore s.here))
      s.me.ready && s.me.gate ops == .ok && !s.me.walking && addrKind c.addr == .virtual &&
        (o.bytes == 0 || c.addr.toNat % o.bytes == 0) && (!o.writes || !p.ro) && !k.pendingOn s.me.ctx (p.pa / 128) &&
        (o.bytes == 0 || !k.boardMem p.pa o.bytes o.writes) && (s.portOps s.me.ctx (p.pa / 128)).isEmpty &&
        !s.wayBusy (coreClus (slotCore s.here)) (p.pa / 128) && q o c p

def Meets (s : State) (i : Instr) (q : MemOp → Cap → Place → Bool) : Prop :=
  ∃ ops o c u p, memoryForm s.me i = some (ops, o, c, u) ∧ s.Issues ops ∧ s.Reaches o c p ∧ q o c p = true

theorem meets_of {s : State} {i : Instr} {q : MemOp → Cap → Place → Bool} (h : meets s i q = true) : Meets s i q := by
  unfold meets at h
  split at h
  · simp at h
  · rename_i ops o c u hf
    split at h
    · simp at h
    · rename_i p hp
      simp only [Bool.and_eq_true, Bool.or_eq_true, Bool.not_eq_true', beq_iff_eq, List.isEmpty_iff] at h
      obtain ⟨⟨⟨⟨⟨⟨⟨⟨⟨⟨h1, h2⟩, h3⟩, h4⟩, h5⟩, h6⟩, h7⟩, h8⟩, h9⟩, h10⟩, h11⟩ := h
      refine ⟨ops, o, c, u, p, hf, ⟨h1, h2⟩, ⟨h3, h4, ?_, hp, ?_, h7, ?_, h9, h10⟩, h11⟩
      · intro hb; exact h5.resolve_left hb
      · intro hw; exact h6.resolve_left (by simp [hw])
      · intro hb; exact h8.resolve_left hb

/-- `State.Issues`, as a program finds it. -/
def issues (s : State) (ops : List Opnd) : Bool := s.me.ready && s.me.gate ops == .ok

theorem issues_of {s : State} {ops : List Opnd} (h : issues s ops = true) : s.Issues ops := by
  simpa [issues, State.Issues] using h

/-- The strand beside a cluster. -/
def beside (k : Cluster) : State := { s0 with clusters := [(0, k)] }

/-- A strand with x1, x2. -/
def two (a b : Word) : Strand := regs [(1, a), (2, b)] []

/-! The words of every instruction, written field by field. -/

/-- Words of major 0x01 (R132 A, R134, R137), written field by field. -/
theorem test_decode_integer : ∀ p ∈ ([
    (0b000001_01011_10001_1_10111_0_011_000000#32, .add ⟨.w16, true⟩ 11 ⟨17, true⟩ ⟨23, false⟩),
    (0b000001_10010_11100_0_00101_1_101_000001#32, .adds ⟨.w32, true⟩ 18 ⟨28, false⟩ ⟨5, true⟩),
    (0b000001_11001_01000_1_10010_1_111_000010#32, .sub ⟨.w64, true⟩ 25 ⟨8, true⟩ ⟨18, true⟩),
    (0b000001_00001_10011_0_11111_0_001_000011#32, .mul ⟨.w8, true⟩ 1 ⟨19, false⟩ ⟨31, false⟩),
    (0b000001_01000_11110_1_01101_0_010_000100#32, .mulh ⟨.w16, false⟩ 8 ⟨30, true⟩ ⟨13, false⟩),
    (0b000001_01111_01010_0_11010_1_101_000101#32, .div ⟨.w32, true⟩ 15 ⟨10, false⟩ ⟨26, true⟩),
    (0b000001_10110_10101_1_01000_1_111_000110#32, .rem ⟨.w64, true⟩ 22 ⟨21, true⟩ ⟨8, true⟩),
    (0b000001_11101_00001_0_000000_001_000111#32, .neg ⟨.w8, true⟩ 29 ⟨1, false⟩),
    (0b000001_00101_01100_1_00011_0_011_001000#32, .and ⟨.w16, true⟩ 5 ⟨12, true⟩ ⟨3, false⟩),
    (0b000001_01100_10111_0_10000_1_101_001001#32, .andn ⟨.w32, true⟩ 12 ⟨23, false⟩ ⟨16, true⟩),
    (0b000001_10011_00011_1_11101_1_111_001010#32, .or ⟨.w64, true⟩ 19 ⟨3, true⟩ ⟨29, true⟩),
    (0b000001_11010_01110_0_01011_0_001_001011#32, .xor ⟨.w8, true⟩ 26 ⟨14, false⟩ ⟨11, false⟩),
    (0b000001_00010_11001_1_11000_0_011_001100#32, .shl ⟨.w16, true⟩ 2 ⟨25, true⟩ ⟨24, false⟩),
    (0b000001_01001_00101_0_00110_1_101_001101#32, .shr ⟨.w32, true⟩ 9 ⟨5, false⟩ ⟨6, true⟩),
    (0b000001_10000_10000_1_10011_1_111_001110#32, .rot ⟨.w64, true⟩ 16 ⟨16, true⟩ ⟨19, true⟩),
    (0b000001_10111_11011_0_000000_001_001111#32, .clz ⟨.w8, true⟩ 23 ⟨27, false⟩),
    (0b000001_11110_00111_1_000000_011_010000#32, .ctz ⟨.w16, true⟩ 30 ⟨7, true⟩),
    (0b000001_00110_10010_0_000000_101_010001#32, .popc ⟨.w32, true⟩ 6 ⟨18, false⟩),
    (0b000001_01101_11101_1_000000_111_010010#32, .brev ⟨.w64, true⟩ 13 ⟨29, true⟩),
    (0b000001_10100_01001_0_10110_0_000_010011#32, .min ⟨.w8, false⟩ 20 ⟨9, false⟩ ⟨22, false⟩),
    (0b000001_11011_10100_1_00100_0_010_010100#32, .max ⟨.w16, false⟩ 27 ⟨20, true⟩ ⟨4, false⟩),
    (0b000001_00011_11111_0_10001_1_101_010101#32, .sel ⟨.w32, true⟩ 3 ⟨31, false⟩ ⟨17, true⟩),
    (0b000001_01010_01011_1_000000_111_010110#32, .mov ⟨.w64, true⟩ 10 ⟨11, true⟩),
    (0b000001_10001_10110_0_01100_0_001_010111#32, .cmpEq ⟨.w8, true⟩ 17 ⟨22, false⟩ ⟨12, false⟩),
    (0b000001_11000_00010_1_11001_0_011_011000#32, .cmpNe ⟨.w16, true⟩ 24 ⟨2, true⟩ ⟨25, false⟩),
    (0b000001_11111_01101_0_00111_1_101_011001#32, .cmpLt ⟨.w32, true⟩ 31 ⟨13, false⟩ ⟨7, true⟩),
    (0b000001_00111_11000_1_10100_1_111_011010#32, .cmpLe ⟨.w64, true⟩ 7 ⟨24, true⟩ ⟨20, true⟩),
    (0b000001_01110_00100_0_00010_0_000_011011#32, .cmpGt ⟨.w8, false⟩ 14 ⟨4, false⟩ ⟨2, false⟩),
    (0b000001_10101_01111_1_01111_0_010_011100#32, .cmpGe ⟨.w16, false⟩ 21 ⟨15, true⟩ ⟨15, false⟩)] : List (BitVec 32 × Instr)), decode p.1 none = .ok p.2 := by decide +kernel

/-- Words of majors 0x02 to 0x0B (R132 I, R138), written field by field. -/
theorem test_decode_immediate : ∀ p ∈ ([
    (0b000010_11100_11010_0_101000110111110#32, .addi 28 ⟨26, false⟩ 20926),
    (0b000011_00100_00110_1_010101111101111#32, .andi 4 ⟨6, true⟩ 11247),
    (0b000100_01011_10001_0_000011000100000#32, .ori 11 ⟨17, false⟩ 1568),
    (0b000101_10010_11100_1_110000001010001#32, .xori 18 ⟨28, true⟩ 24657),
    (0b000110_11001_01000_0_000000000_101100#32, .shli 25 ⟨8, false⟩ 44),
    (0b000110_00001_10011_1_000000001_110001#32, .shriN64 1 ⟨19, true⟩ 49),
    (0b000110_01000_11110_0_000000010_110110#32, .shriS64 8 ⟨30, false⟩ 54),
    (0b000111_01111_01010_1_011_1_11010100101#32, .cmpi .le true 15 ⟨10, true⟩ 1701),
    (0b001000_10110_10101_0_0_1_0_001011_100101#32, .extr true 22 ⟨21, false⟩ 37 11),
    (0b001000_11101_00001_1_100_010010_000110#32, .insr 29 ⟨1, true⟩ 6 18),
    (0b001001_00101_000000000000000000_101#32, .widf 5 5),
    (0b001010_01100_0000000000000000_00110#32, .rds 12 .ptcskew),
    (0b00101100000_00011_0_0000000000_01001#32, .wrs .age ⟨3, false⟩)] : List (BitVec 32 × Instr)), decode p.1 none = .ok p.2 := by decide +kernel

/-- Words of majors 0x0D and 0x0E (R139), written field by field. -/
theorem test_decode_scalarFloat : ∀ p ∈ ([
    (0b001101_11010_01110_1_01011_1_1_001_00000#32, .fadd .f64 .rne 26 ⟨14, true⟩ ⟨11, true⟩),
    (0b001101_00010_11001_0_11000_0_0_010_00001#32, .fsub .f32 .rtz 2 ⟨25, false⟩ ⟨24, false⟩),
    (0b001101_01001_00101_1_00110_0_1_011_00010#32, .fmul .f64 .rdn 9 ⟨5, true⟩ ⟨6, false⟩),
    (0b001101_10000_10000_0_10011_1_0_100_00011#32, .fdiv .f32 .rup 16 ⟨16, false⟩ ⟨19, true⟩),
    (0b001101_10111_11011_1_000000_1_101_00100#32, .fsqrt .f64 .sr 23 ⟨27, true⟩),
    (0b001101_11110_00111_0_01110_0_0_000_00101#32, .ffma .f32 .dyn 30 ⟨7, false⟩ ⟨14, false⟩),
    (0b001101_00110_10010_1_11011_0_1_00000110#32, .fmin .f64 6 ⟨18, true⟩ ⟨27, false⟩),
    (0b001101_01101_11101_0_01001_1_0_00000111#32, .fmax .f32 13 ⟨29, false⟩ ⟨9, true⟩),
    (0b001101_10100_01001_1_10110_1_1_00001000#32, .fcmpEq .f64 20 ⟨9, true⟩ ⟨22, true⟩),
    (0b001101_11011_10100_0_00100_0_0_00001001#32, .fcmpLt .f32 27 ⟨20, false⟩ ⟨4, false⟩),
    (0b001101_00011_11111_1_10001_0_1_00001010#32, .fcmpLe .f64 3 ⟨31, true⟩ ⟨17, false⟩),
    (0b001101_01010_01011_0_11110_1_0_00001011#32, .fcmpUn .f32 10 ⟨11, false⟩ ⟨30, true⟩),
    (0b001101_10001_10110_1_000000_1_00001100#32, .fclass .f64 17 ⟨22, true⟩),
    (0b001110_11000_00010_0_0000_1_0_010_101_001#32, .fcvt .f64 .n32 .rtz true 24 ⟨2, false⟩)] : List (BitVec 32 × Instr)), decode p.1 none = .ok p.2 := by decide +kernel

/-- Words of majors 0x10 to 0x16 (R140), written field by field. -/
theorem test_decode_control : ∀ p ∈ ([
    (0b010000_10001101000101011001111000#32, .br 36984440),
    (0b010001_11000000000000000000000001#32, .call 50331649),
    (0b010010_0100_10001_00110_100011110001#32, .brc .lo 17 6 2289),
    (0b0100110000_10101_00000_111100000010#32, .loopn 21 3842),
    (0b01010000000_11010_1_000000000000000#32, .bri ⟨26, true⟩),
    (0b01010000000_00110_0_000000000000001#32, .calli ⟨6, false⟩),
    (0b01010000000_10001_1_000000000000010#32, .ret ⟨17, true⟩),
    (0b0101010000000000000_101_0000000000#32, .vif 5),
    (0b01010100000000000000000000000001#32, .velse),
    (0b01010100000000000000000000000010#32, .vend),
    (0b01011000000000000000000000000000#32, .nop)] : List (BitVec 32 × Instr)), decode p.1 none = .ok p.2 := by decide +kernel

/-- Words of majors 0x18 to 0x1D (R141), written field by field. -/
theorem test_decode_memory : ∀ p ∈ ([
    (0b011000_01111_01010_0_101_111100001010#32, .ld ⟨.w32, true⟩ 15 ⟨10, false⟩ 3850),
    (0b011001_10110_10101_1_011_011111110011#32, .st ⟨.w16, true⟩ 22 ⟨21, true⟩ 2035),
    (0b011010_11101_00001_0_100_111100001010#32, .ldg ⟨.w32, false⟩ 29 ⟨1, false⟩ 3850),
    (0b011011_00101_01100_1_111_011111110011#32, .sts ⟨.w64, true⟩ 5 ⟨12, true⟩ 2035),
    (0b011100_01100_10111_0_110_101_101010101#32, .ldp ⟨.w64, false⟩ 12 5 ⟨23, false⟩ 341),
    (0b011101_10011_00011_1_000_101000000001#32, .ldv 19 ⟨3, true⟩ 2561),
    (0b011101_11010_01110_0_001_000011111110#32, .stv 26 ⟨14, false⟩ 254),
    (0b01110100000_11001_1_010_000101111001#32, .pf ⟨25, true⟩ 377),
    (0b01110100000_00101_0_011_000101111110#32, .flush ⟨5, false⟩ 382),
    (0b01110100000_10000_1_100_000110000011#32, .invl ⟨16, true⟩ 387),
    (0b01110100001_11011_0_101_000110001000#32, .fenceAcq ⟨27, false⟩ 392),
    (0b01110100010_00111_1_101_000110001101#32, .fenceRel ⟨7, true⟩ 397),
    (0b01110100011_10010_0_101_000110010010#32, .fenceFull ⟨18, false⟩ 402),
    (0b011101_10110_0000001100000000000_10#32, .mode 22 .fifo)] : List (BitVec 32 × Instr)), decode p.1 none = .ok p.2 := by decide +kernel

/-- Words of major 0x1E (R142), written field by field. -/
theorem test_decode_atomic : ∀ p ∈ ([
    (0b011110_10100_01001_0_10110_1_000_100_011#32, .amo .min .n64 20 ⟨9, false⟩ ⟨22, true⟩),
    (0b011110_11011_10100_1_00100_1_001000_010#32, .cas .s64 27 ⟨20, true⟩ ⟨4, true⟩),
    (0b011110_00011_11111_0_10001_0_010_110_101#32, .famo .swap .f64 3 ⟨31, false⟩ ⟨17, false⟩),
    (0b01111000000_01011_1_11110_0_011_011_000#32, .red .xor .s32 ⟨11, true⟩ ⟨30, false⟩),
    (0b01111000000_10110_0_01100_1_100000100#32, .fredAdd ⟨22, false⟩ ⟨12, true⟩),
    (0b01111000000_00010_1_11001_1_100_101_100#32, .fredMinmax .max .f32 ⟨2, true⟩ ⟨25, true⟩),
    (0b01111000000_01101_0_00111_0_101000_010#32, .vred .s64 ⟨13, false⟩ ⟨7, false⟩)] : List (BitVec 32 × Instr)), decode p.1 none = .ok p.2 := by decide +kernel

/-- Words of major 0x1F (R142), written field by field. -/
theorem test_decode_remote : ∀ p ∈ ([
    (0b011111_00111_11000_1_000000000000_010#32, .get ⟨.w16, false⟩ 7 ⟨24, true⟩),
    (0b01111100000_00100_0_00010_1_000100_101#32, .put ⟨.w32, true⟩ ⟨4, false⟩ ⟨2, true⟩),
    (0b01111100000_01111_1_01111_1_001000_001#32, .putf ⟨.w8, true⟩ ⟨15, true⟩ ⟨15, true⟩),
    (0b011111_11100_11010_0_11100_0_001100000#32, .dlg 28 ⟨26, false⟩ ⟨28, false⟩),
    (0b01111100000_00110_1_01010_0_010000000#32, .dlgn ⟨6, true⟩ ⟨10, false⟩),
    (0b01111100000000000_10111_1_010100000#32, .dret ⟨23, true⟩)] : List (BitVec 32 × Instr)), decode p.1 none = .ok p.2 := by decide +kernel

/-- Words of majors 0x21 to 0x24 (R143), written field by field. -/
theorem test_decode_task : ∀ p ∈ ([
    (0b10000100000_11100_1_000000000000000#32, .sync ⟨28, true⟩),
    (0b10000100000000000000000000000001#32, .retire),
    (0b10000100000_10011_1_000000000000010#32, .pubf ⟨19, true⟩),
    (0b10000100000_11110_0_000000000000011#32, .pubt ⟨30, false⟩),
    (0b1000010_1011_01010_1_000000000000100#32, .bind 11 ⟨10, true⟩),
    (0b1000010_0110_000000000000000000101#32, .unbind 6),
    (0b100001_11101_00001_1_000000000000110#32, .jctr 29 ⟨1, true⟩),
    (0b10000100000_01100_0_000000000000111#32, .bar ⟨12, false⟩),
    (0b10000100000_10111_1_10000_1_000001000#32, .bari ⟨23, true⟩ ⟨16, true⟩),
    (0b100001_10011_00011_0_000000000001001#32, .barq 19 ⟨3, false⟩),
    (0b10000100000_01110_1_01011_0_000001010#32, .donate ⟨14, true⟩ ⟨11, false⟩),
    (0b100001_00010_11001_0_11000_1_000001011#32, .trec 2 ⟨25, false⟩ ⟨24, true⟩),
    (0b10000100000_00101_1_00110_1_000001100#32, .tenq ⟨5, true⟩ ⟨6, true⟩),
    (0b100010_10000_10000_0_0000000_10011100#32, .msg ⟨16, false⟩ 16 0x9C),
    (0b100011_10111_11011_1_0000000_10011100#32, .msgv ⟨27, true⟩ 23 0x9C),
    (0b100100_01101_000000_01110_1_000000000#32, .fpush 13 ⟨14, true⟩),
    (0b100100_00110_10011_0000000000000001#32, .fpop 6 19)] : List (BitVec 32 × Instr)), decode p.1 none = .ok p.2 := by decide +kernel

/-- Words of major 0x28 (R144), written field by field. -/
theorem test_decode_vectorFloat : ∀ p ∈ ([
    (0b101000_01101_11101_0_01001_0_000_00_0000#32, .vadd .f32 13 ⟨29, false⟩ ⟨9, false⟩ 0),
    (0b101000_10100_01001_1_10110_0_001_01_0001#32, .vsub .f64 20 ⟨9, true⟩ ⟨22, false⟩ 1),
    (0b101000_11011_10100_0_00100_1_010_10_0010#32, .vmul .bf16 27 ⟨20, false⟩ ⟨4, true⟩ 2),
    (0b101000_00011_11111_1_10001_1_011_11_0011#32, .vdiv .f16 3 ⟨31, true⟩ ⟨17, true⟩ 3),
    (0b101000_01010_01011_0_11110_0_100_00_0100#32, .vmin .f32 10 ⟨11, false⟩ ⟨30, false⟩ 4),
    (0b101000_10001_10110_1_01100_0_101_01_0101#32, .vmax .f64 17 ⟨22, true⟩ ⟨12, false⟩ 5),
    (0b101000_11000_00010_0_000000_110_10_0110#32, .vabs .bf16 24 ⟨2, false⟩ 6),
    (0b101000_11111_01101_1_000000_111_11_0111#32, .vneg .f16 31 ⟨13, true⟩ 7),
    (0b101000_00111_11000_0_000000_000_00_1000#32, .vsqrt .f32 7 ⟨24, false⟩ 0),
    (0b101000_01110_00100_1_000000_001_01_1001#32, .vrcp .f64 14 ⟨4, true⟩ 1),
    (0b101000_10101_01111_0_000000_010_10_1010#32, .vrsq .bf16 21 ⟨15, false⟩ 2),
    (0b101000_11100_11010_1_000000_011_11_1011#32, .vexp2 .f16 28 ⟨26, true⟩ 3),
    (0b101000_00100_00110_0_000000_100_00_1100#32, .vlog2 .f32 4 ⟨6, false⟩ 4),
    (0b101000_01011_10001_1_000000_101_01_1101#32, .vsum .f64 11 ⟨17, true⟩ 5),
    (0b101000_10010_11100_0_000000_110_10_1110#32, .vrmax .bf16 18 ⟨28, false⟩ 6),
    (0b101000_11001_01000_1_000000_111_11_1111#32, .vrmin .f16 25 ⟨8, true⟩ 7)] : List (BitVec 32 × Instr)), decode p.1 none = .ok p.2 := by decide +kernel

/-- Words of major 0x29 (R144), written field by field. -/
theorem test_decode_vectorInteger : ∀ p ∈ ([
    (0b101001_00001_10011_0_11111_0_011_00_0000#32, .vaddInt .w8 1 ⟨19, false⟩ ⟨31, false⟩ 3),
    (0b101001_01000_11110_1_01101_0_100_01_0001#32, .vsubInt .w16 8 ⟨30, true⟩ ⟨13, false⟩ 4),
    (0b101001_01111_01010_0_11010_1_101_10_0010#32, .vmulInt .w32 15 ⟨10, false⟩ ⟨26, true⟩ 5),
    (0b101001_10110_10101_1_01000_1_110_11_0011#32, .vminS .w64 22 ⟨21, true⟩ ⟨8, true⟩ 6),
    (0b101001_11101_00001_0_10101_0_111_00_0100#32, .vminN .w8 29 ⟨1, false⟩ ⟨21, false⟩ 7),
    (0b101001_00101_01100_1_00011_0_000_01_0101#32, .vmaxS .w16 5 ⟨12, true⟩ ⟨3, false⟩ 0),
    (0b101001_01100_10111_0_10000_1_001_10_0110#32, .vmaxN .w32 12 ⟨23, false⟩ ⟨16, true⟩ 1),
    (0b101001_10011_00011_1_000000_010_11_0111#32, .vnegInt .w64 19 ⟨3, true⟩ 2),
    (0b101001_11010_01110_0_01011_0_011_00_1000#32, .vshl .w8 26 ⟨14, false⟩ ⟨11, false⟩ 3),
    (0b101001_00010_11001_1_11000_0_100_01_1001#32, .vshrS .w16 2 ⟨25, true⟩ ⟨24, false⟩ 4),
    (0b101001_01001_00101_0_00110_1_101_10_1010#32, .vshrN .w32 9 ⟨5, false⟩ ⟨6, true⟩ 5),
    (0b101001_10000_10000_1_000000_110_11_1011#32, .vsumInt .w64 16 ⟨16, true⟩ 6),
    (0b101001_10111_11011_0_00001_0_111_00_1100#32, .vimad .w8 23 ⟨27, false⟩ ⟨1, false⟩ 7),
    (0b10100100_100_00111_1_01110_0_000_01_1101#32, .vcmpEqInt .w16 4 ⟨7, true⟩ ⟨14, false⟩ 0),
    (0b10100100_101_10010_0_11011_1_001_10_1110#32, .vcmpLtS .w32 5 ⟨18, false⟩ ⟨27, true⟩ 1),
    (0b10100100_110_11101_1_01001_1_010_11_1111#32, .vcmpLtN .w64 6 ⟨29, true⟩ ⟨9, true⟩ 2)] : List (BitVec 32 × Instr)), decode p.1 none = .ok p.2 := by decide +kernel

/-- Words of major 0x2A (R145), written field by field. -/
theorem test_decode_vectorMask : ∀ p ∈ ([
    (0b101010_10100_01001_0_10110_0_000_000000#32, .vand 20 ⟨9, false⟩ ⟨22, false⟩ 0),
    (0b101010_11011_10100_1_00100_0_001_000001#32, .vor 27 ⟨20, true⟩ ⟨4, false⟩ 1),
    (0b101010_00011_11111_0_10001_1_010_000010#32, .vxor 3 ⟨31, false⟩ ⟨17, true⟩ 2),
    (0b101010_01010_01011_1_000000_011_000011#32, .vnot 10 ⟨11, true⟩ 3),
    (0b101010_10001_10110_0_01100_0_100_000100#32, .vsel 17 ⟨22, false⟩ ⟨12, false⟩ 4),
    (0b101010_11000_00010_1_000000_101_000101#32, .vmov 24 ⟨2, true⟩ 5),
    (0b10101000_101_00_010_000_111_0000001000#32, .mand 5 2 7),
    (0b10101000_101_00_010_000_111_0000001001#32, .mor 5 2 7),
    (0b10101000_101_00_010_000_111_0000001010#32, .mxor 5 2 7),
    (0b10101000_011_00_110_0000000000001011#32, .mnot 3 6),
    (0b101010_11100_00_001_0000000000001100#32, .mpop 28 1),
    (0b101010_00100_00_010_0000000000001101#32, .mfirst 4 2),
    (0b10101000_100_10001_0_000000000001110#32, .mset 4 ⟨17, false⟩),
    (0b101010_10010_00_100_0000000000001111#32, .mmovx 18 4),
    (0b10101000_110_01000_0_10010_1_001_01_10_11#32, .vcmp .bf16 .le 6 ⟨8, false⟩ ⟨18, true⟩ 1),
    (0b101010_00001_10011_1_11111_1_000_1000_11#32, .vperm .w64 1 ⟨19, true⟩ ⟨31, true⟩ 0),
    (0b101010_01000_11110_0_01101_0_001_1001_00#32, .vshuf .w8 8 ⟨30, false⟩ ⟨13, false⟩ 1),
    (0b101010_01111_01010_1_000000_010_1010_01#32, .vbcast .w16 15 ⟨10, true⟩ 2),
    (0b101010_10110_000000000000_101_1011_10#32, .viota .w32 22 5),
    (0b101010_11101_00001_1_000000_100_1100_11#32, .vcmpr .w64 29 ⟨1, true⟩ 4),
    (0b101010_00101_01100_0_000000_101_1101_00#32, .vexpd .w8 5 ⟨12, false⟩ 5),
    (0b101010_01100_10111_1_10000_0_110_1110_01#32, .vins .w16 12 ⟨23, true⟩ ⟨16, false⟩ 6),
    (0b101010_10011_00011_0_11101_1_0001111_01#32, .vext .w16 19 ⟨3, false⟩ ⟨29, true⟩)] : List (BitVec 32 × Instr)), decode p.1 none = .ok p.2 := by decide +kernel

/-- Words of major 0x2B (R146), written field by field. -/
theorem test_decode_vectorConvert : ∀ p ∈ ([
    (0b101011_11010_01110_1_01001_1_011_0_01101#32, .vcvt .f32 .e4m3 true 26 ⟨14, true⟩ 3),
    (0b101011_00010_11001_0_00000_1_010_100_100#32, .vscale .e2m1 true 2 ⟨25, false⟩ 2),
    (0b101011_01001_00101_1_00110_0_110_101_111#32, .vqnt .s8 9 ⟨5, true⟩ ⟨6, false⟩ 6),
    (0b101011_10000_10000_0_10011_1_110_110_011#32, .vdqnt .e2m3 16 ⟨16, false⟩ ⟨19, true⟩ 6)] : List (BitVec 32 × Instr)), decode p.1 none = .ok p.2 := by decide +kernel

/-- Words of majors 0x2C to 0x2F (R147), written field by field. -/
theorem test_decode_vectorFused : ∀ p ∈ ([
    (0b101100_10111_11011_00001_00001_1_11_010#32, .vfmaF32F64 true 23 27 1 1 3 .rtz),
    (0b101101_11110_00111_01110_00100_0_00_011#32, .vfmaBf16F16 false 30 7 14 4 0 .rdn),
    (0b101110_00110_10010_11011_00111_1_01_100#32, .vfmsF32F64 true 6 18 27 7 1 .rup),
    (0b101111_01101_11101_01001_01010_0_10_101#32, .vfmsBf16F16 false 13 29 9 10 2 .sr)] : List (BitVec 32 × Instr)), decode p.1 none = .ok p.2 := by decide +kernel

/-- Words of majors 0x30 to 0x32 (R148), written field by field. -/
theorem test_decode_matrix : ∀ p ∈ ([
    (0b110000_10101_01001_1_10110_1_01010_0000#32, .mma 21 10 ⟨9, true⟩ ⟨22, true⟩),
    (0b110000_10101_10100_0_00100_0_01010_0001#32, .mmat 21 10 ⟨20, false⟩ ⟨4, false⟩),
    (0b11000100000_11111_1_10001_0_000000000#32, .mfmt ⟨31, true⟩ ⟨17, false⟩),
    (0b11000100000_01011_0_11110_1_000000001#32, .accz ⟨11, false⟩ ⟨30, true⟩),
    (0b110001_10001_10110_1_000000000000010#32, .accrd 17 ⟨22, true⟩),
    (0b110001_11000_00010_0_000000000000011#32, .mstat 24 ⟨2, false⟩),
    (0b110010_00001_01101_1_00111_0_01100_1_100#32, .acccvt .s32 .e5m2 true .rup ⟨13, true⟩ ⟨7, false⟩)] : List (BitVec 32 × Instr)), decode p.1 none = .ok p.2 := by decide +kernel

/-- Words of majors 0x34 to 0x37 (R148), written field by field. -/
theorem test_decode_engine : ∀ p ∈ ([
    (0b110100_00111_11000_0_10100_1_11011_0000#32, .cpy 7 ⟨24, false⟩ ⟨20, true⟩ 27),
    (0b11010000000_00100_1_000000000000001#32, .cstg ⟨4, true⟩),
    (0b11010000000_01111_0_01111_0_000000010#32, .cring ⟨15, false⟩ ⟨15, false⟩),
    (0b11010100000_11010_1_11100_0_11001_0000#32, .nmg ⟨26, true⟩ ⟨28, false⟩ 25),
    (0b11010100000_00110_0_01010_1_11010_0001#32, .nmr ⟨6, false⟩ ⟨10, true⟩ 26),
    (0b11010100000_10001_1_10111_1_11011_0010#32, .nmc ⟨17, true⟩ ⟨23, true⟩ 27),
    (0b11011000000000000000000_1011_00000#32, .dpost 22),
    (0b11011000000_01000_1_000000_10011_0001#32, .xsend ⟨8, true⟩ 19),
    (0b11011000000_10011_0_000000000000010#32, .xarm ⟨19, false⟩),
    (0b110110_01000_11110_1_000000000000011#32, .xstat 8 ⟨30, true⟩),
    (0b110111_01111_01010_0_11010_0_000000000#32, .route 15 ⟨10, false⟩ ⟨26, false⟩),
    (0b11011100000_10101_1_000000000000001#32, .icfg ⟨21, true⟩)] : List (BitVec 32 × Instr)), decode p.1 none = .ok p.2 := by decide +kernel

/-- Words of majors 0x38 to 0x3A (R149), written field by field. -/
theorem test_decode_system : ∀ p ∈ ([
    (0b1110000000000000000000_1010100101#32, .trap 0x2A5),
    (0b11100000000000000000010000000000#32, .rte),
    (0b11100000000000000000100000000000#32, .halt),
    (0b1110000000000000000011_0000010011#32, .brk 0x13),
    (0b111001_11010_00000000000_1001_001100#32, .rqrd 26 9 12),
    (0b11100100000_11001_1_00001_1110_000011#32, .rqwr ⟨25, true⟩ 14 3),
    (0b1110010000000000000010_0101_000000#32, .rqdel 5),
    (0b11101000000_10000_1_000000000000000#32, .tlbi ⟨16, true⟩),
    (0b11101000000_11011_0_000010000000000#32, .regi ⟨27, false⟩)] : List (BitVec 32 × Instr)), decode p.1 none = .ok p.2 := by decide +kernel

/-- Words of majors 0x0C and 0x20 (R132 L, R139, R143), written field by field. -/
theorem test_decode_literal : ∀ p ∈ ([
    (0b001100_10011_00000_0_000000000000000#32, 0x89ABCDEF#32, .li 19 0x89ABCDEF#32),
    (0b001100_00110_00000_0_000000000000001#32, 0x12345678#32, .lih 6 0x12345678#32),
    (0b001100_11110_00000_0_000000000000010#32, 0xFFFFFFF0#32, .lea 30 0xFFFFFFF0#32),
    (0b100000_00000_11001_1_000000000000000#32, 0x00000123#32, .spawn ⟨25, true⟩ 0x00000123#32)] : List (BitVec 32 × BitVec 32 × Instr)), decode p.1 (some p.2.1) = .ok p.2.2 ∧ decode p.1 none = .error .literalMissing := by
  decide +kernel

/-! WellFormed refuses an ill-formed term for each of its checks. -/

theorem smoke_signed_only : (([.add ⟨.w32, false⟩ 1 ⟨2, false⟩ ⟨3, false⟩, .clz ⟨.w8, false⟩ 1 ⟨2, false⟩,
    .cmpEq ⟨.w16, false⟩ 1 ⟨2, false⟩ ⟨3, false⟩, .st ⟨.w64, false⟩ 1 ⟨2, false⟩ 0, .put ⟨.w8, false⟩ ⟨2, false⟩ ⟨3, false⟩] :
      List Instr).all fun i => !i.wf) = true := by decide

theorem smoke_fields : (([.extr true 1 ⟨2, false⟩ 1 63, .insr 1 ⟨2, false⟩ 63 1, .widf 1 6] : List Instr).all fun i => !i.wf) = true := by
  decide

theorem smoke_types : (([.fcvt .s32 .n64 .rne false 1 ⟨2, false⟩, .fcvt .f32 .f32 .rne false 1 ⟨2, false⟩,
    .vcvt .bf16 .bf16 false 1 ⟨2, false⟩ 0, .vred .f64 ⟨1, false⟩ ⟨2, false⟩] : List Instr).all fun i => !i.wf) = true := by decide

theorem smoke_atomics : (([.amo .add .n32 1 ⟨2, false⟩ ⟨3, false⟩, .amo .add .f32 1 ⟨2, false⟩ ⟨3, false⟩,
    .red .swap .s32 ⟨2, false⟩ ⟨3, false⟩, .cas .n64 1 ⟨2, false⟩ ⟨3, false⟩, .famo .and .f32 1 ⟨2, false⟩ ⟨3, false⟩,
    .famo .add .s32 1 ⟨2, false⟩ ⟨3, false⟩, .fredMinmax .add .f32 ⟨2, false⟩ ⟨3, false⟩,
    .fredMinmax .min .s32 ⟨2, false⟩ ⟨3, false⟩] : List Instr).all fun i => !i.wf) = true := by decide

theorem smoke_banks : (([.mode 24 .fifo, .fpush 31 ⟨2, false⟩, .fpop 1 24, .mma 24 0 ⟨1, false⟩ ⟨2, false⟩,
    .mmat 0 24 ⟨1, false⟩ ⟨2, false⟩] : List Instr).all fun i => !i.wf) = true := by decide

theorem smoke_system : (([.msg ⟨1, false⟩ 2 0x0F, .msgv ⟨1, false⟩ 2 0, .dpost 3, .rqrd 1 0 16, .rqwr ⟨1, false⟩ 0 63] :
    List Instr).all fun i => !i.wf) = true := by decide

/-! Single steps on the manual's worked examples. -/

/-- What an instruction leaves in x3 and in the flags, of a strand with x1 and x2. -/
def leaves (i : Instr) (a b : Word) : Option (Word × Word) :=
  match exec i (onSlot 0 (two a b)) with
  | .next t => some (t.me.xr 3, t.me.fflags)
  | _ => none

/-- R151: ADD.s32 of 0x7FFF_FFFF and 1. -/
theorem test_add_wraps : leaves (.add ⟨.w32, true⟩ 3 ⟨1, false⟩ ⟨2, false⟩) 0x7FFFFFFF 1 = some (0xFFFFFFFF80000000, 0) := by
  decide +kernel

/-- R153: DIV.s8 of 0x80 by 0xFF; DIV.n16 by zero. -/
theorem test_div_corners : leaves (.div ⟨.w8, true⟩ 3 ⟨1, false⟩ ⟨2, false⟩) 0x80 0xFF = some (0xFFFFFFFFFFFFFF80, 0) ∧
    leaves (.div ⟨.w16, false⟩ 3 ⟨1, false⟩ ⟨2, false⟩) 5 0 = some (0xFFFF, 0) := by
  decide +kernel

/-- R156: CMPI.lt.n64 with −1 is 1 but for all ones. -/
theorem test_cmpi_unsigned : leaves (.cmpi .lt true 3 ⟨1, false⟩ (-1)) 0x7FFFFFFFFFFFFFFF 0 = some (1, 0) ∧
    leaves (.cmpi .lt true 3 ⟨1, false⟩ (-1)) 0xFFFFFFFFFFFFFFFF 0 = some (0, 0) := by
  decide +kernel

/-- R166: the table of FCVT. -/
theorem test_fcvt_table :
    leaves (.fcvt .f64 .s32 .rne false 3 ⟨1, false⟩) 0x4004000000000000 0 = some (2, 1) ∧
    leaves (.fcvt .f64 .s32 .rtz false 3 ⟨1, false⟩) 0xC004000000000000 0 = some (0xFFFFFFFFFFFFFFFE, 1) ∧
    leaves (.fcvt .f32 .n64 .rne false 3 ⟨1, false⟩) 0xBF800000 0 = some (0, 16) ∧
    leaves (.fcvt .f32 .s64 .rne false 3 ⟨1, false⟩) 0x5F000000 0 = some (0x7FFFFFFFFFFFFFFF, 16) ∧
    leaves (.fcvt .s32 .f32 .rne false 3 ⟨1, false⟩) 0x01000001 0 = some (0x4B800000, 1) ∧
    leaves (.fcvt .f64 .f32 .rne true 3 ⟨1, false⟩) 0x7E37E43C8800759C 0 = some (0x7F7FFFFF, 5) := by
  decide +kernel

/-- The sixteen values of spec/10_isa_vector.md's example, and its instructions by their words. -/
def sixteen : Vec := BitVec.ofNat 512 (0x3F800000 + 0xC0400000 * 2 ^ 32 + 0x40D00000 * 2 ^ 64 + 0x3F400000 * 2 ^ 96 +
  0xC1400000 * 2 ^ 128 + 0x40080000 * 2 ^ 160 + 0x3C000000 * 2 ^ 192 + 0x42C80000 * 2 ^ 224)
def vector (w : BitVec 32) (vs : List (Nat × Vec)) (d : RegNo) : Option (Vec × Word) :=
  match decode w none with
  | .ok i => (match exec i (onSlot 0 (regs [] vs)) with
    | .next t => some (t.me.vr d, t.me.fflags)
    | _ => none)
  | .error _ => none

theorem test_vscale : (vector 0xAC810021 [(1, sixteen)] 4).map (fun r => r.1.toNat % 2 ^ 64) = some (0x3E800000 + 0x7D * 2 ^ 32) := by
  decide +kernel

theorem test_vqnt : vector 0xACC11029 [(1, sixteen), (4, BitVec.ofNat 512 (0x3E800000 + 0x7D * 2 ^ 32))] 6 =
    some (BitVec.ofNat 512 (0x445DD448 + 0x7C1050E4 * 2 ^ 32), 1) := by
  decide +kernel

theorem test_vdqnt_vsum : ((vector 0xACE61031 [(6, BitVec.ofNat 512 (0x445DD448 + 0x7C1050E4 * 2 ^ 32)),
    (4, BitVec.ofNat 512 (0x3E800000 + 0x7D * 2 ^ 32))] 7).bind fun r => vector 0xA107000D [(7, r.1)] 8).map
      (fun r => (r.1.toNat % 2 ^ 32, r.2)) = some (0x42B68400, 0) := by
  decide +kernel

/-- R125: the words of spec/07_isa_scalar.md's example. -/
theorem test_words_of_the_example : ([0x044205C0, 0x4C020FFF, 0x38620014, 0x64645000, 0x84000001, 0x58000000].map
      fun w => decode w none) =
    [.ok (.add ⟨.w64, true⟩ 2 ⟨2, false⟩ ⟨1, false⟩), .ok (.loopn 1 0xFFF), .ok (.fcvt .s64 .f32 .dyn false 3 ⟨2, false⟩),
     .ok (.st ⟨.w32, true⟩ 3 ⟨4, false⟩ 0), .ok .retire, .ok .nop] ∧
    decode 0x30200000 (some 5) = .ok (.li 1 5) := by
  decide +kernel

/-- An instruction placed after reset is the one that the next step runs. -/
theorem test_first_step : (match step (State.reset.withFetchWord 32 0x30200000), step (State.reset.withFetchWord 64 (0x30200000 + 5 * 2 ^ 32)) with
    | .next a, .next b => a.me.xr 1 == 0 && b.me.xr 1 == 5 && !a.stalled
    | _, _ => false) = true := by
  decide +kernel

/-! Witnesses: states and operands that meet the hypotheses of the statements. -/

theorem witness_registers : (([[.xs 1 false, .xs 2 true, .xd 3], [.xs 1 false, .xd 3],
    [.xs 1 true, .xs 2 false, .xs 3 false, .xd 3], [.xs 1 false, .xs 3 false, .xd 3], [.xd 0], [.xs 3 false, .xd 3],
    [.xs 31 true], [.xs 1 false, .xd 24], [.xs 1 false, .xs 2 false], [.xs 7 false, .xd 7], [.vs 1 false, .vs 2 true, .vd 3],
    [.vs 31 false, .vd 3], [.vs 1 false, .vs 2 false, .vs 4 false, .vd 3], [.vs 1 false, .vs 2 false, .vs 3 false, .vd 3],
    [.vd 5], [.xs 1 false, .vd 3], [.xs 1 false, .xs 2 false, .vd 3], [.vs 1 false, .xs 2 false, .xd 3],
    [.vs 1 false, .vs 2 false], [.vs 2 false], [.xs 1 false, .vs 2 false], [.vs 4 false, .vs 5 false], []] :
    List (List Opnd)).all fun ops => issues s0 ops) = true := by
  decide +kernel

theorem witness_bit_counts : (0 < 2 ^ 8 ∧ 0 = 0) ∧ (255 < 2 ^ 8 ∧ 255 ≠ 0) ∧ (1 < 2 ^ 64 ∧ 1 ≠ 0) := by decide

theorem witness_fields_past_the_end : 64 < (63#6).toNat + (1#6).toNat + 1 ∧ 64 < (1#6).toNat + (63#6).toNat + 1 := by decide

/-- A strand whose older FAMO may still set a flag. -/
def flagged : Strand :=
  { strand0 with queue := [(({ addr := 0x8000, opa := 0x8000 } : Cap).entry (.famo .add .f32 3 ⟨1, false⟩ ⟨2, false⟩) strand0 150 .flight)] }

theorem witness_flags : (!s0.me.flagsPending && flagged.flagsPending && issues (onSlot 0 flagged) [.xd 4] &&
    issues (onSlot 0 flagged) [.xs 1 false]) = true := by
  decide +kernel

/-- A register target in x1. -/
def target (v : Word) : State := onSlot 0 (regs [(1, v)] [])

theorem witness_targets : (([0, 8, 0x03FFFFFFFFFFFFF8] : List Word).all fun v => let s := target v
    issues s [.xs 1 false] && issues s [.xs 1 false, .xd 24] && (s.me.xr 1).toNat % 8 == 0 && (s.me.xr 1).toNat < 2 ^ 58) =
      true := by
  decide +kernel

theorem witness_bad_targets : (([4, 1, 0x0400000000000000] : List Word).all fun v => let s := target v
    issues s [.xs 1 false] && issues s [.xs 1 false, .xd 24] &&
      ((s.me.xr 1).toNat % 8 != 0 || 2 ^ 58 ≤ (s.me.xr 1).toNat)) = true := by
  decide +kernel

/-- The rejoin header of the strand's block can be read and is framed. -/
def rejoins (s : State) : Bool :=
  let rejoin := s.me.hdr + BitVec.ofInt 64 (8 * hdrRejoin s.me.hword)
  hdrRejoin s.me.hword ≠ 0 && headerAddr rejoin && match s.code s.me (slotCore s.here) rejoin 8 with
    | .ok _ v => hdrFramed (BitVec.ofNat 64 v)
    | _ => false

/-- A strand at a depth of regions. -/
def deep (n : Nat) : State := mapped { strand0 with region := List.replicate n (1, 2) }

theorem witness_vif : ([0, 1, 3].all fun n => issues (deep n) [] && (deep n).me.region.length < 4 && rejoins (deep n)) =
    true := by
  decide +kernel

theorem witness_vif_traps : (issues (deep 4) [] && (deep 4).me.region.length == 4 && rejoins (deep 4) &&
    (let s := onSlot 0 { strand0 with hword := 0xFC500000 }; issues s [] && hdrRejoin s.me.hword == 0)) = true := by
  decide +kernel

theorem witness_region_ends : (issues (deep 2) [] && (deep 2).me.region == (1, 2) :: [(1, 2)] && issues s0 [] &&
    s0.me.region.isEmpty) = true := by
  decide +kernel

theorem witness_lanes : ([8, 16, 32, 64].all fun w => [8, 16, 32, 64].contains w && 512 / w - 1 < 512 / w &&
    strand0.lit 0 (512 / w - 1) && !strand0.lit 1 (512 / w - 1) && (3 : RegNo) != 4) = true := by
  decide +kernel

/-- Instructions with an address register x1 at an aligned place of the data page, of every kind that takes an entry. -/
def accesses : List Instr :=
  [.ld ⟨.w64, true⟩ 3 ⟨1, false⟩ 0, .ld ⟨.w8, false⟩ 3 ⟨1, false⟩ 0xFFF, .ldv 3 ⟨1, false⟩ 0, .ldg ⟨.w32, true⟩ 3 ⟨1, false⟩ 1,
   .st ⟨.w16, true⟩ 3 ⟨1, false⟩ 0, .sts ⟨.w64, true⟩ 3 ⟨1, false⟩ 1, .stv 3 ⟨1, false⟩ 0, .pf ⟨1, false⟩ 0, .flush ⟨1, false⟩ 0,
   .invl ⟨1, false⟩ 0, .amo .add .s64 3 ⟨1, false⟩ ⟨2, false⟩, .red .max .n32 ⟨1, false⟩ ⟨2, false⟩,
   .cas .s32 3 ⟨1, false⟩ ⟨2, false⟩, .famo .add .f64 3 ⟨1, false⟩ ⟨2, false⟩, .fredMinmax .min .f32 ⟨1, false⟩ ⟨2, false⟩,
   .get ⟨.w64, true⟩ 3 ⟨1, false⟩, .put ⟨.w32, true⟩ ⟨1, false⟩ ⟨2, false⟩, .putf ⟨.w8, true⟩ ⟨1, false⟩ ⟨2, false⟩]

/-- x1 at byte 64 of a line, with banks 0 to 23 in CACHE mode. -/
def onData : State := mapped (regs [(1, 0x8040), (2, 7)] [])

theorem witness_cached : (accesses.all fun i => meets onData i fun _ _ p =>
    !p.remote 0 && !p.unc && (onData.cluster 0).caches && p.dom == .die &&
      ((onData.core 0).region 0x8040).map rgnDom != some .cluster) = true := by
  decide +kernel

/-- The same in an uncached range, and in a cluster without a bank in CACHE mode. -/
def uncached : State := { onData with cores := [(0, { core0 with regions := [(0, region0 0x802)] })] }
def scratchy : State := { onData with clusters := [(0, { Cluster.reset with
  holder := some 3, started := true, modes := (List.range 24).map fun b => (b, BankMode.scratch) })] }

theorem witness_uncached : (accesses.all fun i => meets uncached i (fun _ _ p => p.unc && !p.remote 0) &&
    meets scratchy i (fun _ _ p => !(scratchy.cluster 0).caches && !p.remote 0)) = true := by
  decide +kernel

/-- The cluster holds the line in a state. -/
def holding (st : LState) : State := { onData with clusters := [(0, { Cluster.reset with
  holder := some 3, started := true
  lines := [⟨0x20040 / 128, st, 5, BitVec.allOnes 128, 0, .f32, .die, 0, 0x8000, [], [], []⟩] })] }

theorem witness_lines_held : ([LState.s, LState.d, LState.a].all fun st => accesses.all fun i =>
    meets (holding st) i fun _ _ p => !p.remote 0 && !p.unc && ((holding st).cluster 0).caches &&
      (match ((holding st).cluster 0).findLine (p.pa / 128) with
      | some x => x.st == st
      | none => false)) = true := by
  decide +kernel

theorem witness_not_held : (accesses.all fun i => meets onData i fun _ _ p =>
    ((onData.cluster 0).findLine (p.pa / 128)).isNone) = true := by
  decide +kernel

/-- Ranges that send an atomic to each of its places: SYSTEM, CLUSTER and PACKAGE; and a line of another die. -/
def ranged (dom : Nat) : State := { onData with cores := [(0, { core0 with regions := [(0, region0 (2 * dom))] })] }
def abroad : State := mapped (regs [(1, 0xC000), (2, 7)] [])

theorem witness_atomics : ((accesses.drop 10).all fun i => meets (ranged 3) i (fun _ _ p => p.dom == .system) &&
    meets abroad i (fun _ _ p => p.remote 0 && p.dom == .package &&
      ((abroad.core 0).region 0xC000).map rgnDom != some .cluster)) = true ∧
    (((accesses.drop 10).take 5).all fun i => meets (ranged 0) i fun _ _ p => p.dom == .cluster && !p.unc) = true := by
  decide +kernel

/-- A tile of two lines in bank 1, which is in SCRATCH mode. -/
def tiled : State :=
  { onSlot 0 { regs [(1, 0xF810000000000040), (2, 7)] [] with n := [(1, 1 + 2 * 2 ^ 12)] } with
    clusters := [(0, { Cluster.reset with holder := some 3, started := true, modes := [(1, .scratch)] })] }

/-- Accesses that a tile admits. -/
def tileAccesses : List Instr :=
  [.ld ⟨.w64, true⟩ 3 ⟨1, false⟩ 0, .ldv 3 ⟨1, false⟩ 0, .ldg ⟨.w32, true⟩ 3 ⟨1, false⟩ 1, .st ⟨.w16, true⟩ 3 ⟨1, false⟩ 0,
   .sts ⟨.w64, true⟩ 3 ⟨1, false⟩ 1, .stv 3 ⟨1, false⟩ 2, .amo .add .s64 3 ⟨1, false⟩ ⟨2, false⟩,
   .red .max .n32 ⟨1, false⟩ ⟨2, false⟩, .cas .s32 3 ⟨1, false⟩ ⟨2, false⟩, .famo .add .f64 3 ⟨1, false⟩ ⟨2, false⟩,
   .fredMinmax .min .f32 ⟨1, false⟩ ⟨2, false⟩]

theorem witness_tiles : (tileAccesses.all fun i => match memoryForm tiled.me i with
    | none => false
    | some (ops, o, c, _) =>
      let off := (c.addr &&& 0xFFF).toNat
      issues tiled ops && !tiled.me.walking && (o.bytes == 0 || c.addr.toNat % o.bytes == 0) &&
        addrKind c.addr == .tile 1 off && (tiled.cluster 0).tileAt tiled.me.ctx (tiled.me.nr 1) off o.bytes o.writes == .at (off + 16384) &&
        !tiled.sramBusy 0 (off + 16384) o.bytes && !(o.readsTile && (tiled.cluster 0).badAt (off + 16384) o.bytes)) = true := by
  decide +kernel

/-- A window of `n` bytes at 0x8000. -/
def windowed (n : Nat) : State := mapped { regs [(1, 8)] [] with p0 := some (0x8000, n) }

theorem witness_windows : ([9, 10, 16, 100].all fun n =>
    let s := windowed n
    let c : Cap := { addr := 0x8008, opa := 8 }
    let s1 := s.enter (.ldp ⟨.w64, true⟩ 3 0 ⟨1, false⟩ 0) (.ldp ⟨.w64, true⟩ 3 0) c .flight s.me
    let cells := pieces 0x8008 (min 8 (n - 8))
    issues s [.xs 1 false, .xd 3] && !s.me.walking && (s.window s.me 0).2 != 0 &&
      match s1.resolve (s1.strand 0) 0 [] false (pagesOf cells) with
      | .ok spots => cells.all fun q => match spotOf spots q.1 with
        | some p => !(s.cluster 0).pendingOn s.me.ctx (p.pa / 128) && !(s.cluster 0).boardMem p.pa q.2 false &&
          !s.wayBusy 0 (p.pa / 128)
        | none => true
      | _ => false) = true := by
  decide +kernel

/-- An accumulate range, with an A line of it in the cluster or none. -/
def summing (k : Cluster) : State :=
  { mapped (regs [(1, 0x8040), (2, 7)] [(2, 9)]) with
    cores := [(0, { core0 with regions := [(0, region0 0x42)] })], clusters := [(0, k)] }

theorem witness_increments : ([Cluster.reset, (holding .a).cluster 0, scratchy.cluster 0].all fun k =>
    let s := summing k
    issues s [.xs 1 false, .xs 2 false] && issues s [.xs 1 false, .vs 2 false] && !s.me.walking && s.me.walk.isNone &&
      addrKind 0x8040 == .virtual && match s.spot 0x8040 true, (s.core 0).region 0x8040 with
      | some p, some g => rgnAcc g && !rgnRo g && !rgnCmp g && !(s.cluster 0).pendingOn s.me.ctx (p.pa / 128) &&
          !(s.cluster 0).boardMem p.pa 64 true && !(s.cluster 0).boardMem p.pa 4 true && !s.wayBusy 0 (p.pa / 128)
      | _, _ => false) = true := by
  decide +kernel

/-- A compensated range whose companions stand a line further on: one element, and a vector of them. -/
theorem witness_pairs : ([4, 64].all fun n =>
    let s : State := { mapped (regs [(1, 0x8040), (2, 7)] [(2, 9)]) with
      cores := [(0, { core0 with regions := [(0, region0 0xC2 + BitVec.ofNat 128 (2 ^ 108))] })] }
    let w := s.whoAt s.here
    match (s.core 0).region 0x8040 with
    | none => false
    | some g =>
      let cells := [(0x8040, n), (0x8040 + rgnCstr g, n)]
      issues s [.xs 1 false, .xs 2 false] && issues s [.xs 1 false, .vs 2 false] && !s.me.walking && addrKind 0x8040 == .virtual &&
        rgnAcc g && !rgnRo g && rgnCmp g && rgnCstr g == 128 && s.compOk 0 [(0x8040 + rgnCstr g, n)] &&
        match s.resolve s.me 0 [] true (pagesOf cells) with
        | .ok spots => (spotOf spots 0x8040).isSome && (spotOf spots 0x8040).all (s.incDirect w ·) &&
          !(s.cluster 0).blocks s.me.ctx spots true cells
        | _ => false) = true := by
  decide +kernel

theorem witness_direct : (let s := abroad
    (s.spot 0xC000 true).any fun p => p.remote 0 && s.incDirect (s.whoAt s.here) p) = true := by
  decide +kernel

/-- A fence at x1 may be taken with a reach. -/
def fences (s : State) (d : Dom) : Bool :=
  issues s [.xs 1 false] && s.reachOf s.me (mAddr (s.me.xr 1) 0 128) == .at d && !s.me.walking && s.edgeReady s.me

theorem witness_fences :
    (fences onData .die && fences abroad .package && fences tiled .cluster && fences (ranged 3) .system) = true := by
  decide +kernel




theorem witness_modes : (([0, 1, 21] : List (BitVec 5)).all fun b => [Cluster.reset, tiled.cluster 0].all fun k =>
    let s := beside k
    issues s [] && 128 * b.toNat < s.fareaLo s.me.launch && !k.busyBank b.toNat && !k.matNames b.toNat &&
      !k.boardScratch (16384 * b.toNat) 16384 true && !k.cvtOn s.me.ctx (16384 * b.toNat) 16384 && k.mode b.toNat != .fifo) = true := by
  decide +kernel

theorem witness_mode_ends :
    let s := beside { Cluster.reset with changing := [⟨2, .scratch, [7]⟩] }
    ((s.cluster 0).changing.find? (fun c => c.bank == 2) == some ⟨2, .scratch, [7]⟩ && s.allDone false [7]) = true := by
  decide +kernel

theorem witness_frames : (([3, 4, 19] : List Word).all fun v =>
    let s := onSlot 0 (two v 0)
    issues s [.xs 1 false, .xd 3] && !s.me.walking && 3 ≤ v.toNat && v.toNat ≤ 19 && (s.newCounter (some 3) 0).isSome &&
      match s.newCounter (some 3) 0, s.findRoom (some 3) 0 v.toNat [] with
      | some c, some (false, line) =>
        let r : Rec := ⟨0, false, 128 * line⟩
        let name := fnMoved (c.zeroExtend 64 <<< 31) r
        (((s.setCtr (some 3) c ⟨0, true, false, none, 0⟩).takeRoom (some 3) 0 false line v.toNat []).writeFields (some 3) r
          [⟨0, 8, 0⟩, ⟨8, 8, (linkWord s.me.jl).toNat⟩, ⟨16, 8, s.me.wid.toNat⟩,
           ⟨24, 8, recInfo s.me.prio s.me.cls 0 0 v.toNat⟩, ⟨32, 8, name.toNat⟩, ⟨40, 24, 0⟩]).isSome
      | _, _ => false) = true := by
  decide +kernel

/-- The name of frame 0 of cluster 0 with counter 0, in x1 with bit 63. -/
theorem witness_frees :
    let s := onSlot 0 (two 0x8000000000000000 0)
    let f : Word := 0
    let j := s.ctr (some 3) (fnCtr f)
    (issues s [.xs 1 false, .xd 3] && !s.me.walking && (s.me.xr 1).getLsbD 63 && s.nameOk s.me f && fnClus f == 0 && ctrClus (fnCtr f) == 0 &&
      j.value == 0 && j.parked.isNone) = true := by
  decide +kernel

/-- A record of 3 lines, or of 19, in the frame area at 0x60000. -/
def framed (n : Nat) (t : Strand) : State := { mapped t with clusters := [(0, Cluster.writeSram
  { Cluster.reset with holder := some 3, started := true } (0x60000 + 24) (recInfo 0 .arith 1 0 n) 8)] }

theorem witness_spawn : ([0, 30].all fun n =>
    let s := framed 3 (two 0x60000 0)
    let s : State := { s with cores := [(0, { core0 with deque := List.replicate n 0 })] }
    issues s [.xs 1 false] && !s.me.walking && slotIdx s.here != 4 && s.nameOk s.me (s.me.xr 1) && frameReg 1 &&
      (s.core 0).deque.length ≤ 30 && (s.readRec (some 3) (recOf (s.me.xr 1)) 0 8).isSome) = true := by
  decide +kernel

theorem witness_tile_mask : (issues (onSlot 0 (two 0xFFFF 0)) [.xs 1 false] && ((onSlot 0 (two 0xFFFF 0)).me.xr 1).toNat < 2 ^ 16) =
    true := by
  decide +kernel

/-- The continuation header is read and a record of x1 has room for it. -/
def publishes (s : State) : Bool :=
  let t := s.me
  let f := t.xr 1
  issues s [.xs 1 false] && s.nameOk t f && frameReg 1 && (recOf f).clus == slotCore s.here / 32 && headerAddr t.nextHeader &&
    slotIdx s.here != 4 && t.filled && !t.walking && match s.code t (slotCore s.here) t.nextHeader 8 with
    | .ok s1 v =>
      let h := BitVec.ofNat 64 v
      t.gate (liveOpnds h) == .ok && (s1.ctr t.launch (fnCtr f)).parked.isNone && !(s1.ctr t.launch (fnCtr f)).reserved &&
        match s1.readRec t.launch (recOf f) 24 8 with
        | some info => liveLines h ≤ infoSize info &&
          (s1.writeFields t.launch (recOf f) (publishFields t 1 t.nextHeader h (infoSize info))).isSome
        | none => false
    | _ => false

theorem witness_publish_and_sync : ([3, 19].all fun n => publishes (framed n (two 0x60000 0))) = true := by decide +kernel

theorem witness_bindings : (([0, 0xFFFFFF] : List Word).all fun v => issues (onSlot 0 (two v 0)) [.xs 1 false] && v.toNat < 2 ^ 24) = true ∧
    (([0x1000000, 0xFFFFFFFFFFFFFFFF] : List Word).all fun v =>
      issues (onSlot 0 (two v 0)) [.xs 1 false] && 2 ^ 24 ≤ v.toNat) = true := by
  decide +kernel

/-- A strand that may take an edge. -/
def edges (s : State) : Bool := issues s [] && slotIdx s.here != 4 && s.me.filled && s.edgeReady s.me

theorem witness_retire : (([none, some .seed, some (.counter 5), some (.counter (5 + 33 * 2 ^ 13))] : List (Option JoinLink)).all fun j =>
    let s := onSlot 0 { strand0 with jl := j, bound := some 7 }
    edges (onSlot 0 { strand0 with jl := j }) && edges s && s.me.bound == some 7) = true ∧
    ctrClus 5 = 0 ∧ ctrClus (5 + 33 * 2 ^ 13) ≠ 0 := by
  decide +kernel

theorem witness_barriers : (([1, 65535] : List Word).all fun v =>
    let s := onSlot 0 (two 0x10021 v)
    issues s [.xs 1 false, .xs 2 false] && s.barOk s.me (s.me.xr 1) && v.toNat != 0 && v.toNat ≤ 65535) = true ∧
    (let s := onSlot 0 (two 0x3F0000 0)
     issues s [.xs 1 false, .xd 3] && (s.me.xr 1).toNat < 2 ^ 22 && barCore (s.me.xr 1) == slotCore s.here) = true ∧
    (let s := { onSlot 0 { two 0x3F0000 0 with lp := some 0x60000 } with clusters := [(0, Cluster.writeSram
        { Cluster.reset with holder := some 3, started := true } 0x60000 0x4058 8)] }
     issues s [.xs 1 false] && s.barOk s.me (s.me.xr 1) && s.me.filled && s.edgeReady s.me &&
       match s.readRec s.me.launch (recOf 0x60000) 0 8 with
       | some chdr => BitVec.ofNat 64 (chdr % 2 ^ 58) == s.me.nextHeader
       | none => false) = true := by
  decide +kernel

/-- A message from slot 0 to a core of its cluster, of its die and of another die. -/
theorem witness_messages : (([1, 40, 9000] : List Word).all fun c =>
    let s := onSlot 0 (two c 0x4058)
    let regs : List Opnd := [1, 2, 3, 4, 5, 6].map fun r => .xs r false
    s.coreOk s.me (s.me.xr 1) && s.edgeReady s.me && s.pathRoom s.me.launch (c.toNat % 2 ^ 16) &&
      issues s [.xs 1 false, .xs 5 false] && issues s [.xs 1 false, .vs 5 false] &&
      issues s (.xs 1 false :: .xs 2 false :: regs ++ [.xd 9]) && issues s (.xs 1 false :: .xs 2 false :: regs)) = true := by
  decide +kernel

theorem witness_reply : let s := onSlot 4 { two 0 5 with caller := some (100, 6, 40) }
    (issues s [.xs 2 false] && slotIdx s.here == 4 && s.me.filled && s.edgeReady s.me && s.me.caller == some (100, 6, 40)) =
      true := by
  decide +kernel

theorem witness_tenq : let s := onSlot 0 (two 5 (1 + 255 * 2 ^ 24))
    (issues s [.xs 1 false, .xs 2 false] && taskOk (s.me.xr 2 ++ s.me.xr 1) && s.edgeReady s.me) = true := by
  decide +kernel

/-- A launch of a graph of template 5, which takes donations. -/
def graph0 : Launch := { launch0 with words := (launch0.words.set 70 (BitVec.ofNat 64 (5 + 2 ^ 24))).set 0 (BitVec.ofNat 64
  (0x100001 + 2 ^ 23)) }

/-- The same with two nodes whose counters stand in a page of die 0 and in one of die 1. -/
def graphed (node : Nat) : State := { mapped (two (BitVec.ofNat 64 (5 + node * 2 ^ 48)) 5) with
  launches := [(3, { graph0 with nodes := [[0, 0, 0, 0x8000], [0, 0, 0, 0xC000]] })] }

theorem witness_trec : ([0, 1].all fun node =>
    let s := graphed node
    let va := (s.depCounter s.me (s.me.xr 2 ++ s.me.xr 1) &&& 0x03FFFFFFFFFFFFFF).toNat
    issues s [.xs 1 false, .xs 2 false, .xd 3] && taskOk (s.me.xr 2 ++ s.me.xr 1) && s.edgeReady s.me && match s.lookup s.me 0 va with
      | some x => x.w && (s.placeBy 0 x va).remote 0 == (node == 1)
      | none => false) = true := by
  decide +kernel

theorem witness_donate :
    let s : State := { mapped (two 1 0x8010) with cg := { State.reset.cg with cgmem := 0xFFFF } }
    let k := s.cluster 0
    (issues s [.xs 1 false, .xs 2 false] && s.inGroup 1 && s.pkg.toNat != 1 && !s.me.walking && addrKind 0x8010 == .virtual &&
      k.caches && match s.spot 0x8010 false with
      | some p => !p.remote 0 && !p.unc && !k.pendingOn s.me.ctx (p.pa / 128) && !k.boardMem p.pa 16 false &&
        (s.portOps s.me.ctx (p.pa / 128)).isEmpty && !s.wayBusy 0 (p.pa / 128)
      | none => false) = true := by
  decide +kernel

/-- Bank 2 in FIFO mode. -/
def fifoed (f : Fifo) : State := beside { Cluster.reset with modes := [(2, .fifo)], fifos := [(2, f)] }

theorem witness_fifos : (([⟨[], [], none, false, 0⟩, ⟨List.replicate 127 0, List.replicate 127 0, none, false, 0⟩,
    ⟨List.replicate 127 0, List.replicate 127 0, some 5, false, 0⟩, ⟨[1, 2], [0, 0], none, true, 0⟩, ⟨[1], [0], none, false, 0⟩] : List Fifo).all fun f => issues (fifoed f) [.vs 2 false] && issues (fifoed f) [.vd 2] &&
      !(fifoed f).sramBusy 0 (16384 * 2) 16384 && !((fifoed f).cluster 0).busyBank 2 && ((fifoed f).cluster 0).mode 2 == .fifo) = true := by
  decide +kernel

/-- Bytes 16-bit formats with a FP32 accumulator of pitch 16, set by slot 0's strand. -/
def descriptor : Word := BitVec.ofNat 64 (2 + 2 * 2 ^ 4 + 16 * 2 ^ 32)
def matCtx0 : MatCtx := { MatCtx.reset with descA := descriptor, syn := synOf descriptor, setter := some (0, 100), bind := 1 + 8 * 2 ^ 12 }
def dims (m n k : Nat) : Word := BitVec.ofNat 64 (m + n * 2 ^ 8 + k * 2 ^ 16)

theorem witness_formats : (let s := onSlot 0 (two descriptor 0)
    issues s [.xs 1 false, .xs 2 false] && bits (s.me.xr 1).toNat 29 3 == 0 && formatOk (s.me.xr 1) (s.me.xr 2) && s.matIdle 0 && s.emitFree 0 &&
      !(s.core 0).restoring) = true ∧
    (([0x0000, 0x0016, 0x1740, 0x0F31, 0x0080, 0x3F36] : List Word).all fun v => let s := onSlot 0 (two v 0)
      issues s [.xs 1 false, .xd 3] && mstatOk (s.me.xr 1) == (v != 0x0016 && v != 0x1740) && s.matIdle 0) = true ∧
    (([0x0000, 0x0035, 0x0085, 0x3F36] : List Word).map fun v => mstatOk v) = [true, false, true, true] := by
  decide +kernel

/-- Its cluster, with banks 1 and 2 in FIFO mode and the data page in an accumulate range. -/
def summingUnit (t : Strand) (flags : Nat) : State :=
  { mapped t with
    cores := [(0, { core0 with regions := [(0, region0 flags)] })]
    clusters := [(0, { Cluster.reset with
      holder := some 3, started := true, modes := [(1, .fifo), (2, .fifo)], mats := [(0, matCtx0)] })] }

theorem witness_requests : ([(1, 1, 1), (16, 16, 16)].all fun d => [false, true].all fun tags => [false, true].all fun plain =>
    let s := summingUnit (two 0x8040 (dims d.1 d.2.1 d.2.2)) (if plain then 0x42 else 0xC2)
    let m := s.mat 0
    let k := s.cluster 0
    let rows := (footprint m 0x8040 (s.me.xr 2)).flatMap fun r => pageParts r.1 r.2
    let comp := s.companions 0 rows
    issues s [.xs 1 false, .xs 2 false] && (0x8040 % m.esize == 0) && m.setter == some (slotIdx s.here, s.me.ctx) &&
      dimsOk (s.me.xr 2) (matDepth m.af) true tags && ((m.banks 1 2 tags).all fun n => k.mode n == .fifo && !k.busyBank n) &&
      (m.syn == .native && m.bsf == 0 && bindSize m.bind != 0) && addrKind 0x8040 == .virtual &&
      accOk (s.regionsOf 0 (pagesOf rows)) && m.cf < 2 && (m.cf != 1 || allCmp (s.regionsOf 0 (pagesOf rows))) &&
      comp.isEmpty == plain && s.compOk 0 comp && !anyRo (s.regionsOf 0 (pagesOf rows)) && !s.me.walking &&
      m.reqs.length < 4 && !(s.core 0).restoring && match s.resolve s.me 0 [] true (pagesOf (rows ++ comp)) with
      | .ok spots => (rows ++ comp).all fun q => match spotOf spots q.1 with
        | some p => !k.boardMem p.pa q.2 true
        | none => true
      | _ => false) = true := by
  decide +kernel

/-- Nothing holds the lines of pieces at their places. -/
def clear (k : Cluster) (ctx : Nat) (spots : List (Nat × Place)) (w : Bool) (l : List (Nat × Nat)) : Bool :=
  l.all fun q => match spotOf spots q.1 with
  | some p => !k.pendingOn ctx (p.pa / 128) && !k.boardMem p.pa q.2 w
  | none => true

theorem witness_accz : ([(1, 1), (16, 16)].all fun d =>
    let s := summingUnit (two 0x8040 (dims d.1 d.2 0)) 0x42
    let s1 := (s.enter (.accz ⟨1, false⟩ ⟨2, false⟩) .accz
      { addr := 0x8040, opa := 0x8040, opb := s.me.xr 2, acc := { desc := (s.mat 0).descA } } .flight s.me).emit
      (s.whoAt 0)
    let rows := (footprint (s.mat 0) 0x8040 (s.me.xr 2)).flatMap fun r => pageParts r.1 r.2
    let comp := s1.companions 0 rows
    issues s [.xs 1 false, .xs 2 false] && !s.me.walking && (s.mat 0).setter == some (slotIdx s.here, s.me.ctx) &&
      addrKind 0x8040 == .virtual && s.matIdle 0 && s.emitFree 0 && !(s.core 0).restoring && s1.compOk 0 comp && 0x8040 % (s.mat 0).esize == 0 &&
      dimsOk (s.me.xr 2) 0 false true && accOk (s1.regionsOf 0 (pagesOf rows)) && !anyRo (s1.regionsOf 0 (pagesOf rows)) &&
      match s1.resolve (s1.strand 0) 0 [] true (pagesOf (rows ++ comp)) with
      | .ok spots => clear (s1.cluster 0) (s1.strand 0).ctx spots true ((rows ++ comp).flatMap fun r => pieces r.1 r.2)
      | _ => false) = true := by
  decide +kernel

theorem witness_accrd : [false, true].all fun pair =>
    let s := summingUnit (two 0x8040 0) (if pair then 0xC2 else 0x42)
    let s := s.setMat 0 { s.mat 0 with descA := descriptor + if pair then 0x100 else 0 }
    let s1 := (s.enter (.accrd 3 ⟨1, false⟩) (.accrd 3)
      { addr := 0x8040, opa := 0x8040, acc := { desc := (s.mat 0).descA } } .flight s.me).emit (s.whoAt 0)
    let comp := s1.companions 0 [(0x8040, 4)]
    let cells := if pair then (0x8040, 4) :: comp else [(0x8040, (s1.mat 0).esize)]
    issues s [.xs 1 false, .xd 3] && ((s.mat 0).cf == 1) == pair && (!pair || (!comp.isEmpty && s1.compOk 0 comp)) && match s1.resolve (s1.strand 0) 0 [] false (pagesOf cells) with
      | .ok spots => clear (s1.cluster 0) (s1.strand 0).ctx spots false cells
      | _ => false := by
  decide +kernel

theorem witness_acccvt :
    let s := summingUnit (two 0x8040 0x8100) 0x42
    let i : Instr := .acccvt .f32 .bf16 false .dyn ⟨1, false⟩ ⟨2, false⟩
    let s1 := (s.enter i (.acccvt .f32 .bf16 false .dyn) 
      { addr := 0x8040, opa := 0x8040, opb := 0x8100, acc := { desc := (s.mat 0).descA, mode := cvtMode (s.mat 0) s.me .dyn } } .flight s.me).emit (s.whoAt 0)
    let elems := (List.range 16).map fun j => (0x8040 + 4 * j, 4)
    (issues s [.xs 1 false, .xs 2 false] && addrKind 0x8100 == .virtual && !anyRo (s1.regionsOf 0 (pagesOf [(0x8100, 32)])) &&
      s1.compOk 0 (s1.companions 0 elems) &&
      match s1.resolve (s1.strand 0) 0 [] false (pagesOf elems), s1.resolve (s1.strand 0) 0 [] true (pagesOf [(0x8100, 32)]) with
      | .ok spots, .ok ws => clear (s1.cluster 0) (s1.strand 0).ctx spots false elems && (ws.all fun q => !q.2.remote 0) &&
        clear (s1.cluster 0) (s1.strand 0).ctx ws true (pieces 0x8100 32)
      | _, _ => false) = true := by
  decide +kernel

/-! Engines and exchange. -/

/-- The strand on a mapped core in a cluster with ring 0. -/
def ringed (t : Strand) : State :=
  { mapped t with clusters := [(0, { Cluster.reset with
    holder := some 3, started := true, rings := [(0, ⟨0x8000, 4, 0⟩)], modes := [(2, .fifo)] })] }

theorem witness_cring : (let s := ringed (two 0 3)
    issues s [.xs 1 false, .xs 2 false] && bits (s.me.xr 2).toNat 8 8 == 0 && bits (s.me.xr 2).toNat 32 32 == 0 &&
      bits (s.me.xr 2).toNat 0 5 ≤ 16 && bits (s.me.xr 2).toNat 7 1 == 0) = true ∧
    (let s := ringed (two 0x8000 (4 + 0x80 + 31 * 2 ^ 16))
    issues s [.xs 1 false, .xs 2 false] && bits (s.me.xr 2).toNat 8 8 == 0 && bits (s.me.xr 2).toNat 32 32 == 0 &&
      bits (s.me.xr 2).toNat 0 5 ≤ 16 && 0x8000 % (32 * 2 ^ 4) == 0 && s.inLaunch s.me 0 && addrKind 0x8000 == .virtual &&
      !s.me.walking && s.me.walk == none && match s.spot 0x8000 true with
      | some p => !p.remote 0
      | none => false) = true := by
  decide +kernel

theorem witness_cstg : ([0, 0xFFFFFFFF].all fun v => let s := onSlot 0 (two v 0)
    issues s [.xs 1 false] && !s.me.walking && (s.me.xr 1).toNat < 2 ^ 32) = true := by
  decide +kernel

/-- Two copies: a box of 2 rows of 3 words, and 32 words into bank 2. -/
def box : Vec := BitVec.ofNat 512 (2 + 0x800 + 3 * 2 ^ 32 + 2 * 2 ^ 64 + 2 ^ 96 + 12 * 2 ^ 128 + 16 * 2 ^ 256)
def toBank : Vec := BitVec.ofNat 512 (2 + 8 + 2 * 2 ^ 4 + 32 * 2 ^ 32 + 2 ^ 64 + 2 ^ 96)

theorem witness_cpy : ([(box, 3), (toBank, 0)].all fun vd =>
    let s := ringed (regs [(1, 0x8040), (2, 0x8100)] [(4, vd.1)])
    let t := s.me
    let k := s.cluster 0
    let v := t.vr 4
    let g := geomBits v
    let ivs := copyIntervals g v (t.xr 1) (t.xr 2)
    issues s [.xs 1 false, .xs 2 false, .vs 4 false, .xd vd.2] && (copyChecks g v (t.xr 1) (t.xr 2) k (s.core 0) t.nr).isNone &&
      !t.walking && s.boardFree (0 :: castList 0 g.mask) && !k.busyBank g.fbank &&
      (ivs.all fun iv => !iv.busy k t.nr) && match translateAll (fun p w => s.resolve t 0 [] w [p]) ivs with
      | .ok spots => !k.forkHeld t.ctx (boardOf s.serial k t.nr spots ivs)
      | _ => false) = true := by
  decide +kernel

/-- 4 FP32 elements: gathered by the indexes at 0x8200, reduced over 2 sources, or converted to BF16. -/
def near (kind : Nat) : Vec :=
  BitVec.ofNat 512 (9 * 2 ^ 8 + (if kind = 5 then 10 else 9) * 2 ^ 13 + 4 * 2 ^ 32 + 0x8200 * 2 ^ 64 + 2 * 2 ^ 128 + 64 * 2 ^ 160)

theorem witness_near : ([3, 4, 5].all fun kind =>
    let s := ringed (regs [(1, 0x8040), (2, 0x8100)] [(4, near kind)])
    let t := s.me
    issues s [.xs 1 false, .xs 2 false, .vs 4 false] && !t.walking && s.boardFree [0] &&
      ((s.cluster 0).rings.find (vbits (t.vr 4) 0 2)).isSome &&
      match nearOf kind (t.vr 4) (frmMode t.frm) (t.xr 1) (t.xr 2) with
      | none => false
      | some n =>
        let ivs := nearIntervals n
        (nearAlign kind (t.vr 4) (t.xr 1) (t.xr 2)).isNone &&
        (ivs.all fun iv => iv.formOk && iv.tile == none && !iv.tooLong &&
          (!iv.write || iv.pages.all fun p => !anyRo [(s.core 0).region (p * 16384)])) &&
        match translateAll (fun p w => s.resolve t 0 [] w [p]) ivs with
        | .ok spots => !(s.cluster 0).forkHeld t.ctx (boardOf s.serial (s.cluster 0) t.nr spots ivs)
        | _ => false) = true := by
  decide +kernel

/-- Die 0 with the exchange unit `x`; endpoint 1 is a member of the group. -/
def withUnit (t : Strand) (x : Exchange) : State :=
  { mapped t with
    dies := [(0, { Die.reset with xu := x })], cg := { State.reset.cg with cgmem := 2 } }

theorem witness_dpost :
    let s := withUnit (regs [] [(4, 0x50000), (5, 0)]) Die.reset.xu
    let row := demand (s.me.vr 4) (s.me.vr 5) (s.endpoint 0)
    (issues s [.vs 4 false, .vs 5 false] && (s.xu 0).state == .idle && row[1]? == some 5 &&
      row.zipIdx.all fun c => c.1 == 0 || s.member c.2) = true := by
  decide +kernel

/-- An expert map of one expert of one endpoint with rows of 2 lines. -/
def mapWords : List Word := (List.replicate 32 0).set 0 (BitVec.ofNat 64 (1 + 2 ^ 5 + 2 ^ 16))

theorem witness_xsend : ([(0, 0), (63, 0), (63, 4)].all fun c =>
    let s := withUnit (regs [(1, BitVec.ofNat 64 c.1)] [(4, BitVec.ofNat 512 (c.2 + 256 * 2 ^ 32 + 0x8080 * 2 ^ 64))])
      { Die.reset.xu with state := .granted, emap := some ⟨mapWords, 0, 0, none, []⟩ }
    let x := s.xu 0
    let v := s.me.vr 4
    let bytes := vbits v 32 32
    let buf := BitVec.ofNat 64 (vbits v 64 58)
    let rows := vbits v 2 1 == 1
    let iv : Interval := ⟨buf, 0, (bytes : Nat), rows⟩
    issues s [.xs 1 false, .vs 4 false] && buf.toNat % 128 == 0 && vbits v 3 13 == 0 && vbits v 122 390 == 0 && bytes % 128 == 0 &&
      bytes ≤ 8388480 && bytes % (128 * (1 + (x.emap.map XTable.rowl).getD 0)) == 0 && x.emap.isSome && x.state != .idle &&
      x.sends.isEmpty && iv.formOk && (iv.pages.all fun p => !anyRo [(s.core 0).region (p * 16384)]) && !s.me.walking &&
      match translateAll (fun p w => s.resolve s.me 0 [] w [p]) [iv] with
      | .ok _ => true
      | _ => false) = true := by
  decide +kernel

theorem witness_xstat : (([0, 1, 2 + 63 * 2 ^ 4, 3 + 255 * 2 ^ 10, 4, 5] : List Word).all fun v =>
    let s := withUnit (two v 0) Die.reset.xu
    issues s [.xs 1 false, .xd 3] && ((s.xu 0).item (s.endpoint 0) (s.me.xr 1).toNat).isSome) = true := by
  decide +kernel

theorem witness_route : ([(1, 1), (1, 16), (16, 1), (5, 3)].all fun c =>
    let s := onSlot 0 (regs [(2, BitVec.ofNat 64 (c.1 + c.2 * 2 ^ 5))] [(1, 0)])
    let x := (s.me.xr 2).toNat
    issues s [.vs 1 false, .xs 2 false, .vd 3] && x < 2 ^ 10 && bits x 0 5 == c.1 && bits x 5 5 == c.2 && c.2 ≤ 16 / c.1) = true := by
  decide +kernel

/-- The unit at rest over a data page that holds the map, and then an arm table of one base. -/
def tabled : State :=
  let s := withUnit (two 0x8080 0) Die.reset.xu
  let s := (s.writeMem 0x20080 (1 + 2 ^ 5 + 2 ^ 16) 8)
  s
def armed : State :=
  let s := withUnit (two 0x8080 0) Die.reset.xu
  (s.writeMem (0x20080 + 64 + 16) 0x8800 8)

theorem witness_icfg :
    let s := tabled
    (issues s [.xs 1 false] && (s.xu 0).state != .running && !s.me.walking && match s.resolve s.me 0 [] false (pagesOf [(0x8080, 256)]) with
      | .ok spots => (match s.readTable s.me 0 spots 0x8080 256 with
        | .done _ (v, false) => !(XTable.mk (wordsOf v 32) 0 s.me.func s.me.launch []).mapBad
        | _ => false)
      | _ => false) = true := by
  decide +kernel

theorem witness_xarm :
    let s := armed
    (issues s [.xs 1 false] && (s.xu 0).state != .running && !s.me.walking && match s.resolve s.me 0 [] false (pagesOf [(0x8080, 1088)]) with
      | .ok spots => (match s.readTable s.me 0 spots 0x8080 1088 with
        | .done s1 (v, false) =>
          let x : XTable := ⟨wordsOf v 136, 0, s.me.func, s.me.launch, []⟩
          let ivs : List Interval := ((List.range 64).filter fun e => x.base e != 0 && !x.ing e).map fun e =>
            ⟨BitVec.ofNat 64 (x.base e), 0, 1, true⟩
          !x.armBad && ivs.length == 1 && (ivs.all fun iv => iv.pages.all fun p => !anyRo [(s1.core 0).region (p * 16384)]) &&
            match translateAll (fun p w => s1.resolve s.me 0 [] w [p]) ivs with
            | .ok _ => true
            | _ => false
        | _ => false)
      | _ => false) = true := by
  decide +kernel

/-! Traps and system instructions. -/

/-- A valid vector entry for handlers, and a core with it. -/
def handled : Core := { core0 with vtab := [(9, BitVec.ofNat 128 (0x4000 + 2 ^ 75 + 7 * 2 ^ 64))] }
def trapping (t : Strand) : State := { onSlot 0 t with cores := [(0, handled)] }

theorem witness_handler :
    let s := trapping strand0
    let u := s.strand 0
    (u.bound.isNone && vecValid ((s.core 0).vtab.get 9 0) && slotIdx 0 != 4 && s.bankFree 0 &&
      !(s.mat 0).setBy (slotIdx 0) u.ctx) = true := by
  decide +kernel

theorem witness_software_trap : (let s := trapping strand0
    issues s [] && ([Trap.software 5, .breakpoint 5, .illegal].all fun t => (s.takeTrap 0 t s.me.pc 0 0).isSome)) = true := by
  decide +kernel

theorem witness_no_handler : (([s0, trapping { strand0 with bound := some 90 }] : List State).all fun s =>
    ((s.strand 0).bound.isSome || !vecValid ((s.core 0).vtab.get 9 0)) && (s.strand 0).launch == some 3 &&
      match s.launches.find 3 with
      | some l => l.state == .ready
      | none => false) = true := by
  decide +kernel

/-- The context that a handler is bound to, its image in frames at 0x30000 and 0x31000. -/
def saved0 : Saved := ⟨90, 1, .bound, 0x30000, 0x31000, true, strand0, .reset, 0⟩

/-- The context's last slot is one of cluster 1. -/
def saved1 : Saved := { saved0 with slot := slotKey 32 1 }

/-- A handler over an image whose entry 2 is valid. -/
def handling : State :=
  ({ trapping { two 7 8 with bound := some 90 } with saved := [saved0] } : State).writeMem (0x30000 + 128 + 256 + 8) (2 ^ 63) 8

theorem witness_rte : ([saved0, saved1].all fun v =>
    let s : State := { handling with saved := [v] }
    issues s [] && s.me.bound == some 90 && s.me.filled && s.me.queue.isEmpty && s.savedOf 90 == some v && v.spilled &&
      slotIdx v.slot != 4 && slotCore v.slot / 32 == (if v = saved0 then 0 else 1) && slotCore s.here / 32 == 0) = true ∧
    (let s := trapping strand0
     issues s [] && s.me.bound.isNone && s.me.queue.isEmpty && (s.takeTrap s.here (.protection 38) s.me.pc 0 (wordOf .rte)).isSome) =
       true := by
  decide +kernel

theorem witness_replay : (let s := handling
    s.me.bound == some 90 && s.savedOf 90 == some saved0 && s.framesFree 0x30000 0x31000 && issues s [.xd 3] && issues s [.xs 1 false] && issues s [] &&
      bits (s.readImage 0x30000 0x31000 (128 + 128 * 2 + 8) 8) 63 1 == 1) = true := by
  decide +kernel

/-- The launch with the right to shoot down. -/
def ruling (t : Strand) : State :=
  { trapping t with launches := [(3, { launch0 with words := words0.set 0 (BitVec.ofNat 64 (0x100001 + 2 ^ 18)) })] }

theorem witness_shootdowns : (([0, 0x03FF] : List Word).all fun v =>
    let s := ruling (two v 0)
    issues s [.xs 1 false] && s.privileged s.me && s.edgeReady s.me && bits v.toNat 59 5 == 0) = true ∧
    (([0, 0x1FF] : List Word).all fun v => bits v.toNat 9 55 == 0) = true ∧
    (let s := trapping (two 0 0)
     issues s [.xs 1 false] && !s.privileged s.me && s.me.queue.isEmpty && ([wordOf (.tlbi ⟨1, false⟩), wordOf (.regi ⟨1, false⟩)].all fun w =>
       (s.takeTrap s.here (.protection 41) s.me.pc 0 w).isSome)) = true := by
  decide +kernel

theorem witness_halt : (issues s0 [] && s0.me.filled && s0.edgeReady s0.me) = true := by decide +kernel

theorem witness_held : (([{ strand0 with edge := some ⟨[], false, .pop⟩ }, { strand0 with wait := some .trec },
    { strand0 with queue := List.replicate 16 ⟨1, 0, 0, 0, 0, 0, 0, 0, 0, .flight, [], {}⟩ },
    { strand0 with queue := [⟨1, 0, 0, 0, 0, 0, 0, 0, 0,   .faulted .alignment, [], {}⟩] },
    { strand0 with queue := [⟨1, 0, 0, 0, 0, 0, 0, 0, 0, .replay, [], {}⟩] },
    { strand0 with walk := some ⟨0, false, false, true, none, []⟩ }] : List Strand).all fun t =>
      !(onSlot 0 t).me.ready && (encode .nop).isSome) = true := by
  decide +kernel

/-- Registers that stall and registers that trap the instruction that names them. -/
theorem witness_gates : ([(true, Gate.stall), (false, .trap)].all fun c =>
    let s := onSlot 0 { two 0x8040 7 with emptyX := 2, pendX := if c.1 then 2 else 0 }
    s.me.ready && ([.add ⟨.w64, true⟩ 3 ⟨1, false⟩ ⟨2, false⟩, .neg ⟨.w8, true⟩ 3 ⟨1, false⟩] : List Instr).all (fun i =>
      (registerForm i).any fun ops => s.me.gate ops == c.2) &&
    accesses.all fun i => (memoryForm s.me i).any fun f => s.me.gate f.1 == c.2) = true := by
  decide +kernel

theorem witness_nonzero_registers : (([1, 31] : List (BitVec 5)).all fun r => r != 0) = true := by decide +kernel

/-! Events of strands and of work. -/

/-- The PF's page table at 0x100000 maps the first 32 MiB of die 0, which are assigned to it, onto themselves. -/
def paged (s : State) : State :=
  let s : State := { s with
    fns := [(0, { Fn.reset with ptroot := 0x100001, enabled := true })], parts := [(0, { Part.reset with en := true })] }
  ((s.writeMem 0x100000 0x104001 8).writeMem 0x104000 0x108001 8).writeMem 0x108000 0xF 8

def message (n target : Nat) (type : BitVec 8) : Activation :=
  ⟨type, 0, target, 0, [1, 2, 3, 4, 5, 6], 0, 0x4000, 0, some 3, none, none, none, 100, n⟩

/-- A strand with an edge that only serials long performed keep. -/
def edged (k : Nat) (t : Strand) (a : After) : State := onSlot k { t with edge := some ⟨[5, 6], true, a⟩ }

theorem witness_edge : (([.advance, .thenAcquire .die none, .thenAcquire .package (some 0x4058), .acquire .die none, .tenq 5,
    .send (message 7 40 4) 0 0 0, .retire, .halt, .barArrive 0 0 0x4058] : List After).all fun a =>
      let s := edged 0 strand0 a
      ((s.strand 0).edge.any fun e => s.allDone e.system e.waits) && s.pathRoom (some 3) 40 && s.boundReady (s.strand 0) &&
        (s.strand 0).bound.isNone && (s.strand 0).jl.isNone && slotIdx 0 != 4) = true ∧
    (let s := edged 4 { strand0 with caller := some (100, 6, 40) } (.dret 9)
     ((s.strand 4).edge.any fun e => s.allDone e.system e.waits) && (s.strand 4).caller == some (100, 6, 40)) = true := by
  decide +kernel

/-- RETIRE with a join link to the seed counter, or to a counter of the own cluster or of another. -/
theorem witness_retire_ends : ([1, 2].all fun (n : Word) =>
    let s : State := { edged 0 { strand0 with jl := some .seed } .retire with launches := [(3, { launch0 with seedCtr := n })] }
    ((s.strand 0).edge.any fun e => s.allDone e.system e.waits && e.after == .retire) && (s.strand 0).bound.isNone &&
      (s.strand 0).jl == some .seed && (s.strand 0).launch == some 3 && (s.launches.find 3).isSome) = true ∧
    (([5, 5 + 2 ^ 13] : List (BitVec 24)).all fun c =>
      let s := edged 0 { strand0 with jl := some (.counter c) } .retire
      (s.strand 0).bound.isNone && (s.strand 0).jl == some (.counter c) && (ctrClus c == slotCore 0 / 32) == (c == 5)) = true := by
  decide +kernel

/-- SYNC on a frame of cluster 0 whose counter of a value stands there or in cluster 1. -/
theorem witness_sync_ends : (([0x60000, 0x60000 + 2 ^ 44] : List Word).all fun f => ([0, 3] : List (BitVec 32)).all fun n =>
    let a : After := .sync 1 f 0x4058 0xFC060000
    let s := framed 3 { two f 0 with edge := some ⟨[5, 6], true, a⟩ }
    let s := s.setCluster 1 { Cluster.reset with holder := some 3, started := true }
    let s := s.setCtr (some 3) (fnCtr f) ⟨n, true, true, none, 0⟩
    let t := s.strand 0
    t.edge == some ⟨[5, 6], true, a⟩ && s.allDone true [5, 6] && t.bound.isNone && match s.readRec t.launch (recOf f) 24 8 with
      | none => false
      | some info =>
        match s.writeFields t.launch (recOf f) (publishFields t 1 0x4058 0xFC060000 (infoSize info)) with
        | none => false
        | some s1 => (s1.ctr t.launch (fnCtr f)).value == n && (ctrClus (fnCtr f) == slotCore 0 / 32) == (f == 0x60000)) = true := by
  decide +kernel

/-- TREC with a counter of the own die, or of another after a release of reach PACKAGE; TLBI and REGI. -/
theorem witness_trec_ends : (([(0x8000, false), (0xC000, true)] : List (Word × Bool)).all fun c =>
    let a : After := .trec 3 5 c.2 c.1 5 5 0
    let s : State := { mapped { two 5 5 with edge := some ⟨[5, 6], true, a⟩ } with serial := 300 }
    (s.strand 0).edge == some ⟨[5, 6], true, a⟩ && s.allDone true [5, 6] && match s.lookup (s.strand 0) 0 c.1.toNat with
      | some x => x.w && (!(s.placeBy 0 x c.1.toNat).remote 0 || c.2)
      | none => false) = true ∧
    ([true, false].all fun entry => (edged 0 strand0 (.shoot entry 5)).me.edge.any fun e => s0.allDone e.system e.waits) = true := by
  decide +kernel

/-- Messages on their way: none takes type 0, a delegation needs no vector entry. -/
def sending (l : List Activation) : State := { s0 with transit := l }

theorem witness_arrival : ([(0, [message 1 40 0]), (0, [message 1 40 16]), (1, [message 1 41 4, message 2 40 4])].all fun c =>
    let s := sending c.2
    match s.transit[c.1]? with
    | none => false
    | some a => ((s.transit.take c.1).all fun b => b.origin != a.origin || b.target != a.target) &&
      (s.pathHeld a).isEmpty && (s.prioOf a).isSome && s.discarded a == (c.1 == 0) && (s.core a.target).actq.length < 16 && !s.isSaved a.launch (a.target / 32)) = true := by
  decide +kernel

theorem witness_activation : ([(1, message 1 0 16), (4, message 1 0 4)].all fun c =>
    let s := { s0 with cores := [(0, { Core.reset with
      actq := [c.2], vtab := [(16, BitVec.ofNat 128 (0x4000 + 2 ^ 75)), (4, BitVec.ofNat 128 (0x4000 + 2 ^ 75))] })] }
    s.idleSlot c.1 && (s.core 0).nextAct (slotIdx c.1) (s.serverBusy 0) == some c.2 && c.2.frame.isNone && c.2.type != 7 &&
      c.2.type != 9 && !s.discarded c.2) = true := by
  decide +kernel

/-- The same for a donation that arrives, if firmware's entry is valid, which is a free value (log 26). -/
theorem witness_donation_activation (h : vecValid Config.firmwareVector = true) :
    let s : State := { s0 with cores := [(0, { Core.reset with actq := [message 1 0 3] })] }
    s.discarded (message 1 0 3) = false ∧ (s.core 0).nextAct (slotIdx 1) (s.serverBusy 0) = some (message 1 0 3) := by
  refine ⟨?_, by decide +kernel⟩
  simp [State.discarded, vectored, Core.vector, message, h]

theorem witness_dlg_reply : (([40, 0] : List Nat).all fun server =>
    let r : Reply := ⟨100, 6, 0, server, 9⟩
    let s : State := { s0 with replies := [r] }
    s.replies[0]? == some r && s.findCtx 100 == .slot 0 && s.way (server / 8192) (slotCore 0 / 8192) == .clear && (distance 0 (server / 32) == .cluster || s.allDone false (s.loadsOf 100))) = true := by
  decide +kernel

theorem witness_seed : (([0, 3] : List Word).all fun wid =>
    (List.range 4).all fun n =>
      let s := { onSlot 5 strand0 with launches := [(3, launch0)] }
      let slot := 8 * (wid.toNat) + n
      let ok := launch0.mine slot wid && s.seedPlace launch0 slot
      s.running 0 == some 3 && !launch0.graph && s.idleSlot slot && slotIdx slot != 4 && launch0.widOk wid &&
        launch0.seeded.isEmpty && (n != 0 || wid != 0 || ok)) = true := by
  decide +kernel

theorem witness_pick_work : (let s := s0
    s.freeSlot 1 && s.idleSlot 1 && slotIdx 1 != 4 && (s.core 0).nextAct 1 false == none && (s.running 0).isSome && (s.core 0).tail 1 == .empty &&
      (s.cluster 0).ready.isEmpty && !(s.core 0).engine.running && !(s.core 0).engine.waiting && (s.core 0).engine.moving.isNone) =
      true ∧
    (let e : BitVec 128 := BitVec.ofNat 128 (0x4058 + 0x60000 * 2 ^ 64 + 2 ^ 97)
     let s := framed 3 strand0
     let s : State := { s with cores := [(0, { core0 with deque := [e] })] }
     s.freeSlot 1 && (s.core 0).nextAct 1 false == none && (s.running 0).isSome && (s.core 0).tail 1 == .entry e &&
       ((s.setCore 0 { (s.core 0).worked with deque := [] }).resume 1 (entRec e) (entChdr e) (s.running 0)
         (s.funcOf (s.running 0))).isSome) = true := by
  decide +kernel

theorem witness_deque : ([16, 32].all fun n =>
    let s := paged { s0 with cores := [(0, { core0 with deque := List.replicate n 5, spilling := true })] }
    (s.core 0).spilling && 16 ≤ (s.core 0).deque.length &&
      (s.writeGroup (s.coreLaunch 0) 0 (s.core 0).groups ((s.core 0).deque.take 16)).isSome) = true ∧
    (let s := paged { s0 with cores := [(0, { core0 with groups := 1, refilling := some 1 })] }
     (s.core 0).refilling == some 1 && (s.core 0).groups != 0 && (s.core 0).deque.length < 16 &&
       (s.readGroup (s.coreLaunch 0) 0 0).isSome) = true := by
  decide +kernel

/-- A steal engine that has probed its first two levels as given, beside a core with a published head. -/
def hunting (probed : List Nat) (deque : List (BitVec 128)) : State :=
  { framed 3 strand0 with cores := [
    (0, { core0 with engine := { StealEngine.reset with running := true, probed := probed } }), (1, { Core.reset with deque := deque })] }

theorem witness_steal_probe : ([(0, [0, 0, 0]), (0, [7, 0, 0]), (1, [8, 0, 0]), (1, [8, 7, 0]), (2, [8, 8, 0]), (2, [8, 8, 6])].all
    fun c =>
      let s := hunting c.2 []
      let co := s.core 0
      co.engine.running && co.engine.moving.isNone && s.mayProbe 0 && co.engine.level == some c.1 &&
        (c.1 != 2 || s.way 0 (((victims 0 2)[((co.engine.pos[2]?).getD 0) % (victims 0 2).length]?).getD 0) == .clear) &&
        (s.probe 0 c.1 (((victims 0 c.1)[((co.engine.pos[c.1]?).getD 0) % (victims 0 c.1).length]?).getD 0)).isNone) = true := by
  decide +kernel

theorem witness_steal :
    let e : BitVec 128 := BitVec.ofNat 128 (0x4058 + 0x60000 * 2 ^ 64 + 2 ^ 97)
    let s := hunting [0, 0, 0] [e]
    (s.mayProbe 0 && s.probe 0 0 (((victims 0 0)[0]?).getD 0) == some (1, e) && (s.readRec (s.running 0) (entRec e) 24 8).isSome) =
      true ∧
    (let m : StealMove := ⟨e, 1, [], 0x60000 / 128 * 128, false, [], []⟩
     let s : State := { hunting [0, 0, 0] [] with cores := [(0, { core0 with engine := { StealEngine.reset with moving := some m } })] }
     (s.core 0).engine.moving == some m && m.walks.isEmpty && m.victim / 32 == 0 && (entRec m.entry).clus == 0 &&
       [0, 1, 2, 3].find? (fun n => s.idleSlot (slotKey 0 n)) == some 1 && s.allDone false m.waits && (s.running 0).isSome &&
       ((s.setCore 0 { s.core 0 with engine := { (s.core 0).engine with moving := none } }).resume (slotKey 0 1)
         (entRec (entMoved m.entry (entRec m.entry))) (entChdr (entMoved m.entry (entRec m.entry))) (s.running 0)
         (s.funcOf (s.running 0))).isSome) = true := by
  decide +kernel

theorem witness_backoff : ({ StealEngine.reset with waiting := true } : StealEngine).waiting = true := by decide +kernel

/-- A parked frame of cluster 0 moves to its counter's cluster 1. -/
theorem witness_park_move :
    let f : Word := 0x60000 + 2 ^ 44
    let s : State := { framed 3 strand0 with parks := [⟨f, some 3⟩] }
    let gone : State := { s with parks := s.parks.filter fun q => q.frame != f }
    (match s.readRec (some 3) (recOf f) 24 8, s.planMove (some 3) (recOf f) (ctrClus (fnCtr f)) with
     | some info, some (sp, line, tiles) => ctrClus (fnCtr f) == 1 && s.way (fnClus f / 256) (ctrClus (fnCtr f) / 256) == .clear && ((gone.takeRoom (some 3) 1 sp line (infoSize info)
         (gone.tileSizes (some 3) (recOf f) tiles)).moveRec (some 3) (recOf f) ⟨1, sp, 128 * line⟩ tiles).isSome
     | _, _ => false) = true := by
  decide +kernel

/-- Decrements, a parked frame of a cluster without room, and arrivals at a barrier of 2. -/
theorem witness_counters : ([(0, LinkState.up, Way.clear), (256, .retraining, .held), (256, .asleep none false, .held), (256, .down, .lost 8)].all fun c =>
    let s : State := { s0.setLink 8 { s0.link 8 with state := c.2.1 } with decs := [⟨c.1, some 3, 5, .decrement, []⟩] }
    match s.decs[0]? with
    | some d => s.allDone false d.waits && d.kind == .decrement && s.way (d.src / 256) (ctrClus d.counter / 256) == c.2.2
    | none => false) = true ∧
    (let s := framed 3 strand0
     let k := s.cluster 0
     let s := ({ s with parks := [⟨0x60000, some 3⟩] } : State).setCluster 0 { k with frames := [(0, 524288)], spillFrames := [(0, 524288)] }
     (s.readRec (some 3) (recOf 0x60000) 24 8).isSome && s.way (fnClus 0x60000 / 256) (ctrClus (fnCtr 0x60000) / 256) == .clear &&
       (s.planMove (some 3) (recOf 0x60000) (ctrClus (fnCtr 0x60000))).isNone) =
       true ∧
    (([0, 1] : List (BitVec 16)).all fun n =>
      let s : State := { s0 with
        arrivals := [⟨some 3, 0, 0, 100, 0, 0x60000⟩], cores := [(0, { core0 with barriers := [(0, ⟨2, n, 0, []⟩)] })] }
      let x := (s.coreOf (some 3) 0).barrier 0
      let k := s.clusterOf (some 3) 0
      s.way 0 (barCore 0 / 8192) == .clear && (x.arrived + 1 == x.count) == (n == 1) && allocated k.counters + allocated k.spilled +
        ({ s with arrivals := [] } : State).registrations (some 3) 0 + (k.ready.length - 64) < 4608) = true := by
  decide +kernel

/-- Its intake beside a die that is gated, with a number of records that wait for it. -/
def intake (n : Nat) (d : Die) : State := { s0 with
  launches := [(3, graph0)], dies := (List.range 8).map fun i => (i, d)
  donations := List.replicate n ⟨BitVec.ofNat 128 (5 * 2 ^ 64), 1, 0⟩ }

/-- The intake with the records that still wait, of which there are none, some or 64. -/
theorem witness_intake : ([(0, Power.on), (0, .gated), (3, .gated), (64, .gated)].all fun (c : Nat × Power) =>
    let s1 := intake c.1 { Die.reset with power := c.2 }
    let s := s1.donations.foldl (fun s d => s.takeDonation d.sender d.task d.time true) { s1 with donations := [] }
    let t : BitVec 128 := BitVec.ofNat 128 (5 * 2 ^ 64)
    (64 ≤ s.donations.length) == (c.1 == 64) && t.extractLsb' 99 29 == 0 && (s.donationLaunch 6 true).isNone &&
      match s.donationLaunch t true with
      | some (_, l) => (s.fewest l).any fun d => s.dieOn d == (c.2 == .on)
      | none => false) = true := by
  decide +kernel

theorem witness_donations : ((BitVec.extractLsb' 99 29 (BitVec.ofNat 128 (2 ^ 99)) != 0) &&
      (s0.donationLaunch 5 true).isNone && s0.donations.isEmpty) = true ∧
    (let s : State := { s0 with launches := [(3, graph0)] }
     let t : BitVec 128 := BitVec.ofNat 128 (5 * 2 ^ 64)
     t.extractLsb' 99 29 == 0 && match s.donationLaunch t true with
     | some (_, l) => match s.fewest l with
       | some d => s.dieOn d
       | none => false
     | none => false) = true ∧
    (let s : State := { s0 with donations := [⟨5, 1, 0⟩] }
     (s.donationLaunch 5 true).isNone) = true ∧
    (let s : State := { s0 with donations := [⟨BitVec.ofNat 128 (5 * 2 ^ 64), 1, s0.now - 100000⟩], launches := [(3, graph0)] }
     s.donations.all fun d => 100000 ≤ (s.now - d.time).toNat && (s.donationLaunch d.task true).isSome) = true := by
  decide +kernel

/-! The ordering machine. -/

/-- A write of 4 bytes at the start of a line of die `d`. -/
def write0 (d line : Nat) : Item := ⟨50, 100, d, line, .write 5 15 false, [], 0, 0, 32 * 5, false, []⟩
def read0 (line : Nat) : Item := ⟨51, 100, 0, line, .read 0 4 .discard, [], 0, 0, 32 * 5, false, []⟩

theorem witness_queue_heads : ([0, 63].all fun h =>
    [write0 0 1024, read0 1024].all fun it =>
    let s : State := { s0 with posting := [(64 * 5 + h, [it])], ingress := [(64 * 9 + h, [it, it])] }
    (32 * 5) / 32 == 5 && !(s.posting.get (64 * 5 + h) []).isEmpty && !(s.ingress.get (64 * 9 + h) []).isEmpty && s.dieOn (5 / 8192) && s.dieOn it.die &&
      s.servable it) = true ∧
    ([(1, LinkState.up), (2, .up), (1, .asleep none false), (1, .asleep none true)].all fun c =>
      let s := s0.setLink 1 ⟨[write0 c.1 (c.1 * 2 ^ 30)], c.2, 0⟩
      (s.link 1).queue == [write0 c.1 (c.1 * 2 ^ 30)] && (s.link 1).state == c.2 && ((write0 c.1 0).die == 1 % 8) == (c.1 == 1)) =
        true := by
  decide +kernel

/-- An atomic that waits for a fetch. -/
def fetched0 : WaitAtom := ⟨62, 100, 8, ⟨.amo .add .s32, 1, 0, false⟩, .discard⟩

/-- A line of a cluster cache in the given state. -/
def line0 (st : LState) : CLine := ⟨1024, st, 7, BitVec.allOnes 128, if st = LState.d then 15 else 0, .f32, .die, 0, 0x8000, [], [], []⟩

theorem witness_evict : (([.s, .d, .a] : List LState).all fun st => [0, 5].all fun core =>
    let s : State := { beside { Cluster.reset with lines := [line0 st] } with live := [⟨50, 100, slotKey 5 0, 0, false, true, false, 0, 0, 0⟩] }
    (s.cluster (core / 32)).findLine 1024 == some (line0 st) && !s.wayBusy (core / 32) 1024 && (core % 32 == 0 || s.live.any fun l => slotCore l.slot == core)) = true := by
  decide +kernel

/-- What an item may do at its home. -/
def acts0 : List Act :=
  let atomic := fun (k : AtomKind) (r : Bool) => Act.atomic ⟨k, 3, 5, r⟩ 8 .discard
  [.read 0 4 .discard, .write 5 15 false, .incr .f32 5 15, atomic (.amo .add .s32) true, atomic (.amo .add .s32) false,
   atomic (.cas .s64) true, atomic (.famo .add .f64 .rne 0) true, atomic (.famo .min .f32 .rne 0) false, atomic .dec true]

theorem witness_items : ([0, 1024, 2 ^ 33 + 5].all fun line => acts0.all fun act =>
    let s := s0
    let it : Item := ⟨50, 100, paDie (128 * line), line, act, [], 0, 0, 0, false, []⟩
    !paHost (128 * it.line) && !s.poison.contains it.line && s.copies.isEmpty && s.filters.isEmpty &&
      (s.slice it.slice).sharers.isEmpty && (s.slice it.slice).held.isEmpty) = true := by
  decide +kernel

theorem witness_fill : ([false, true].all fun p => [[], [fetched0]].all fun (atoms : List WaitAtom) =>
    let f : Fetch := ⟨1024, 60, 100, ⟨131072, .die, false, false, false, false, 0, 14⟩, 0x8000, 0, 0,
      [⟨61, 100, 0, 4, .discard⟩], atoms, some (70, 9), p, [(80, 5, 1)], [(50, [100])]⟩
    let s := beside { Cluster.reset with fetches := [f] }
    (s.cluster 0).fetches == [f] && f.got.isSome && f.poisoned == p && !s.wayBusy 0 1024) = true := by
  decide +kernel

/-- A link that carries traffic, with a queue, a sharer of line 1024 and a filter entry of a host line. -/
theorem witness_host_links : ([0, 1].all fun p =>
    let s : State := { (s0.setSlice (sliceOf 1024) { s0.slice (sliceOf 1024) with sharers := [(1024, p, some 0)] }) with
      host := [(p, ⟨[write0 0 (2 ^ 44)], false, false⟩)], filters := [(p, [⟨2 ^ 44, 1, false⟩])], boot := booted }
    s.hostCarries p && s.dieAwake (paDie (128 * 1024)) && ((s.slice (sliceOf 1024)).sharers.any fun e => e.1 == 1024 && e.2.1 == p) &&
      !(s.hostLink p).queue.isEmpty && (s.tracker p (2 ^ 44 + 1)).isNone && match s.tracker p (2 ^ 44) with
      | some (_, e) => (List.range 8).all fun d => !(setHas e.mask d && s.dieOn d) || s.dieAwake d
      | none => false) = true := by
  decide +kernel

/-- A write-back of a line that no die tracks waits on link 1, which carries traffic or not, or none does. -/
def snooped (back carries : Bool) : State :=
  ({ s0 with boot := booted, host := [(1, ⟨if back then [write0 0 (2 ^ 44)] else [], false, false⟩)] } : State).setLink 65
    ⟨[], if carries then .up else .retraining, 0⟩

theorem witness_host_snoop : ([(true, false), (true, true), (false, true)].all fun (c : Bool × Bool) =>
    let s := snooped c.1 c.2
    s.hostCarries 0 && (s.tracker 0 (2 ^ 44)).isNone && s.queuedBack (2 ^ 44) == c.1 && s.hostFree (2 ^ 44) == c.2) = true := by
  cases h : Config.hostLinkOf (2 ^ 44) <;> simp only [State.hostFree, State.linkTo, linkOfLine, h] <;> decide +kernel

theorem witness_host_accesses : (([0x1FFFFFFFFF, 0x4000000000000] : List (BitVec 52)).all fun pa => !paValid pa.toNat) = true ∧
    (([0x8000000000000, 0xFFFFFFFFFFFF8] : List (BitVec 52)).all fun pa => paValid pa.toNat && paHost pa.toNat && pa.toNat % 8 == 0 &&
      s0.mayOwn (pa.toNat / 128) true && s0.mayOwn (pa.toNat / 128) false) = true ∧
    (({ s0 with boot := booted } : State).hostFetch 1024 1).isSome = true ∧ paValid (1024 * 128) = true ∧ paHost (1024 * 128) = false ∧
    (([.s, .d] : List LState).all fun st => ((beside { Cluster.reset with lines := [line0 st] }).cluster 0).findLine 1024 ==
      some (line0 st)) = true ∧
    (([(2 ^ 51, true), (2 ^ 51, false), (1024 * 128 + 8, true), (1024 * 128 + 8, false)] : List (Nat × Bool)).all fun c =>
     let o : PortOp := ⟨50, 100, c.1, ⟨.amo .add .s32, 1, 0, c.2⟩, .discard, []⟩
     let s : State := { s0 with fabric := [(0, ⟨[o], []⟩)], boot := booted }
     (s.port 0).queue == [o] && s.allDone false o.after && !s.poison.contains (o.pa / 128) && o.req.returning == c.2 &&
       if c.1 = 2 ^ 51 then paHost o.pa && s.hostCarries 0 && s.mayOwn (o.pa / 128) true
       else !paHost o.pa && !s.heldOn (sliceOf (o.pa / 128)) (o.pa / 128) && !s.rowBusy (paDie o.pa) (o.pa / 128)) = true := by
  decide +kernel

/-! Exchange and the Centroid. -/

/-- A copy between scratch areas with one access left, or none. -/
def geometry0 : Geometry :=
  ⟨4, false, none, 1, 1, 1, 0, 0, 0, 0, 0, 4, 0, .sram 0x1000, .sram 0x2000, [0]⟩
def copying (todo : List EngAcc) : Engine :=
  ⟨60, 1, 0, 0, 0, .copy geometry0, [], true, todo, [], [], none, some (100, 3), 7, [], 4, 0, 0⟩

theorem witness_engine : ([[.read 0 0], [.write 0 5 false, .read 0 0], []].all fun l =>
    let s : State := { s0 with engines := [copying l] }
    match s.engine 60 with
    | some x => x.todo == l && x.job == .copy geometry0 && x.ready && x.ring.isNone && x.status.isSome && !s.engHeld x.id &&
      !s.sramBusy x.clus (sramAt 0x1000 (geometry0.srcOff x.offs 0)) geometry0.esz &&
      geometry0.mcast.all fun c => !s.sramBusy c (sramAt 0x2000 (geometry0.dstOff 0)) geometry0.esz
    | none => false) = true := by
  decide +kernel

/-- A row of SRAM under remap: which rows a resource holds is a free value (log 37). -/
theorem witness_row_busy (h : ∀ row, Config.rowHolds 2 0 9 row = true) (b n : Nat) (hn : (linesOf b n).2 ≠ 0) :
    ({ s0 with ras := { s0.ras with tracked := [⟨.sramRow, 0, 9, [], true⟩] } } : State).sramBusy 0 b n = true := by
  have e : clusDie 0 = 0 := by decide
  simp only [State.sramBusy, List.any_cons, List.any_nil, Bool.or_false, e]
  simpa [h] using ⟨0, Nat.pos_of_ne_zero hn⟩

theorem witness_near_memory : ([0x24000, 0x28000].all fun other =>
    let n : Near := ⟨5, .f32, .bf16, 0, .rne, false, 4, 0, 1, 0, 0x8040, 0xC100⟩
    let p : Place := ⟨0x20000, .die, false, false, false, false, 0, 14⟩
    let x : Engine := { copying [] with job := .near n, kind := 5, ready := false, spots := [(2, p), (3, { p with pa := other })] }
    let s : State := { s0 with engines := [x] }
    s.engine 60 == some x && !x.ready && (spotOf x.spots n.src).isSome && stackOf 0x20040 != 16 &&
      (x.spots.all fun q => stackOf q.2.pa == stackOf 0x20040) == (other == 0x28000)) = true := by
  decide +kernel

/-- A calendar of generation 4 that begins at 1000, and its unit. -/
def calendar0 (l : List Grant) : Calendar := ⟨4, 9, 1000, 2, l, 5000⟩
def unit0 (st : XState) (l : List Grant) : Exchange := { Die.reset.xu with state := st, known := 4, cal := some (calendar0 l) }

/-- Die 0 at a time with a unit. -/
def timed (t : Word) (x : Exchange) : State := { s0 with dies := [(0, { Die.reset with ptc := t, xu := x })] }

theorem witness_calendar_arrival : ([(3, .idle), (4, .idle), (4, .posted), (4, .granted), (4, .running), (5, .running)].all fun (c : BitVec 32 × XState) =>
    let s := timed 2000 { Die.reset.xu with state := c.2, known := c.1 }
    let s : State := { s with cg := { s.cg with calendars := [(1, calendar0 []), (0, calendar0 [⟨1, true, 1, 2, 0, 50⟩])] } }
    s.cg.calendars.findIdx? (fun q => q.1 == s.endpoint 0) == some 1 && (s.cg.calendars[1]?).isSome &&
      (s.xu 0).state == c.2 && ((4 : BitVec 32) == (s.xu 0).known) == (c.1 == 4)) = true := by
  decide +kernel

theorem witness_phase_start : (let s := timed 1000 (unit0 .granted [])
    (s.xu 0).state == .granted && (s.xu 0).cal.isSome && 1000 ≤ (s.die 0).ptc.toNat && (s.xu 0).nextPhase == none) = true ∧
    ([1000, 1050].all fun t =>
      let s := timed (BitVec.ofNat 64 t) (unit0 .running [⟨1, true, 1, 2, t - 1000, 50⟩])
      let x := s.xu 0
      x.state == .running && x.phase == x.ended && x.nextPhase == some 1 && (x.phaseTime 1).1 ≤ (s.die 0).ptc.toNat &&
        (({ x with phase := 1 } : Exchange).grantIn 1 false).isNone) = true := by
  decide +kernel

theorem witness_phase_end : ((let s := timed 1050 { unit0 .running [⟨1, true, 1, 2, 0, 50⟩] with phase := 1 }
    let x := s.xu 0
    x.state == .running && x.records.isEmpty && x.phase != x.ended && (x.phaseTime x.phase).2 ≤ (s.die 0).ptc.toNat &&
      x.phase != x.sentEnd && (x.grantIn x.phase false).isNone) &&
    (let s := timed 1050 { unit0 .running [⟨1, false, 1, 2, 0, 50⟩] with phase := 1, sentEnd := 1 }
    let x := s.xu 0
    x.phase != x.ended && (x.phaseTime x.phase).2 ≤ (s.die 0).ptc.toNat && x.phase == x.sentEnd &&
      (x.grants.find? fun g => g.phase == x.phase && g.rx).isNone) &&
    [[], [(⟨1, 0, 0, 0, 7, false, 0, 256, 0, [], 0, 0, [], [], [], false, false⟩ : Send)]].all fun l =>
      let s := timed 5000 { unit0 .running [] with sends := l, receives := [(9, .reset)] }
      let x := s.xu 0
      x.state == .running && x.records.isEmpty && x.phase == x.ended && x.nextPhase.isNone &&
        ((x.cal.map fun c => c.stop.toNat).getD 0) ≤ (s.die 0).ptc.toNat && (x.sends.find? fun d => !d.reported).isSome == !l.isEmpty &&
        (x.receives.all fun r => !x.rowHeld r.1) && x.emap.isNone && x.arm.isNone) = true := by
  decide +kernel

/-- An expert map whose one expert is resident, with a ring of 16 rows at 0x8000, and a row for it. -/
def resident : XTable := ⟨((mapWords.set 1 0x8000).set 2 4).set 8 1, 0, 0, none, []⟩
def rowHead (seq : Nat) : Line := BitVec.ofNat 1024 (seq * 2 ^ 576 + 12 * 2 ^ 608 + crc32c [77] * 2 ^ 672)
def routed (old : List Nat) (copies : Option (List Nat)) : State :=
  let l := [⟨rowHead 6, false, false⟩, ⟨77, false, false⟩]
  paged (timed 1000 { unit0 .running [] with
    emap := some resident, receives := [(1, ⟨256, 0, l, copies, [], [], false⟩)], seen := [(12, old)] })

theorem witness_rows : ([[6], [5, 4102], [], [5, 7]].all fun old =>
    let s := routed old none
    let x := s.xu 0
    let r : Receive := Tab.get x.receives 1 .reset
    let h := ((r.lines.head?).map fun l => l.data).getD 0
    x.emap == some resident && x.rowHeld 1 && (r.lines.all fun l => !l.bad) &&
      crc32c ((r.lines.drop 1).map fun l => l.data) == rowBits h 672 32 &&
      seenRow (Tab.get x.seen (rowBits h 608 6) []) (rowBits h 576 32) == (old == [6] || old == [5, 4102]) &&
      r.copies.isNone) = true ∧
    ([[0], [0, 0], []].all fun l =>
      let s := routed [] (some l)
      let r : Receive := Tab.get (s.xu 0).receives 1 .reset
      (s.xu 0).emap == some resident && (s.xu 0).rowHeld 1 && r.copies == some l &&
        (l.isEmpty || (s.putCopy 0 1 resident r.lines 0).isSome)) = true := by
  decide +kernel

theorem witness_chosen : ((rankBy (fun j => scoreKey (rowBits (rowHead 6) (32 * j) 32)) resident.epg).take resident.topk == [0] &&
    (let s := timed 1020 { unit0 .running [⟨1, false, 9, 2, 0, 50⟩] with
       phase := 1, sends := [⟨9, 0, 0, 0, 7, false, 0, 256, 0, [], 0, 256, [], [], [], false, false⟩] }
     let x := s.xu 0
     x.phase != x.ended && x.phase != x.sentEnd && (x.grantIn x.phase false).map (fun g => g.partner) == some 9 &&
       (s.dieOf 9).isNone && (x.sendTo 9).isSome)) = true := by
  decide +kernel

/-- The Centroid of a group of endpoints 0 and 1, with the posts given. -/
def gathering (posts : List Post) (rows : Tab (List Nat)) : State :=
  { s0 with cg := { State.reset.cg with cgmem := 3, cgctl := 1, gen := 4, posts := posts, rows := rows }
            dies := [(0, { Die.reset with pkgSkew := 2, grpSkew := 20, ptc := 10000, xu := { Die.reset.xu with known := 4 } })] }

theorem witness_posts : ([(⟨0, 4, [], true⟩, []), (⟨0, 5, [], false⟩, []), (⟨9, 4, [], false⟩, []), (⟨0, 4, [], false⟩, []),
    (⟨0, 4, [], false⟩, [(1, [])])].all fun (c : Post × Tab (List Nat)) =>
      let s := gathering [c.1] c.2
      s.cg.posts[0]? == some c.1 && s.centroidHere && s.group.en && !s.overdue && s.group.members.contains c.1.endpoint == (c.1.endpoint == 0) &&
        s.groupSkew != 0xFFFF &&
        ({ s with cg := { s.cg with rows := c.2.put c.1.endpoint c.1.row } } : State).allPosted ==
          (c.1.endpoint == 0 && !c.2.isEmpty)) = true := by
  decide +kernel

theorem witness_deadline : (let s := { gathering [] [] with cg := { (gathering [] []).cg with openAt := some 0 } }
    s.centroidHere && s.cg.openAt == some 0 && s.group.deadline ≤ (s.now - 0).toNat && s.groupSkew != 0xFFFF) = true ∧
    (let s := gathering [] []
     (4 : BitVec 32) == s.cg.gen && (s.xu 1).known.toNat < (4 : BitVec 32).toNat && (4 : BitVec 32).toNat ≤ (s.xu 0).known.toNat &&
       s.centroidHere) = true ∧
    (([4, 5] : List (BitVec 32)).all fun gen =>
      let s := gathering [] []
      let s : State := { s with cg := { s.cg with pkg := 1 } }
      !s.centroidHere && (s.xu 1).known.toNat < gen.toNat && (gen.toNat ≤ s.cg.gen.toNat) == (gen == 4)) = true := by
  decide +kernel

theorem witness_succession : (let s := gathering [] []
    s.group.en && s.centroidHere && 1000 ≤ (s.now - s.cg.beatAt).toNat) = true ∧
    (let s := { gathering [] [] with cg := { (gathering [] []).cg with missed := 8 } }
     s.group.line.findIdx? (fun p => p == ((0 : BitVec 3).toNat, true)) == some 1 &&
       s.group.line.findIdx? (fun p => p == (s.cg.pkg.toNat, s.cg.iod)) == some 0 && s.group.en && 8 ≤ s.cg.missed &&
       ((s.group.line.take 1).drop 1).isEmpty) = true ∧
    (([0, 3, 0xFFFF] : List (BitVec 16)).all fun b =>
      let s := { s0 with
        cg := { s0.cg with pkg := 1 }, dies := (List.range 8).map fun d => (d, { Die.reset with ptc := BitVec.ofNat 64 (100 + d % 2) }) }
      !s.centroidHere && s.boundOk (if b = 3 then 2 else b) 2 == (b != 0) && s.boundOk b 20 == (b != 0) &&
        s.exchangeFits 0 90 5 6 100 && s.exchangeFits 1 90 95 96 101 && s.exchangeDue 0 && s.exchangeDue 1) = true ∧
    (let s := { s0 with mgmt := { s0.mgmt with owner := 5, lease := 1 }, boot := booted }
     s.boot.running.isSome && s.owns 5 && !s.owns 6 && !s.owns 0 && s.cg.leader == s.pkg.toNat) = true := by
  decide +kernel

/-! Translation, migration and the moves of contexts. -/

/-- A load of slot 0 that has walked, or a strand held by a walk, over the page table of `paged`. -/
def load0 (ph : Phase) : Entry :=
  ⟨50, wordOf (.ld ⟨.w32, true⟩ 3 ⟨1, false⟩ 0), 0, 0x4008, 0x8040, 0x8040, 0, 0, 0, ph, [], {}⟩
def walk0 (va : Word) (since : Option Word) : Walk := ⟨va, false, false, true, since, []⟩
def later (t : Word) (u : Strand) : State := paged { onSlot 0 u with dies := [(0, { Die.reset with ptc := t })] }

theorem witness_walks : ([(16, none), (99, none), (16, some 0)].all fun (c : Nat × Option Word) =>
    let s := later 1000 { strand0 with walk := some (walk0 0x8040 c.2) }
    (s.strand 0).active && ((s.strand 0).walk.any fun w => w.busy && w.waiting == c.2 && 1000 ≤ (s.now - w.waiting.getD 0).toNat) &&
      16 ≤ c.1 && match s.walkFor 0 0 0x8040 with
      | .ok _ => true
      | _ => false) = true ∧
    (let s := (later 1000 { strand0 with walk := some (walk0 0x8040 none) }).writeMem 0x108000 (0xE + 2 ^ 56) 8
     (s.strand 0).active && ((s.strand 0).walk.any fun w => w.busy && w.waiting.isNone) && match s.walkFor 0 0 0x8040 with
      | .wait leaf => leaf == 0x108000
      | _ => false) = true ∧
    ([(0x8040, none), (0x4000000, none), (0x8040, some 0)].all fun (c : Word × Option Word) =>
      let e := load0 (.walking (walk0 c.1 c.2))
      let s := later 1000000 { strand0 with queue := [e], x := [(1, c.1)] }
      (s.strand 0).active && (s.strand 0).queue[0]? == some e && (e.memOp == some (.load ⟨.w32, true⟩ 3 false)) &&
        1000000 ≤ (s.now - 0).toNat && match s.walkFor 0 0 (c.1.toNat % 2 ^ 58) with
        | .ok x => c.1 == 0x8040 && ((s.fillTlbs 0 x ⟨0, 0, 0⟩).retry 0 e [x] false).isSome
        | .fail _ => c.1 != 0x8040
        | _ => false) = true := by
  decide +kernel

theorem witness_inv_writes : ([(false, 0), (true, 0), (true, 14), (true, 15)].all fun c =>
    let s : State := { s0 with fns := [(512, { Fn.reset with busy := c.1, inv := List.replicate c.2 ⟨false, 0⟩ })], boot := booted }
    s.boot.running.isSome && (s.fn 512).busy == c.1 && (s.fn 512).inv.length == c.2) = true := by
  decide +kernel

theorem witness_shootdown_ack : ([([], [1, 2]), ([(7, [5])], [])].all fun (c : Tab (List Nat) × List Nat) =>
    let h : Shoot := ⟨9, 0, false, 0x400000000000000, c.2, c.1, none, false, none⟩
    let s : State := { s0 with shoots := [h] }
    s.shoots[0]? == some h && !c.2.contains 7 && !h.entry && s.allDone false ((h.waits.find 7).getD []) && !s.pinned h 7 &&
      !s.matNamed h 7 && (h.waits.find 7).isSome == c.2.isEmpty) = true := by
  decide +kernel

/-- A fault unit with one fault of context 90 and the pending pages given. -/
def fault0 : PageFault := ⟨1, 1, false, 0, 0, 0x8040, 0, 90⟩
def faulting (l : List PendingPage) : State :=
  { s0 with
    saved := [saved0], mgmt := { s0.mgmt with owner := 5, lease := 1 }, boot := booted
    dies := [(0, { Die.reset with
      fault := { FaultRegs.reset with frctl := 0x1000001 }, pending := l, faultq := [fault0] })] }

theorem witness_page_faults : ([(false, [⟨fault0, 2, 14, some 7, [3]⟩]), (false, []), (true, [⟨fault0, 0, 25, some 7, [3]⟩]),
    (true, [⟨fault0, 5, 14, some 7, [3]⟩]), (false, List.replicate 255 ⟨fault0, 5, 14, some 7, [3]⟩)].all
    fun (c : Bool × List PendingPage) =>
    let s := if c.1 then paged (faulting c.2) else faulting c.2
    let d := s.die 0
    (match d.faultq with
      | f :: _ =>
        let va := f.va.toNat % 2 ^ 58
        let log := match s.leafOf f.func va with
          | .ok (_, _, log) => log
          | .error _ => 14
        (log == 25) == c.1 && ((s.savedOf f.ctx).any fun v => v.spilled) && (d.pending.any fun p => p.fault.func == f.func &&
          (p.page == va / 2 ^ p.log || p.page * 2 ^ p.log / 2 ^ log == va / 2 ^ log)) == (c.2.length == 1)
      | [] => false) && d.fault.en && d.pending.length < 256 && s.boot.running.isSome && s.owns 5) = true ∧
    ([0, 0x10000].all fun v => (bits (v : Word).toNat 16 16 == 0) == (v == 0)) = true ∧
    (let p : PendingPage := ⟨fault0, 2, 14, none, [3]⟩
     let s := (faulting [p]).setDie 0 { (faulting [p]).die 0 with faultq := [] }
     (s.die 0).fault.en && (s.die 0).faultq.isEmpty && (s.die 0).pending.find? (fun p => p.record.isNone) == some p &&
       !(s.die 0).fault.full) = true ∧
    ((faulting [⟨fault0, 2, 14, some 7, [3]⟩]).die 0).pending.find? (fun p => p.record == some 7) = some ⟨fault0, 2, 14, some 7, [3]⟩ := by
  decide +kernel

/-- A small page in the table, at 0x2000000, whose leaf stands in a table of its own. -/
def small (s : State) : State := ((paged s).writeMem 0x108008 0x10C001 8).writeMem 0x10C000 0x2F 8

theorem witness_migcmd : (([0, 1] : List Word).all fun st =>
    let s := small (faulting [])
    let s : State := s.setDie 0 { s.die 0 with fault := { (s.die 0).fault with migst := st } }
    s.boot.running.isSome && s.owns 5 && (s.die 0).fault.migst.getLsbD 0 == (st == 1) &&
      (match s.startMigration 0 0 0x4000000 0 true false with
        | .error _ => true
        | .ok _ => false) && match s.startMigration 0 0 0x2000000 0 true false with
        | .error _ => false
        | .ok _ => true) = true := by
  decide +kernel

theorem witness_migration : ([none, some [5]].all fun drain =>
    let m : Migration := ⟨0, 0x2000000, 0x10C000, 0x2F, 16384, 0, 0, 9, true, drain⟩
    let s : State := (small (faulting [])).setDie 0 { Die.reset with mig := [m] }
    (s.die 0).mig == [m] && s.shoots.isEmpty && ((List.range 8).all fun d =>
      !s.pinned ⟨0, 0, false, 0x2000000, [], [], none, false, none⟩ d) && s.allDone false [5] && s.frameClear 0 16384) = true := by
  decide +kernel

theorem witness_trap_take :
    let e := load0 (.faulted .alignment)
    let s := trapping { strand0 with queue := [e] }
    let u := s.strand 0
    (u.active && u.settled && u.edge.isNone && u.wait.isNone && u.queue == [e] &&
      (s.takeTrap 0 .alignment e.pc e.addr e.iword).isSome) = true := by
  decide +kernel

/-- A core whose shadow bank holds a strand that leaves or arrives, on a die with 128 save frames. -/
def shadowed (b : Option Shadow) : State :=
  { onSlot 3 strand0 with
    cores := [(0, { handled with shadow := b, moves := [⟨1, 90, false, []⟩] })], saved := [saved0]
    mgmt := { s0.mgmt with owner := 5, lease := 1 }, boot := booted
    dies := [(0, { Die.reset with save := ⟨0x50000, 0x1F, 128⟩ })]
    mem := (List.range 128).map fun i => (0x50000 + 8 * i + 2, 1) }
def shadow0 (out : Bool) : Shadow := ⟨1, strand0, out, .bound, [], none, false, none⟩

theorem witness_context_moves : ((let s := shadowed (some (shadow0 true))
    (s.core 0).shadow == some (shadow0 true) && match (s.takeFrames 0 2).2 with
      | some [f1, f2] => s.framesFree f1 f2
      | _ => false) &&
    (([0, 9] : List Word).all fun left =>
     let s : State := { shadowed none with saved := [{ saved0 with left := left }] }
     (s.core 0).shadow.isNone && s.requests 0 == [⟨1, 90, false, []⟩] && s.allDone false [] &&
       ((s.savedOf 90).any fun v => v.spilled && s.framesFree v.frame1 v.frame2 && (s.die 0).ptc.ult v.left == (left == 9))) &&
    (let s := shadowed (some (shadow0 false))
     ((s.core 0).shadow.any fun b => !b.outgoing && b.mat.isNone && b.acq.isNone) && !(s.strand (slotKey 0 1)).active) &&
    (let s := shadowed none
     s.boot.running.isSome && s.owns 5 && ([0x1F, 0x400010].map fun v => (BitVec.ofNat 64 v).getLsbD 4) == [true, true] &&
       !(0x400000 : Word).getLsbD 4)) = true := by
  decide +kernel

/-! Launches and clusters. -/

theorem witness_doorbell : ([(0, 4, 16), (512, 16, 16), (512, 17, 16), (512, 4, 0), (7, 1, 16)].all fun (c : Nat × BitVec 32 × Word) =>
    let s : State := { s0 with fns := [(c.1, { Fn.reset with qctl := c.2.2 + 4, enabled := c.1 == 512 })], boot := booted }
    let q := s.fn c.1
    c.1 ≤ 512 && s.boot.running.isSome && s.fnOn c.1 == (c.1 != 7) &&
      (!q.en || (c.2.1 - q.qhead).toNat ≤ 2 ^ q.log) == (c.2.1 != 17 && c.1 != 7 || c.2.1 == 1)) = true := by
  decide +kernel

/-- Queue 0 with one entry, at 0x200000, of a record at 0x201000. -/
def queued : State :=
  let s := paged { s0 with launches := [] }
  let s : State := { s with fns := [(0, { s.fn 0 with qbase := 0x200000, qctl := 0x14, qtail := 1 })] }
  s.writeMem 0x200000 0x201000 8

theorem witness_queue :
    let s := queued
    let q := s.fn 0
    (s.nextQueue == some 0 && q.pending ≤ 2 ^ q.log && match s.readSys 0 (bits q.qbase.toNat 0 58 + 16 * (q.qhead.toNat % 2 ^ q.log)) 2 with
      | some (s1, [a, 0]) => addrWord a && (s1.readSys 0 (a.toNat % 2 ^ 58) 72).isSome
      | _ => false) = true := by
  decide +kernel

/-- A launch on partition 0 with `n` seeds in its state, over the page table. -/
def deciding (words : List Word) (pf : Bool) (st : LaunchState) : State :=
  paged { s0 with clusters := [], launches := [(3, { launch0 with words := words, pf := pf, state := st })] }
def onePart : List Word := words0.set 7 1

theorem witness_decide : ([(onePart, true, 4), (onePart.set 0 0, false, 2), (onePart.set 0 0x180001, true, 5), (words0, false, 3),
    (onePart.set 1 4, false, 1), (onePart, false, 0)].all fun (c : List Word × Bool × Nat) =>
      let s := deciding c.1 c.2.1 .waiting
      match s.launches.find 3 with
      | none => false
      | some l => l.state == .waiting && l.waitn == 0 && l.pf == c.2.1 && (l.pf && !l.ie) == (c.2.2 == 4) &&
        (c.2.2 == 4 || (l.badFormat || l.badFields || (l.priv && l.func != 0)) == (c.2.2 == 2)) &&
        (c.2.2 == 4 || c.2.2 == 2 || (!l.graph && s.badPartition l == (c.2.2 == 3) && (l.seeds == 0) == (c.2.2 == 1)))) = true := by
  decide +kernel

theorem witness_timeout : (let l := { launch0 with firstSeed := some 0 }
    let s : State := { s0 with launches := [(3, l)], dies := [(0, { Die.reset with ptc := 5000000 })] }
    s.launches.find 3 == some l && l.byteBits 512 32 32 == 5 && l.byteBits 512 32 32 * 1000000 ≤ (s.now - 0).toNat) = true := by
  decide +kernel

/-- An ended launch that holds cluster 0, whose lines are in the state given. -/
def ended (l : List CLine) (w : Option (List Nat)) : State :=
  { s0 with
    strands := [], launches := [(3, { launch0 with state := .ended 0, flushing := w })]
    clusters := [(0, { Cluster.reset with lines := l, holder := if w.isSome then none else some 3, started := true })] }

theorem witness_flush : (let s := ended [line0 .d] none
    let r := s.flushCluster 0
    s.heldBy 3 == [0] && s.stoppedIn 0 && !r.1.allDone true r.2) = true ∧
    ([0, 0x208000].all fun (base : Nat) =>
      let s := ended [] (some [5])
      let s := paged s
      let s : State := { s with fns := [(0, { s.fn 0 with crbase := BitVec.ofNat 64 (base + 4 * 2 ^ 58) })] }
      match s.launches.find 3 with
      | none => false
      | some l => l.flushing == some [5] && s.allDone true [5] && (s.heldBy 3).isEmpty && l.successors.isEmpty &&
        bits (s.fn 0).crbase.toNat 0 58 == base && (base == 0 || (match s.translateW 0 (base + 32 * ((s.fn 0).crw.toNat % 2 ^ 4)) with
          | some pa => s.sysReady pa true && ((s.writeSys pa (l.completion 0 s.now) 32).heldBy 3).isEmpty
          | none => false))) = true := by
  decide +kernel

/-- No launch waits under its LAUNCH_ID; one waits for two launches, and one for one. -/
theorem witness_successors : ([0, 1, 2].all fun n =>
    let s := deciding onePart false .waiting
    let s : State := { s with launches := s.launches.map fun e => (e.1, { e.2 with waitn := n }) }
    match s.launches.find? fun e => e.2.func == 0 && e.2.lid == launch0.lid && e.2.state == .waiting && e.2.waitn != 0 with
    | none => n == 0
    | some (k, l) => l.waitn == n && n != 0 && (s.decide k { l with waitn := l.waitn - 1 }).isSome) = true := by
  decide +kernel

/-- Two launches, of priorities 0 and 40, and cluster 0 with its holder. -/
def vying (holder : Option Nat) : State :=
  { s0 with
    launches := [(3, { launch0 with state := .ready }), (4, { launch0 with order := 4, words := words0.set 0 0x102801 })]
    clusters := [(0, { Cluster.reset with holder := holder, started := holder.isSome })]
    parts := [(0, ⟨0, true, false, none, false, none⟩)], dies := [(0, { Die.reset with ptc := 2000000 })] }

theorem witness_clusters : ((let s := vying none
    (s.cluster 0).holder.isNone && (s.nextHolder 0).map (fun e => e.1) == some 4 && s.dieOn (clusDie 0)) &&
    (let s := vying (some 4)
     match s.launches.find 3 with
     | some l => l.state == .ready && s.blocked 3 l && 1000 * max 1 s.pf.ageq.toNat ≤ (s.now - l.ageFrom).toNat
     | none => false) &&
    (let s := vying (some 3)
     match s.launches.find 3 with
     | some l => l.state == .ready && (s.cluster 0).started && (s.cluster 0).save == .off &&
       1000 * s.pf.quant.toNat ≤ (s.now - (s.cluster 0).heldAt).toNat &&
       !(s.launches.filter fun e => e.1 != 3 && s.mayGain 0 e.2 && s.effPrio l ≤ s.effPrio e.2).isEmpty
     | none => false)) = true := by
  decide +kernel

theorem witness_preempt :
    let s := vying (some 3)
    (match s.launches.find 4, s.launches.find 3 with
     | some l, some h => s.clusters.any fun e => e.2.holder == some 3 && h.state == .ready && e.2.started && e.2.save == .off &&
       s.mayGain e.1 l && h.prio + s.pf.pdelta.toNat ≤ l.prio && s.wants 4 l e.1
     | _, _ => false) = true := by
  decide +kernel

/-- Cluster 0 belongs to launch 3 and has not started, or is being saved. -/
def belonging (k : Cluster) : State := paged { s0 with
  strands := [], clusters := [(0, { k with holder := some 3 })], dies := [(0, { Die.reset with save := ⟨0x50000, 0x1F, 128⟩ })] }

theorem witness_cluster_start : (let s := belonging Cluster.reset
    match s.launches.find 3 with
    | some l => !(s.cluster 0).started && l.state == .ready && s.savedClusters.isEmpty && s.dieOn (clusDie 0) &&
      (match s.vectors l with
       | some (s1, _) => (s1.regionTable l (clusDie 0)).isSome
       | none => false)
    | none => false) = true := by
  decide +kernel

theorem witness_cluster_save : ((let s := belonging { Cluster.reset with started := true, save := .swapping }
    (s.cluster 0).save == .swapping && (s.saveDeque 0).isNone && (s.saveSlot 0).isNone && s.savable 0) &&
    (let s := { belonging { Cluster.reset with started := true, save := .flushing [5] false } with
       mem := (List.range 128).map fun i => (0x50000 + 8 * i + 2, 1) }
     (s.cluster 0).save == .flushing [5] false && s.allDone true [5] &&
       (s.takeFrames (clusDie 0) 104).2.any fun f => (s.takeFrames (clusDie 0) 104).1.framesReady f)) = true := by
  decide +kernel

theorem witness_cluster_restore : (let v : SavedCluster := ⟨0, 3, Cluster.reset, [], [], [0x50000, 0x51000]⟩
    let s := { belonging Cluster.reset with savedClusters := [v] }
    match s.launches.find 3 with
    | some l => (s.savedClusters.find? fun v => v.clus == 0 && v.launch == 3) == some v && !(s.cluster 0).started &&
      l.state == .ready && s.dieOn (clusDie 0) && s.framesReady v.frames && (s.vectors l).isSome
    | none => false) = true := by
  decide +kernel

theorem witness_task : (let l : Launch := { graph0 with
      words := (graph0.words.set 52 0x210000).set 7 1, nodes := [[0x4000, 0, 2 * 2 ^ 32, 0, 5, 1, 6, 1]] }
    let t : BitVec 128 × Nat × Nat := (BitVec.ofNat 128 (5 * 2 ^ 64), 0, 1)
    let s := paged { onSlot 5 strand0 with launches := [(3, l)], dies := [(0, { Die.reset with tasks := [t] })] }
    s.running 0 == some 3 && l.graph && s.idleSlot 0 && s.nextTask l 0 == some t && match l.nodes[taskNode t.1]? with
      | some nd => ({ s.setStrand 0 { strand0 with ctx := 200 } with serial := 201 } : State).writeArgs l 0 nd (taskInst t.1)
          0x210000 (nodeArgs nd) |>.isSome
      | none => false) = true := by
  decide +kernel

/-! Host links, dies and the fleet. -/

theorem witness_links : ([0, 1].all fun p =>
    let s : State := { s0 with
      slices := [(9, { Slice.reset with sharers := [(1024, p, some 0)] })], dies := [(0, { Die.reset with ptc := 1000000 })] }
    !(s.hostLink p).down && (s.slices.any fun e => e.2.sharers.any fun x => x.2.1 == p && (x.2.2.any fun t =>
      1000000 ≤ (s.now - t).toNat)) && ({ s with host := [(p, ⟨[], true, true⟩)] } : State).hostLink p == ⟨[], true, true⟩) = true ∧
    ([1, 8, 4, 32, 66, 83].all fun l => linkExists l && l != 64 && l != 65 && (s0.link l).state != .down) = true := by
  decide +kernel

theorem witness_dies : ((let s := State.reset
    s.dieOn 7 && (s.drainDie 7).isSome && s.idleDie 7 && (s.slicesOf 7).isEmpty && s.posting.isEmpty && s.ingress.isEmpty) &&
    (let s := s0.setLink 1 ⟨[], .asleep (some 0) false, 0⟩
     let s : State := { s with dies := [(0, { Die.reset with ptc := 1500 })] }
     (s.link 1).state == .asleep (some 0) false && 1500 ≤ (s.now - 0).toNat) &&
    (let s := (s0.setLink 1 ⟨[], .asleep (some 0) true, 0⟩).setLink 41 ⟨[], .asleep none false, 0⟩
     let s : State := { s with dies := [(0, { Die.reset with ptc := 200000 }), (1, { Die.reset with power := .gated })] }
     let s := s.setLink 17 ⟨[], .asleep none false, 0⟩
     (s.die 1).power != .dead && !s.dieAwake 1 && (neighbours 1).contains 0 && (s.link (linkKey 0 1)).state == .asleep (some 0) true &&
       200000 ≤ (s.now - 0).toNat && (s.link 8).state == .up && (s.die 0).power == .on && (s.die 1).power == .gated)) = true := by
  decide +kernel

/-- Claims: of a free device, kept, given up, handed on, and refused. -/
theorem witness_claims : ([(0, 5, 0, 5), (5, 5, 5, 5), (5, 5, 5, 0), (5, 5, 5, 6), (0, 5, 0, 6), (5, 6, 5, 6), (5, 6, 4, 6)].all
    fun (c : BitVec 16 × BitVec 16 × BitVec 16 × BitVec 16) =>
      let s : State := { s0 with mgmt := { s0.mgmt with owner := c.1, gen := 0x70003, lease := 1 }, boot := booted }
      let v : Word := (3 : BitVec 16) ++ c.2.1 ++ c.2.2.2 ++ c.2.2.1
      let m := s.mgmt
      let self := claimSelf v 0
      let heir := v.extractLsb' 16 16
      let fits := self != 0 && v.extractLsb' 0 16 == m.owner && v.extractLsb' 48 16 == m.gen.extractLsb' 0 16
      s.boot.running.isSome && self == c.2.1 && heir == c.2.2.2 && fits == (c.2.2.1 == c.1)) = true ∧
    claimSelf 0 256 = 0x1FF ∧ ({ s0 with mgmt := { s0.mgmt with owner := 5 } } : State).mgmt.lease = 0 ∧
    ([5, 6].all fun ns =>
      let m := { s0.mgmt with owner := (5 : BitVec 16), lease := 6 }
      m.owner != 0 && m.lease != 0 && (m.lease.toNat ≤ ns) == (ns == 6)) = true := by
  decide +kernel

/-- An image and a record. -/
def image0 : Image := ⟨[], [], [], 3, 7⟩
def record0 : ConfigRecord := ⟨[], 2, 1, [], []⟩

/-- Which signatures hold is a free value (log 14): an image and a record that pass are taken. -/
theorem witness_candidate (i : Image) (r : ConfigRecord) (b : Boot) (h1 : imageGood i = true)
    (h2 : recordGood i.configKeyHash r = true) (h3 : r.minVersion ≤ i.version) (h4 : b.copyA = some r) (h5 : b.copyB = none) :
    b.candidate (some i) = some (i, r) ∧ b.select i.configKeyHash = some (r, true) := by
  have h : b.select i.configKeyHash = some (r, true) := by simp [Boot.select, h4, h5, h2, Option.filter]
  refine ⟨?_, h⟩
  simp [Boot.candidate, h1, h, Nat.not_lt.mpr h3]

theorem witness_not_started : State.reset.boot.running = none := by decide

theorem witness_boot : (let b := State.reset.boot
    b.running.isNone && !b.recovery && (b.candidate b.slotA).isNone && (b.candidate b.slotB).isNone) = true ∧
    ([0, 1048575, 1048576].all fun n =>
      let s : State := { s0 with boot := { s0.boot with record := some record0, running := some image0, leaf := n } }
      s.boot.record.isSome && !s.boot.recovery && s.boot.running == some image0 && !s.owns 5 &&
        !recordGood image0.configKeyHash record0) = true := by
  decide +kernel

theorem witness_partitions : (([(⟨0, false, true, some (1, true), false, none⟩, 0), (⟨0, false, false, none, false, none⟩, 513),
    (⟨0, false, false, none, false, none⟩, 0x400 + 512), (⟨1, true, true, some (0, false), true, some [5]⟩, 0)] : List (Part × Word)).all
    fun c =>
      let s : State := { s0 with parts := [(63, c.1)], mgmt := { s0.mgmt with owner := 5, lease := 1 }, boot := booted }
      let f : BitVec 10 := if 513 ≤ bits c.2.toNat 0 10 then 0 else c.2.extractLsb' 0 10
      s.boot.running.isSome && s.owns 5 && s.part 63 == c.1 && !s.partHeld 63 && s.allDone false [5] &&
        s.frameClear (partBase 63) partSize && (c.2 != 513 || (f == (s.part 63).func && c.2.getLsbD 10 == (s.part 63).en)) &&
        (c.2 != 0x400 + 512 || !(f == (s.part 63).func && c.2.getLsbD 10 == (s.part 63).en))) = true := by
  decide +kernel

/-- A row with the errors given. -/
def worn (kind : Resource) (times : List Word) (acting : Bool) (addr : Nat) : State :=
  { s0 with ras := { s0.ras with tracked := [⟨kind, 0, addr, times, acting⟩] } }

theorem witness_wear : ([([], false), (List.replicate 15 0, false), ([], true)].all fun (c : List Word × Bool) =>
    let s := worn .hbmRow c.1 c.2 5
    let new : Tracked := ⟨.hbmRow, 0, 5, [], false⟩
    let old := (s.ras.tracked.find? fun t => sameRes t new).getD new
    let now := (s.die 0).ptc
    let times := (now :: old.times).take s.ras.cethr
    let count := (times.filter fun t => (now - t).toNat < s.ras.cewin * 1000000000).length
    laneLink .hbmRow (5 / 32) && old.acting == c.2 && (s.ras.cethr ≤ count) == !c.1.isEmpty) = true ∧
    ([.hbmRow, .l2Row, .sramRow].all fun k => (worn k [] true 5).ras.tracked[0]? == some ⟨k, 0, 5, [], true⟩) = true ∧
    ([(64, Resource.hostLane), (83, .tuzelLane)].all fun c =>
      let s := (worn c.2 [] true (c.1 * 32)).setLink c.1 ⟨[], .retraining, 2⟩
      match s.ras.laneOf c.1 with
      | some t => ((s.ras.done t).laneOf c.1).isNone && (s.link c.1).state == .retraining &&
        linkLanes c.1 ≤ 2 * (linkLanes c.1 - ((s.link c.1).lost + 1))
      | none => false) = true := by
  decide +kernel

/-- Over the limit above 1.0 GHz, at it for long, at it with the duty at its floor; below it with either to give back; and between. -/
theorem witness_governor : ([(1001, 0, 16, 4000), (1000, 49, 9, 4000), (1000, 49, 8, 4000), (1000, 0, 16, 4000), (1000, 0, 15, 3000),
    (1600, 0, 16, 3000), (1600, 0, 16, 3600), (1600, 0, 16, 3492)].all fun (c : BitVec 11 × Nat × BitVec 5 × BitVec 12) =>
      let s : State := { s0 with
        power := { s0.power with freq := c.1, floorTicks := c.2.1, duty := c.2.2.1 }, dies := [(0, { Die.reset with ptc := 20000 })] }
      20000 ≤ (s.now - s.power.tickAt).toNat && s.power.plim == 3600 && (3600 < c.2.2.2.toNat) == (c.2.2.2 == 4000) &&
        (100 * c.2.2.2.toNat < 97 * 3600) == (c.2.2.2 == 3000)) = true := by
  decide +kernel

/-- Writes: of registers that nobody governs, by the PF and by a VF; and of governed ones, three of them read-only. -/
theorem witness_register_writes : ([(0, PlainReg.vfEnable 512, 1), (0, .maxprio 7, 1), (7, .maxprio 7, 1), (7, .qbase 7, 1), (0, .ageq, 2),
    (0, .frbase 7, 2), (0, .erbase, 2), (0, .frtail 0, 3), (0, .erdrop, 3), (0, .pwrst, 3)].all fun (c : Nat × PlainReg × Nat) =>
      let s : State := { s0 with mgmt := { s0.mgmt with owner := 5, lease := 1 }, boot := booted }
      regExists c.2.1 && regReached c.1 c.2.1 && s.boot.running.isSome && s.owns 5 && !s.owns 6 && s.mgmt.lease != 0 &&
        (regNumber c.2.1).isNone == (c.2.2 == 1) && (regMask c.2.1 == 0) == (c.2.2 == 3)) = true ∧
    (([(0, .inl .pwrst), (7, .inl (.qctl 7)), (7, .inr (.tlbst 7)), (0, .inr (.fres 7)), (0, .inr (.part 63)), (0, .inr .cgst)] :
      List (Nat × (PlainReg ⊕ OtherReg))).all fun c => ({ s0 with boot := booted } : State).boot.running.isSome && regReadable c.1 c.2) = true := by
  decide +kernel

/-! The rest. -/

/-- Core 0 with one request of BF16 operands whose banks hold lines of zeros. -/
def summed (buf : Option CoalBuf) : State :=
  let m : MatCtx := { matCtx0 with reqs := [⟨false, 0x8040, dims 16 16 32, 1, 2, 100, []⟩], buf := buf }
  beside { Cluster.reset with
    modes := [(1, .fifo), (2, .fifo)], mats := [(0, m)]
    fifos := [1, 2].map fun b => (b, ⟨List.replicate 16 0, List.replicate 16 0, none, false, 0⟩) }

/-- A request of the unit waits while a row of its bank is remapped: which rows a resource holds is a free value (log 37). -/
theorem witness_matrix_waits (h : ∀ row, Config.rowHolds 2 0 9 row = true) :
    ({ s0 with ras := { s0.ras with tracked := [⟨.sramRow, 0, 9, [], true⟩] } } : State).banksBusy 0 (matCtx0.banks 1 2 false) = true := by
  have b := witness_row_busy h (16384 * 1) 16384 (by decide)
  simp [State.banksBusy, MatCtx.banks, b]

theorem witness_matrix_serve : ([none, some ⟨0x8040, 0, 100, 63, [], []⟩].all fun b =>
    let s := summed b
    let m := (s.cluster 0).mats.get 0 .reset
    ((List.range 32).all fun d => d == 0 || ((s.cluster 0).mats.get d .reset).reqs.isEmpty) && m.emitting.isNone &&
      match m.reqs with
      | r :: _ => ((s.cluster 0).popOperands m r).any fun p =>
        !s.banksBusy 0 (m.banks r.fa r.fb r.mmat) && !(p.1.compute (s.tileHeld 0 r.ctx) p.2.1 r p.2.2.1 p.2.2.2).wait
      | [] => false) = true := by
  decide +kernel

theorem witness_commit : ([(0x8000, 1), (0x8040, 1), (0x8040, 62), (0x8040, 63)].all fun (c : Word × Nat) =>
    let m := { matCtx0 with buf := some ⟨c.1, 0, 100, c.2, [], []⟩ }
    (m.buf.map fun b => b.addr != 0x8040) == some (c.1 == 0x8000) && m.emitting.isNone) = true ∧
    (let m := { matCtx0 with emitting := some ⟨0x8040, 0, 100, 64, [], []⟩ }
     let s := beside { Cluster.reset with mats := [(0, m)] }
     (s.mat 0).emitting.any fun b => !s.boardBuf (coreClus 0) (s.mat 0) b) = true := by
  decide +kernel

/-- A schedule of one copy, of a box or with a reserved bit, at 0x211000. -/
def scheduled (v : Vec) : State :=
  let ws := (((launch0.words.set 53 0x211000).set 54 1).set 55 128).set 7 1
  let s := paged { ringed strand0 with launches := [(3, { launch0 with words := ws })] }
  (s.writeMem 0x211008 (0x8040 + 0x8100 * 2 ^ 64) 16).writeMem (0x211000 + 64) v.toNat 64

theorem witness_schedule : ([box, box + BitVec.ofNat 512 (2 ^ 12)].all fun v =>
    let s := scheduled v
    let k := s.cluster 0
    match s.launches.find 3 with
    | none => false
    | some l =>
      match s.readVa 0 ((l.word 424).toNat + l.rank 0 * (l.word 440).toNat + 128 * k.sched) 128 with
      | none => false
      | some r =>
        let v' : Vec := BitVec.ofNat 512 (bits r 512 512)
        let g := geomBits v'
        let xa := BitVec.ofNat 64 (bits r 64 64)
        let xb := BitVec.ofNat 64 (bits r 128 64)
        let bind := fun (n : BitVec 4) => l.binding n.toNat
        k.holder == some 3 && k.started && k.sched < bits (l.word 432).toNat 0 16 && bits r 0 32 ≤ k.sc.toNat && k.board.length < 32 &&
          bits r 34 30 == 0 && bits r 192 320 == 0 && (k.rings.find (bits r 32 2)).isSome &&
          (copyChecks g v' xa xb k (s.core 0) bind).isSome == (v != box) && s.boardFree (0 :: castList 0 g.mask) &&
          !(g.tofifo && k.busyBank g.fbank) && ((copyIntervals g v' xa xb).all fun iv => !iv.busy k bind) &&
          match translateAll (s.walkPage 0 0) (copyIntervals g v' xa xb) with
          | .ok _ => true
          | _ => false) = true := by
  decide +kernel

/-- Whether an instruction or a step goes on. -/
def goesOn (o : Host.Outcome State Fault Refusal) : Bool :=
  match o with
  | .next _ => true
  | _ => false

theorem witness_register_frame : (([.add ⟨.w64, true⟩ 3 ⟨1, false⟩ ⟨2, false⟩, .fadd .f32 .dyn 3 ⟨1, false⟩ ⟨2, false⟩] : List Instr).all
    fun i => let s := onSlot 0 (two 5 7)
    match registerForm i with
    | some ops => issues s ops && goesOn (exec i s)
    | none => false) = true := by
  decide +kernel

theorem witness_store_frame : (([.st ⟨.w8, true⟩ 2 ⟨1, false⟩ 0, .st ⟨.w64, true⟩ 2 ⟨1, false⟩ 7, .stv 2 ⟨1, false⟩ 0] : List Instr).all fun i =>
    ([LState.s, LState.d].all fun st =>
      let s : State := { mapped (regs [(1, 0x8040), (2, 7)] [(2, 9)]) with clusters := [(0, { Cluster.reset with
        holder := some 3, started := true, lines := [⟨0x20040 / 128, st, 5, BitVec.allOnes 128, 0, .f32, .die, 0, 0x8000, [], [], []⟩] })] }
      meets s i (fun o _ p => !p.remote 0 && !p.unc && (s.cluster 0).caches && ((s.cluster 0).findLine (p.pa / 128)).isSome &&
        (match o with
        | .store _ false | .storeV => true
        | _ => false)) && goesOn (exec i s))) = true := by
  decide +kernel

theorem witness_memory : Safety.MemoryCanonical State.reset ∧ Safety.MemoryCanonical (State.reset.writeMem 0x1000 5 8) := by
  constructor
  · show Memory.wf State.reset.mem = true
    decide +kernel
  · show Memory.wf (State.reset.writeMem 0x1000 5 8).mem = true
    decide +kernel

theorem witness_bytes : bytesExist 0x1000 8 = true ∧ bytesExist 0x1FFFFFFFFC 8 = false ∧ 0x1000 / 128 ≠ 5 := by decide +kernel

theorem witness_encoding : ((Instr.wf (.addi 3 ⟨1, false⟩ 5)) && (encode (.addi 3 ⟨1, false⟩ 5)).isSome &&
    (Instr.wf (.li 3 0xFFFFFFFF)) && (encode (.li 3 0xFFFFFFFF)).isSome) = true := by
  decide +kernel

/-- The words of an instruction at 0x4008. -/
def standing (i : Instr) : State :=
  match encode i with
  | none => s0
  | some (w, x) => { mapped (two 5 7) with cores := [(0, { core0 with
      icache := [(0x200, codeLine - BitVec.ofNat 1024 (0x58000000 * 2 ^ 64) +
        BitVec.ofNat 1024 ((w.toNat + (x.map BitVec.toNat).getD 0 * 2 ^ 32) * 2 ^ 64))] })] }

theorem witness_step : (([.add ⟨.w64, true⟩ 3 ⟨1, false⟩ ⟨2, false⟩, .li 3 0xFFFFFFFF] : List Instr).all fun i =>
    let s := standing i
    let t := s.me
    let n := slotIdx s.here
    t.way.isNone && t.pc != t.nextHeader && !t.hword.getLsbD 14 && s.agenda.isEmpty && !s.stalled && n < 5 &&
      ((List.range 5).all fun m => m == n || !(s.strand (slotKey 0 m)).active) && (s.die 0).power == .on && !s.stopped t && t.ready &&
      t.reload.isNone && (match s.code t 0 t.pc 4 with
        | .ok s1 v => (match decode (BitVec.ofNat 32 v) none with
          | .ok j => j == i
          | .error e => e == .literalMissing && t.pc + 4 != t.nextHeader && (match s1.code t 0 (t.pc + 4) 4 with
            | .ok _ x => decode (BitVec.ofNat 32 v) (some (BitVec.ofNat 32 x)) == .ok i
            | _ => false))
        | _ => false) &&
      (match s.fetch s.here with
        | .instr s1 j => j == i && (match exec j s1 with
          | .next s2 => !s2.stalled
          | _ => false)
        | _ => false) && goesOn (step s) && goesOn (step { s with agenda := [.event i] })) = true := by
  decide +kernel

/-- An undecodable word at the same place. -/
theorem witness_illegal : (let s := { mapped (two 5 7) with cores := [(0, { core0 with
      icache := [(0x200, codeLine + BitVec.ofNat 1024 ((0xFFFFFFFF - 0x58000000) * 2 ^ 64))] })] }
    (match s.code s.me 0 s.me.pc 4 with
      | .ok _ v => (match decode (BitVec.ofNat 32 v) none with
        | .error e => e != .literalMissing
        | .ok _ => false)
      | _ => false)) = true := by
  decide +kernel

theorem witness_invariants : Safety.AgeLegal State.reset ∧ Safety.MemoryCanonical State.reset ∧
    goesOn (step State.reset) = true := by
  refine ⟨⟨fun c => ⟨?_, fun n => ?_⟩, fun v hv => ?_⟩, witness_memory.1, ?_⟩
  · show 64 ≤ (State.reset.core c).age.toNat
    have h : State.reset.core c = Core.reset := rfl
    rw [h]; decide
  · have h : State.reset.core c = Core.reset := rfl
    rw [h]; exact Nat.zero_le _
  · exact absurd hv List.not_mem_nil
  · decide +kernel

theorem witness_age : (([0, 63, 64, 65535, 65536] : List Word).all fun v => issues (onSlot 0 (two v 0)) [.xs 1 false]) = true := by
  decide +kernel

end Sys2Proof.Tests
end

section
/-! The state registers (R14, R108, R109, R158 to R160; O3). -/

namespace Sys2Proof.Machine

/-! What a write of %age leaves in a core (R14). -/

/-- A table whose values all go through `f` reads as the old value through `f`, where `f` keeps the default. -/
theorem get_map_values {α : Type} (t : Tab α) (f : α → α) (k : Nat) {d : α} (hd : f d = d) :
    Tab.get (t.map fun e => (e.1, f e.2)) k d = f (Tab.get t k d) := by
  induction t with
  | nil => exact hd.symm
  | cons e r ih =>
    obtain ⟨j, w⟩ := e
    simp only [List.map_cons, Tab.get]
    split
    · rfl
    · exact ih

@[simp] theorem State.setCore_core (s : State) (c : Nat) (t : Core) : (s.setCore c t).core c = t := get_put ..

theorem ageStored_toNat (v : Word) :
    (ageStored v).toNat = if v.toNat < 64 then 64 else if 65535 < v.toNat then 65535 else v.toNat := by
  unfold ageStored
  split
  · rfl
  · split
    · rfl
    · rw [BitVec.toNat_ofNat, Nat.mod_eq_of_lt (by omega)]

@[simp] theorem Core.setAge_age (c : Core) (v : Word) : (c.setAge v).age = ageStored v := rfl

theorem Core.setAge_pass (c : Core) (v : Word) (n : Nat) :
    Tab.get (c.setAge v).pass n 0 = min (Tab.get c.pass n 0) (c.setAge v).age.toNat :=
  get_map_values c.pass (min · (ageStored v).toNat) n (Nat.zero_min _)

/-! RDS and WRS: they are held while a flag of %fflags may still come, and go on in every other case (R109, R159). -/

/-- The condition under which RDS and WRS go on, as they test it. -/
theorem notHeld_of_flags {r : StateReg} {t : Strand} (h : r = .fflags → t.flagsPending = false) :
    (r == .fflags && t.flagsPending) = false := by
  by_cases hr : r = .fflags
  · simp [h hr]
  · simp [hr]

theorem exec_widf_issued {d : RegNo} {s : State} (h : s.Issues [.xd d]) (k : BitVec 3) :
    exec (.widf d k) s = .next (s.after (s.me.setX d (widField (s.launchOf s.me) s.me.wid k.toNat)) 4) := by
  have he : exec (.widf d k) s = execWidf d k s := rfl
  rw [he, execWidf, issuedReg h]

/-- RDS where its registers let it issue: held, or the value in its destination. -/
theorem exec_rds_issued {d : RegNo} {s : State} (h : s.Issues [.xd d]) (r : StateReg) :
    exec (.rds d r) s = if r == .fflags && s.me.flagsPending then .next s.waits
      else .next (s.after (s.me.setX d (s.readState s.here r)) 4) := by
  have he : exec (.rds d r) s = execRds d r s := rfl
  rw [he, execRds, issued h]
  split <;> rfl

/-- WRS of %fflags where its register lets it issue: held, or the six bits stored. -/
theorem exec_wrs_fflags_issued {a : Src} {s : State} (h : s.Issues [a.x]) :
    exec (.wrs .fflags a) s = if s.me.flagsPending then .next s.waits
      else .next (s.after { s.me with fflags := s.me.xr a.r &&& 0x3F } 4) := by
  have he : exec (.wrs .fflags a) s = execWrs .fflags a s := rfl
  rw [he, execWrs, issued h]
  cases s.me.flagsPending <;> rfl

theorem exec_wrs_frm_issued {a : Src} {s : State} (h : s.Issues [a.x]) :
    exec (.wrs .frm a) s = .next (s.after { s.me with frm := frmStored (s.me.xr a.r) } 4) := by
  have he : exec (.wrs .frm a) s = execWrs .frm a s := rfl
  rw [he, execWrs, issued h]
  rfl

theorem exec_wrs_age_issued {a : Src} {s : State} (h : s.Issues [a.x]) :
    exec (.wrs .age a) s = .next ((s.after s.me 4).setCore (slotCore s.here)
      ((s.core (slotCore s.here)).setAge (s.me.xr a.r))) := by
  have he : exec (.wrs .age a) s = execWrs .age a s := rfl
  rw [he, execWrs, issued h]
  rfl

/-- A write of a read-only register is ignored (R159). -/
theorem exec_wrs_readOnly_issued {r : StateReg} {a : Src} {s : State} (h : s.Issues [a.x])
    (hr : r ≠ .fflags ∧ r ≠ .frm ∧ r ≠ .age) : exec (.wrs r a) s = .next (s.after s.me 4) := by
  obtain ⟨hflags, hfrm, hage⟩ := hr
  have he : exec (.wrs r a) s = execWrs r a s := rfl
  rw [he, execWrs, issued h]
  cases r with
  | fflags => exact absurd rfl hflags
  | frm => exact absurd rfl hfrm
  | age => exact absurd rfl hage
  | wid | core | clus | die | slot | ptc | ptcskew => rfl

/-- Settles O3: each state register by its own rule for a read and for a write, %fflags held while a flag may still
come, and a written AGE with the pass counters below it. -/
theorem stateRegistersAreReadAndWritten : Obligations.StateRegistersAreReadAndWritten := by
  refine ⟨⟨fun d k s h => exec_widf_issued h k, fun d r s h hf => ?read, fun r a s h hf => ?write⟩,
    fun d a s hf => ⟨fun h => ?readHeld, fun h => ?writeHeld⟩, fun _ => rfl, fun a s h => ?age⟩
  case read =>
    simp only [exec_rds_issued h, notHeld_of_flags hf]
    cases r <;> rfl
  case write =>
    cases r with
    | fflags => simp [exec_wrs_fflags_issued h, hf]
    | frm => exact exec_wrs_frm_issued h
    | age => exact exec_wrs_age_issued h
    | wid | core | clus | die | slot | ptc | ptcskew => exact exec_wrs_readOnly_issued h (by decide)
  case readHeld => simp [exec_rds_issued h, hf]
  case writeHeld => simp [exec_wrs_fflags_issued h, hf]
  case age =>
    refine ⟨_, exec_wrs_age_issued h, ?_⟩
    rw [State.setCore_core]
    exact ⟨ageStored_toNat _, Core.setAge_pass _ _⟩

end Sys2Proof.Machine
end

section
/-! Integer operations by their size code (R151 to R155; O1). -/

namespace Sys2Proof.Machine

/-! What an instruction that is one of the shared operations of major 0x01 writes where its registers let it issue. -/

section
variable {i : Instr} {z : Size} {d : RegNo} {a b : Src} {s : State}

theorem exec_of_alu2 (h : s.Issues [a.x, b.x, .xd d]) (f : Int → Int → Int) (he : exec i s = alu2 i z d a b f s) :
    exec i s = .next (s.after (s.me.setX d (extendTo z.signed z.w.bits
      (f (readAs z.signed z.w.bits (s.me.xr a.r).toNat) (readAs z.signed z.w.bits (s.me.xr b.r).toNat)))) 4) :=
  he.trans (issuedReg h ..)

theorem exec_of_aluShift (h : s.Issues [a.x, b.x, .xd d]) (f : Nat → Int → Nat → Int)
    (he : exec i s = aluShift i z d a b f s) :
    exec i s = .next (s.after (s.me.setX d (extendTo z.signed z.w.bits
      (f z.w.bits (readAs z.signed z.w.bits (s.me.xr a.r).toNat) (s.me.xr b.r).toNat))) 4) :=
  he.trans (issuedReg h ..)

theorem exec_of_aluCmp (h : s.Issues [a.x, b.x, .xd d]) (f : Int → Int → Bool) (he : exec i s = aluCmp i z d a b f s) :
    exec i s = .next (s.after (s.me.setX d
      (if f (readAs z.signed z.w.bits (s.me.xr a.r).toNat) (readAs z.signed z.w.bits (s.me.xr b.r).toNat)
        then 1 else 0)) 4) :=
  he.trans (issuedReg h ..)

theorem exec_of_alu1 (h : s.Issues [a.x, .xd d]) (f : Int → Int) (he : exec i s = alu1 i z d a f s) :
    exec i s = .next (s.after (s.me.setX d (extendTo z.signed z.w.bits
      (f (readAs z.signed z.w.bits (s.me.xr a.r).toNat)))) 4) :=
  he.trans (issuedReg h ..)

theorem exec_of_aluBits (h : s.Issues [a.x, .xd d]) (f : Nat → Nat → Nat) (he : exec i s = aluBits i z d a f s) :
    exec i s = .next (s.after (s.me.setX d (extendTo z.signed z.w.bits
      (f z.w.bits ((s.me.xr a.r).toNat % 2 ^ z.w.bits) : Nat))) 4) :=
  he.trans (issuedReg h ..)

theorem exec_of_aluCount (h : s.Issues [a.x, .xd d]) (f : Nat → Nat → Nat) (he : exec i s = aluCount i z d a f s) :
    exec i s = .next (s.after (s.me.setX d
      (BitVec.ofNat 64 (f z.w.bits ((s.me.xr a.r).toNat % 2 ^ z.w.bits)))) 4) :=
  he.trans (issuedReg h ..)

theorem exec_sel_issued (h : s.Issues [a.x, b.x, .xs d false, .xd d]) (z : Size) :
    exec (.sel z d a b) s = .next (s.after (s.me.setX d (extendTo z.signed z.w.bits
      (readAs z.signed z.w.bits (if s.me.xr d ≠ 0 then s.me.xr a.r else s.me.xr b.r).toNat))) 4) := by
  have he : exec (.sel z d a b) s = execSel z d a b s := rfl
  rw [he, execSel, issuedReg h]

end

/-! The bit counts and BREV, by the recursion that halves the value (R155). -/

@[simp] theorem countOnesTop_zero (w : Nat) : leadingZeros.countOnesTop w 0 = 0 := by
  cases w <;> rfl

@[simp] theorem leadingZeros_zero (w : Nat) : leadingZeros w 0 = w := by
  simp [leadingZeros]

@[simp] theorem trailingZeros_zero (w : Nat) : trailingZeros w 0 = w := by
  induction w with
  | zero => rfl
  | succ w ih => simp [trailingZeros, ih, Nat.add_comm]

/-- From the highest one bit down there are as many bits as the value has. -/
theorem countOnesTop_of_ne_zero {w v : Nat} (h : v < 2 ^ w) (hv : v ≠ 0) :
    leadingZeros.countOnesTop w v = Nat.log2 v + 1 := by
  induction w generalizing v with
  | zero => omega
  | succ w ih =>
    rw [leadingZeros.countOnesTop, if_neg hv, Nat.log2_def]
    split
    · rw [ih (by omega) (by omega), Nat.add_comm]
    · have h0 : v / 2 = 0 := by omega
      rw [h0, countOnesTop_zero]

theorem leadingZeros_of_ne_zero {w v : Nat} (h : v < 2 ^ w) (hv : v ≠ 0) : leadingZeros w v = w - 1 - Nat.log2 v := by
  rw [leadingZeros, countOnesTop_of_ne_zero h hv]
  omega

theorem testBit_trailingZeros {w v : Nat} (h : v < 2 ^ w) (hv : v ≠ 0) : v.testBit (trailingZeros w v) = true := by
  induction w generalizing v with
  | zero => omega
  | succ w ih =>
    rw [trailingZeros]
    split
    next hodd => simp [Nat.testBit_zero, hodd]
    next => rw [Nat.add_comm, Nat.testBit_succ, ih (by omega) (by omega)]

theorem testBit_of_lt_trailingZeros {w v j : Nat} (hj : j < trailingZeros w v) : v.testBit j = false := by
  induction w generalizing v j with
  | zero => exact absurd hj (Nat.not_lt_zero j)
  | succ w ih =>
    rw [trailingZeros] at hj
    split at hj
    next => exact absurd hj (Nat.not_lt_zero j)
    next heven =>
      cases j with
      | zero => simpa [Nat.testBit_zero] using heven
      | succ j => rw [Nat.testBit_succ, ih (by omega)]

theorem countOnes_eq_length_filter (w v : Nat) :
    countOnes w v = ((List.range w).filter fun j => v.testBit j).length := by
  induction w generalizing v with
  | zero => rfl
  | succ w ih =>
    have hrest : ((List.range w).map Nat.succ).filter (fun j => v.testBit j) =
        ((List.range w).filter fun j => (v / 2).testBit j).map Nat.succ := by
      rw [List.filter_map]
      simp only [Function.comp_def, Nat.succ_eq_add_one, Nat.testBit_succ]
    rw [countOnes, ih, List.range_succ_eq_map, List.filter_cons, hrest, Nat.testBit_zero]
    rcases Nat.mod_two_eq_zero_or_one v with hv | hv <;> simp [hv, Nat.add_comm]

theorem countOnes_zero (w : Nat) : countOnes w 0 = 0 := by
  simp [countOnes_eq_length_filter]

theorem reverseBits_lt (w v : Nat) : reverseBits w v < 2 ^ w := by
  induction w generalizing v with
  | zero => exact Nat.one_pos
  | succ w ih =>
    have hr := ih (v / 2)
    have hb : v % 2 * 2 ^ w ≤ 1 * 2 ^ w := Nat.mul_le_mul_right _ (by omega)
    rw [reverseBits]
    omega

/-- Bit 0 becomes the highest one, and the bits above it the lower ones in reverse. -/
theorem testBit_reverseBits {w j : Nat} (v : Nat) (hj : j < w) :
    (reverseBits w v).testBit j = v.testBit (w - 1 - j) := by
  induction w generalizing v j with
  | zero => omega
  | succ w ih =>
    rw [reverseBits, Nat.mul_comm, Nat.testBit_two_pow_mul_add _ (reverseBits_lt w _)]
    split
    next hlt =>
      rw [ih _ hlt, ← Nat.testBit_succ]
      congr 1
      omega
    next hge =>
      have hjw : j = w := by omega
      simp [hjw, Nat.testBit_zero]

/-- Settles O1: each instruction is its shared operation with the function of its row, and the bit counts are what
their recursions over the bits count. -/
theorem scalarIntegersCompute : Obligations.ScalarIntegersCompute := by
  refine ⟨fun z d a b s h => ?two, ⟨fun z d a s h => ?one, fun z d a b s h => exec_sel_issued h z⟩,
    fun w v h => ⟨fun hv => ?zero, fun hv => ?nonzero, countOnes_eq_length_filter w v,
      fun j hj => testBit_reverseBits v hj, reverseBits_lt w v⟩⟩
  case two =>
    exact ⟨exec_of_alu2 h (fun x y => x + y) rfl, exec_of_alu2 h (fun x y => x - y) rfl,
      exec_of_alu2 h (fun x y => x * y) rfl, exec_of_alu2 h (fun x y => max (Size.lo z) (min (Size.hi z) (x + y))) rfl,
      exec_of_alu2 h (fun x y => x * y / (2 ^ z.w.bits : Nat)) rfl, exec_of_alu2 h divide rfl, exec_of_alu2 h remainder rfl,
      exec_of_alu2 h (bitOp z fun x y => x &&& y) rfl, exec_of_alu2 h (bitOp z fun x y => x &&& (2 ^ z.w.bits - 1 - y)) rfl,
      exec_of_alu2 h (bitOp z fun x y => x ||| y) rfl, exec_of_alu2 h (bitOp z fun x y => x ^^^ y) rfl,
      exec_of_alu2 h (fun x y => min x y) rfl, exec_of_alu2 h (fun x y => max x y) rfl,
      exec_of_aluShift h shiftLeft rfl, exec_of_aluShift h shiftRight rfl, exec_of_aluShift h rotate rfl,
      exec_of_aluCmp h (fun x y => x == y) rfl, exec_of_aluCmp h (fun x y => x != y) rfl,
      exec_of_aluCmp h (fun x y => decide (x < y)) rfl, exec_of_aluCmp h (fun x y => decide (x ≤ y)) rfl,
      exec_of_aluCmp h (fun x y => decide (y < x)) rfl, exec_of_aluCmp h (fun x y => decide (y ≤ x)) rfl⟩
  case one =>
    exact ⟨exec_of_alu1 h (fun x => -x) rfl, exec_of_alu1 h (fun x => x) rfl, exec_of_aluBits h reverseBits rfl,
      exec_of_aluCount h leadingZeros rfl, exec_of_aluCount h trailingZeros rfl, exec_of_aluCount h countOnes rfl⟩
  case zero =>
    subst hv
    exact ⟨leadingZeros_zero w, trailingZeros_zero w, countOnes_zero w⟩
  case nonzero =>
    exact ⟨leadingZeros_of_ne_zero h hv, testBit_trailingZeros h hv, fun j hj => testBit_of_lt_trailingZeros hj⟩

end Sys2Proof.Machine
end

section
/-! Immediate forms and literals (R130, R156, R157; O2). -/

namespace Sys2Proof

/-- The decoder gives well-formed instructions only (R150). -/
theorem wf_of_decode {w : BitVec 32} {l : Option (BitVec 32)} {i : Instr} (h : decode w l = .ok i) : i.wf = true := by
  unfold decode at h
  split at h
  next j _ =>
    split at h
    next hj =>
      cases h
      exact hj
    next => cases h
  next => cases h

end Sys2Proof

namespace Sys2Proof.Machine

theorem exec_of_aluImm {i : Instr} {d : RegNo} {a : Src} {s : State} (h : s.Issues [a.x, .xd d]) (f : Word → Word)
    (he : exec i s = aluImm i d a f s) : exec i s = .next (s.after (s.me.setX d (f (s.me.xr a.r))) 4) :=
  he.trans (issuedReg h ..)

theorem exec_cmpi_issued {d : RegNo} {a : Src} {s : State} (h : s.Issues [a.x, .xd d]) (c : Cond) (u : Bool)
    (e : BitVec 11) : exec (.cmpi c u d a e) s =
      .next (s.after (s.me.setX d (if condHolds c u (s.me.xr a.r) (e.signExtend 64) then 1 else 0)) 4) :=
  exec_of_aluImm h (fun x => if condHolds c u x (e.signExtend 64) then 1 else 0) rfl

theorem exec_insr_issued {d : RegNo} {a : Src} {s : State} (h : s.Issues [a.x, .xs d false, .xd d]) (lsb wm1 : BitVec 6) :
    let m : Word := BitVec.ofNat 64 ((2 ^ (wm1.toNat + 1) - 1) * 2 ^ lsb.toNat)
    exec (.insr d a lsb wm1) s =
      .next (s.after (s.me.setX d ((s.me.xr d &&& ~~~m) ||| ((s.me.xr a.r <<< lsb.toNat) &&& m))) 4) := by
  have he : exec (.insr d a lsb wm1) s = execInsr d a lsb wm1 s := rfl
  rw [he, execInsr, issuedReg h]

/-- An instruction of two words goes on past its literal. -/
theorem exec_of_issueLit {i : Instr} {ops : List Opnd} {d : RegNo} {s : State} (h : s.Issues (ops ++ [.xd d]))
    (f : Strand → Word) (he : exec i s = issueLit i ops d f s) :
    exec i s = .next (s.after (s.me.setX d (f s.me)) 8) :=
  he.trans (issued h ..)

/-- Settles O2: the immediate and literal forms are their shared operations with the function of their row, and the
decoder refuses a field that runs past bit 63 because it is not well-formed. -/
theorem immediatesAndLiteralsCompute : Obligations.ImmediatesAndLiteralsCompute := by
  refine ⟨⟨fun d a s h => ?imm, fun d a lsb wm1 s h => exec_insr_issued h lsb wm1, fun g d a lsb wm1 w l hlong => ?long⟩,
    fun d lit s h => ⟨exec_of_issueLit (ops := []) h (fun _ => lit.signExtend 64) rfl,
      exec_of_issueLit (ops := []) h (fun t => t.pc + lit.signExtend 64) rfl⟩,
    fun d lit s h => exec_of_issueLit (ops := [.xs d false]) h (fun t => lit ++ (t.xr d).extractLsb' 0 32) rfl⟩
  case imm =>
    refine ⟨fun e => ⟨?add, ?and, ?or, ?xor⟩, fun n => ⟨?shl, ?shrN, ?shrS⟩, fun u e => ?cmpi, fun g lsb wm1 => ?extr⟩
    case add => exact exec_of_aluImm h (fun x => x + e.signExtend 64) rfl
    case and => exact exec_of_aluImm h (fun x => x &&& e.signExtend 64) rfl
    case or => exact exec_of_aluImm h (fun x => x ||| e.signExtend 64) rfl
    case xor => exact exec_of_aluImm h (fun x => x ^^^ e.signExtend 64) rfl
    case shl => exact exec_of_aluImm h (fun x => x <<< n.toNat) rfl
    case shrN => exact exec_of_aluImm h (fun x => x >>> n.toNat) rfl
    case shrS => exact exec_of_aluImm h (fun x => x.sshiftRight n.toNat) rfl
    case cmpi =>
      have compares := fun c => exec_cmpi_issued h c u e
      exact ⟨compares .eq, compares .ne, compares .lt, compares .le, compares .gt, compares .ge⟩
    case extr => exact exec_of_aluImm h (fun x => extendTo g (wm1.toNat + 1) (x >>> lsb.toNat).toNat) rfl
  case long =>
    have refused : decide (lsb.toNat + wm1.toNat + 1 ≤ 64) ≠ true := by simpa using hlong
    exact ⟨fun hd => refused (wf_of_decode hd), fun hd => refused (wf_of_decode hd)⟩

end Sys2Proof.Machine
end

section
/-! Branches, calls, loops and register targets (R130, R167 to R169; O5). -/

namespace Sys2Proof.Machine

theorem headerAddr_eq_true {v : Word} : headerAddr v = true ↔ v.toNat % 8 = 0 ∧ v.toNat < 2 ^ 58 := by
  simp [headerAddr]

theorem headerAddr_eq_false {v : Word} : headerAddr v = false ↔ v.toNat % 8 ≠ 0 ∨ 2 ^ 58 ≤ v.toNat := by
  rw [← Bool.not_eq_true, headerAddr_eq_true]
  omega

theorem toRegister_of_headerAddr {v : Word} (h : headerAddr v = true) (f : Unit → Res) : toRegister v f = f () :=
  if_pos h

theorem toRegister_of_not_headerAddr {v : Word} (h : headerAddr v = false) (f : Unit → Res) :
    toRegister v f = .trap .framing v := by
  simp [toRegister, h]

section
variable {i : Instr} {ops : List Opnd} {a : Src} {s : State}

/-- An instruction that goes where a register says is its own part where the target is a header's address. -/
theorem exec_of_toRegister (h : s.Issues ops) (ha : headerAddr (s.me.xr a.r) = true) (f : Strand → Res)
    (he : exec i s = issue i ops (fun t => toRegister (t.xr a.r) fun _ => f t) s) : exec i s = (f s.me).out s i := by
  rw [he, issued h, toRegister_of_headerAddr ha]

/-- With another target it traps, whatever its own part is. -/
theorem takesTrap_of_toRegister (h : s.Issues ops) (ha : headerAddr (s.me.xr a.r) = false) (f : Strand → Res)
    (he : exec i s = issue i ops (fun t => toRegister (t.xr a.r) fun _ => f t) s) :
    s.TakesTrap i .framing (s.me.xr a.r) :=
  takesFraming h he (toRegister_of_not_headerAddr ha _)

end

/-! Each instruction where its registers let it issue. -/

theorem exec_nop_issued {s : State} (h : s.Issues []) : exec .nop s = .next (s.after s.me 4) := by
  have he : exec .nop s = execNop s := rfl
  rw [he, execNop, issuedReg h]

theorem exec_br_issued {s : State} (h : s.Issues []) (j : BitVec 26) :
    exec (.br j) s = .next (s.sent s.me (s.me.target j)) := by
  have he : exec (.br j) s = execBr j s := rfl
  rw [he, execBr, issued h, out_done]
  rfl

theorem exec_call_issued {s : State} (h : s.Issues [.xd linkReg]) (j : BitVec 26) :
    exec (.call j) s = .next ((s.pushReturn s.me.nextHeader).sent (s.me.setX linkReg s.me.nextHeader) (s.me.target j)) := by
  have he : exec (.call j) s = execCall j s := rfl
  rw [he, execCall, issued h, out_done]
  rfl

theorem exec_brc_issued {a b : RegNo} {s : State} (h : s.Issues [.xs a false, .xs b false]) (c : BrCond) (j : BitVec 12) :
    exec (.brc c a b j) s = .next (if brHolds c (s.me.xr a) (s.me.xr b) then s.sent s.me (s.me.target j)
      else s.after s.me 4) := by
  have he : exec (.brc c a b j) s = execBrc c a b j s := rfl
  rw [he, execBrc, issued h]
  split <;> rfl

theorem exec_loopn_issued {a : RegNo} {s : State} (h : s.Issues [.xs a false, .xd a]) (j : BitVec 12) :
    exec (.loopn a j) s = .next (if s.me.xr a - 1 ≠ 0 then s.sent (s.me.setX a (s.me.xr a - 1)) (s.me.target j)
      else s.after (s.me.setX a (s.me.xr a - 1)) 4) := by
  have he : exec (.loopn a j) s = execLoopn a j s := rfl
  rw [he, execLoopn, issued h]
  dsimp only
  split <;> rfl

/-! The instructions with a register target, by their definitions. -/

theorem exec_bri (a : Src) (s : State) : exec (.bri a) s = execBri a s := rfl
theorem exec_calli (a : Src) (s : State) : exec (.calli a) s = execCalli a s := rfl
theorem exec_ret (a : Src) (s : State) : exec (.ret a) s = execRet a s := rfl

/-- Settles O5: displacement targets by the rule of each instruction, and register targets by the one test that they
share. -/
theorem controlGoesToItsHeader : Obligations.ControlGoesToItsHeader := by
  refine ⟨⟨fun s h => ⟨exec_nop_issued h, exec_br_issued h⟩, fun j s h => exec_call_issued h j, fun c a b j s h => ?brc,
    fun a j s h => exec_loopn_issued h j⟩, fun a s h h8 h58 => ?taken, fun a s h h8 h58 => ?calli, fun a s hbad => ?bad⟩
  case brc =>
    have hb := exec_brc_issued h c j
    cases c <;> exact hb
  case taken =>
    have ha := headerAddr_eq_true.2 ⟨h8, h58⟩
    exact ⟨exec_of_toRegister h ha _ (exec_bri a s), exec_of_toRegister h ha _ (exec_ret a s)⟩
  case calli => exact exec_of_toRegister h (headerAddr_eq_true.2 ⟨h8, h58⟩) _ (exec_calli a s)
  case bad =>
    have ha := headerAddr_eq_false.2 hbad
    exact ⟨fun h => ⟨takesTrap_of_toRegister h ha _ (exec_bri a s), takesTrap_of_toRegister h ha _ (exec_ret a s)⟩,
      fun h => takesTrap_of_toRegister h ha _ (exec_calli a s)⟩

end Sys2Proof.Machine
end

section
/-! Vector-predicated regions (R129, R171; O6). -/

namespace Sys2Proof.Machine

theorem exec_vif (k : BitVec 3) (s : State) : exec (.vif k) s = execVif k s := rfl
theorem exec_velse (s : State) : exec .velse s = execVelse s := rfl
theorem exec_vend (s : State) : exec .vend s = execVend s := rfl

/-- The own part of VIF once its rejoin header is read: the framing test comes before the depth test (R171). -/
theorem vif_of_rejoin {s s' : State} {v : Nat} (k : BitVec 3) (hr : hdrRejoin s.me.hword ≠ 0)
    (ha : headerAddr (rejoinOf s.me) = true) (hc : s.code s.me (slotCore s.here) (rejoinOf s.me) 8 = .ok s' v)
    (hf : hdrFramed (BitVec.ofNat 64 v) = true) :
    let e := s.me.enable &&& s.me.mr k
    let u := { s.me with region := (s.me.enable, s.me.mr k) :: s.me.region, enable := e }
    ∃ f, exec (.vif k) s = issue (.vif k) [] f s ∧
      f s.me = if s.me.region.length = 4 then Res.prot Cause.regionDepth 0
        else .done (s'.setMe (if e = 0 then u.goto (rejoinOf s.me) .branch else u.advance 4)) := by
  refine ⟨_, exec_vif k s, ?_⟩
  simp [hr, ha, hc, hf]

theorem exec_velse_issued {s : State} {o n : Word} {r : List (Word × Word)} (h : s.Issues [])
    (hr : s.me.region = (o, n) :: r) : exec .velse s = .next (s.after { s.me with enable := o &&& ~~~n } 4) := by
  rw [exec_velse, execVelse, issued h]
  simp only [hr, out_done]
  rfl

theorem exec_vend_issued {s : State} {o n : Word} {r : List (Word × Word)} (h : s.Issues [])
    (hr : s.me.region = (o, n) :: r) : exec .vend s = .next (s.after { s.me with enable := o, region := r } 4) := by
  rw [exec_vend, execVend, issued h]
  simp only [hr, out_done]
  rfl

/-- Outside a region there is none to go on with or to leave (R171). -/
theorem takesTrap_regionNone {s : State} (h : s.Issues []) (hr : s.me.region = []) :
    s.TakesTrap .velse (.protection 31) s.me.pc ∧ s.TakesTrap .vend (.protection 31) s.me.pc := by
  constructor
  · exact takesTrap h (exec_velse s) (by decide) (by simp only [hr]; rfl)
  · exact takesTrap h (exec_vend s) (by decide) (by simp only [hr]; rfl)

/-- Settles O6: VIF by its two tests in their order, VELSE and VEND by whether a region is open. -/
theorem regionsNarrowTheEnableMask : Obligations.RegionsNarrowTheEnableMask := by
  refine ⟨fun k s s' v h hdepth => ?enter, fun s o n r h hr => ⟨exec_velse_issued h hr, exec_vend_issued h hr⟩,
    fun k s h => ⟨fun h0 => takesFraming h (exec_vif k s) (if_pos h0), ?deep, takesTrap_regionNone h⟩⟩
  case enter =>
    intro rejoin hr ha hc hf e u
    obtain ⟨f, he, hpart⟩ := vif_of_rejoin k hr ha hc hf
    rw [he, issued h, hpart, if_neg (by omega)]
    rfl
  case deep =>
    intro s' v hr ha hc hf hdepth
    obtain ⟨f, he, hpart⟩ := vif_of_rejoin k hr ha hc hf
    exact takesTrap h he (by decide) (hpart.trans (if_pos hdepth))

end Sys2Proof.Machine
end

section
/-! Bindings (R207; O17). -/

namespace Sys2Proof.Machine

theorem exec_bind (k : BitVec 4) (a : Src) (s : State) : exec (.bind k a) s = execBind k a s := rfl
theorem exec_unbind (k : BitVec 4) (s : State) : exec (.unbind k) s = execUnbind k s := rfl

section
variable {a : Src} {s : State}

/-- A value of at most 24 bits is written as it is: BIND tests nothing else (R207). -/
theorem exec_bind_issued (h : s.Issues [a.x]) (hv : (s.me.xr a.r).toNat < 2 ^ 24) (k : BitVec 4) :
    exec (.bind k a) s = .next (s.after (s.me.setN k (s.me.xr a.r)) 4) := by
  rw [exec_bind, execBind, issued h]
  simp only [if_neg hv.not_ge, out_done]
  rfl

/-- A wider value traps with cause RESERVED_BITS, whatever the n register holds (R207). -/
theorem takesTrap_bind_wide (h : s.Issues [a.x]) (hv : 2 ^ 24 ≤ (s.me.xr a.r).toNat) (k : BitVec 4) :
    s.TakesTrap (.bind k a) (.protection 16) s.me.pc :=
  takesTrap h (exec_bind k a s) (by decide) (if_pos hv)

end

theorem exec_unbind_issued {s : State} (h : s.Issues []) (k : BitVec 4) :
    exec (.unbind k) s = .next (s.after (s.me.setN k 0) 4) := by
  rw [exec_unbind, execUnbind, issuedReg h]

/-- Settles O17: BIND on each side of its one test, that xa[63:24] is zero, and UNBIND, which tests nothing. -/
theorem bindingsAreWritten : Obligations.BindingsAreWritten :=
  ⟨fun k _ _ h hnarrow => exec_bind_issued h hnarrow k, fun k _ _ h hwide => takesTrap_bind_wide h hwide k,
    fun k _ h => exec_unbind_issued h k⟩

end Sys2Proof.Machine
end

section
/-! Vector integers, permutes, bitwise operations, comparisons and masks (R224 to R228; O8). -/

namespace Sys2Proof.Machine

/-! What an instruction that is one of the shared operations writes where its registers let it issue. -/

section
variable {i : Instr} {w : Nat} {k m : BitVec 3} {d : RegNo} {a b : Src} {ops : List Opnd} {s : State}

/-- An instruction that only changes the registers of its strand goes on with what its own part makes of them. -/
theorem exec_of_issueReg (h : s.Issues ops) (g : Strand → Strand) (he : exec i s = issueReg i ops g s) :
    exec i s = .next (s.after (g s.me) 4) :=
  he.trans (issuedReg h ..)

/-- An operation that neither rounds nor raises a flag, by the value that its strand gives for a lane. -/
theorem exec_of_setLanes (h : s.Issues ops) (f : Strand → Nat → Nat)
    (he : exec i s = issueReg i ops (fun t => t.setLanes w m d (f t)) s) :
    exec i s = .next (s.after (s.me.setLanes w m d (f s.me)) 4) :=
  exec_of_issueReg h _ he

theorem exec_of_vecInt2 (h : s.Issues [a.v, b.v, .vd d]) (f : Nat → Nat → Int) (he : exec i s = vecInt2 i w d a b m f s) :
    exec i s = .next (s.after (s.me.setLanes w m d fun j =>
      (f (lane (s.me.vr a.r) w j) (lane (s.me.vr b.r) w j) % (2 ^ w : Nat)).toNat) 4) :=
  exec_of_issueReg h _ he

/-- A bitwise operation works on 16 lanes of 32 bits (R226). -/
theorem exec_of_vecBits (h : s.Issues ops) (f : Strand → Vec) (he : exec i s = vecBits i ops d m f s) :
    exec i s = .next (s.after (s.me.setLanes 32 m d fun j => lane (f s.me) 32 j) 4) :=
  exec_of_issueReg h _ he

/-- An integer comparison gives one bit for each lane, 0 for an inactive one (R225). -/
theorem exec_of_vecCmpInt (h : s.Issues [a.v, b.v]) (f : Nat → Nat → Bool) (he : exec i s = vecCmpInt i w k a b m f s) :
    exec i s = .next (s.after (s.me.setM k (maskOf (512 / w) fun j =>
      s.me.lit m j && f (lane (s.me.vr a.r) w j) (lane (s.me.vr b.r) w j))) 4) :=
  exec_of_issueReg h _ he

end

/-- A float comparison also joins the flags that its active lanes raise into %fflags (R225). -/
theorem exec_vcmp_issued {a b : Src} {s : State} (h : s.Issues [a.v, b.v]) (p : VTy) (c : VCond) (k m : BitVec 3) :
    let w := p.fmt.width
    let r := mapLanes (frmMode s.me.frm) (s.me.lit m) (fun _ => 0)
      (fun env j => env.plain (vecCond c p.fmt (lane (s.me.vr a.r) w j) (lane (s.me.vr b.r) w j)))
      (List.range (512 / w)) (frmLfsr s.me.frm)
    exec (.vcmp p c k a b m) s =
      .next (s.after ((s.me.setM k (BitVec.ofNat 64 (packNat 1 r.vals))).orFlags r.flags) 4) := by
  have he : exec (.vcmp p c k a b m) s = execVcmp p c k a b m s := rfl
  rw [he, execVcmp, issuedReg h]
  rfl

/-- MFIRST finds the first of the set bits (R227). -/
theorem exec_mfirst_issued {d : RegNo} {s : State} (h : s.Issues [.xd d]) (i : BitVec 3) :
    exec (.mfirst d i) s = .next (s.after (s.me.setX d (BitVec.ofNat 64
      (((List.range 64).filter fun k => (s.me.mr i).getLsbD k).head?.getD 64))) 4) := by
  have he : exec (.mfirst d i) s = execMfirst d i s := rfl
  rw [he, execMfirst, issuedReg h, List.head?_filter]

/-- Settles O8: each instruction is its shared operation with the function of its row, or its own change of the
strand's registers; MFIRST's search is the head of the set bits. -/
theorem vectorIntegersAndMasksCompute : Obligations.VectorIntegersAndMasksCompute := by
  refine ⟨⟨fun z d a b m s h => ?twoSources, fun z d a b m s h => ?destinationRead, fun z d a m s h => ?oneSource,
      fun z d m s h => ?iota, fun z d a m s h => ?broadcast, fun z d a b m s h => ?insert, fun z d a b s h => ?extract⟩,
    ⟨fun d a b m s h => ?bitwise, fun d a m s h => ?bitwiseOne⟩,
    fun z k a b m s h => ?compareInt, fun p c k a b m s h => ?compareFloat, fun k i j s h => ?maskOps,
    fun k a s h => ?maskSet, fun d i s h => ?maskRead⟩
  case twoSources =>
    refine ⟨?add, ?sub, ?mul, ?minS, ?maxS, ?minN, ?maxN, ?shl, ?shrN, ?shrS, ?perm⟩
    case add => exact exec_of_vecInt2 h (fun x y => (x : Int) + y) rfl
    case sub => exact exec_of_vecInt2 h (fun x y => (x : Int) - y) rfl
    case mul => exact exec_of_vecInt2 h (fun x y => (x : Int) * y) rfl
    case minS => exact exec_of_vecInt2 h (fun x y => min (signedOf x z.bits) (signedOf y z.bits)) rfl
    case maxS => exact exec_of_vecInt2 h (fun x y => max (signedOf x z.bits) (signedOf y z.bits)) rfl
    case minN => exact exec_of_vecInt2 h (fun x y => (min x y : Nat)) rfl
    case maxN => exact exec_of_vecInt2 h (fun x y => (max x y : Nat)) rfl
    case shl => exact exec_of_vecInt2 h (fun x y => (if z.bits ≤ y then 0 else x * 2 ^ y : Nat)) rfl
    case shrN => exact exec_of_vecInt2 h (fun x y => (if z.bits ≤ y then 0 else x / 2 ^ y : Nat)) rfl
    case shrS => exact exec_of_vecInt2 h (fun x y => signedOf x z.bits / (2 ^ min y z.bits : Nat)) rfl
    case perm =>
      exact exec_of_setLanes h
        (fun t k => lane (t.vr a.r) z.bits (lane (t.vr b.r) z.bits k % (512 / z.bits))) rfl
  case destinationRead =>
    refine ⟨?imad, ?shuf⟩
    case imad =>
      exact exec_of_setLanes h
        (fun t k => lane (t.vr a.r) z.bits k * lane (t.vr b.r) z.bits k + lane (t.vr d) z.bits k) rfl
    case shuf =>
      exact exec_of_setLanes h (fun t k =>
        let l := 512 / z.bits
        let j := lane (t.vr d) z.bits k % (2 * l)
        if j < l then lane (t.vr a.r) z.bits j else lane (t.vr b.r) z.bits (j - l)) rfl
  case oneSource =>
    refine ⟨?neg, ?expand, ?compress⟩
    case neg => exact exec_of_setLanes h (fun t k => 2 ^ z.bits - lane (t.vr a.r) z.bits k) rfl
    case expand => exact exec_of_setLanes h (fun t k => lane (t.vr a.r) z.bits (t.litLanes m k).length) rfl
    case compress =>
      exact exec_of_issueReg h (fun t => t.setV d (packLanes z.bits
        ((t.litLanes m (512 / z.bits)).map fun k => lane (t.vr a.r) z.bits k))) rfl
  case iota => exact exec_of_setLanes h (fun _ k => k) rfl
  case broadcast => exact exec_of_setLanes h (fun t _ => lowBits (t.xr a.r) z.bits) rfl
  case insert =>
    exact exec_of_setLanes h (fun t k =>
      if (t.xr b.r).toNat = k then lowBits (t.xr a.r) z.bits else lane (t.vr d) z.bits k) rfl
  case extract =>
    exact exec_of_issueReg h (fun t => t.setX d
      (if (t.xr b.r).toNat < 512 / z.bits then BitVec.ofNat 64 (lane (t.vr a.r) z.bits (t.xr b.r).toNat) else 0)) rfl
  case bitwise =>
    exact ⟨exec_of_vecBits h (fun t => t.vr a.r &&& t.vr b.r) rfl, exec_of_vecBits h (fun t => t.vr a.r ||| t.vr b.r) rfl,
      exec_of_vecBits h (fun t => t.vr a.r ^^^ t.vr b.r) rfl, exec_of_setLanes h (fun t k =>
        if (t.mr m).getLsbD k then lane (t.vr a.r) 32 k else lane (t.vr b.r) 32 k) rfl⟩
  case bitwiseOne =>
    exact ⟨exec_of_vecBits h (fun t => ~~~(t.vr a.r)) rfl, exec_of_vecBits h (fun t => t.vr a.r) rfl⟩
  case compareInt =>
    exact ⟨exec_of_vecCmpInt h (fun x y => x == y) rfl,
      exec_of_vecCmpInt h (fun x y => decide (signedOf x z.bits < signedOf y z.bits)) rfl,
      exec_of_vecCmpInt h (fun x y => decide (x < y)) rfl⟩
  case compareFloat => exact exec_vcmp_issued h p c k m
  case maskOps =>
    exact ⟨exec_of_issueReg h (fun t => t.setM k (t.mr i &&& t.mr j)) rfl,
      exec_of_issueReg h (fun t => t.setM k (t.mr i ||| t.mr j)) rfl,
      exec_of_issueReg h (fun t => t.setM k (t.mr i ^^^ t.mr j)) rfl,
      exec_of_issueReg h (fun t => t.setM k (~~~(t.mr i))) rfl⟩
  case maskSet => exact exec_of_issueReg h (fun t => t.setM k (t.xr a.r)) rfl
  case maskRead =>
    exact ⟨exec_of_issueReg h (fun t => t.setX d (BitVec.ofNat 64
      ((List.range 64).filter fun k => (t.mr i).getLsbD k).length)) rfl,
      exec_mfirst_issued h i, exec_of_issueReg h (fun t => t.setX d (t.mr i)) rfl⟩

end Sys2Proof.Machine
end

section
/-! Decoding and encoding (R127 to R150; O55). -/

namespace Sys2Proof

-- One thread at a time: these proofs in parallel take more memory than the check has.
set_option Elab.async false

/-! A field that is put together from its parts reads back part by part, and every field is put together so. -/

theorem exists_append {m n : Nat} (x : BitVec (m + n)) : ∃ (a : BitVec m) (b : BitVec n), x = a ++ b := by
  refine ⟨x.extractLsb' n m, x.extractLsb' 0 n, ?_⟩
  rw [BitVec.extractLsb'_append_extractLsb'_eq_extractLsb' (Nat.zero_add n).symm, BitVec.extractLsb'_eq_self]

theorem exists_append_three {m n p : Nat} (x : BitVec (m + n + p)) :
    ∃ (a : BitVec m) (b : BitVec n) (c : BitVec p), x = a ++ b ++ c := by
  obtain ⟨y, c, rfl⟩ := exists_append x
  obtain ⟨a, b, rfl⟩ := exists_append y
  exact ⟨a, b, c, rfl⟩

theorem eq_ofNat_of_toNat_eq {w n : Nat} {x : BitVec w} (h : x.toNat = n) : x = BitVec.ofNat w n := by
  subst h
  simp

theorem middle_of_append {m n p : Nat} (a : BitVec m) (b : BitVec n) (c : BitVec p) :
    (a ++ b ++ c).extractLsb' p n = b := by
  rw [BitVec.extractLsb'_append_eq_of_le (Nat.le_refl p), Nat.sub_self, BitVec.extractLsb'_append_eq_right]

theorem left_of_append {m n p k : Nat} (a : BitVec m) (b : BitVec n) (c : BitVec p) (h : k = n + p) :
    (a ++ b ++ c).extractLsb' k m = a := by
  rw [BitVec.extractLsb'_append_eq_of_le (by omega), h, Nat.add_sub_cancel, BitVec.extractLsb'_append_eq_left]

/-! The layouts of R134 to R149, by the widths of their parts. -/

section Layouts

@[simp] theorem fields_3_6 (a : BitVec 3) (b : BitVec 6) :
    (a ++ b : BitVec 9).extractLsb' 6 3 = a ∧ (a ++ b : BitVec 9).extractLsb' 0 6 = b :=
  ⟨BitVec.extractLsb'_append_eq_left, BitVec.extractLsb'_append_eq_right⟩

@[simp] theorem fields_12_3 (a : BitVec 12) (b : BitVec 3) :
    (a ++ b : BitVec 15).extractLsb' 3 12 = a ∧ (a ++ b : BitVec 15).extractLsb' 0 3 = b :=
  ⟨BitVec.extractLsb'_append_eq_left, BitVec.extractLsb'_append_eq_right⟩

@[simp] theorem fields_10_5 (a : BitVec 10) (b : BitVec 5) :
    (a ++ b : BitVec 15).extractLsb' 5 10 = a ∧ (a ++ b : BitVec 15).extractLsb' 0 5 = b :=
  ⟨BitVec.extractLsb'_append_eq_left, BitVec.extractLsb'_append_eq_right⟩

@[simp] theorem fields_4_1 (a : BitVec 4) (b : BitVec 1) :
    (a ++ b : BitVec 5).extractLsb' 1 4 = a ∧ (a ++ b : BitVec 5).extractLsb' 0 1 = b :=
  ⟨BitVec.extractLsb'_append_eq_left, BitVec.extractLsb'_append_eq_right⟩

@[simp] theorem fields_2_3 (a : BitVec 2) (b : BitVec 3) :
    (a ++ b : BitVec 5).extractLsb' 3 2 = a ∧ (a ++ b : BitVec 5).extractLsb' 0 3 = b :=
  ⟨BitVec.extractLsb'_append_eq_left, BitVec.extractLsb'_append_eq_right⟩

@[simp] theorem fields_3_9 (a : BitVec 3) (b : BitVec 9) :
    (a ++ b : BitVec 12).extractLsb' 9 3 = a ∧ (a ++ b : BitVec 12).extractLsb' 0 9 = b :=
  ⟨BitVec.extractLsb'_append_eq_left, BitVec.extractLsb'_append_eq_right⟩

@[simp] theorem fields_10_2 (a : BitVec 10) (b : BitVec 2) :
    (a ++ b : BitVec 12).extractLsb' 2 10 = a ∧ (a ++ b : BitVec 12).extractLsb' 0 2 = b :=
  ⟨BitVec.extractLsb'_append_eq_left, BitVec.extractLsb'_append_eq_right⟩

@[simp] theorem fields_1_4 (a : BitVec 1) (b : BitVec 4) :
    (a ++ b : BitVec 5).extractLsb' 4 1 = a ∧ (a ++ b : BitVec 5).extractLsb' 0 4 = b :=
  ⟨BitVec.extractLsb'_append_eq_left, BitVec.extractLsb'_append_eq_right⟩

@[simp] theorem fields_7_8 (a : BitVec 7) (b : BitVec 8) :
    (a ++ b : BitVec 15).extractLsb' 8 7 = a ∧ (a ++ b : BitVec 15).extractLsb' 0 8 = b :=
  ⟨BitVec.extractLsb'_append_eq_left, BitVec.extractLsb'_append_eq_right⟩

@[simp] theorem fields_2_4 (a : BitVec 2) (b : BitVec 4) :
    (a ++ b : BitVec 6).extractLsb' 4 2 = a ∧ (a ++ b : BitVec 6).extractLsb' 0 4 = b :=
  ⟨BitVec.extractLsb'_append_eq_left, BitVec.extractLsb'_append_eq_right⟩

@[simp] theorem fields_1_5 (a : BitVec 1) (b : BitVec 5) :
    (a ++ b : BitVec 6).extractLsb' 5 1 = a ∧ (a ++ b : BitVec 6).extractLsb' 0 5 = b :=
  ⟨BitVec.extractLsb'_append_eq_left, BitVec.extractLsb'_append_eq_right⟩

@[simp] theorem fields_1_3 (a : BitVec 1) (b : BitVec 3) :
    (a ++ b : BitVec 4).extractLsb' 3 1 = a ∧ (a ++ b : BitVec 4).extractLsb' 0 3 = b :=
  ⟨BitVec.extractLsb'_append_eq_left, BitVec.extractLsb'_append_eq_right⟩

@[simp] theorem fields_4_6 (a : BitVec 4) (b : BitVec 6) :
    (a ++ b : BitVec 10).extractLsb' 6 4 = a ∧ (a ++ b : BitVec 10).extractLsb' 0 6 = b :=
  ⟨BitVec.extractLsb'_append_eq_left, BitVec.extractLsb'_append_eq_right⟩

@[simp] theorem fields_7_2_6 (a : BitVec 7) (b : BitVec 2) (c : BitVec 6) :
    (a ++ b ++ c : BitVec 15).extractLsb' 8 7 = a ∧ (a ++ b ++ c : BitVec 15).extractLsb' 6 2 = b ∧
      (a ++ b ++ c : BitVec 15).extractLsb' 0 6 = c :=
  ⟨left_of_append a b c rfl, middle_of_append a b c, BitVec.extractLsb'_append_eq_right⟩

@[simp] theorem fields_3_1_11 (a : BitVec 3) (b : BitVec 1) (c : BitVec 11) :
    (a ++ b ++ c : BitVec 15).extractLsb' 12 3 = a ∧ (a ++ b ++ c : BitVec 15).extractLsb' 11 1 = b ∧
      (a ++ b ++ c : BitVec 15).extractLsb' 0 11 = c :=
  ⟨left_of_append a b c rfl, middle_of_append a b c, BitVec.extractLsb'_append_eq_right⟩

@[simp] theorem fields_1_3_5 (a : BitVec 1) (b : BitVec 3) (c : BitVec 5) :
    (a ++ b ++ c : BitVec 9).extractLsb' 8 1 = a ∧ (a ++ b ++ c : BitVec 9).extractLsb' 5 3 = b ∧
      (a ++ b ++ c : BitVec 9).extractLsb' 0 5 = c :=
  ⟨left_of_append a b c rfl, middle_of_append a b c, BitVec.extractLsb'_append_eq_right⟩

@[simp] theorem fields_3_3_3 (a : BitVec 3) (b : BitVec 3) (c : BitVec 3) :
    (a ++ b ++ c : BitVec 9).extractLsb' 6 3 = a ∧ (a ++ b ++ c : BitVec 9).extractLsb' 3 3 = b ∧
      (a ++ b ++ c : BitVec 9).extractLsb' 0 3 = c :=
  ⟨left_of_append a b c rfl, middle_of_append a b c, BitVec.extractLsb'_append_eq_right⟩

@[simp] theorem fields_4_2_3 (a : BitVec 4) (b : BitVec 2) (c : BitVec 3) :
    (a ++ b ++ c : BitVec 9).extractLsb' 5 4 = a ∧ (a ++ b ++ c : BitVec 9).extractLsb' 3 2 = b ∧
      (a ++ b ++ c : BitVec 9).extractLsb' 0 3 = c :=
  ⟨left_of_append a b c rfl, middle_of_append a b c, BitVec.extractLsb'_append_eq_right⟩

@[simp] theorem fields_2_2_2 (a : BitVec 2) (b : BitVec 2) (c : BitVec 2) :
    (a ++ b ++ c : BitVec 6).extractLsb' 4 2 = a ∧ (a ++ b ++ c : BitVec 6).extractLsb' 2 2 = b ∧
      (a ++ b ++ c : BitVec 6).extractLsb' 0 2 = c :=
  ⟨left_of_append a b c rfl, middle_of_append a b c, BitVec.extractLsb'_append_eq_right⟩

@[simp] theorem fields_1_3_2 (a : BitVec 1) (b : BitVec 3) (c : BitVec 2) :
    (a ++ b ++ c : BitVec 6).extractLsb' 5 1 = a ∧ (a ++ b ++ c : BitVec 6).extractLsb' 2 3 = b ∧
      (a ++ b ++ c : BitVec 6).extractLsb' 0 2 = c :=
  ⟨left_of_append a b c rfl, middle_of_append a b c, BitVec.extractLsb'_append_eq_right⟩

@[simp] theorem fields_1_2_3 (a : BitVec 1) (b : BitVec 2) (c : BitVec 3) :
    (a ++ b ++ c : BitVec 6).extractLsb' 5 1 = a ∧ (a ++ b ++ c : BitVec 6).extractLsb' 3 2 = b ∧
      (a ++ b ++ c : BitVec 6).extractLsb' 0 3 = c :=
  ⟨left_of_append a b c rfl, middle_of_append a b c, BitVec.extractLsb'_append_eq_right⟩

@[simp] theorem fields_1_1_1_6_6 (a b c : BitVec 1) (d e : BitVec 6) :
    (a ++ b ++ c ++ d ++ e : BitVec 15).extractLsb' 14 1 = a ∧ (a ++ b ++ c ++ d ++ e : BitVec 15).extractLsb' 13 1 = b ∧
      (a ++ b ++ c ++ d ++ e : BitVec 15).extractLsb' 12 1 = c ∧ (a ++ b ++ c ++ d ++ e : BitVec 15).extractLsb' 6 6 = d ∧
      (a ++ b ++ c ++ d ++ e : BitVec 15).extractLsb' 0 6 = e := by
  have top (k : Nat) (hk : 12 ≤ k) : (a ++ b ++ c ++ d ++ e : BitVec 15).extractLsb' k 1 =
      (a ++ b ++ c : BitVec 3).extractLsb' (k - 12) 1 := by
    rw [BitVec.extractLsb'_append_eq_of_le (by omega), BitVec.extractLsb'_append_eq_of_le (by omega)]
    congr 1
  exact ⟨(top 14 (by decide)).trans (left_of_append a b c rfl), (top 13 (by decide)).trans (middle_of_append a b c),
    (top 12 (by decide)).trans BitVec.extractLsb'_append_eq_right, middle_of_append (a ++ b ++ c) d e,
    BitVec.extractLsb'_append_eq_right⟩

end Layouts

/-! Codes: each is read back, and is read only from itself. -/

@[simp] theorem Size.ofCode_code (z : Size) : Size.ofCode z.code = z := by
  obtain ⟨w, g⟩ := z
  cases w <;> cases g <;> rfl

@[simp] theorem Size.code_ofCode (c : BitVec 3) : (Size.ofCode c).code = c := by
  revert c
  decide

@[simp] theorem Width.ofCode_code (w : Width) : Width.ofCode w.code = w := by
  cases w <;> rfl

@[simp] theorem Width.code_ofCode (c : BitVec 2) : (Width.ofCode c).code = c := by
  revert c
  decide

@[simp] theorem Round.ofCode_code (v : Round) : Round.ofCode v.code = some v := by
  cases v <;> rfl

theorem Round.ofCode_eq_some {c : BitVec 3} {v : Round} : Round.ofCode c = some v ↔ c = v.code := by
  refine ⟨fun h => ?_, fun h => h ▸ Round.ofCode_code v⟩
  cases v <;> revert c <;> decide

@[simp] theorem Elem.ofCode_code (v : Elem) : Elem.ofCode v.code = some v := by
  cases v <;> rfl

theorem Elem.ofCode_eq_some {c : BitVec 5} {v : Elem} : Elem.ofCode c = some v ↔ c = v.code := by
  refine ⟨fun h => ?_, fun h => h ▸ Elem.ofCode_code v⟩
  cases v <;> revert c <;> decide

@[simp] theorem Narrow.ofCode_code (v : Narrow) : Narrow.ofCode v.code = some v := by
  cases v <;> rfl

theorem Narrow.ofCode_eq_some {c : BitVec 3} {v : Narrow} : Narrow.ofCode c = some v ↔ c = v.code := by
  refine ⟨fun h => ?_, fun h => h ▸ Narrow.ofCode_code v⟩
  cases v <;> revert c <;> decide

@[simp] theorem FTy.ofCode_code (v : FTy) : FTy.ofCode v.code = some v := by
  cases v <;> rfl

theorem FTy.ofCode_eq_some {c : BitVec 1} {v : FTy} : FTy.ofCode c = some v ↔ c = v.code := by
  refine ⟨fun h => ?_, fun h => h ▸ FTy.ofCode_code v⟩
  cases v <;> revert c <;> decide

@[simp] theorem VTy.ofCode_code (v : VTy) : VTy.ofCode v.code = some v := by
  cases v <;> rfl

theorem VTy.ofCode_eq_some {c : BitVec 2} {v : VTy} : VTy.ofCode c = some v ↔ c = v.code := by
  refine ⟨fun h => ?_, fun h => h ▸ VTy.ofCode_code v⟩
  cases v <;> revert c <;> decide

@[simp] theorem NumTy.ofCode_code (v : NumTy) : NumTy.ofCode v.code = some v := by
  cases v <;> rfl

theorem NumTy.ofCode_eq_some {c : BitVec 3} {v : NumTy} : NumTy.ofCode c = some v ↔ c = v.code := by
  refine ⟨fun h => ?_, fun h => h ▸ NumTy.ofCode_code v⟩
  cases v <;> revert c <;> decide

@[simp] theorem AtomOp.ofCode_code (v : AtomOp) : AtomOp.ofCode v.code = some v := by
  cases v <;> rfl

theorem AtomOp.ofCode_eq_some {c : BitVec 3} {v : AtomOp} : AtomOp.ofCode c = some v ↔ c = v.code := by
  refine ⟨fun h => ?_, fun h => h ▸ AtomOp.ofCode_code v⟩
  cases v <;> revert c <;> decide

@[simp] theorem Cond.ofCode_code (v : Cond) : Cond.ofCode v.code = some v := by
  cases v <;> rfl

theorem Cond.ofCode_eq_some {c : BitVec 3} {v : Cond} : Cond.ofCode c = some v ↔ c = v.code := by
  refine ⟨fun h => ?_, fun h => h ▸ Cond.ofCode_code v⟩
  cases v <;> revert c <;> decide

@[simp] theorem BrCond.ofCode_code (v : BrCond) : BrCond.ofCode v.code = some v := by
  cases v <;> rfl

theorem BrCond.ofCode_eq_some {c : BitVec 4} {v : BrCond} : BrCond.ofCode c = some v ↔ c = v.code := by
  refine ⟨fun h => ?_, fun h => h ▸ BrCond.ofCode_code v⟩
  cases v <;> revert c <;> decide

@[simp] theorem VCond.ofCode_code (v : VCond) : VCond.ofCode v.code = some v := by
  cases v <;> rfl

theorem VCond.ofCode_eq_some {c : BitVec 2} {v : VCond} : VCond.ofCode c = some v ↔ c = v.code := by
  refine ⟨fun h => ?_, fun h => h ▸ VCond.ofCode_code v⟩
  cases v <;> revert c <;> decide

@[simp] theorem StateReg.ofCode_code (v : StateReg) : StateReg.ofCode v.code = some v := by
  cases v <;> rfl

theorem StateReg.ofCode_eq_some {c : BitVec 5} {v : StateReg} : StateReg.ofCode c = some v ↔ c = v.code := by
  refine ⟨fun h => ?_, fun h => h ▸ StateReg.ofCode_code v⟩
  cases v <;> revert c <;> decide

@[simp] theorem BankMode.ofCode_code (v : BankMode) : BankMode.ofCode v.code = some v := by
  cases v <;> rfl

theorem BankMode.ofCode_eq_some {c : BitVec 2} {v : BankMode} : BankMode.ofCode c = some v ↔ c = v.code := by
  refine ⟨fun h => ?_, fun h => h ▸ BankMode.ofCode_code v⟩
  cases v <;> revert c <;> decide

@[simp] theorem AccTy.ofCode_code (v : AccTy) : AccTy.ofCode v.code = some v := by
  cases v <;> rfl

theorem AccTy.ofCode_eq_some {c : BitVec 5} {v : AccTy} : AccTy.ofCode c = some v ↔ c = v.code := by
  refine ⟨fun h => ?_, fun h => h ▸ AccTy.ofCode_code v⟩
  cases v <;> revert c <;> decide

@[simp] theorem Round.ofCode_zero : Round.ofCode 0#3 = some .dyn := rfl

@[simp] theorem AtomOp.ofCode_zero : AtomOp.ofCode 0#3 = some .add := rfl

@[simp] theorem NumTy.ofCode_four : NumTy.ofCode 4#3 = some .f32 := rfl

@[simp] theorem bit_eq_one (t : BitVec 1) : BitVec.ofBool (t == 1#1) = t := by
  revert t
  decide

theorem eq_one_of_ne_zero {t : BitVec 1} (h : t ≠ 0#1) : t = 1#1 := by
  revert t
  decide

@[simp] theorem ofBool_eq_one (b : Bool) : (BitVec.ofBool b == 1#1) = b := by
  cases b <;> rfl

@[simp] theorem src_r (r : RegNo) (t : BitVec 1) : (src r t).r = r := rfl

@[simp] theorem src_tb (r : RegNo) (t : BitVec 1) : (src r t).tb = t := bit_eq_one t

@[simp] theorem src_of_tb (a : Src) : src a.r a.tb = a := by
  obtain ⟨r, t⟩ := a
  cases t <;> rfl

/-! What the decoder's steps answer. -/

theorem need_eq_ok {c : Bool} {i j : Instr} : need c i = .ok j ↔ c = true ∧ j = i := by
  cases c <;> simp [need, eq_comm]

theorem must_eq_ok {c : Bool} {k : Except Reject Instr} {j : Instr} :
    must c k = .ok j ↔ c = true ∧ k = .ok j := by
  cases c <;> simp [must]

theorem code_eq_ok {α : Type} {c : Option α} {k : α → Except Reject Instr} {j : Instr} :
    code c k = .ok j ↔ ∃ v, c = some v ∧ k v = .ok j := by
  cases c <;> simp [code]

theorem lits_eq_ok {x : Option (BitVec 32)} {k : BitVec 32 → Except Reject Instr} {j : Instr} :
    lits x k = .ok j ↔ ∃ l, x = some l ∧ k l = .ok j := by
  cases x <;> simp [lits]

/-- An instruction that uses every field is one that needs nothing of the others. -/
theorem ok_eq_ok {i j : Instr} : (Except.ok i : Except Reject Instr) = .ok j ↔ True ∧ j = i := by
  simp [eq_comm]

/-- An instruction is encoded as the word of a format where its fields are those of the format. -/
theorem encoded {α : Type} (word : α → BitVec 32) {f g : α} {l : Option (BitVec 32)} (h : f = g) :
    some (word f, l) = some (word g, l) := h ▸ rfl
/-! Each family of the major map: what it decodes is encoded as the word that was read. -/

theorem encode_of_decInt {f : Format.A} {i : Instr} (h : decInt f = .ok i) :
    encode i = some (f.word 0x1, none) := by
  obtain ⟨d, a, ta, b, tb, func⟩ := f
  obtain ⟨z, o, rfl⟩ := exists_append (m := 3) (n := 6) func
  simp only [decInt, fields_3_6] at h
  split at h <;> simp only [need_eq_ok, ok_eq_ok, reduceCtorEq] at h
  all_goals
    rename_i ho
    obtain rfl := eq_ofNat_of_toNat_eq ho
    obtain ⟨hz, rfl⟩ := h
    exact encoded (Format.A.word 0x1) (by simp_all)

theorem encode_of_decShift {f : Format.I} {i : Instr} (h : decShift f = .ok i) :
    encode i = some (f.word 0x6, none) := by
  obtain ⟨d, a, ta, imm⟩ := f
  obtain ⟨r, o, n, rfl⟩ := exists_append_three (m := 7) (n := 2) (p := 6) imm
  simp only [decShift, fields_7_2_6] at h
  split at h
  · cases h
  · rename_i hr
    split at h <;> simp only [ok_eq_ok, reduceCtorEq] at h
    all_goals
      rename_i ho
      obtain rfl := eq_ofNat_of_toNat_eq ho
      obtain ⟨hz, rfl⟩ := h
      exact encoded (Format.I.word 0x6) (by simp_all)

theorem encode_of_decCmpi {f : Format.I} {i : Instr} (h : decCmpi f = .ok i) :
    encode i = some (f.word 0x7, none) := by
  obtain ⟨d, a, ta, imm⟩ := f
  obtain ⟨k, u, e, rfl⟩ := exists_append_three (m := 3) (n := 1) (p := 11) imm
  simp only [decCmpi, fields_3_1_11, code_eq_ok, Cond.ofCode_eq_some, ok_eq_ok] at h
  obtain ⟨c, hc, -, rfl⟩ := h
  exact encoded (Format.I.word 0x7) (by simp_all)

theorem encode_of_decWidf {f : Format.I} {i : Instr} (h : decWidf f = .ok i) :
    encode i = some (f.word 0x9, none) := by
  obtain ⟨d, a, ta, imm⟩ := f
  obtain ⟨r, k, rfl⟩ := exists_append (m := 12) (n := 3) imm
  simp only [decWidf, fields_12_3, need_eq_ok] at h
  obtain ⟨hz, rfl⟩ := h
  exact encoded (Format.I.word 0x9) (by simp_all)

theorem encode_of_decRds {f : Format.I} {i : Instr} (h : decRds f = .ok i) :
    encode i = some (f.word 0xa, none) := by
  obtain ⟨d, a, ta, imm⟩ := f
  obtain ⟨r, k, rfl⟩ := exists_append (m := 10) (n := 5) imm
  simp only [decRds, fields_10_5, code_eq_ok, StateReg.ofCode_eq_some, need_eq_ok] at h
  obtain ⟨g, hg, hz, rfl⟩ := h
  exact encoded (Format.I.word 0xa) (by simp_all)

theorem encode_of_decWrs {f : Format.I} {i : Instr} (h : decWrs f = .ok i) :
    encode i = some (f.word 0xb, none) := by
  obtain ⟨d, a, ta, imm⟩ := f
  obtain ⟨r, k, rfl⟩ := exists_append (m := 10) (n := 5) imm
  simp only [decWrs, fields_10_5, code_eq_ok, StateReg.ofCode_eq_some, need_eq_ok] at h
  obtain ⟨g, hg, hz, rfl⟩ := h
  exact encoded (Format.I.word 0xb) (by simp_all)

theorem encode_of_decFloat {f : Format.A} {i : Instr} (h : decFloat f = .ok i) :
    encode i = some (f.word 0xd, none) := by
  obtain ⟨d, a, ta, b, tb, func⟩ := f
  obtain ⟨k, q, o, rfl⟩ := exists_append_three (m := 1) (n := 3) (p := 5) func
  simp only [decFloat, fields_1_3_5, code_eq_ok, FTy.ofCode_eq_some, Round.ofCode_eq_some] at h
  obtain ⟨p, rfl, r, rfl, h⟩ := h
  split at h <;> simp only [need_eq_ok, ok_eq_ok, reduceCtorEq] at h
  all_goals
    rename_i ho
    obtain rfl := eq_ofNat_of_toNat_eq ho
    obtain ⟨hz, rfl⟩ := h
    exact encoded (Format.A.word 0xd) (by simp_all)

theorem encode_of_decFcvt {f : Format.A} {i : Instr} (h : decFcvt f = .ok i) :
    encode i = some (f.word 0xe, none) := by
  obtain ⟨d, a, ta, b, tb, func⟩ := f
  obtain ⟨r, s, t, rfl⟩ := exists_append_three (m := 3) (n := 3) (p := 3) func
  obtain ⟨z, q, rfl⟩ := exists_append (m := 4) (n := 1) b
  simp only [decFcvt, fields_3_3_3, fields_4_1, code_eq_ok, NumTy.ofCode_eq_some, Round.ofCode_eq_some, need_eq_ok] at h
  obtain ⟨s, rfl, t, rfl, r, rfl, hz, rfl⟩ := h
  exact encoded (Format.A.word 0xe) (by simp_all)

theorem encode_of_decBrc {f : Format.B} {i : Instr} (h : decBrc f = .ok i) :
    encode i = some (f.word 0x12, none) := by
  obtain ⟨c, a, b, j⟩ := f
  simp only [decBrc, code_eq_ok, BrCond.ofCode_eq_some, ok_eq_ok] at h
  obtain ⟨k, rfl, -, rfl⟩ := h
  exact encoded (Format.B.word 0x12) (by simp_all)

theorem encode_of_decLoopn {f : Format.B} {i : Instr} (h : decLoopn f = .ok i) :
    encode i = some (f.word 0x13, none) := by
  obtain ⟨c, a, b, j⟩ := f
  simp only [decLoopn, need_eq_ok] at h
  obtain ⟨hz, rfl⟩ := h
  exact encoded (Format.B.word 0x13) (by simp_all)

theorem encode_of_decBri {f : Format.A} {i : Instr} (h : decBri f = .ok i) :
    encode i = some (f.word 0x14, none) := by
  obtain ⟨d, a, ta, b, tb, func⟩ := f
  simp only [decBri] at h
  split at h <;> simp only [need_eq_ok, reduceCtorEq] at h
  all_goals
    rename_i ho
    obtain rfl := eq_ofNat_of_toNat_eq ho
    obtain ⟨hz, rfl⟩ := h
    exact encoded (Format.A.word 0x14) (by simp_all)

theorem encode_of_decRegion {f : Format.A} {i : Instr} (h : decRegion f = .ok i) :
    encode i = some (f.word 0x15, none) := by
  obtain ⟨d, a, ta, b, tb, func⟩ := f
  obtain ⟨z, k, rfl⟩ := exists_append (m := 2) (n := 3) b
  simp only [decRegion, fields_2_3] at h
  split at h <;> simp only [need_eq_ok, reduceCtorEq] at h
  all_goals
    rename_i ho
    obtain rfl := eq_ofNat_of_toNat_eq ho
    obtain ⟨hz, rfl⟩ := h
    exact encoded (Format.A.word 0x15) (by simp_all)

theorem encode_of_decNop {f : Format.J} {i : Instr} (h : decNop f = .ok i) :
    encode i = some (f.word 0x16, none) := by
  obtain ⟨j⟩ := f
  simp only [decNop, need_eq_ok] at h
  obtain ⟨hz, rfl⟩ := h
  exact encoded (Format.J.word 0x16) (by simp_all)

theorem encode_of_decLd {f : Format.M} {i : Instr} (h : decLd f = .ok i) :
    encode i = some (f.word 0x18, none) := by
  obtain ⟨d, a, ta, sz, off⟩ := f
  simp only [decLd, ok_eq_ok] at h
  obtain ⟨-, rfl⟩ := h
  exact encoded (Format.M.word 0x18) (by simp_all)

theorem encode_of_decSt {f : Format.M} {i : Instr} (h : decSt f = .ok i) :
    encode i = some (f.word 0x19, none) := by
  obtain ⟨d, a, ta, sz, off⟩ := f
  simp only [decSt, ok_eq_ok] at h
  obtain ⟨-, rfl⟩ := h
  exact encoded (Format.M.word 0x19) (by simp_all)

theorem encode_of_decLdg {f : Format.M} {i : Instr} (h : decLdg f = .ok i) :
    encode i = some (f.word 0x1a, none) := by
  obtain ⟨d, a, ta, sz, off⟩ := f
  simp only [decLdg, ok_eq_ok] at h
  obtain ⟨-, rfl⟩ := h
  exact encoded (Format.M.word 0x1a) (by simp_all)

theorem encode_of_decSts {f : Format.M} {i : Instr} (h : decSts f = .ok i) :
    encode i = some (f.word 0x1b, none) := by
  obtain ⟨d, a, ta, sz, off⟩ := f
  simp only [decSts, ok_eq_ok] at h
  obtain ⟨-, rfl⟩ := h
  exact encoded (Format.M.word 0x1b) (by simp_all)

theorem encode_of_decLdp {f : Format.M} {i : Instr} (h : decLdp f = .ok i) :
    encode i = some (f.word 0x1c, none) := by
  obtain ⟨d, a, ta, sz, off⟩ := f
  obtain ⟨k, o, rfl⟩ := exists_append (m := 3) (n := 9) off
  simp only [decLdp, fields_3_9, ok_eq_ok] at h
  obtain ⟨-, rfl⟩ := h
  exact encoded (Format.M.word 0x1c) (by simp_all)

theorem encode_of_decTask {f : Format.A} {i : Instr} (h : decTask f = .ok i) :
    encode i = some (f.word 0x21, none) := by
  obtain ⟨d, a, ta, b, tb, func⟩ := f
  obtain ⟨z, k, rfl⟩ := exists_append (m := 1) (n := 4) d
  simp only [decTask, fields_1_4] at h
  split at h <;> simp only [need_eq_ok, ok_eq_ok, reduceCtorEq] at h
  all_goals
    rename_i ho
    obtain rfl := eq_ofNat_of_toNat_eq ho
    obtain ⟨hz, rfl⟩ := h
    exact encoded (Format.A.word 0x21) (by simp_all)

theorem encode_of_decMsg {f : Format.I} {i : Instr} (h : decMsg f = .ok i) :
    encode i = some (f.word 0x22, none) := by
  obtain ⟨d, a, ta, imm⟩ := f
  obtain ⟨z, t, rfl⟩ := exists_append (m := 7) (n := 8) imm
  simp only [decMsg, fields_7_8, need_eq_ok] at h
  obtain ⟨hz, rfl⟩ := h
  exact encoded (Format.I.word 0x22) (by simp_all)

theorem encode_of_decMsgv {f : Format.I} {i : Instr} (h : decMsgv f = .ok i) :
    encode i = some (f.word 0x23, none) := by
  obtain ⟨d, a, ta, imm⟩ := f
  obtain ⟨z, t, rfl⟩ := exists_append (m := 7) (n := 8) imm
  simp only [decMsgv, fields_7_8, need_eq_ok] at h
  obtain ⟨hz, rfl⟩ := h
  exact encoded (Format.I.word 0x23) (by simp_all)

theorem encode_of_decFifo {f : Format.A} {i : Instr} (h : decFifo f = .ok i) :
    encode i = some (f.word 0x24, none) := by
  obtain ⟨d, a, ta, b, tb, func⟩ := f
  simp only [decFifo] at h
  split at h <;> simp only [need_eq_ok, reduceCtorEq] at h
  all_goals
    rename_i ho
    obtain rfl := eq_ofNat_of_toNat_eq ho
    obtain ⟨hz, rfl⟩ := h
    exact encoded (Format.A.word 0x24) (by simp_all)

theorem encode_of_decVfloat {f : Format.V} {i : Instr} (h : decVfloat f = .ok i) :
    encode i = some (f.word 0x28, none) := by
  obtain ⟨d, a, ta, b, tb, m, func⟩ := f
  obtain ⟨k, o, rfl⟩ := exists_append (m := 2) (n := 4) func
  simp only [decVfloat, fields_2_4, code_eq_ok, VTy.ofCode_eq_some] at h
  obtain ⟨p, rfl, h⟩ := h
  split at h <;> simp only [need_eq_ok, ok_eq_ok, reduceCtorEq] at h
  all_goals
    rename_i ho
    obtain rfl := eq_ofNat_of_toNat_eq ho
    obtain ⟨hz, rfl⟩ := h
    exact encoded (Format.V.word 0x28) (by simp_all)

theorem encode_of_decVint {f : Format.V} {i : Instr} (h : decVint f = .ok i) :
    encode i = some (f.word 0x29, none) := by
  obtain ⟨d, a, ta, b, tb, m, func⟩ := f
  obtain ⟨z, o, rfl⟩ := exists_append (m := 2) (n := 4) func
  obtain ⟨q, k, rfl⟩ := exists_append (m := 2) (n := 3) d
  simp only [decVint, fields_2_4, fields_2_3] at h
  split at h <;> simp only [need_eq_ok, ok_eq_ok, reduceCtorEq] at h
  all_goals
    rename_i ho
    obtain rfl := eq_ofNat_of_toNat_eq ho
    obtain ⟨hz, rfl⟩ := h
    exact encoded (Format.V.word 0x29) (by simp_all)

theorem encode_of_decVfmaF {f : Format.W} {i : Instr} (h : decVfmaF f = .ok i) :
    encode i = some (f.word 0x2c, none) := by
  obtain ⟨d, a, b, c, w, m, r⟩ := f
  simp only [decVfmaF, code_eq_ok, Round.ofCode_eq_some, ok_eq_ok] at h
  obtain ⟨k, rfl, -, rfl⟩ := h
  exact encoded (Format.W.word 0x2c) (by simp_all)

theorem encode_of_decVfmaH {f : Format.W} {i : Instr} (h : decVfmaH f = .ok i) :
    encode i = some (f.word 0x2d, none) := by
  obtain ⟨d, a, b, c, w, m, r⟩ := f
  simp only [decVfmaH, code_eq_ok, Round.ofCode_eq_some, ok_eq_ok] at h
  obtain ⟨k, rfl, -, rfl⟩ := h
  exact encoded (Format.W.word 0x2d) (by simp_all)

theorem encode_of_decVfmsF {f : Format.W} {i : Instr} (h : decVfmsF f = .ok i) :
    encode i = some (f.word 0x2e, none) := by
  obtain ⟨d, a, b, c, w, m, r⟩ := f
  simp only [decVfmsF, code_eq_ok, Round.ofCode_eq_some, ok_eq_ok] at h
  obtain ⟨k, rfl, -, rfl⟩ := h
  exact encoded (Format.W.word 0x2e) (by simp_all)

theorem encode_of_decVfmsH {f : Format.W} {i : Instr} (h : decVfmsH f = .ok i) :
    encode i = some (f.word 0x2f, none) := by
  obtain ⟨d, a, b, c, w, m, r⟩ := f
  simp only [decVfmsH, code_eq_ok, Round.ofCode_eq_some, ok_eq_ok] at h
  obtain ⟨k, rfl, -, rfl⟩ := h
  exact encoded (Format.W.word 0x2f) (by simp_all)

theorem encode_of_decMma {f : Format.X} {i : Instr} (h : decMma f = .ok i) :
    encode i = some (f.word 0x30, none) := by
  obtain ⟨d, a, ta, b, tb, e, func⟩ := f
  simp only [decMma] at h
  split at h <;> simp only [ok_eq_ok, reduceCtorEq] at h
  all_goals
    rename_i ho
    obtain rfl := eq_ofNat_of_toNat_eq ho
    obtain ⟨hz, rfl⟩ := h
    exact encoded (Format.X.word 0x30) (by simp_all)

theorem encode_of_decAcc {f : Format.X} {i : Instr} (h : decAcc f = .ok i) :
    encode i = some (f.word 0x31, none) := by
  obtain ⟨d, a, ta, b, tb, e, func⟩ := f
  simp only [decAcc] at h
  split at h <;> simp only [need_eq_ok, reduceCtorEq] at h
  all_goals
    rename_i ho
    obtain rfl := eq_ofNat_of_toNat_eq ho
    obtain ⟨hz, rfl⟩ := h
    exact encoded (Format.X.word 0x31) (by simp_all)

theorem encode_of_decAcccvt {f : Format.X} {i : Instr} (h : decAcccvt f = .ok i) :
    encode i = some (f.word 0x32, none) := by
  obtain ⟨d, a, ta, b, tb, e, func⟩ := f
  obtain ⟨q, r, rfl⟩ := exists_append (m := 1) (n := 3) func
  simp only [decAcccvt, fields_1_3, code_eq_ok, AccTy.ofCode_eq_some, Elem.ofCode_eq_some, Round.ofCode_eq_some, ok_eq_ok] at h
  obtain ⟨s, rfl, t, rfl, r, rfl, -, rfl⟩ := h
  exact encoded (Format.X.word 0x32) (by simp_all)

theorem encode_of_decCopy {f : Format.X} {i : Instr} (h : decCopy f = .ok i) :
    encode i = some (f.word 0x34, none) := by
  obtain ⟨d, a, ta, b, tb, e, func⟩ := f
  simp only [decCopy] at h
  split at h <;> simp only [need_eq_ok, ok_eq_ok, reduceCtorEq] at h
  all_goals
    rename_i ho
    obtain rfl := eq_ofNat_of_toNat_eq ho
    obtain ⟨hz, rfl⟩ := h
    exact encoded (Format.X.word 0x34) (by simp_all)

theorem encode_of_decNear {f : Format.X} {i : Instr} (h : decNear f = .ok i) :
    encode i = some (f.word 0x35, none) := by
  obtain ⟨d, a, ta, b, tb, e, func⟩ := f
  simp only [decNear] at h
  split at h <;> simp only [need_eq_ok, reduceCtorEq] at h
  all_goals
    rename_i ho
    obtain rfl := eq_ofNat_of_toNat_eq ho
    obtain ⟨hz, rfl⟩ := h
    exact encoded (Format.X.word 0x35) (by simp_all)

theorem encode_of_decXchg {f : Format.X} {i : Instr} (h : decXchg f = .ok i) :
    encode i = some (f.word 0x36, none) := by
  obtain ⟨d, a, ta, b, tb, e, func⟩ := f
  simp only [decXchg] at h
  split at h <;> simp only [need_eq_ok, reduceCtorEq] at h
  all_goals
    rename_i ho
    obtain rfl := eq_ofNat_of_toNat_eq ho
    obtain ⟨hz, rfl⟩ := h
    exact encoded (Format.X.word 0x36) (by simp_all)

theorem encode_of_decRoute {f : Format.X} {i : Instr} (h : decRoute f = .ok i) :
    encode i = some (f.word 0x37, none) := by
  obtain ⟨d, a, ta, b, tb, e, func⟩ := f
  simp only [decRoute] at h
  split at h <;> simp only [need_eq_ok, reduceCtorEq] at h
  all_goals
    rename_i ho
    obtain rfl := eq_ofNat_of_toNat_eq ho
    obtain ⟨hz, rfl⟩ := h
    exact encoded (Format.X.word 0x37) (by simp_all)

theorem encode_of_decTrap {f : Format.S} {i : Instr} (h : decTrap f = .ok i) :
    encode i = some (f.word 0x38, none) := by
  obtain ⟨d, a, ta, func, imm⟩ := f
  simp only [decTrap] at h
  split at h <;> simp only [need_eq_ok, reduceCtorEq] at h
  all_goals
    rename_i ho
    obtain rfl := eq_ofNat_of_toNat_eq ho
    obtain ⟨hz, rfl⟩ := h
    exact encoded (Format.S.word 0x38) (by simp_all)

theorem encode_of_decReplay {f : Format.S} {i : Instr} (h : decReplay f = .ok i) :
    encode i = some (f.word 0x39, none) := by
  obtain ⟨d, a, ta, func, imm⟩ := f
  obtain ⟨q, w, rfl⟩ := exists_append (m := 4) (n := 6) imm
  simp only [decReplay, fields_4_6] at h
  split at h <;> simp only [need_eq_ok, reduceCtorEq] at h
  all_goals
    rename_i ho
    obtain rfl := eq_ofNat_of_toNat_eq ho
    obtain ⟨hz, rfl⟩ := h
    exact encoded (Format.S.word 0x39) (by simp_all)

theorem encode_of_decInval {f : Format.S} {i : Instr} (h : decInval f = .ok i) :
    encode i = some (f.word 0x3a, none) := by
  obtain ⟨d, a, ta, func, imm⟩ := f
  simp only [decInval] at h
  split at h <;> simp only [need_eq_ok, reduceCtorEq] at h
  all_goals
    rename_i ho
    obtain rfl := eq_ofNat_of_toNat_eq ho
    obtain ⟨hz, rfl⟩ := h
    exact encoded (Format.S.word 0x3a) (by simp_all)

theorem encode_of_decField {f : Format.I} {i : Instr} (h : decField f = .ok i) :
    encode i = some (f.word 0x8, none) := by
  obtain ⟨d, a, ta, imm⟩ := f
  obtain ⟨top, w, l, rfl⟩ := exists_append_three (m := 3) (n := 6) (p := 6) imm
  obtain ⟨k, g, r, rfl⟩ := exists_append_three (m := 1) (n := 1) (p := 1) top
  simp only [decField, fields_1_1_1_6_6] at h
  split at h
  · cases h
  · split at h
    next hk =>
      obtain ⟨-, rfl⟩ := ok_eq_ok.1 h
      exact encoded (Format.I.word 0x8) (by simp_all)
    next hk =>
      obtain ⟨hz, rfl⟩ := need_eq_ok.1 h
      obtain rfl := eq_one_of_ne_zero (by simpa using hk)
      exact encoded (Format.I.word 0x8) (by simp_all)

theorem encode_of_decLit {f : Format.L} {x : Option (BitVec 32)} {i : Instr} (h : decLit f x = .ok i) :
    encode i = some (f.word 0xc, x) ∧ x.isSome = true := by
  obtain ⟨d, a, ta, func⟩ := f
  simp only [decLit] at h
  split at h <;> simp only [must_eq_ok, lits_eq_ok, ok_eq_ok, reduceCtorEq] at h
  all_goals
    rename_i ho
    obtain rfl := eq_ofNat_of_toNat_eq ho
    obtain ⟨hz, l, rfl, -, rfl⟩ := h
    exact ⟨encoded (Format.L.word 0xc) (by simp_all), rfl⟩

theorem encode_of_decSpawn {f : Format.L} {x : Option (BitVec 32)} {i : Instr} (h : decSpawn f x = .ok i) :
    encode i = some (f.word 0x20, x) ∧ x.isSome = true := by
  obtain ⟨d, a, ta, func⟩ := f
  simp only [decSpawn] at h
  split at h
  · cases h
  · simp only [must_eq_ok, lits_eq_ok, ok_eq_ok] at h
    obtain ⟨hz, l, rfl, -, rfl⟩ := h
    exact ⟨encoded (Format.L.word 0x20) (by simp_all), rfl⟩

theorem encode_of_decLine {f : Format.M} {i : Instr} (h : decLine f = .ok i) :
    encode i = some (f.word 0x1d, none) := by
  obtain ⟨d, a, ta, sz, off⟩ := f
  obtain ⟨z, k, rfl⟩ := exists_append (m := 10) (n := 2) off
  simp only [decLine, fields_10_2] at h
  split at h <;> rename_i ho <;> try obtain rfl := eq_ofNat_of_toNat_eq ho
  case h_6 =>
    split at h <;> simp only [ok_eq_ok, reduceCtorEq] at h
    all_goals
      rename_i hd
      obtain rfl := eq_ofNat_of_toNat_eq hd
      obtain ⟨-, rfl⟩ := h
      exact encoded (Format.M.word 0x1d) (by simp)
  case h_7 =>
    simp only [code_eq_ok, BankMode.ofCode_eq_some, need_eq_ok] at h
    obtain ⟨m, rfl, hz, rfl⟩ := h
    exact encoded (Format.M.word 0x1d) (by simp_all)
  all_goals simp only [need_eq_ok, ok_eq_ok, reduceCtorEq] at h
  all_goals
    obtain ⟨hz, rfl⟩ := h
    exact encoded (Format.M.word 0x1d) (by simp_all)

theorem encode_of_decAtom {f : Format.A} {i : Instr} (h : decAtom f = .ok i) :
    encode i = some (f.word 0x1e, none) := by
  obtain ⟨d, a, ta, b, tb, func⟩ := f
  obtain ⟨k, o, t, rfl⟩ := exists_append_three (m := 3) (n := 3) (p := 3) func
  simp only [decAtom, fields_3_3_3, code_eq_ok, AtomOp.ofCode_eq_some, NumTy.ofCode_eq_some] at h
  obtain ⟨o, rfl, t, rfl, h⟩ := h
  split at h <;> rename_i hk <;> try obtain rfl := eq_ofNat_of_toNat_eq hk
  case h_5 =>
    split at h
    next ho =>
      split at h
      next ht =>
        obtain ⟨hz, rfl⟩ := need_eq_ok.1 h
        simp only [beq_iff_eq] at ho ht
        subst ho ht
        exact encoded (Format.A.word 0x1e) (by simp_all [AtomOp.code, NumTy.code])
      next => cases h
    next =>
      obtain ⟨hz, rfl⟩ := need_eq_ok.1 h
      exact encoded (Format.A.word 0x1e) (by simp_all)
  all_goals simp only [need_eq_ok, ok_eq_ok, reduceCtorEq] at h
  all_goals
    obtain ⟨hz, rfl⟩ := h
    exact encoded (Format.A.word 0x1e) (by simp_all [AtomOp.code])

theorem encode_of_decRemote {f : Format.A} {i : Instr} (h : decRemote f = .ok i) :
    encode i = some (f.word 0x1f, none) := by
  obtain ⟨d, a, ta, b, tb, func⟩ := f
  obtain ⟨o, r, z, rfl⟩ := exists_append_three (m := 4) (n := 2) (p := 3) func
  simp only [decRemote, fields_4_2_3] at h
  split at h
  · cases h
  · split at h <;> simp only [need_eq_ok, reduceCtorEq] at h
    all_goals
      rename_i ho
      obtain rfl := eq_ofNat_of_toNat_eq ho
      obtain ⟨hz, rfl⟩ := h
      exact encoded (Format.A.word 0x1f) (by simp_all)

/-- The word's bit 5 is the highest of its func field (R145). -/
theorem Format.V.bit5_word (o : BitVec 6) (f : Format.V) : (f.word o).extractLsb' 5 1 = f.func.extractLsb' 5 1 := by
  apply BitVec.eq_of_getLsbD_eq
  intro i hi
  simp only [Format.V.word, BitVec.getLsbD_extractLsb', BitVec.getLsbD_append]
  interval_cases i
  simp

/-- The func field of a float VCMP lies above the others of its major (R145). -/
theorem exists_vcmp_func {o : BitVec 5} (h : 16 ≤ o.toNat) : ∃ p c : BitVec 2, o = 1#1 ++ p ++ c := by
  obtain ⟨t, p, c, rfl⟩ := exists_append_three (m := 1) (n := 2) (p := 2) o
  have ht : ∀ (t : BitVec 1) (p c : BitVec 2), 16 ≤ (t ++ p ++ c).toNat → t = 1#1 := by decide
  exact ⟨p, c, by rw [ht t p c h]⟩

theorem vcmp_func_eq : ∀ p c : BitVec 2, (0#1 ++ (1#1 ++ p ++ c) : BitVec 6) = 1#2 ++ p ++ c := by
  decide

theorem encode_of_decVbits {f : Format.V} {i : Instr} (h5 : f.func.extractLsb' 5 1 = 0#1) (h : decVbits f = .ok i) :
    encode i = some (f.word 0x2a, none) := by
  obtain ⟨d, a, ta, b, tb, m, func⟩ := f
  obtain ⟨top, o, rfl⟩ := exists_append (m := 1) (n := 5) func
  obtain ⟨zd, kd, rfl⟩ := exists_append (m := 2) (n := 3) d
  obtain ⟨za, ka, rfl⟩ := exists_append (m := 2) (n := 3) a
  obtain ⟨zb, kb, rfl⟩ := exists_append (m := 2) (n := 3) b
  simp only [fields_1_5] at h5
  subst h5
  simp only [decVbits, fields_1_5, fields_2_3] at h
  split at h <;> rename_i ho
  case h_17 =>
    obtain ⟨p, c, rfl⟩ := exists_vcmp_func (o := o) (by simp only [imp_false] at *; omega)
    rw [vcmp_func_eq] at h ⊢
    simp only [fields_2_2_2, code_eq_ok, VTy.ofCode_eq_some, VCond.ofCode_eq_some, need_eq_ok] at h
    obtain ⟨p, rfl, c, rfl, hz, rfl⟩ := h
    exact encoded (Format.V.word 0x2a) (by simp_all)
  all_goals
    obtain rfl := eq_ofNat_of_toNat_eq ho
    simp only [need_eq_ok, ok_eq_ok, reduceCtorEq] at h
  all_goals
    obtain ⟨hz, rfl⟩ := h
    exact encoded (Format.V.word 0x2a) (by simp_all)

theorem encode_of_decVperm {f : Format.V} {i : Instr} (h5 : f.func.extractLsb' 5 1 = 1#1) (h : decVperm f = .ok i) :
    encode i = some (f.word 0x2a, none) := by
  obtain ⟨d, a, ta, b, tb, m, func⟩ := f
  obtain ⟨top, o, w, rfl⟩ := exists_append_three (m := 1) (n := 3) (p := 2) func
  simp only [fields_1_3_2] at h5
  subst h5
  simp only [decVperm, fields_1_3_2] at h
  split at h <;> simp only [need_eq_ok, ok_eq_ok] at h
  all_goals
    rename_i ho
    obtain ⟨hz, rfl⟩ := h
  case h_8 =>
    obtain rfl : o = 7#3 := eq_ofNat_of_toNat_eq (by simp only [imp_false] at *; omega)
    exact encoded (Format.V.word 0x2a) (by simp_all)
  all_goals
    obtain rfl := eq_ofNat_of_toNat_eq ho
    exact encoded (Format.V.word 0x2a) (by simp_all)

theorem encode_of_decVcvt {f : Format.V} {i : Instr} (h : decVcvt f = .ok i) :
    encode i = some (f.word 0x2b, none) := by
  obtain ⟨d, a, ta, b, tb, m, func⟩ := f
  simp only [decVcvt] at h
  split at h
  next h5 =>
    obtain ⟨top, t, rfl⟩ := exists_append (m := 1) (n := 5) func
    simp only [fields_1_5, beq_iff_eq, code_eq_ok, Elem.ofCode_eq_some, ok_eq_ok] at h h5
    subst h5
    obtain ⟨s, rfl, t, rfl, -, rfl⟩ := h
    exact encoded (Format.V.word 0x2b) (by simp)
  next h5 =>
    obtain ⟨top, k, n, rfl⟩ := exists_append_three (m := 1) (n := 2) (p := 3) func
    simp only [fields_1_2_3, code_eq_ok, Narrow.ofCode_eq_some] at h h5
    obtain rfl := eq_one_of_ne_zero (by simpa using h5)
    obtain ⟨n, rfl, h⟩ := h
    split at h <;> simp only [need_eq_ok, ok_eq_ok, reduceCtorEq] at h
    all_goals
      rename_i ho
      obtain rfl := eq_ofNat_of_toNat_eq ho
      obtain ⟨hz, rfl⟩ := h
      exact encoded (Format.V.word 0x2b) (by simp_all)

/-! A word is the word of its fields (R127, R132). -/

theorem Format.A.word_of {w : BitVec 32} {o : BitVec 6} (h : major w = o) : (Format.A.of w).word o = w := by
  subst h
  simp (disch := rfl) only [major, Format.A.of, Format.A.word, BitVec.extractLsb'_append_extractLsb'_eq_extractLsb']
  exact BitVec.extractLsb'_eq_self

theorem Format.I.word_of {w : BitVec 32} {o : BitVec 6} (h : major w = o) : (Format.I.of w).word o = w := by
  subst h
  simp (disch := rfl) only [major, Format.I.of, Format.I.word, BitVec.extractLsb'_append_extractLsb'_eq_extractLsb']
  exact BitVec.extractLsb'_eq_self

theorem Format.M.word_of {w : BitVec 32} {o : BitVec 6} (h : major w = o) : (Format.M.of w).word o = w := by
  subst h
  simp (disch := rfl) only [major, Format.M.of, Format.M.word, BitVec.extractLsb'_append_extractLsb'_eq_extractLsb']
  exact BitVec.extractLsb'_eq_self

theorem Format.B.word_of {w : BitVec 32} {o : BitVec 6} (h : major w = o) : (Format.B.of w).word o = w := by
  subst h
  simp (disch := rfl) only [major, Format.B.of, Format.B.word, BitVec.extractLsb'_append_extractLsb'_eq_extractLsb']
  exact BitVec.extractLsb'_eq_self

theorem Format.V.word_of {w : BitVec 32} {o : BitVec 6} (h : major w = o) : (Format.V.of w).word o = w := by
  subst h
  simp (disch := rfl) only [major, Format.V.of, Format.V.word, BitVec.extractLsb'_append_extractLsb'_eq_extractLsb']
  exact BitVec.extractLsb'_eq_self

theorem Format.W.word_of {w : BitVec 32} {o : BitVec 6} (h : major w = o) : (Format.W.of w).word o = w := by
  subst h
  simp (disch := rfl) only [major, Format.W.of, Format.W.word, BitVec.extractLsb'_append_extractLsb'_eq_extractLsb']
  exact BitVec.extractLsb'_eq_self

theorem Format.X.word_of {w : BitVec 32} {o : BitVec 6} (h : major w = o) : (Format.X.of w).word o = w := by
  subst h
  simp (disch := rfl) only [major, Format.X.of, Format.X.word, BitVec.extractLsb'_append_extractLsb'_eq_extractLsb']
  exact BitVec.extractLsb'_eq_self

theorem Format.S.word_of {w : BitVec 32} {o : BitVec 6} (h : major w = o) : (Format.S.of w).word o = w := by
  subst h
  simp (disch := rfl) only [major, Format.S.of, Format.S.word, BitVec.extractLsb'_append_extractLsb'_eq_extractLsb']
  exact BitVec.extractLsb'_eq_self

theorem Format.L.word_of {w : BitVec 32} {o : BitVec 6} (h : major w = o) : (Format.L.of w).word o = w := by
  subst h
  simp (disch := rfl) only [major, Format.L.of, Format.L.word, BitVec.extractLsb'_append_extractLsb'_eq_extractLsb']
  exact BitVec.extractLsb'_eq_self

theorem Format.J.word_of {w : BitVec 32} {o : BitVec 6} (h : major w = o) : (Format.J.of w).word o = w := by
  subst h
  exact (BitVec.extractLsb'_append_extractLsb'_eq_extractLsb' rfl).trans BitVec.extractLsb'_eq_self

/-! From a word to its instruction and back, by the major map (R136). -/

theorem encode_at {i : Instr} {w w' : BitVec 32} {l : Option (BitVec 32)} (h : encode i = some (w', l)) (hw : w' = w) :
    encode i = some (w, l) := hw ▸ h

/-- What a word decodes to is encoded as that word; where its family has a literal, with the literal (R130). -/
theorem encode_of_decodeRaw {w : BitVec 32} {x : Option (BitVec 32)} {i : Instr} (h : decodeRaw w x = .ok i) :
    encode i = some (w, none) ∨ (encode i = some (w, x) ∧ x.isSome = true) := by
  unfold decodeRaw at h
  split at h <;> rename_i ho
  case h_1 | h_54 => cases h
  all_goals have hw := eq_ofNat_of_toNat_eq ho
  case h_3 | h_4 | h_5 | h_6 =>
    obtain ⟨-, rfl⟩ := ok_eq_ok.1 h
    exact .inl (encode_at (encoded (Format.I.word _) (by simp)) (Format.I.word_of hw))
  case h_16 | h_17 =>
    obtain ⟨-, rfl⟩ := ok_eq_ok.1 h
    exact .inl (encode_at rfl (Format.J.word_of hw))
  case h_38 =>
    have h5 := Format.V.bit5_word 0x2a#6 (Format.V.of w)
    rw [Format.V.word_of hw] at h5
    split at h
    next hb => exact .inl (encode_at (encode_of_decVbits (by simpa [h5] using hb) h) (Format.V.word_of hw))
    next hb =>
      have h1 := eq_one_of_ne_zero (t := (Format.V.of w).func.extractLsb' 5 1) (by simpa [h5] using hb)
      exact .inl (encode_at (encode_of_decVperm h1 h) (Format.V.word_of hw))
  case h_2 => exact .inl (encode_at (encode_of_decInt h) (Format.A.word_of hw))
  case h_7 => exact .inl (encode_at (encode_of_decShift h) (Format.I.word_of hw))
  case h_8 => exact .inl (encode_at (encode_of_decCmpi h) (Format.I.word_of hw))
  case h_9 => exact .inl (encode_at (encode_of_decField h) (Format.I.word_of hw))
  case h_10 => exact .inl (encode_at (encode_of_decWidf h) (Format.I.word_of hw))
  case h_11 => exact .inl (encode_at (encode_of_decRds h) (Format.I.word_of hw))
  case h_12 => exact .inl (encode_at (encode_of_decWrs h) (Format.I.word_of hw))
  case h_13 => exact .inr ⟨encode_at (encode_of_decLit h).1 (Format.L.word_of hw), (encode_of_decLit h).2⟩
  case h_14 => exact .inl (encode_at (encode_of_decFloat h) (Format.A.word_of hw))
  case h_15 => exact .inl (encode_at (encode_of_decFcvt h) (Format.A.word_of hw))
  case h_18 => exact .inl (encode_at (encode_of_decBrc h) (Format.B.word_of hw))
  case h_19 => exact .inl (encode_at (encode_of_decLoopn h) (Format.B.word_of hw))
  case h_20 => exact .inl (encode_at (encode_of_decBri h) (Format.A.word_of hw))
  case h_21 => exact .inl (encode_at (encode_of_decRegion h) (Format.A.word_of hw))
  case h_22 => exact .inl (encode_at (encode_of_decNop h) (Format.J.word_of hw))
  case h_23 => exact .inl (encode_at (encode_of_decLd h) (Format.M.word_of hw))
  case h_24 => exact .inl (encode_at (encode_of_decSt h) (Format.M.word_of hw))
  case h_25 => exact .inl (encode_at (encode_of_decLdg h) (Format.M.word_of hw))
  case h_26 => exact .inl (encode_at (encode_of_decSts h) (Format.M.word_of hw))
  case h_27 => exact .inl (encode_at (encode_of_decLdp h) (Format.M.word_of hw))
  case h_28 => exact .inl (encode_at (encode_of_decLine h) (Format.M.word_of hw))
  case h_29 => exact .inl (encode_at (encode_of_decAtom h) (Format.A.word_of hw))
  case h_30 => exact .inl (encode_at (encode_of_decRemote h) (Format.A.word_of hw))
  case h_31 => exact .inr ⟨encode_at (encode_of_decSpawn h).1 (Format.L.word_of hw), (encode_of_decSpawn h).2⟩
  case h_32 => exact .inl (encode_at (encode_of_decTask h) (Format.A.word_of hw))
  case h_33 => exact .inl (encode_at (encode_of_decMsg h) (Format.I.word_of hw))
  case h_34 => exact .inl (encode_at (encode_of_decMsgv h) (Format.I.word_of hw))
  case h_35 => exact .inl (encode_at (encode_of_decFifo h) (Format.A.word_of hw))
  case h_36 => exact .inl (encode_at (encode_of_decVfloat h) (Format.V.word_of hw))
  case h_37 => exact .inl (encode_at (encode_of_decVint h) (Format.V.word_of hw))
  case h_39 => exact .inl (encode_at (encode_of_decVcvt h) (Format.V.word_of hw))
  case h_40 => exact .inl (encode_at (encode_of_decVfmaF h) (Format.W.word_of hw))
  case h_41 => exact .inl (encode_at (encode_of_decVfmaH h) (Format.W.word_of hw))
  case h_42 => exact .inl (encode_at (encode_of_decVfmsF h) (Format.W.word_of hw))
  case h_43 => exact .inl (encode_at (encode_of_decVfmsH h) (Format.W.word_of hw))
  case h_44 => exact .inl (encode_at (encode_of_decMma h) (Format.X.word_of hw))
  case h_45 => exact .inl (encode_at (encode_of_decAcc h) (Format.X.word_of hw))
  case h_46 => exact .inl (encode_at (encode_of_decAcccvt h) (Format.X.word_of hw))
  case h_47 => exact .inl (encode_at (encode_of_decCopy h) (Format.X.word_of hw))
  case h_48 => exact .inl (encode_at (encode_of_decNear h) (Format.X.word_of hw))
  case h_49 => exact .inl (encode_at (encode_of_decXchg h) (Format.X.word_of hw))
  case h_50 => exact .inl (encode_at (encode_of_decRoute h) (Format.X.word_of hw))
  case h_51 => exact .inl (encode_at (encode_of_decTrap h) (Format.S.word_of hw))
  case h_52 => exact .inl (encode_at (encode_of_decReplay h) (Format.S.word_of hw))
  case h_53 => exact .inl (encode_at (encode_of_decInval h) (Format.S.word_of hw))

theorem isLong_of_encode {i : Instr} {w : BitVec 32} {l : Option (BitVec 32)} (h : encode i = some (w, l)) :
    i.isLong = l.isSome := by
  cases i <;> cases h <;> rfl

/-! The family of each major (R136). -/

theorem decodeRaw_decInt (f : Format.A) (x : Option (BitVec 32)) : decodeRaw (f.word 0x1) x = decInt f := by
  simp [decodeRaw]

theorem decodeRaw_decShift (f : Format.I) (x : Option (BitVec 32)) : decodeRaw (f.word 0x6) x = decShift f := by
  simp [decodeRaw]

theorem decodeRaw_decCmpi (f : Format.I) (x : Option (BitVec 32)) : decodeRaw (f.word 0x7) x = decCmpi f := by
  simp [decodeRaw]

theorem decodeRaw_decField (f : Format.I) (x : Option (BitVec 32)) : decodeRaw (f.word 0x8) x = decField f := by
  simp [decodeRaw]

theorem decodeRaw_decWidf (f : Format.I) (x : Option (BitVec 32)) : decodeRaw (f.word 0x9) x = decWidf f := by
  simp [decodeRaw]

theorem decodeRaw_decRds (f : Format.I) (x : Option (BitVec 32)) : decodeRaw (f.word 0xa) x = decRds f := by
  simp [decodeRaw]

theorem decodeRaw_decWrs (f : Format.I) (x : Option (BitVec 32)) : decodeRaw (f.word 0xb) x = decWrs f := by
  simp [decodeRaw]

theorem decodeRaw_decLit (f : Format.L) (x : Option (BitVec 32)) : decodeRaw (f.word 0xc) x = decLit f x := by
  simp [decodeRaw]

theorem decodeRaw_decFloat (f : Format.A) (x : Option (BitVec 32)) : decodeRaw (f.word 0xd) x = decFloat f := by
  simp [decodeRaw]

theorem decodeRaw_decFcvt (f : Format.A) (x : Option (BitVec 32)) : decodeRaw (f.word 0xe) x = decFcvt f := by
  simp [decodeRaw]

theorem decodeRaw_decBrc (f : Format.B) (x : Option (BitVec 32)) : decodeRaw (f.word 0x12) x = decBrc f := by
  simp [decodeRaw]

theorem decodeRaw_decLoopn (f : Format.B) (x : Option (BitVec 32)) : decodeRaw (f.word 0x13) x = decLoopn f := by
  simp [decodeRaw]

theorem decodeRaw_decBri (f : Format.A) (x : Option (BitVec 32)) : decodeRaw (f.word 0x14) x = decBri f := by
  simp [decodeRaw]

theorem decodeRaw_decRegion (f : Format.A) (x : Option (BitVec 32)) : decodeRaw (f.word 0x15) x = decRegion f := by
  simp [decodeRaw]

theorem decodeRaw_decNop (f : Format.J) (x : Option (BitVec 32)) : decodeRaw (f.word 0x16) x = decNop f := by
  simp [decodeRaw]

theorem decodeRaw_decLd (f : Format.M) (x : Option (BitVec 32)) : decodeRaw (f.word 0x18) x = decLd f := by
  simp [decodeRaw]

theorem decodeRaw_decSt (f : Format.M) (x : Option (BitVec 32)) : decodeRaw (f.word 0x19) x = decSt f := by
  simp [decodeRaw]

theorem decodeRaw_decLdg (f : Format.M) (x : Option (BitVec 32)) : decodeRaw (f.word 0x1a) x = decLdg f := by
  simp [decodeRaw]

theorem decodeRaw_decSts (f : Format.M) (x : Option (BitVec 32)) : decodeRaw (f.word 0x1b) x = decSts f := by
  simp [decodeRaw]

theorem decodeRaw_decLdp (f : Format.M) (x : Option (BitVec 32)) : decodeRaw (f.word 0x1c) x = decLdp f := by
  simp [decodeRaw]

theorem decodeRaw_decLine (f : Format.M) (x : Option (BitVec 32)) : decodeRaw (f.word 0x1d) x = decLine f := by
  simp [decodeRaw]

theorem decodeRaw_decAtom (f : Format.A) (x : Option (BitVec 32)) : decodeRaw (f.word 0x1e) x = decAtom f := by
  simp [decodeRaw]

theorem decodeRaw_decRemote (f : Format.A) (x : Option (BitVec 32)) : decodeRaw (f.word 0x1f) x = decRemote f := by
  simp [decodeRaw]

theorem decodeRaw_decSpawn (f : Format.L) (x : Option (BitVec 32)) : decodeRaw (f.word 0x20) x = decSpawn f x := by
  simp [decodeRaw]

theorem decodeRaw_decTask (f : Format.A) (x : Option (BitVec 32)) : decodeRaw (f.word 0x21) x = decTask f := by
  simp [decodeRaw]

theorem decodeRaw_decMsg (f : Format.I) (x : Option (BitVec 32)) : decodeRaw (f.word 0x22) x = decMsg f := by
  simp [decodeRaw]

theorem decodeRaw_decMsgv (f : Format.I) (x : Option (BitVec 32)) : decodeRaw (f.word 0x23) x = decMsgv f := by
  simp [decodeRaw]

theorem decodeRaw_decFifo (f : Format.A) (x : Option (BitVec 32)) : decodeRaw (f.word 0x24) x = decFifo f := by
  simp [decodeRaw]

theorem decodeRaw_decVfloat (f : Format.V) (x : Option (BitVec 32)) : decodeRaw (f.word 0x28) x = decVfloat f := by
  simp [decodeRaw]

theorem decodeRaw_decVint (f : Format.V) (x : Option (BitVec 32)) : decodeRaw (f.word 0x29) x = decVint f := by
  simp [decodeRaw]

theorem decodeRaw_decVcvt (f : Format.V) (x : Option (BitVec 32)) : decodeRaw (f.word 0x2b) x = decVcvt f := by
  simp [decodeRaw]

theorem decodeRaw_decVfmaF (f : Format.W) (x : Option (BitVec 32)) : decodeRaw (f.word 0x2c) x = decVfmaF f := by
  simp [decodeRaw]

theorem decodeRaw_decVfmaH (f : Format.W) (x : Option (BitVec 32)) : decodeRaw (f.word 0x2d) x = decVfmaH f := by
  simp [decodeRaw]

theorem decodeRaw_decVfmsF (f : Format.W) (x : Option (BitVec 32)) : decodeRaw (f.word 0x2e) x = decVfmsF f := by
  simp [decodeRaw]

theorem decodeRaw_decVfmsH (f : Format.W) (x : Option (BitVec 32)) : decodeRaw (f.word 0x2f) x = decVfmsH f := by
  simp [decodeRaw]

theorem decodeRaw_decMma (f : Format.X) (x : Option (BitVec 32)) : decodeRaw (f.word 0x30) x = decMma f := by
  simp [decodeRaw]

theorem decodeRaw_decAcc (f : Format.X) (x : Option (BitVec 32)) : decodeRaw (f.word 0x31) x = decAcc f := by
  simp [decodeRaw]

theorem decodeRaw_decAcccvt (f : Format.X) (x : Option (BitVec 32)) : decodeRaw (f.word 0x32) x = decAcccvt f := by
  simp [decodeRaw]

theorem decodeRaw_decCopy (f : Format.X) (x : Option (BitVec 32)) : decodeRaw (f.word 0x34) x = decCopy f := by
  simp [decodeRaw]

theorem decodeRaw_decNear (f : Format.X) (x : Option (BitVec 32)) : decodeRaw (f.word 0x35) x = decNear f := by
  simp [decodeRaw]

theorem decodeRaw_decXchg (f : Format.X) (x : Option (BitVec 32)) : decodeRaw (f.word 0x36) x = decXchg f := by
  simp [decodeRaw]

theorem decodeRaw_decRoute (f : Format.X) (x : Option (BitVec 32)) : decodeRaw (f.word 0x37) x = decRoute f := by
  simp [decodeRaw]

theorem decodeRaw_decTrap (f : Format.S) (x : Option (BitVec 32)) : decodeRaw (f.word 0x38) x = decTrap f := by
  simp [decodeRaw]

theorem decodeRaw_decReplay (f : Format.S) (x : Option (BitVec 32)) : decodeRaw (f.word 0x39) x = decReplay f := by
  simp [decodeRaw]

theorem decodeRaw_decInval (f : Format.S) (x : Option (BitVec 32)) : decodeRaw (f.word 0x3a) x = decInval f := by
  simp [decodeRaw]

theorem decodeRaw_decVbits (f : Format.V) (x : Option (BitVec 32)) :
    decodeRaw (f.word 0x2a) x = if f.func.extractLsb' 5 1 == 0 then decVbits f else decVperm f := by
  simp [decodeRaw, Format.V.bit5_word]

/-- The words of a well-formed instruction are read as that instruction, with its literal where it has one. -/
theorem decodeRaw_of_encode {i : Instr} {w : BitVec 32} {l x : Option (BitVec 32)} (hwf : i.wf = true)
    (h : encode i = some (w, l)) (hx : i.isLong = true → x = l) : decodeRaw w x = .ok i := by
  cases i
  case add z d a b | adds z d a b | sub z d a b | mul z d a b | mulh z d a b | div z d a b | rem z d a b |
      neg z d a | and z d a b | andn z d a b | or z d a b | xor z d a b | shl z d a b | shr z d a b | rot z d a b |
      clz z d a | ctz z d a | popc z d a | brev z d a | min z d a b | max z d a b | sel z d a b | mov z d a |
      cmpEq z d a b | cmpNe z d a b | cmpLt z d a b | cmpLe z d a b | cmpGt z d a b | cmpGe z d a b =>
    cases h
    rw [decodeRaw_decInt]
    simp [decInt, need, -BitVec.reduceAppend]
  case addi d a e =>
    cases h
    simp [decodeRaw]
  case andi d a e =>
    cases h
    simp [decodeRaw]
  case ori d a e =>
    cases h
    simp [decodeRaw]
  case xori d a e =>
    cases h
    simp [decodeRaw]
  case shli d a n | shriN64 d a n | shriS64 d a n =>
    cases h
    rw [decodeRaw_decShift]
    simp [decShift, -BitVec.reduceAppend]
  case cmpi c u d a e =>
    cases h
    rw [decodeRaw_decCmpi]
    simp [decCmpi, code, -BitVec.reduceAppend]
  case extr g d a l w | insr d a l w =>
    cases h
    rw [decodeRaw_decField]
    simp [decField, need, -BitVec.reduceAppend]
  case widf d k =>
    cases h
    rw [decodeRaw_decWidf]
    simp [decWidf, need, -BitVec.reduceAppend]
  case rds d r =>
    cases h
    rw [decodeRaw_decRds]
    simp [decRds, code, need, -BitVec.reduceAppend]
  case wrs r a =>
    cases h
    rw [decodeRaw_decWrs]
    simp [decWrs, code, need, -BitVec.reduceAppend]
  case li d l | lih d l | lea d l =>
    cases h
    obtain rfl := hx rfl
    rw [decodeRaw_decLit]
    simp [decLit, must, lits, -BitVec.reduceAppend]
  case fadd p r d a b | fsub p r d a b | fmul p r d a b | fdiv p r d a b | fsqrt p r d a | ffma p r d a b |
      fmin p d a b | fmax p d a b | fcmpEq p d a b | fcmpLt p d a b | fcmpLe p d a b | fcmpUn p d a b |
      fclass p d a =>
    cases h
    rw [decodeRaw_decFloat]
    simp [decFloat, code, need, -BitVec.reduceAppend]
  case fcvt s t r q d a =>
    cases h
    rw [decodeRaw_decFcvt]
    simp [decFcvt, code, need, -BitVec.reduceAppend]
  case br j =>
    cases h
    simp [decodeRaw]
  case call j =>
    cases h
    simp [decodeRaw]
  case brc c a b j =>
    cases h
    rw [decodeRaw_decBrc]
    simp [decBrc, code, -BitVec.reduceAppend]
  case loopn a j =>
    cases h
    rw [decodeRaw_decLoopn]
    simp [decLoopn, need, -BitVec.reduceAppend]
  case bri a | calli a | ret a =>
    cases h
    rw [decodeRaw_decBri]
    simp [decBri, need, -BitVec.reduceAppend]
  case vif k | velse | vend =>
    cases h
    rw [decodeRaw_decRegion]
    simp [decRegion, need, -BitVec.reduceAppend]
  case nop =>
    cases h
    rw [decodeRaw_decNop]
    simp [decNop, need, -BitVec.reduceAppend]
  case ld z d a o =>
    cases h
    rw [decodeRaw_decLd]
    simp [decLd, -BitVec.reduceAppend]
  case st z d a o =>
    cases h
    rw [decodeRaw_decSt]
    simp [decSt, -BitVec.reduceAppend]
  case ldg z d a o =>
    cases h
    rw [decodeRaw_decLdg]
    simp [decLdg, -BitVec.reduceAppend]
  case sts z d a o =>
    cases h
    rw [decodeRaw_decSts]
    simp [decSts, -BitVec.reduceAppend]
  case ldp z d k a o =>
    cases h
    rw [decodeRaw_decLdp]
    simp [decLdp, -BitVec.reduceAppend]
  case ldv d a o | stv d a o | pf a o | flush a o | invl a o | fenceAcq a o | fenceRel a o | fenceFull a o |
      mode k m =>
    cases h
    rw [decodeRaw_decLine]
    simp [decLine, code, need, -BitVec.reduceAppend]
  case amo o t d a b | cas t d a b | famo o t d a b | red o t a b | fredAdd a b | vred t a b =>
    cases h
    rw [decodeRaw_decAtom]
    simp [decAtom, code, need, -BitVec.reduceAppend]
  case fredMinmax o t a b =>
    have ho : o ≠ .add := by
      rintro rfl
      simp [Instr.wf] at hwf
    cases h
    rw [decodeRaw_decAtom]
    simp [decAtom, code, need, -BitVec.reduceAppend, ho]
  case get z d a | put z a b | putf z a b | dlg d a b | dlgn a b | dret b =>
    cases h
    rw [decodeRaw_decRemote]
    simp [decRemote, need, -BitVec.reduceAppend]
  case spawn a l =>
    cases h
    obtain rfl := hx rfl
    rw [decodeRaw_decSpawn]
    simp [decSpawn, must, lits, -BitVec.reduceAppend]
  case sync a | pubf a | pubt a | bar a | retire | bind k a | unbind k | jctr d a | barq d a | bari a b |
      donate a b | tenq a b | trec d a b =>
    cases h
    rw [decodeRaw_decTask]
    simp [decTask, need, -BitVec.reduceAppend]
  case msg a d t =>
    cases h
    rw [decodeRaw_decMsg]
    simp [decMsg, need, -BitVec.reduceAppend]
  case msgv a d t =>
    cases h
    rw [decodeRaw_decMsgv]
    simp [decMsgv, need, -BitVec.reduceAppend]
  case fpush k b | fpop d k =>
    cases h
    rw [decodeRaw_decFifo]
    simp [decFifo, need, -BitVec.reduceAppend]
  case vadd p d a b m | vsub p d a b m | vmul p d a b m | vdiv p d a b m | vmin p d a b m | vmax p d a b m |
      vabs p d a m | vneg p d a m | vsqrt p d a m | vrcp p d a m | vrsq p d a m | vexp2 p d a m | vlog2 p d a m |
      vsum p d a m | vrmax p d a m | vrmin p d a m =>
    cases h
    rw [decodeRaw_decVfloat]
    simp [decVfloat, code, need, -BitVec.reduceAppend]
  case vaddInt w d a b m | vsubInt w d a b m | vmulInt w d a b m | vminS w d a b m | vminN w d a b m |
      vmaxS w d a b m | vmaxN w d a b m | vnegInt w d a m | vshl w d a b m | vshrS w d a b m | vshrN w d a b m |
      vsumInt w d a m | vimad w d a b m | vcmpEqInt w k a b m | vcmpLtS w k a b m | vcmpLtN w k a b m =>
    cases h
    rw [decodeRaw_decVint]
    simp [decVint, need, -BitVec.reduceAppend]
  case vand d a b m | vor d a b m | vxor d a b m | vsel d a b m | vnot d a m | vmov d a m | mand k i j |
      mor k i j | mxor k i j | mnot k i | mpop d i | mfirst d i | mmovx d i | mset k a | vperm w d a b m |
      vshuf w d a b m | vins w d a b m | vbcast w d a m | vcmpr w d a m | vexpd w d a m | viota w d m |
      vext w d a b =>
    cases h
    rw [decodeRaw_decVbits]
    simp [decVbits, decVperm, need, -BitVec.reduceAppend]
  case vcmp p c k a b m =>
    cases h
    rw [decodeRaw_decVbits]
    cases p <;> cases c <;> simp [decVbits, VTy.code, VCond.code, VTy.ofCode, VCond.ofCode, code, need]
  case vcvt s t q d a m | vscale n q d a m | vqnt n d a b m | vdqnt n d a b m =>
    cases h
    rw [decodeRaw_decVcvt]
    simp [decVcvt, code, need, -BitVec.reduceAppend]
  case vfmaF32F64 w d a b c m r =>
    cases h
    rw [decodeRaw_decVfmaF]
    simp [decVfmaF, code, -BitVec.reduceAppend]
  case vfmaBf16F16 w d a b c m r =>
    cases h
    rw [decodeRaw_decVfmaH]
    simp [decVfmaH, code, -BitVec.reduceAppend]
  case vfmsF32F64 w d a b c m r =>
    cases h
    rw [decodeRaw_decVfmsF]
    simp [decVfmsF, code, -BitVec.reduceAppend]
  case vfmsBf16F16 w d a b c m r =>
    cases h
    rw [decodeRaw_decVfmsH]
    simp [decVfmsH, code, -BitVec.reduceAppend]
  case mma p q a b | mmat p q a b =>
    cases h
    rw [decodeRaw_decMma]
    simp [decMma, -BitVec.reduceAppend]
  case mfmt a b | accz a b | accrd d a | mstat d a =>
    cases h
    rw [decodeRaw_decAcc]
    simp [decAcc, need, -BitVec.reduceAppend]
  case acccvt s t q r a b =>
    cases h
    rw [decodeRaw_decAcccvt]
    simp [decAcccvt, code, -BitVec.reduceAppend]
  case cpy d a b e | cstg a | cring a b =>
    cases h
    rw [decodeRaw_decCopy]
    simp [decCopy, need, -BitVec.reduceAppend]
  case nmg a b e | nmr a b e | nmc a b e =>
    cases h
    rw [decodeRaw_decNear]
    simp [decNear, need, -BitVec.reduceAppend]
  case dpost e | xsend a e | xarm a | xstat d a =>
    cases h
    rw [decodeRaw_decXchg]
    simp [decXchg, need, -BitVec.reduceAppend]
  case route d a b | icfg a =>
    cases h
    rw [decodeRaw_decRoute]
    simp [decRoute, need, -BitVec.reduceAppend]
  case trap e | rte | halt | brk e =>
    cases h
    rw [decodeRaw_decTrap]
    simp [decTrap, need, -BitVec.reduceAppend]
  case rqrd d q w | rqwr a q w | rqdel q =>
    cases h
    rw [decodeRaw_decReplay]
    simp [decReplay, need, -BitVec.reduceAppend]
  case tlbi a | regi a =>
    cases h
    rw [decodeRaw_decInval]
    simp [decInval, need, -BitVec.reduceAppend]
  all_goals cases h

/-- Settles O55: the words of an instruction carry each of its fields in the place from which the decoder reads it, and
the word that a family has decoded is put together from the same fields. -/
theorem decodingUndoesEncoding : Obligations.DecodingUndoesEncoding := by
  refine ⟨fun i w l hwf h => ⟨?back, fun hl x => ?short⟩, fun w x i h => ?forth⟩
  case back => simp [decode, decodeRaw_of_encode hwf h fun _ => rfl, hwf]
  case short => simp [decode, decodeRaw_of_encode (x := x) hwf h (by simp [hl]), hwf]
  case forth =>
    have hwf := wf_of_decode h
    have hraw : decodeRaw w x = .ok i := by
      unfold decode at h
      split at h
      next j hj =>
        split at h <;> cases h
        exact hj
      next => cases h
    refine ⟨hwf, ?_⟩
    rcases encode_of_decodeRaw hraw with he | ⟨he, hx⟩
    · simp [isLong_of_encode he, he]
    · simp [isLong_of_encode he, he, hx]

end Sys2Proof
end
section
/-! Scalar floating point (R162 to R166; O4). -/

namespace Sys2Proof.Machine

/-! What an instruction that is one of the shared float operations writes where its registers let it issue. -/

section
variable {i : Instr} {p : FTy} {rnd : Round} {d : RegNo} {a b : Src} {s : State}

theorem exec_of_float2 (h : s.Issues [a.x, b.x, .xd d]) (f : Fmt → REnv → FVal → FVal → FRes)
    (he : exec i s = float2 i p rnd d a b f s) :
    exec i s = .next (s.after (s.me.putFloat d (f p.fmt (s.me.env rnd) (unpack p.fmt (fbits p (s.me.xr a.r)))
      (unpack p.fmt (fbits p (s.me.xr b.r))))) 4) :=
  exec_of_issueReg h _ he

theorem exec_of_floatPlain (h : s.Issues [a.x, b.x, .xd d]) (f : Fmt → Nat → Nat → Nat × Flags)
    (he : exec i s = floatPlain i p d a b f s) :
    let r := f p.fmt (fbits p (s.me.xr a.r)) (fbits p (s.me.xr b.r))
    exec i s = .next (s.after (s.me.putFlags d r.1 r.2) 4) :=
  exec_of_issueReg h _ he

end

/-- An ordered comparison gives 0 and NV for a NaN, and otherwise tells the order without a flag (R164). -/
theorem cmpOrder_eq (le : Bool) (f : Fmt) (x y : Nat) :
    let u := unpack f x
    let v := unpack f y
    cmpOrder le f x y = (if u.isNan || v.isNan then 0 else if fpLt u v || (le && fpEq u v) then 1 else 0,
      if u.isNan || v.isNan then flagNV else 0) := by
  intro u v
  cases h : u.isNan || v.isNan <;> simp [cmpOrder, u, v, h]

/-- Settles O4: each instruction is its shared operation with the function of its row; an ordered comparison by whether
an operand is a NaN. -/
theorem scalarFloatsCompute : Obligations.ScalarFloatsCompute := by
  refine ⟨⟨fun p rnd d a b s h => ?two, fun p rnd d a s h => ?sqrt, fun p rnd d a b s h => ?fma⟩,
    fun p d a b s h => ?plain, fun p d a s h => ?classify, fun src dst rnd sat d a s h => ?convert⟩
  case two =>
    exact ⟨exec_of_float2 h fpAdd rfl, exec_of_float2 h fpSub rfl, exec_of_float2 h fpMul rfl, exec_of_float2 h fpDiv rfl⟩
  case sqrt =>
    exact exec_of_issueReg h
      (fun t => t.putFloat d (fpSqrt p.fmt (t.env rnd) (unpack p.fmt (fbits p (t.xr a.r))))) rfl
  case fma =>
    exact exec_of_issueReg h (fun t => t.putFloat d (fpFma p.fmt (t.env rnd) (unpack p.fmt (fbits p (t.xr a.r)))
      (unpack p.fmt (fbits p (t.xr b.r))) (unpack p.fmt (fbits p (t.xr d))))) rfl
  case plain =>
    have ordered (le : Bool) {i : Instr} (he : exec i s = floatPlain i p d a b (cmpOrder le) s) :=
      exec_of_floatPlain h _ he
    simp only [cmpOrder_eq] at ordered
    refine ⟨exec_of_floatPlain h (fun f => fpMinMax f false) rfl, exec_of_floatPlain h (fun f => fpMinMax f true) rfl,
      exec_of_floatPlain h cmpEqual rfl, ?less, ordered true rfl, exec_of_floatPlain h cmpUnordered rfl⟩
    have hless := ordered false (i := .fcmpLt p d a b) rfl
    simp only [Bool.false_and, Bool.or_false] at hless
    exact hless
  case classify =>
    exact exec_of_issueReg h (fun t => t.setX d (BitVec.ofNat 64 (fpClass p.fmt (fbits p (t.xr a.r))))) rfl
  case convert =>
    exact exec_of_issueReg h (fun t =>
      let r := convertNum src dst (t.env rnd) sat (t.xr a.r)
      (t.setX d r.1).commit r.2.1 r.2.2) rfl

end Sys2Proof.Machine
end

section
/-! Vector floating point (R216 to R223, R229 to R232; O7). -/

namespace Sys2Proof.Machine

/-! What an instruction that is one of the shared lane operations writes where its registers let it issue. -/

section
variable {i : Instr} {p : VTy} {d : RegNo} {a b : Src} {m : BitVec 3} {ops : List Opnd} {s : State}

/-- A float operation on lanes, by what its strand gives for one lane. -/
theorem exec_of_vecFloat (h : s.Issues ops) (f : Strand → REnv → Nat → FRes) (he : exec i s = vecFloat i p ops d m f s) :
    exec i s = .next (s.after (s.me.putLanes d p.fmt.width
      (s.me.vecLanes p.fmt.width (frmMode s.me.frm) m d (f s.me))) 4) :=
  exec_of_issueReg h _ he

theorem exec_of_vecFloat2 (h : s.Issues [a.v, b.v, .vd d]) (f : Fmt → REnv → FVal → FVal → FRes)
    (he : exec i s = vecFloat2 i p d a b m f s) :
    exec i s = .next (s.after (s.me.putLanes d p.fmt.width (s.me.vecLanes p.fmt.width (frmMode s.me.frm) m d
      fun env k => f p.fmt env (unpack p.fmt (lane (s.me.vr a.r) p.fmt.width k))
        (unpack p.fmt (lane (s.me.vr b.r) p.fmt.width k)))) 4) :=
  exec_of_vecFloat h (fun t env k => f p.fmt env (unpack p.fmt (lane (t.vr a.r) p.fmt.width k))
    (unpack p.fmt (lane (t.vr b.r) p.fmt.width k))) he

theorem exec_of_vecFloat1 (h : s.Issues [a.v, .vd d]) (f : REnv → Nat → FRes) (he : exec i s = vecFloat1 i p d a m f s) :
    exec i s = .next (s.after (s.me.putLanes d p.fmt.width (s.me.vecLanes p.fmt.width (frmMode s.me.frm) m d
      fun env k => f env (lane (s.me.vr a.r) p.fmt.width k))) 4) :=
  exec_of_vecFloat h (fun t env k => f env (lane (t.vr a.r) p.fmt.width k)) he

theorem exec_of_vecMinMax (h : s.Issues [a.v, b.v, .vd d]) (big : Bool) (he : exec i s = vecMinMax i p big d a b m s) :
    exec i s = .next (s.after (s.me.putLanes d p.fmt.width (s.me.vecLanes p.fmt.width (frmMode s.me.frm) m d
      fun env k => env.plain (fpMinMax p.fmt big (lane (s.me.vr a.r) p.fmt.width k) (lane (s.me.vr b.r) p.fmt.width k)))) 4) :=
  exec_of_vecFloat h (fun t env k =>
    env.plain (fpMinMax p.fmt big (lane (t.vr a.r) p.fmt.width k) (lane (t.vr b.r) p.fmt.width k))) he

theorem exec_of_vecReduce (h : s.Issues [a.v, .vd d]) (off : Nat) (f : Round → BitVec 32 → Nat → Nat → FRes)
    (he : exec i s = vecReduce i p d a m off f s) :
    let w := p.fmt.width
    exec i s = .next (s.after (s.me.putLanes d w (reduceTree (f (frmMode s.me.frm)) (Nat.log2 (laneCount w))
      ⟨(List.range (laneCount w)).map fun k => if s.me.lit m k then lane (s.me.vr a.r) w k else off, 0,
        frmLfsr s.me.frm⟩)) 4) :=
  exec_of_issueReg h _ he

end

/-- VFMA and VFMS round a x b + c and a x b - c once (R232). -/
theorem exec_of_vecFma {i : Instr} {p : VTy} {d a b c : RegNo} {m : BitVec 2} {rnd : Round} {s : State}
    (h : s.Issues [.vs a false, .vs b false, .vs c false, .vd d]) (sub : Bool)
    (he : exec i s = vecFma i p sub d a b c m rnd s) :
    let f := p.fmt
    let z := fun k => unpack f (lane (s.me.vr c) f.width k)
    exec i s = .next (s.after (s.me.putLanes d f.width (s.me.vecLanes f.width (s.me.mode rnd) (m.zeroExtend 3) d
      fun env k => fpFma f env (unpack f (lane (s.me.vr a) f.width k)) (unpack f (lane (s.me.vr b) f.width k))
        (if sub && !(z k).isNan then (z k).negate else z k))) 4) :=
  exec_of_issueReg h _ he

/-- The lanes of a float type fill the register, and their number is a power of two (R107, R216). -/
theorem two_pow_log2_lanes (p : VTy) : 2 ^ Nat.log2 (512 / p.fmt.width) = 512 / p.fmt.width := by
  cases p <;> decide

/-- Settles O7: each instruction is its shared operation with the function of its row, and the tree of a reduction takes
all lanes because their number is a power of two. -/
theorem vectorFloatsCompute : Obligations.VectorFloatsCompute := by
  refine ⟨⟨fun p d a b m s h => ?two, fun p d a m s h => ?one, fun n d a b m s h => ?quantise,
    fun src dst sat d a m s h => ?convert⟩, fun wide d a b c m rnd s h => ?fused,
    fun p d a m s h => ?reduce, fun w d a m s h => ?sumInt, fun n e4m3 d a m s h => ?scale⟩
  case two =>
    exact ⟨exec_of_vecFloat2 h fpAdd rfl, exec_of_vecFloat2 h fpSub rfl, exec_of_vecFloat2 h fpMul rfl,
      exec_of_vecFloat2 h fpDiv rfl, exec_of_vecMinMax h false rfl, exec_of_vecMinMax h true rfl⟩
  case one =>
    exact ⟨exec_of_vecFloat1 h (fun env x => env.exact (signElem p (fun x => x % p.fmt.signBit) x) 0) rfl,
      exec_of_vecFloat1 h (fun env x => env.exact (signElem p (fun x => x ^^^ p.fmt.signBit) x) 0) rfl,
      exec_of_vecFloat1 h (fun env x => fpSqrt p.fmt env (unpack p.fmt x)) rfl,
      exec_of_vecFloat1 h (fun env x => env.plain (vrcpElem p x)) rfl,
      exec_of_vecFloat1 h (fun env x => env.plain (vrsqElem p x)) rfl,
      exec_of_vecFloat1 h (fun env x => env.plain (vexp2Elem p x)) rfl,
      exec_of_vecFloat1 h (fun env x => env.plain (vlog2Elem p x)) rfl⟩
  case quantise =>
    exact ⟨exec_of_issueReg h (fun t => t.putLanes d 8 (mapLanes (frmMode t.frm) (t.lit m) (lane (t.vr d) 8)
        (fun env k => quantElem n (unpack .f32 (lane (t.vr b.r) 32 0)) env (lane (t.vr a.r) 32 k))
        (List.range 16) (frmLfsr t.frm))) rfl,
      exec_of_issueReg h (fun t => t.putLanes d 32 (t.vecLanes 32 (frmMode t.frm) m d fun env k =>
        dequantElem n (unpack .f32 (lane (t.vr b.r) 32 0)) env (lane (t.vr a.r) 8 k))) rfl⟩
  case convert =>
    exact exec_of_issueReg h (fun t => t.putLanes d (laneBits dst) (mapLanes (frmMode t.frm) (t.lit m)
      (lane (t.vr d) (laneBits dst))
      (fun env k => convertElem src dst env sat (lane (t.vr a.r) (laneBits src) k % 2 ^ src.bits))
      (List.range (512 / max (laneBits src) (laneBits dst))) (frmLfsr t.frm))) rfl
  case fused =>
    exact ⟨exec_of_vecFma h false rfl, exec_of_vecFma h false rfl, exec_of_vecFma h true rfl, exec_of_vecFma h true rfl⟩
  case reduce =>
    simp only [two_pow_log2_lanes]
    exact ⟨exec_of_vecReduce h p.fmt.signBit
        (fun mode l x y => fpAdd p.fmt ⟨mode, l⟩ (unpack p.fmt x) (unpack p.fmt y)) rfl,
      exec_of_vecReduce h (p.fmt.nan.getD 0) (fun mode l x y => REnv.plain ⟨mode, l⟩ (fpMinMax p.fmt true x y)) rfl,
      exec_of_vecReduce h (p.fmt.nan.getD 0) (fun mode l x y => REnv.plain ⟨mode, l⟩ (fpMinMax p.fmt false x y)) rfl⟩
  case sumInt =>
    exact exec_of_issueReg h (fun t => t.setV d (packLanes w.bits
      [((t.litLanes m (laneCount w.bits)).map fun k => lane (t.vr a.r) w.bits k).sum])) rfl
  case scale =>
    exact exec_of_issueReg h (fun t => t.setV d (packLanes 32
      [(blockScale n e4m3 ((t.litLanes m 16).map fun k => lane (t.vr a.r) 32 k)).1,
        (blockScale n e4m3 ((t.litLanes m 16).map fun k => lane (t.vr a.r) 32 k)).2])) rfl

end Sys2Proof.Machine
end

section
/-! Registers of a strand: what a read returns after a write (R131, R217). -/

namespace Sys2Proof.Machine

section
variable (t : Strand)

theorem Strand.vr_setV_same (d : RegNo) (v : Vec) : (t.setV d v).vr d = v := get_put ..

theorem Strand.vr_setV_ne {d q : RegNo} (v : Vec) (h : q ≠ d) : (t.setV d v).vr q = t.vr q :=
  get_put_ne _ _ _ _ _ fun e => h (BitVec.eq_of_toNat_eq e)

@[simp] theorem Strand.xr_setV (d q : RegNo) (v : Vec) : (t.setV d v).xr q = t.xr q := rfl

@[simp] theorem Strand.mr_setV (d : RegNo) (v : Vec) (k : BitVec 3) : (t.setV d v).mr k = t.mr k := rfl

theorem Strand.xr_setX_ne {d q : RegNo} (w : Word) (h : q ≠ d) : (t.setX d w).xr q = t.xr q := by
  unfold Strand.setX
  split
  · rfl
  · simp only [Strand.xr]
    rw [get_put_ne _ _ _ _ _ fun e => h (BitVec.eq_of_toNat_eq e)]

theorem Strand.mr_setM_ne {k j : BitVec 3} (w : Word) (h : j ≠ k) : (t.setM k w).mr j = t.mr j := by
  unfold Strand.setM
  split
  · rfl
  · simp only [Strand.mr]
    rw [get_put_ne _ _ _ _ _ fun e => h (BitVec.eq_of_toNat_eq e)]

@[simp] theorem Strand.vr_commit (fl : Flags) (l : BitVec 32) (q : RegNo) : (t.commit fl l).vr q = t.vr q := rfl

@[simp] theorem Strand.xr_commit (fl : Flags) (l : BitVec 32) (q : RegNo) : (t.commit fl l).xr q = t.xr q := rfl

@[simp] theorem Strand.mr_commit (fl : Flags) (l : BitVec 32) (k : BitVec 3) : (t.commit fl l).mr k = t.mr k := rfl

end

/-- Filling a register leaves the mark of every other one (R131). -/
theorem getLsbD_fill_ne {d q : RegNo} (e : BitVec 32) (h : q ≠ d) :
    (e &&& ~~~regBit d).getLsbD q.toNat = e.getLsbD q.toNat := by
  have hne : q.toNat ≠ d.toNat := fun he => h (BitVec.eq_of_toNat_eq he)
  simp [regBit]
  omega

end Sys2Proof.Machine
end

section
/-! Lanes (R216, R217, R220; O9). -/

namespace Sys2Proof.Machine

/-! A register packed from lanes reads back lane by lane. -/

theorem packNat_div_mod (w i : Nat) (l : List Nat) : packNat w l / 2 ^ (w * i) % 2 ^ w = l.getD i 0 % 2 ^ w := by
  induction l generalizing i with
  | nil => simp [packNat]
  | cons x r ih =>
    cases i with
    | zero => simp [packNat]
    | succ i =>
      have hx : (x % 2 ^ w + 2 ^ w * packNat w r) / 2 ^ w = packNat w r := by
        rw [Nat.add_mul_div_left _ _ (Nat.two_pow_pos w), Nat.div_eq_of_lt (Nat.mod_lt _ (Nat.two_pow_pos w)), Nat.zero_add]
      rw [packNat, Nat.mul_succ, Nat.add_comm (w * i), Nat.pow_add, ← Nat.div_div_eq_div_mul, hx, ih]
      simp

theorem lane_packLanes {w i : Nat} (h : w * i + w ≤ 512) (l : List Nat) : lane (packLanes w l) w i = l.getD i 0 % 2 ^ w := by
  have hw : w * i ≤ 512 := by omega
  have hsplit := (Nat.pow_sub_mul_pow 2 hw).symm
  have hdvd : 2 ^ w ∣ 2 ^ (512 - w * i) := Nat.pow_dvd_pow 2 (by omega)
  rw [lane, packLanes, BitVec.toNat_ofNat, hsplit, Nat.mod_mul_left_div_self, Nat.mod_mod_of_dvd _ hdvd, packNat_div_mod]

/-- A lane below the count of its width lies in the register. -/
theorem lane_fits {w k : Nat} (h : k < 512 / w) : w * k + w ≤ 512 := by
  have hk : (k + 1) * w ≤ 512 / w * w := Nat.mul_le_mul_right w h
  have hw : 512 / w * w ≤ 512 := Nat.div_mul_le_self 512 w
  rw [Nat.add_mul, Nat.one_mul, Nat.mul_comm] at hk
  omega

theorem lane_mod (v : Vec) (w k : Nat) : lane v w k % 2 ^ w = lane v w k := Nat.mod_mod ..

/-! What `mapLanes` gives for one of its lanes. -/

section
variable {mode : Round} {act : Nat → Bool} {old : Nat → Nat}

theorem mapLanes_vals_inactive (f : REnv → Nat → FRes) {k : Nat} (ks : List Nat) (l : BitVec 32)
    (hk : k < ks.length) (ha : act (ks.getD k 0) = false) :
    (mapLanes mode act old f ks l).vals.getD k 0 = old (ks.getD k 0) := by
  induction ks generalizing k l with
  | nil => simp at hk
  | cons i r ih =>
    cases k with
    | zero =>
      have hi : act i = false := by simpa using ha
      simp [mapLanes, hi]
    | succ k =>
      simp only [List.getD_cons_succ] at ha ⊢
      rw [mapLanes]
      split <;> simpa using ih _ (by simpa using hk) ha

@[simp] theorem REnv.plain_code (env : REnv) (r : Nat × Flags) : (env.plain r).code = r.1 := rfl

/-- A function that draws nothing gives each lane its own value, whatever the lanes before it are. -/
theorem mapLanes_vals_plain (f : Nat → Nat × Flags) (ks : List Nat) (l : BitVec 32) :
    (mapLanes mode act old (fun env j => env.plain (f j)) ks l).vals = ks.map fun k => if act k then (f k).1 else old k := by
  induction ks generalizing l with
  | nil => rfl
  | cons i r ih =>
    rw [mapLanes]
    cases h : act i <;> simp [h, ih]

end

/-! What a lane operation leaves in its destination. -/

section
variable (t : Strand) (d : RegNo) (m : BitVec 3) {w k : Nat} (hk : k < 512 / w)
include hk

theorem lane_setLanes (f : Nat → Nat) :
    lane ((t.setLanes w m d f).vr d) w k = if t.lit m k then f k % 2 ^ w else lane (t.vr d) w k := by
  rw [Strand.setLanes, Strand.vr_setV_same, lane_packLanes (lane_fits hk)]
  simp only [laneCount, List.getD_eq_getElem?_getD, List.getElem?_map, List.getElem?_range hk, Option.map_some,
    Option.getD_some]
  split
  · rfl
  · exact lane_mod ..

theorem lane_putLanes (r : LaneRes) : lane ((t.putLanes d w r).vr d) w k = r.vals.getD k 0 % 2 ^ w := by
  rw [Strand.putLanes, Strand.vr_commit, Strand.vr_setV_same, lane_packLanes (lane_fits hk)]

theorem lane_putLanes_inactive (mode : Round) (f : REnv → Nat → FRes) (ha : t.lit m k = false) :
    lane ((t.putLanes d w (t.vecLanes w mode m d f)).vr d) w k = lane (t.vr d) w k := by
  have hr : (List.range (laneCount w)).getD k 0 = k := by simp [laneCount, List.getElem?_range hk]
  rw [lane_putLanes t d hk, Strand.vecLanes,
    mapLanes_vals_inactive f _ _ (by simpa [laneCount] using hk) (by rwa [hr]), hr, lane_mod]

theorem lane_putLanes_plain (mode : Round) (f : Nat → Nat × Flags) (ha : t.lit m k = true) :
    lane ((t.putLanes d w (t.vecLanes w mode m d fun env j => env.plain (f j))).vr d) w k = (f k).1 % 2 ^ w := by
  rw [lane_putLanes t d hk, Strand.vecLanes, mapLanes_vals_plain]
  simp [laneCount, List.getElem?_range hk, ha]

end

/-- Settles O9: the lanes of the destination by what packing them reads back as, and every other register because a lane
operation writes one v register. -/
theorem inactiveLanesKeepTheirValues : Obligations.InactiveLanesKeepTheirValues := by
  intro t d m w _
  refine ⟨fun f k hk => lane_setLanes t d m hk f, fun mode f k hk ha => lane_putLanes_inactive t d m hk mode f ha,
    fun mode f k hk ha => lane_putLanes_plain t d m hk mode f ha, fun mode f g => ⟨fun q hq => ?vectors, fun q => ⟨rfl, rfl⟩,
      fun k => ⟨rfl, rfl⟩⟩⟩
  case vectors => exact ⟨Strand.vr_setV_ne t _ hq, Strand.vr_setV_ne t _ hq⟩

end Sys2Proof.Machine
end

section
/-! Instructions on registers leave the rest of the machine (R131, R151 to R166, R216 to R232; O52). -/

namespace Sys2Proof.Machine

/-- What an instruction on registers may change of its strand: the destinations among `ops` with their marks, the mask
register `mask`, and where it raises flags %fflags and %frm. -/
structure RegisterChange (ops : List Opnd) (mask : Option (BitVec 3)) (raises : Bool) (u v : Strand) : Prop where
  onX : ∀ r, Opnd.xd r ∉ ops → v.xr r = u.xr r ∧ v.emptyX.getLsbD r.toNat = u.emptyX.getLsbD r.toNat
  onV : ∀ r, Opnd.vd r ∉ ops → v.vr r = u.vr r ∧ v.emptyV.getLsbD r.toNat = u.emptyV.getLsbD r.toNat
  onM : ∀ k, mask ≠ some k → v.mr k = u.mr k
  onFlags : raises = false → v.fflags = u.fflags ∧ v.frm = u.frm
  rest : v = { u with
    x := v.x, v := v.v, m := v.m, emptyX := v.emptyX, pendX := v.pendX, emptyV := v.emptyV, pendV := v.pendV,
    fflags := v.fflags, frm := v.frm }

namespace RegisterChange

variable {ops : List Opnd} {mask : Option (BitVec 3)} {raises : Bool} {u v : Strand}

theorem refl : RegisterChange ops mask raises u u :=
  ⟨fun _ _ => ⟨rfl, rfl⟩, fun _ _ => ⟨rfl, rfl⟩, fun _ _ => rfl, fun _ => ⟨rfl, rfl⟩, rfl⟩

theorem setX {d : RegNo} (h : Opnd.xd d ∈ ops) (w : Word) : RegisterChange ops mask raises u (u.setX d w) := by
  refine ⟨fun r hr => ?_, ?_, ?_, ?_, ?_⟩
  · have hne : r ≠ d := fun e => hr (e ▸ h)
    refine ⟨Strand.xr_setX_ne u w hne, ?_⟩
    unfold Strand.setX
    split
    · rfl
    · exact getLsbD_fill_ne _ hne
  all_goals
    unfold Strand.setX
    split <;> simp [Strand.vr, Strand.mr]

theorem setV {d : RegNo} (h : Opnd.vd d ∈ ops) (w : Vec) : RegisterChange ops mask raises u (u.setV d w) := by
  refine ⟨fun _ _ => ⟨rfl, rfl⟩, fun r hr => ?_, fun _ _ => rfl, fun _ => ⟨rfl, rfl⟩, rfl⟩
  have hne : r ≠ d := fun e => hr (e ▸ h)
  exact ⟨Strand.vr_setV_ne u w hne, getLsbD_fill_ne _ hne⟩

theorem setM (k : BitVec 3) (w : Word) : RegisterChange ops (some k) raises u (u.setM k w) := by
  refine ⟨?_, ?_, fun j hj => Strand.mr_setM_ne u w fun e => hj (e ▸ rfl), ?_, ?_⟩
  all_goals
    unfold Strand.setM
    split <;> simp [Strand.xr, Strand.vr]

theorem orFlags (h : RegisterChange ops mask true u v) (fl : Flags) : RegisterChange ops mask true u (v.orFlags fl) := by
  obtain ⟨hx, hv, hm, -, hrest⟩ := h
  refine ⟨hx, hv, hm, nofun, ?_⟩
  rw [hrest]
  rfl

theorem commit (h : RegisterChange ops mask true u v) (fl : Flags) (l : BitVec 32) :
    RegisterChange ops mask true u (v.commit fl l) := by
  obtain ⟨hx, hv, hm, -, hrest⟩ := h
  refine ⟨hx, hv, hm, nofun, ?_⟩
  rw [hrest]
  rfl

end RegisterChange

/-- An instruction on registers is held, or goes on with its strand so changed. -/
theorem exec_of_registerForm {i : Instr} {ops : List Opnd} {s : State} (hf : registerForm i = some ops)
    (h : s.Issues ops) : exec i s = .next s.waits ∨
      ∃ v n, RegisterChange ops (maskDest i) (raisesFlags i) s.me v ∧ exec i s = .next (s.after v n) := by
  cases i
  case rds d r =>
    cases hf
    rw [exec_rds_issued h]
    split
    · exact .inl rfl
    · exact .inr ⟨_, 4, .setX (by simp) _, rfl⟩
  case nop =>
    cases hf
    exact .inr ⟨_, 4, .refl, exec_nop_issued h⟩
  case li d l =>
    cases hf
    exact .inr ⟨_, 8, .setX (by simp) _, exec_of_issueLit (ops := []) h (fun _ => l.signExtend 64) rfl⟩
  case lih d l =>
    cases hf
    exact .inr ⟨_, 8, .setX (by simp) _,
      exec_of_issueLit (ops := [.xs d false]) h (fun t => l ++ (t.xr d).extractLsb' 0 32) rfl⟩
  case lea d l =>
    cases hf
    exact .inr ⟨_, 8, .setX (by simp) _, exec_of_issueLit (ops := []) h (fun t => t.pc + l.signExtend 64) rfl⟩
  case add z d a b | adds z d a b | sub z d a b | mul z d a b | mulh z d a b | div z d a b | rem z d a b | and z d a b
      | andn z d a b | or z d a b | xor z d a b | shl z d a b | shr z d a b | rot z d a b | min z d a b | max z d a b
      | cmpEq z d a b | cmpNe z d a b | cmpLt z d a b | cmpLe z d a b | cmpGt z d a b | cmpGe z d a b | sel z d a b
      | neg z d a | clz z d a | ctz z d a | popc z d a | brev z d a | mov z d a | addi d a e | andi d a e | ori d a e
      | xori d a e | shli d a e | shriN64 d a e | shriS64 d a e | cmpi c u d a e | extr g d a l w | insr d a l w | widf d k
      | fclass p d a | mpop d k | mfirst d k | mmovx d k | vext z d a b =>
    cases hf
    simp only [exec, execAdd, execAdds, execSub, execMul, execMulh, execDiv, execRem, execAnd, execAndn, execOr,
      execXor, execShl, execShr, execRot, execMin, execMax, execCmpEq, execCmpNe, execCmpLt, execCmpLe, execCmpGt,
      execCmpGe, execSel, execNeg, execClz, execCtz, execPopc, execBrev, execMov, execAddi, execAndi, execOri,
      execXori, execShli, execShriN64, execShriS64, execCmpi, execExtr, execInsr, execWidf, execFclass, execMpop,
      execMfirst, execMmovx, execVext, alu2, aluShift, aluCmp, alu1, aluBits, aluCount, aluImm, issuedReg h]
    exact .inr ⟨_, 4, .setX (by simp) _, rfl⟩
  case fadd p r d a b | fsub p r d a b | fmul p r d a b | fdiv p r d a b | fsqrt p r d a | ffma p r d a b
      | fcvt p q r g d a =>
    cases hf
    simp only [exec, execFadd, execFsub, execFmul, execFdiv, execFsqrt, execFfma, execFcvt, float2, Strand.putFloat,
      issuedReg h]
    exact .inr ⟨_, 4, .commit (.setX (by simp) _) .., rfl⟩
  case fmin p d a b | fmax p d a b | fcmpEq p d a b | fcmpLt p d a b | fcmpLe p d a b | fcmpUn p d a b =>
    cases hf
    simp only [exec, execFmin, execFmax, execFcmpEq, execFcmpLt, execFcmpLe, execFcmpUn, floatPlain, Strand.putFlags,
      issuedReg h]
    exact .inr ⟨_, 4, .orFlags (.setX (by simp) _) _, rfl⟩
  case vaddInt w d a b m | vsubInt w d a b m | vmulInt w d a b m | vminS w d a b m | vminN w d a b m | vmaxS w d a b m
      | vmaxN w d a b m | vshl w d a b m | vshrS w d a b m | vshrN w d a b m | vimad w d a b m | vperm w d a b m
      | vshuf w d a b m | vins w d a b m | vnegInt w d a m | vsumInt w d a m | vcmpr w d a m | vexpd w d a m
      | vbcast w d a m | viota w d m | vand d a b m | vor d a b m | vxor d a b m | vsel d a b m | vnot d a m | vmov d a m
      | vscale n g d a m =>
    cases hf
    simp only [exec, execVaddInt, execVsubInt, execVmulInt, execVminS, execVminN, execVmaxS, execVmaxN, execVshl,
      execVshrS, execVshrN, execVimad, execVperm, execVshuf, execVins, execVnegInt, execVsumInt, execVcmpr,
      execVexpd, execVbcast, execViota, execVand, execVor, execVxor, execVsel, execVnot, execVmov, execVscale,
      vecInt2, vecBits, Strand.setLanes, issuedReg h]
    exact .inr ⟨_, 4, .setV (by simp) _, rfl⟩
  case vadd p d a b m | vsub p d a b m | vmul p d a b m | vdiv p d a b m | vmin p d a b m | vmax p d a b m | vabs p d a m
      | vneg p d a m | vsqrt p d a m | vrcp p d a m | vrsq p d a m | vexp2 p d a m | vlog2 p d a m | vsum p d a m
      | vrmax p d a m | vrmin p d a m | vcvt p q g d a m | vqnt n d a b m | vdqnt n d a b m | vfmaF32F64 w d a b c m r
      | vfmaBf16F16 w d a b c m r | vfmsF32F64 w d a b c m r | vfmsBf16F16 w d a b c m r =>
    cases hf
    simp only [exec, execVadd, execVsub, execVmul, execVdiv, execVmin, execVmax, execVabs, execVneg, execVsqrt,
      execVrcp, execVrsq, execVexp2, execVlog2, execVsum, execVrmax, execVrmin, execVcvt, execVqnt, execVdqnt,
      execVfmaF32F64, execVfmaBf16F16, execVfmsF32F64, execVfmsBf16F16, vecFloat2, vecFloat1, vecMinMax, vecFloat,
      vecReduce, vecFma, Strand.putLanes, issuedReg h]
    exact .inr ⟨_, 4, .commit (.setV (by simp) _) .., rfl⟩
  case vcmpEqInt w k a b m | vcmpLtS w k a b m | vcmpLtN w k a b m | mand k i j | mor k i j | mxor k i j | mnot k i
      | mset k a =>
    cases hf
    simp only [exec, execVcmpEqInt, execVcmpLtS, execVcmpLtN, execMand, execMor, execMxor, execMnot, execMset,
      vecCmpInt, issuedReg h]
    exact .inr ⟨_, 4, .setM .., rfl⟩
  case vcmp p c k a b m =>
    cases hf
    simp only [exec, execVcmp, issuedReg h]
    exact .inr ⟨_, 4, .orFlags (.setM ..) _, rfl⟩
  all_goals cases hf

/-- Settles O52: the one change of the strand's registers leaves the rest of the strand, and the machine takes nothing
but the strand. -/
theorem registerInstructionsLeaveTheRest : Obligations.RegisterInstructionsLeaveTheRest := by
  intro i ops s t hf h ht
  rcases exec_of_registerForm hf h with he | ⟨v, n, hv, he⟩ <;> rw [he] at ht <;> cases ht
  case inl =>
    exact ⟨rfl, fun _ => rfl, fun _ _ => rfl, fun _ _ => ⟨rfl, rfl⟩, fun _ _ => ⟨rfl, rfl⟩, fun _ _ => rfl, rfl, rfl,
      fun _ => ⟨rfl, rfl⟩, rfl⟩
  case inr =>
    have hme : (s.after v n).me = v.advance n := by simp [State.after]
    obtain ⟨hx, hv, hm, hflags, hrest⟩ := hv
    refine ⟨rfl, fun _ => rfl, fun k hk => State.strand_setMe_ne s k _ hk, ?_⟩
    simp only [hme]
    refine ⟨hx, hv, hm, rfl, rfl, hflags, ?_⟩
    rw [hrest]
    rfl

end Sys2Proof.Machine
end

section
/-! Accesses that reach their line (R55, R56, R71, R176 to R189; O10 to O12). -/

namespace Sys2Proof

theorem Width.bytes_ne_zero (w : Width) : w.bytes ≠ 0 := by
  cases w <;> decide

theorem NumTy.bytes_ne_zero (t : NumTy) : t.bytes ≠ 0 := by
  cases t <;> decide

end Sys2Proof

namespace Sys2Proof.Machine

/-- PF, FLUSH and INVL name a line and no bytes of it (R179). -/
def MemOp.controls (o : MemOp) : Bool := o == .prefetch || o == .flush || o == .invl

/-- The accesses of `memoryForm` that are no line control name some bytes. -/
theorem form_bytes {t : Strand} {i : Instr} {ops : List Opnd} {o : MemOp} {c : Cap} {u : Strand}
    (hf : memoryForm t i = some (ops, o, c, u)) (ho : o.controls = false) : o.bytes ≠ 0 := by
  unfold memoryForm at hf
  split at hf <;> simp only [Option.some.injEq, Prod.mk.injEq, reduceCtorEq] at hf
  all_goals
    obtain ⟨-, rfl, -, -⟩ := hf
    first
      | exact absurd ho (by decide)
      | simp only [MemOp.bytes, ne_eq, Width.bytes_ne_zero, NumTy.bytes_ne_zero, OfNat.ofNat_ne_zero, not_false_eq_true]

section
variable {i : Instr} {s : State} {ops : List Opnd} {o : MemOp} {c : Cap} {u : Strand} {p : Place}
  (hf : memoryForm s.me i = some (ops, o, c, u)) (hi : s.Issues ops) (hr : s.Reaches o c p)
include hf hr

/-- Nothing holds an access that reaches its line, once its entry stands in the queue; its tests of the line are written
out as the access makes them. -/
theorem reached_free : let s1 := s.enter i o c .flight u
    let w := s.whoAt s.here
    s1.whoAt s.here = w ∧ (s1.strand s.here).ctx = s.me.ctx ∧
      ((s.cluster w.clus).pendingOn s.me.ctx (p.pa / 128) ||
        (!(o == .prefetch || o == .flush || o == .invl) && (s.cluster w.clus).boardMem p.pa o.bytes o.writes) ||
        s1.wayBusy w.clus (p.pa / 128)) = false ∧
      s1.portOps s.me.ctx (p.pa / 128) = [] := by
  obtain ⟨hctx, hfunc, -, -⟩ := form_same hf
  obtain ⟨-, -, -, -, -, hpend, hboard, hport, hbusy⟩ := hr
  refine ⟨enter_who hctx hfunc, ?_, ?_, hport⟩
  · rw [← hctx]
    exact (enter_ctx s i o c u).1
  · have hb : (!o.controls && (s.cluster (s.whoAt s.here).clus).boardMem p.pa o.bytes o.writes) = false := by
      cases hc : o.controls with
      | true => rfl
      | false => exact hboard (form_bytes hf hc)
    rw [MemOp.controls] at hb
    rw [hb, Bool.or_false, Bool.or_eq_false_iff]
    exact ⟨hpend, hbusy⟩

/-- An access that reaches its place is made on its line, where nothing holds it (R56, R71). -/
theorem exec_of_lineAccess (hi : s.Issues ops) (hs : scopeOk s c o) {s2 : State}
    (h : ∀ s1, s1 = s.enter i o c .flight u → s1.whoAt s.here = s.whoAt s.here → (s1.strand s.here).ctx = s.me.ctx →
      s1.cluster = s.cluster → s1.portOps s.me.ctx (p.pa / 128) = [] →
      ((s.cluster (s.whoAt s.here).clus).pendingOn s.me.ctx (p.pa / 128) ||
        (!(o == .prefetch || o == .flush || o == .invl) &&
          (s.cluster (s.whoAt s.here).clus).boardMem p.pa o.bytes o.writes) ||
        s1.wayBusy (s.whoAt s.here).clus (p.pa / 128)) = false →
      lineAccess s1 s.here o c s.serial p = .done s2) : exec i s = .next s2.ran := by
  obtain ⟨hwho, hctx, hfree, hport⟩ := reached_free hf hr
  exact issue_line hf hi hr hs (h _ rfl hwho hctx rfl hport hfree)

end

/-- Settles O10: the access is made on its line, in the cluster cache or at home. -/
theorem loadsAndStoresReachTheirLine : Obligations.LoadsAndStoresReachTheirLine := by
  unfold Obligations.LoadsAndStoresReachTheirLine
  refine ⟨?_, ?_⟩
  · intro i s ops o c u p hf hi hr w s1 line off k (hp : p.remote (s.whoAt s.here).die = false)
    refine ⟨?_, ?_, ?_⟩
    · rintro z d rfl
      refine exec_of_lineAccess hf hr hi trivial fun m hm hwho hctx hclus hport hfree => ?_
      simp only [lineAccess, hwho, hctx, hclus, hport, hp, hfree]
      cases p.unc <;> cases (s.cluster (s.whoAt s.here).clus).caches <;>
        simp [hm, w, s1, MemOp.bytes, MemOp.sink, line, off]
    · rintro d rfl
      refine exec_of_lineAccess hf hr hi trivial fun m hm hwho hctx hclus hport hfree => ?_
      simp only [lineAccess, hwho, hctx, hclus, hport, hp, hfree]
      cases p.unc <;> cases (s.cluster (s.whoAt s.here).clus).caches <;>
        simp [hm, w, s1, MemOp.bytes, MemOp.sink, line, off]
    · rintro z d rfl
      refine exec_of_lineAccess hf hr hi trivial fun m hm hwho hctx hclus hport hfree => ?_
      simp only [lineAccess, hwho, hctx, hclus, hport, hp, hfree]
      simp [hm, w, s1, MemOp.bytes, MemOp.sink, line, off]
  · intro i s ops o c u p hf hi hr w s1 line off k stores (hp : p.remote (s.whoAt s.here).die = false)
    refine ⟨?_, ?_⟩
    · rintro z home rfl
      refine exec_of_lineAccess hf hr hi trivial fun m hm hwho hctx hclus hport hfree => ?_
      simp only [lineAccess, hwho, hctx, hclus, hport, hp, hfree, State.storeHome]
      cases home <;> cases p.unc <;> cases (s.cluster (s.whoAt s.here).clus).caches <;>
        simp [hm, w, s1, MemOp.bytes, line, off]
    · rintro rfl
      refine exec_of_lineAccess hf hr hi trivial fun m hm hwho hctx hclus hport hfree => ?_
      simp only [lineAccess, hwho, hctx, hclus, hport, hp, hfree, State.storeHome]
      cases p.unc <;> cases (s.cluster (s.whoAt s.here).clus).caches <;>
        simp [hm, w, s1, MemOp.bytes, line, off]

/-- Settles O11: the access is made on its line, and what it does there is its form's. -/
theorem lineControlAndRemoteAccesses : Obligations.LineControlAndRemoteAccesses := by
  unfold Obligations.LineControlAndRemoteAccesses
  refine ⟨?_, ?_⟩
  · intro i s ops o c u p hf hi hr w s1 line k does cached
    have hdirect : cached → p.remote (s.whoAt s.here).die = false ∧
        (p.unc || !(s.cluster (s.whoAt s.here).clus).caches) = false := fun ⟨hp, hu, hk⟩ => by simp [hp, hu, w, k, ← hk]
    have hdirect' : ¬cached →
        (p.remote (s.whoAt s.here).die || (p.unc || !(s.cluster (s.whoAt s.here).clus).caches)) = true := fun h => by
      simp only [cached, w, k] at h
      grind
    refine ⟨?_, ?_, ?_⟩
    · rintro rfl
      refine ⟨fun h hl => ?_, fun h => ?_⟩
      all_goals
        refine exec_of_lineAccess hf hr hi trivial fun m hm hwho hctx hclus hport hfree => ?_
        simp only [lineAccess, hwho, hctx, hclus, hfree]
      · obtain ⟨hp, hd⟩ := hdirect h
        simp only [k, line] at hl
        simp [hp, hd, hl, hm, w, s1, line]
      · rcases h with h | h
        · simp [hdirect' h, hm, s1]
        · simp only [w, k, line] at h
          simp [h, hm, s1]
    · rintro rfl
      refine ⟨fun h => ?_, fun h => ?_⟩
      all_goals
        refine exec_of_lineAccess hf hr hi trivial fun m hm hwho hctx hclus hport hfree => ?_
        simp only [lineAccess, hwho, hctx, hclus, hfree]
      · obtain ⟨hp, hd⟩ := hdirect h
        simp [hp, hd, hm, w, s1, line]
      · simp [hdirect' h, hm, s1]
    · rintro rfl
      refine ⟨fun h x hx ha => ?_, fun h => ?_⟩
      all_goals
        refine exec_of_lineAccess hf hr hi trivial fun m hm hwho hctx hclus hport hfree => ?_
        simp only [lineAccess, hwho, hctx, hclus, hfree]
      · obtain ⟨hp, hd⟩ := hdirect h
        simp only [k, line] at hx
        simp [hp, hd, hx, ha, hm, w, s1, line]
      · rcases h with h | h | ⟨x, h, ha⟩
        · simp [hdirect' h, hm, s1]
        · simp only [w, k, line] at h
          simp [h, hm, s1]
        · simp only [w, k, line] at h
          simp [h, ha, hm, s1]
  · intro i s ops o c u p hf hi hr w s1 line off hs s2
    refine ⟨?_, ?_⟩
    · rintro z d rfl
      refine exec_of_lineAccess hf hr hi hs fun m hm hwho hctx hclus hport hfree => ?_
      simp only [lineAccess, hwho, hctx, hclus, hport, hfree]
      simp [hm, s2, w, s1, MemOp.bytes, MemOp.sink, line, off]
    · rintro z ordered rfl
      refine exec_of_lineAccess hf hr hi hs fun m hm hwho hctx hclus hport hfree => ?_
      simp only [lineAccess, hwho, hctx, hclus, hport, hfree]
      simp [hm, s2, w, s1, MemOp.bytes, line, off, State.storeHome]
      rfl

/-- Settles O12: the access is made on its line, and `atomAt` takes it on by its range. -/
theorem atomicsGoWhereTheirRangeSays : Obligations.AtomicsGoWhereTheirRangeSays := by
  unfold Obligations.AtomicsGoWhereTheirRangeSays
  intro i s ops o c u p hf hi hr w s1 line off k goes returns posts
  refine ⟨fun op ty d ho => ?_, fun op ty ho => ?_, fun ty d ho => ?_, fun op ty d ho => ?_, fun op ty ho => ?_⟩
  all_goals
    subst ho
    refine exec_of_lineAccess hf hr hi trivial fun m hm hwho hctx hclus hport hfree => ?_
    simp only [lineAccess, hwho, hctx, hclus, hfree]
    simp [hm, State.atomAt, goes, w, s1, MemOp.sink, MemOp.request, line, off, k, and_assoc]

end Sys2Proof.Machine
end

section
/-! Accesses to a named tile (R37, R41 to R43, R71, R186; O13). -/

namespace Sys2Proof.Machine

/-- Loads, stores and atomics act at a tile; line control and remote operations make no access there. -/
def MemOp.atTile : MemOp → Bool
  | .load .. | .loadV _ | .store .. | .storeV | .amo .. | .cas .. | .famo .. => true
  | _ => false

/-- An atomic of integers sets no flags. -/
theorem AtomReq.apply_amo_flags (op : AtomOp) (ty : NumTy) (b c : Word) (r : Bool) (old : Nat) :
    (AtomReq.apply ⟨.amo op ty, b, c, r⟩ old).2 = 0 := rfl

/-- CAS writes its operand where the old value is the compare value, and sets no flags (R183). -/
theorem AtomReq.apply_cas (ty : NumTy) (b c : Word) (r : Bool) (old : Nat) : AtomReq.apply ⟨.cas ty, b, c, r⟩ old =
    (if old = c.toNat % 2 ^ ty.bits then b.toNat % 2 ^ ty.bits else old, 0) := rfl

section
variable {i : Instr} {s : State} {ops : List Opnd} {o : MemOp} {c : Cap} {u : Strand} {q : Nat}
  (hf : memoryForm s.me i = some (ops, o, c, u)) (hr : s.ReachesTile o c q)
include hf hr

/-- Where an access that reaches its tile is made, with its entry in the queue: the tests of the bank let it go to the byte
`q`. -/
theorem tile_reached (ho : o.atTile = true) : let s1 := s.enter i o c .flight u
    ∃ n off, access s1 s.here o c s.serial [] true = tileAccess s1 s.here o c s.serial n off ∧
      (s1.strand s.here).ctx = s.me.ctx ∧
      (s.cluster (coreClus (slotCore s.here))).tileAt s.me.ctx ((s1.strand s.here).nr n) off o.bytes o.writes = .at q ∧
      s1.sramBusy (coreClus (slotCore s.here)) q o.bytes = false ∧
      (o.readsTile && (s.cluster (coreClus (slotCore s.here))).badAt q o.bytes) = false := by
  obtain ⟨-, hal, ⟨n, off, hk, hat⟩, hbusy, hbad⟩ := hr
  obtain ⟨hctx, -, hn, -⟩ := form_same hf
  obtain ⟨hectx, -, hen, -, -⟩ := enter_ctx s i o c u
  have hal' : ¬(o.bytes ≠ 0 ∧ c.addr.toNat % o.bytes ≠ 0) := fun ⟨h0, h⟩ => h (hal h0)
  refine ⟨n, off, ?_, hectx.trans hctx, ?_, hbusy, hbad⟩
  · cases o <;> first | exact absurd ho Bool.false_ne_true | simp [access, hal', hk]
  · simpa only [Strand.nr, hen, hn] using hat

/-- An access that reaches its tile completes with what is done there (R71). -/
theorem exec_of_tileAccess (hi : s.Issues ops) (ho : o.atTile = true) {s2 : State}
    (h : ∀ s1 n off, s1 = s.enter i o c .flight u → (s1.strand s.here).ctx = s.me.ctx → s1.cluster = s.cluster →
      (s.cluster (coreClus (slotCore s.here))).tileAt s.me.ctx ((s1.strand s.here).nr n) off o.bytes o.writes = .at q →
      s1.sramBusy (coreClus (slotCore s.here)) q o.bytes = false →
      (o.readsTile && (s.cluster (coreClus (slotCore s.here))).badAt q o.bytes) = false →
      tileAccess s1 s.here o c s.serial n off = .done s2) : exec i s = .next s2.ran := by
  obtain ⟨n, off, hacc, hctx, hat, hbusy, hbad⟩ := tile_reached hf hr ho
  rw [form_exec hf hi]
  simp only [issueMem, hr.1, Bool.false_eq_true, if_false, form_cap hf, hacc, h _ n off rfl hctx rfl hat hbusy hbad]
  rfl

end

/-- Settles O13: the access is made at its byte of the bank, and what it does there is its form's. -/
theorem tileAccessesActAtTheBank : Obligations.TileAccessesActAtTheBank := by
  unfold Obligations.TileAccessesActAtTheBank
  intro i s ops o c u q hf hi hr n k s1 frees
  refine ⟨fun z d home ho => ?_, fun d ho => ?_, fun z home ho => ?_, fun ho => ?_, fun op ty ho => ?_, fun op ty d ho => ?_,
    fun ty d ho => ?_, fun op ty d ho => ?_, fun op ty ho => ?_⟩
  all_goals
    subst ho
    refine exec_of_tileAccess hf hr hi rfl fun m nb off hm hctx hclus hat hbusy hbad => ?_
    simp only [tileAccess, hctx, hclus, hat, hbusy, hbad, Bool.false_eq_true, if_false]
    simp [hm, s1, n, k, coreClus, MemOp.bytes, MemOp.sink, MemOp.request, AtomReq.apply_amo_flags, AtomReq.apply_cas,
      State.sinkFlags]

end Sys2Proof.Machine
end

section
/-! LDP and the increments (R57 to R59, R72, R178, R185, R271; O14). -/

namespace Sys2Proof.Machine

/-- A window depends on the argument line and the launch of its strand only. -/
theorem State.window_congr {s : State} {t u : Strand} (hp : u.p0 = t.p0) (hl : u.launch = t.launch) (k : BitVec 3) :
    s.window u k = s.window t k := by
  simp only [State.window, State.launchOf, hp, hl]

/-- The offset that LDP's ADDR names in its window is the one that the instruction gave (R271). -/
theorem ldpOffset_add (b : Nat) (o : Word) : ldpOffset b (BitVec.ofNat 64 b + o) = o.toNat := by
  simp [ldpOffset]

theorem pend_p0 (o : MemOp) (t : Strand) : (o.pend t).p0 = t.p0 := by
  unfold MemOp.pend
  split <;> simp only [Strand.pendDestX, Strand.pendDestV] <;> split <;> rfl

/-- The window of the strand is the same once its access stands in the queue. -/
theorem enter_window (s : State) (i : Instr) (o : MemOp) (c : Cap) (u : Strand) (k : BitVec 3) :
    (s.enter i o c .flight u).window ((s.enter i o c .flight u).strand s.here) k = s.window u k := by
  have hp : ((s.enter i o c .flight u).strand s.here).p0 = u.p0 := by
    rw [enter_strand, Strand.advance_p0, pend_p0]
  exact State.window_congr (s := s) hp (enter_ctx s i o c u).2.2.2.1 k

/-- Nothing holds an access to cells of which none waits for a fetch or for a copy in flight (R65, R72). -/
theorem blocks_eq_false {k : Cluster} {ctx : Nat} {spots : List (Nat × Place)} {write : Bool} {l : List (Nat × Nat)}
    (h : ∀ q ∈ l, ∀ p, spotOf spots q.1 = some p →
      k.pendingOn ctx (p.pa / 128) = false ∧ k.boardMem p.pa q.2 write = false) :
    k.blocks ctx spots write l = false := by
  simp only [Cluster.blocks, List.any_eq_false, Option.any_eq_true, not_exists, not_and, Bool.not_eq_true,
    Bool.or_eq_false_iff]
  exact h

/-- A stretch that ends in the page in which it begins lies in one page. -/
theorem pagesOf_single {a n : Nat} (h : (a + n - 1) / 16384 = a / 16384) : pagesOf [(a, n)] = [a / 16384] := by
  simp [pagesOf, h, List.eraseDups_cons]

/-- The translation of a page that the core's µTLB has for a strand without a walk (R324, R327). -/
theorem resolve_spot {s : State} {va : Nat} {p : Place} (hw : s.me.walk = none) (h : s.spot va true = some p) :
    ∃ spots, s.resolve s.me (slotCore s.here) [] true [va / 16384] = .ok spots ∧ spotOf spots va = some p := by
  simp only [State.spot] at h
  cases hx : xlatFind (s.core (slotCore s.here)).utlb s.me.func (va / 16384 * 16384) with
  | none => simp [hx] at h
  | some x =>
    rw [hx] at h
    cases hwr : x.w with
    | false => simp [hwr] at h
    | true =>
      refine ⟨[(va / 16384, s.placeBy (slotCore s.here) x (va / 16384 * 16384))], ?_, ?_⟩
      · have hn : xlatFind [] s.me.func (va / 16384 * 16384) = none := rfl
        simp [State.resolve, hn, State.lookup, hw, hx, hwr]
      · simpa [spotOf, hwr] using h

/-- A place in a range that is not compensated (R49, R58). -/
theorem spot_cmp {s : State} {va : Nat} {w : Bool} {p : Place} {g : BitVec 128} (h : s.spot va w = some p)
    (hg : (s.core (slotCore s.here)).region va = some g) (hcmp : rgnCmp g = false) : p.cmp = false := by
  simp only [State.spot] at h
  split at h
  · split at h
    · simp at h
    · simp only [State.placeBy, page_region, hg, Option.some.injEq] at h
      rw [← h]
      simpa [placeOf] using hcmp
  · simp at h

/-- FRED.ADD and VRED of an aligned address make their increment (R185). -/
theorem exec_fredAdd {s : State} {a b : Src} (hi : s.Issues [a.x, b.x]) (hal : (s.me.xr a.r).toNat % 4 = 0) :
    exec (.fredAdd a b) s =
      (incrementAt s s.me (s.me.xr a.r) 4 .f32 ((s.me.xr b.r).toNat % 2 ^ 32)).out s (.fredAdd a b) := by
  simp only [exec, execFredAdd, issued hi, hal, ne_eq, not_true, if_false]

theorem exec_vred {s : State} {ty : NumTy} {a b : Src} (hi : s.Issues [a.x, b.v]) (hal : (s.me.xr a.r).toNat % 64 = 0) :
    exec (.vred ty a b) s =
      (incrementAt s s.me (s.me.xr a.r) 64 (vredFmt ty) (s.me.vr b.r).toNat).out s (.vred ty a b) := by
  simp only [exec, execVred, issued hi, hal, ne_eq, not_true, if_false]

/-- An increment in a compensated range goes home in pairs, an element with its companion (R58, R185). -/
theorem incrementAt_pairs {s : State} {va : Word} {n v : Nat} {g : BitVec 128} {spots : List (Nat × Place)}
    (hw : s.me.walking = false) (hk : addrKind va = .virtual)
    (hg : (s.core (slotCore s.here)).region va.toNat = some g) (hacc : rgnAcc g = true) (hro : rgnRo g = false)
    (hcmp : rgnCmp g = true) (hdir : (spotOf spots va.toNat).all (s.incDirect (s.whoAt s.here) ·) = true)
    (hcomp : s.compOk (slotCore s.here) [(va.toNat + rgnCstr g, n)] = true)
    (hres : s.resolve s.me (slotCore s.here) [] true (pagesOf [(va.toNat, n), (va.toNat + rgnCstr g, n)]) = .ok spots)
    (hspot : (spotOf spots va.toNat).isSome = true)
    (hfree : (s.cluster (s.whoAt s.here).clus).blocks s.me.ctx spots true
      [(va.toNat, n), (va.toNat + rgnCstr g, n)] = false) :
    incrementAt s s.me va n .f32 v = .done (((List.range (n / 4)).foldl (fun s' j =>
      match spotOf spots (va.toNat + 4 * j), spotOf spots (va.toNat + 4 * j + rgnCstr g) with
      | some q, some r => s'.increment (s.whoAt s.here) q (va + BitVec.ofNat 64 (4 * j)) .f32c (v / 2 ^ (32 * j) % 2 ^ 32) r.pa
      | _, _ => s') s).setMe (s.me.advance 4)) := by
  obtain ⟨p, hp⟩ := Option.isSome_iff_exists.mp hspot
  have hd : s.incDirect (s.whoAt s.here) p = true := by simpa [hp] using hdir
  have hfree' : (s.cluster (coreClus (slotCore s.here))).blocks s.me.ctx spots true
      [(va.toNat, n), (va.toNat + rgnCstr g, n)] = false := hfree
  simp [incrementAt, hk, hg, hacc, hro, hw, hcmp, hcomp, hres, hp, hfree', hd] <;>
    rfl

/-- An increment in a range that is not compensated joins an A line of the cluster, or goes home at once (R57, R59,
R185). -/
theorem incrementAt_adds {s : State} {va : Word} {n v : Nat} {f : IncFmt} {g : BitVec 128} {p : Place}
    (hw : s.me.walking = false) (hwalk : s.me.walk = none) (hk : addrKind va = .virtual)
    (hspot : s.spot va.toNat true = some p) (hg : (s.core (slotCore s.here)).region va.toNat = some g)
    (hacc : rgnAcc g = true) (hro : rgnRo g = false) (hcmp : rgnCmp g = false)
    (hpend : (s.cluster (coreClus (slotCore s.here))).pendingOn s.me.ctx (p.pa / 128) = false)
    (hboard : (s.cluster (coreClus (slotCore s.here))).boardMem p.pa n true = false)
    (hbusy : s.wayBusy (coreClus (slotCore s.here)) (p.pa / 128) = false)
    (hone : (va.toNat + n - 1) / 16384 = va.toNat / 16384) :
    let w := s.whoAt s.here
    incrementAt s s.me va n f v = .done ((if p.remote w.die || p.unc || !(s.cluster w.clus).caches then
        (if p.remote w.die then s else s.evictLine w (p.pa / 128)).postNew w va (p.pa / 128)
          (.incr f (lineAt v (p.pa % 128)) (byteMask (p.pa % 128) n)) []
      else s.addLocal w p va (p.pa / 128) f (lineAt v (p.pa % 128)) (byteMask (p.pa % 128) n)).setMe (s.me.advance 4)) := by
  obtain ⟨spots, hres, hp⟩ := resolve_spot hwalk hspot
  have hfree : (s.cluster (coreClus (slotCore s.here))).blocks s.me.ctx spots true [(va.toNat, n)] = false := by
    refine blocks_eq_false fun q hq r hr => ?_
    obtain rfl : q = (va.toNat, n) := by simpa using hq
    obtain rfl : p = r := by simpa [hp] using hr
    exact ⟨hpend, hboard⟩
  have hplain : p.cmp = false := spot_cmp hspot hg hcmp
  intro w
  have hcompOk : s.compOk (slotCore s.here) [] = true := rfl
  simp [incrementAt, hk, hg, hacc, hro, hw, hcmp, hcompOk, pagesOf_single hone, hres, hp, hfree, hbusy, State.incDirect, hplain, w]

/-- An access that is made completes its instruction; `c'` is what it captures, with what it takes of its format context
(R71, R246 to R248). -/
theorem issueMem_done {s s2 : State} {i : Instr} {o : MemOp} {c c' : Cap} {u : Strand} (hw : s.me.walking = false)
    (hc : { c with acc := s.accCap s.here o c } = c')
    (h : access (s.enter i o c' .flight u) s.here o c' s.serial [] true = .done s2) : issueMem s i o c u = .done s2 := by
  simp only [issueMem, hw, hc, h, Bool.false_eq_true, if_false]

/-- An LDP whose cells are translated and free is gathered from them (R178). -/
theorem ldpAccess_done {s : State} {k e n a o : Nat} {z : Size} {d : RegNo} {pk : BitVec 3} {c : Cap} {got : List Xlat}
    {win : Nat × Nat} {spots : List (Nat × Place)} (hwin : s.window (s.strand k) pk = win) (ho : ldpOffset win.1 c.addr = o)
    (h0 : win.2 ≠ 0) (hn : n = min z.w.bytes (win.2 - o)) (ha : a = (win.1 + o) % 2 ^ 58)
    (hres : s.resolve (s.strand k) (slotCore k) got false (pagesOf (pieces a n)) = .ok spots)
    (hfree : ∀ q ∈ pieces a n, ∀ p, spotOf spots q.1 = some p →
      (s.cluster (coreClus (slotCore k))).pendingOn (s.strand k).ctx (p.pa / 128) = false ∧
        (s.cluster (coreClus (slotCore k))).boardMem p.pa q.2 false = false ∧
          s.wayBusy (coreClus (slotCore k)) (p.pa / 128) = false) :
    let g : Gather := ⟨e, (pieces a n).length, [], none, .x (s.strand k).ctx e d z (n < z.w.bytes)⟩
    ldpAccess s k z d pk c e got = .done ((pieces a n).foldl (fun (s' : State) (q : Nat × Nat) => match spotOf spots q.1 with
      | some p => s'.readCell (s.whoAt k) p (BitVec.ofNat 64 q.1) q.2 (s'.portOps (s.strand k).ctx (p.pa / 128))
          (.gather e (q.1 - a))
      | none => s') { s with gathers := s.gathers.put e g }).sweep := by
  have hblocks : (s.cluster (coreClus (slotCore k))).blocks (s.strand k).ctx spots false (pieces a n) = false :=
    blocks_eq_false fun q hq p hp => ⟨(hfree q hq p hp).1, (hfree q hq p hp).2.1⟩
  have hway : ((pieces a n).any fun q =>
      (spotOf spots q.1).any fun p => s.wayBusy (coreClus (slotCore k)) (p.pa / 128)) = false := by
    simp only [List.any_eq_false, Option.any_eq_true, not_exists, not_and, Bool.not_eq_true]
    exact fun q hq p hp => (hfree q hq p hp).2.2
  subst hn ha
  simp only [ldpAccess, hwin, ho, h0, hres, hblocks, hway, if_false, Bool.or_self, Bool.false_eq_true] <;>
    rfl

/-- Settles O14: LDP is gathered from its cells, and an increment goes to its line, to its home, or in pairs. -/
theorem windowLoadsAndIncrements : Obligations.WindowLoadsAndIncrements := by
  unfold Obligations.WindowLoadsAndIncrements
  refine ⟨?_, ?_, ?_, ?_⟩
  · intro z d k a off s spots o win c n at' cells s1 w cl hi hw hal hwin hres hfree g s2
    have hctx : (s1.strand s.here).ctx = s.me.ctx := (enter_ctx ..).1
    have hwho : s1.whoAt s.here = w := enter_who rfl rfl
    have hoff : ldpOffset win.1 c.addr = o.toNat := ldpOffset_add ..
    have hwindow : s1.window (s1.strand s.here) k = win := enter_window ..
    have hacc : access s1 s.here (.ldp z d k) c s.serial [] true = ldpAccess s1 s.here z d k c s.serial [] := by
      simp only [access, hwindow, hoff]
      rw [if_neg]
      simpa only [MemOp.bytes, ne_eq, not_not] using hal
    have hldp := ldpAccess_done (e := s.serial) (d := d) hwindow hoff hwin rfl rfl hres (by rw [hctx]; exact hfree)
    have hissue : exec (.ldp z d k a off) s = (issueMem s (.ldp z d k a off) (.ldp z d k) c s.me).out s (.ldp z d k a off) := by
      simp only [exec, execLdp, issued hi]
      rfl
    rw [hissue, issueMem_done (c' := c) hw rfl (hacc.trans hldp), hctx, hwho]
    rfl
  · intro s a b g spots va w hw hk hg hacc hro hcmp hdir pairs
    refine ⟨fun hi hal hcomp hres hspot hfree => ?_, fun hi hal hcomp hres hspot hfree => ?_⟩
    · rw [exec_fredAdd hi hal, incrementAt_pairs hw hk hg hacc hro hcmp hdir hcomp hres hspot hfree]
      rfl
    · rw [exec_vred hi hal, vredFmt, incrementAt_pairs hw hk hg hacc hro hcmp hdir hcomp hres hspot hfree]
      rfl
  · intro s w p va v comp h
    simp [State.increment, h]
  · intro s a b g p va w k line off hw hwalk hk hspot hg hacc hro hcmp hpend hbusy adds
    refine ⟨fun hi hal hboard => ?_, fun hi hal ty hboard => ?_⟩
    · rw [exec_fredAdd hi hal, incrementAt_adds hw hwalk hk hspot hg hacc hro hcmp hpend hboard hbusy (by omega)]
      rfl
    · rw [exec_vred hi hal, incrementAt_adds hw hwalk hk hspot hg hacc hro hcmp hpend hboard hbusy (by omega)]
      rfl

end Sys2Proof.Machine
end

section
/-! Fences, bank modes and frames (R39, R40, R79, R180, R187, R198 to R201; O15, O16). -/

namespace Sys2Proof.Machine

/-- An instruction completes with what its own part does, where the registers let it issue (R131). -/
theorem exec_done {s s2 : State} {ops : List Opnd} {i : Instr} {f : Strand → Res} (hi : s.Issues ops)
    (he : exec i s = issue i ops f s) (hf : f s.me = .done s2) : exec i s = .next s2.ran := by
  rw [he, issued hi, hf, out_done]

/-- Settles O15: each fence and each mode change by its own branch. -/
theorem fencesAndBankModes : Obligations.FencesAndBankModes := by
  unfold Obligations.FencesAndBankModes
  refine ⟨?_, ?_, ?_⟩
  · intro a off s d hi hd hw
    refine ⟨?_, fun he => ⟨?_, ?_⟩⟩
    · simp [exec, execFenceAcq, fence, issued hi, hd, hw]
    · simp [exec, execFenceRel, fence, issued hi, hd, hw, he]
    · simp [exec, execFenceFull, fence, issued hi, hd, hw, he]
  · intro bank m s n k b hi hlo hb hm hboard hcvt hf
    refine ⟨exec_done hi (show _ = execMode bank m s from rfl) ?_, fun h => if_pos h, fun h hc => (if_neg h).trans (if_neg hc)⟩
    have hheld : ¬(k.busyBank b || k.matNames b || k.boardScratch (16384 * b) 16384 true ||
        k.cvtOn s.me.ctx (16384 * b) 16384) = true := by simp [hb, hm, hboard, hcvt]
    have hfifo : ¬(k.mode b = .fifo ∧ m ≠ .fifo ∧ (k.fifos.get b .reset).busy = true) := by
      rintro ⟨h1, h2, h3⟩
      rcases hf h1 with h | h
      · exact h2 h
      · exact absurd h3 (by simp [h])
    exact (if_neg (Nat.not_le.mpr hlo)).trans ((if_neg hheld).trans (if_neg hfifo))
  · intro clus bank s c hc hd
    simp [exec, execModeComplete, hc, hd]

/-- JCTR allocates where a counter and room in the frame area are free (R198). -/
theorem allocFrame_done {s s' : State} {t : Strand} {d : RegNo} {size line : Nat} {c : BitVec 24}
    (hc : s.newCounter t.launch (coreClus (slotCore s.here)) = some c)
    (hroom : s.findRoom t.launch (coreClus (slotCore s.here)) size [] = some (false, line)) :
    let k := coreClus (slotCore s.here)
    let r : Rec := ⟨k, false, 128 * line⟩
    let name := fnMoved (c.zeroExtend 64 <<< 31) r
    ((s.setCtr t.launch c ⟨0, true, false, none, 0⟩).takeRoom t.launch k false line size []).writeFields t.launch r
      [⟨0, 8, 0⟩, ⟨8, 8, (linkWord t.jl).toNat⟩, ⟨16, 8, t.wid.toNat⟩, ⟨24, 8, recInfo t.prio t.cls 0 0 size⟩,
       ⟨32, 8, name.toNat⟩, ⟨40, 24, 0⟩] = some s' →
    s.allocFrame t d size = .done (s'.setMe ((t.setX d name).advance 4)) := by
  intro k r name hw
  simp only [State.allocFrame, hc, hroom]
  exact congrArg (fun o => match o with
    | some s' => Res.done (s'.setMe ((t.setX d name).advance 4))
    | none => Res.hold) hw

/-- JCTR frees a counter of the cluster that is 0 with nothing parked (R198). -/
theorem freeFrame_done {s : State} {t : Strand} {d : RegNo} {f : Word} (hname : s.nameOk t f = true)
    (hf : fnClus f = coreClus (slotCore s.here)) (hc : ctrClus (fnCtr f) = coreClus (slotCore s.here))
    (h0 : (s.ctr t.launch (fnCtr f)).value = 0) (hp : (s.ctr t.launch (fnCtr f)).parked = none) :
    let k := coreClus (slotCore s.here)
    let s1 := s.setCtr t.launch (fnCtr f) .none
    s.freeFrame t d f = .done (((s1.setClusterOf t.launch k
      ((s1.clusterOf t.launch k).giveLine (fnSpill f) (fnOff f / 128))).placeWaiting t.launch k).setMe
        ((t.setX d 0).advance 4)) := by
  simp [State.freeFrame, hname, hf, hc, h0, hp]

/-- A continuation header that is read without a wait is what PUBF publishes with (R197, R200). -/
theorem contHeader_ok {s s1 : State} {t : Strand} {v : Nat} {f : State → Word → Res} (h : headerAddr t.nextHeader = true)
    (hc : s.code t (slotCore s.here) t.nextHeader 8 = .ok s1 v) : s.contHeader t f = f s1 (BitVec.ofNat 64 v) := by
  simp [State.contHeader, h, hc]

/-- Settles O16: JCTR by its two parts, SPAWN, PUBT and PUBF by their own branches. -/
theorem framesAndContinuations : Obligations.FramesAndContinuations := by
  unfold Obligations.FramesAndContinuations
  refine ⟨?_, ?_, ?_, ?_⟩
  · intro d a s hi hw t k v
    have hw' : ¬s.me.walking = true := by simp [hw]
    refine ⟨?_, ?_⟩
    · intro c line s' h3 h19 hc hroom r name hwrite
      have hsign : ¬v.getLsbD 63 = true := by
        simp [BitVec.getLsbD, Nat.testBit_eq_decide_div_mod_eq]; omega
      refine exec_done hi (show _ = execJctr d a s from rfl) ?_
      exact (if_neg hw').trans ((if_neg hsign).trans ((if_pos ⟨h3, h19⟩).trans (allocFrame_done hc hroom hwrite)))
    · intro f j hv hname hf hc h0 hp s1
      refine exec_done hi (show _ = execJctr d a s from rfl) ?_
      exact (if_neg hw').trans ((if_pos hv).trans (freeFrame_done hname hf hc h0 hp))
  · intro a lit s chdr hi t f core co c h4 hname hreg hlen hw hrec j pub s1 s2
    refine exec_done hi (show _ = execSpawn a lit s from rfl) ?_
    have hroom : ¬(31 ≤ co.deque.length ∧ s.groupsOf t.launch ≤ co.groups) := fun h => by omega
    have hfree : ¬(decide (32 ≤ co.deque.length) || t.walking) = true := by
      simp [hw]; omega
    have hspill : ((s.core (slotCore s.here)).deque.length == 31) = false := beq_false_of_ne fun h => by
      simp only [co, core] at hlen
      omega
    refine (if_neg (by simpa [State.inServer] using h4)).trans ((if_neg (by simpa [f, t] using hname)).trans
      ((if_neg (by simp [hreg])).trans ((if_neg hroom).trans ((if_neg hfree).trans ?_))))
    simp only [t, f] at hrec
    simp only [hrec, hspill, Bool.or_false, setCtr_here]
    rfl
  · intro a s hi hv
    simp only [exec, execPubt, issued hi, Nat.not_le.mpr hv, if_false, out_done, State.after]
  · intro a s s1 s2 v info hi t f h hname hreg hclus hw hhdr hcode hinfo hgate hsize hwrite
    refine exec_done hi (show _ = execPubf a s from rfl) ?_
    have hclus' : ¬(recOf f).clus ≠ coreClus (slotCore s.here) := not_not.mpr hclus
    refine (if_neg (by simpa [f, t] using hname)).trans ((if_neg (by simp [hreg])).trans ((if_neg hclus').trans
      ((if_neg (by simp [t] at hw; simp [hw])).trans ((contHeader_ok hhdr hcode).trans ?_))))
    simp only [t, f, h] at hinfo hgate hsize hwrite
    simp only [hinfo, publishable, hgate, hwrite]
    exact if_neg (Nat.not_lt.mpr hsize)

end Sys2Proof.Machine
end

section
/-! Joins, barriers, messages, tasks and FIFO banks (R38, R191 to R193, R202, R203, R208 to R215; O18 to O20). -/

namespace Sys2Proof.Machine

section
variable {s : State} (hs : slotIdx s.here ≠ 4)
include hs

/-- A slot that is not the SERVER slot (R192). -/
theorem not_inServer : s.inServer = false := beq_false_of_ne hs

/-- RETIRE of a strand whose registers are full: in a handler its bound context's, elsewhere by its join link (R202). -/
theorem exec_retire (hi : s.Issues []) (hf : s.me.filled = true) (he : s.edgeReady s.me = true) :
    exec .retire s = .next (match s.me.bound, retireReach (coreClus (slotCore s.here)) s.me.jl with
      | some b, _ => s.boundRelease s.here b
      | none, some r => s.releaseThen s.here r .retire
      | none, none => (s.emit (s.whoAt s.here)).beginEdge s.here [] false .retire).ran := by
  simp only [exec, execRetire, issued hi, not_inServer hs, hf, he, Bool.false_eq_true, Bool.not_true, Bool.or_self, if_false]
  cases s.me.bound <;> cases retireReach (coreClus (slotCore s.here)) s.me.jl <;> rfl

end

/-- Settles O18: RETIRE by its join link, SYNC, BARI, BARQ and BAR by their own branches. -/
theorem joinsAndBarriersAreEdges : Obligations.JoinsAndBarriersAreEdges := by
  unfold Obligations.JoinsAndBarriersAreEdges
  refine ⟨⟨?_, ?_⟩, ?_, ?_, ?_⟩
  · intro s hi hs hf he k plain by'
    have hret := exec_retire hs hi hf he
    refine ⟨fun b hb => ?_, fun hb hj => ?_, fun hb hj => ?_, fun c hb hj => ⟨fun hc => ?_, fun hc => ?_⟩⟩
    · rw [hret, hb]
    · simp only [plain]
      rw [hret, hb, hj]
      rfl
    · simp only [by']
      rw [hret, hb, hj]
      rfl
    · simp only [plain]
      rw [hret, hb, hj, retireReach, if_pos (show ctrClus c = coreClus (slotCore s.here) from hc)]
    · simp only [by']
      rw [hret, hb, hj, retireReach, if_neg (show ctrClus c ≠ coreClus (slotCore s.here) from hc)]
      rfl
  · intro a s s1 v info hi t f c h hs hname hreg hf hw hhdr hcode hinfo hp hr hgate hsize
    refine exec_done hi (show _ = execSync a s from rfl) ?_
    have hw' : ¬(!s.me.filled || s.me.walking) = true := by simp only [t] at hf hw; simp [hf, hw]
    have hbusy : ¬((s1.ctr t.launch c).parked.isSome || (s1.ctr t.launch c).reserved) = true := by simp [hp, hr]
    refine (if_neg (by simp [not_inServer hs])).trans ((if_neg (by simpa [f, t] using hname)).trans
      ((if_neg (by simp [hreg])).trans ((if_neg hw').trans ((contHeader_ok hhdr hcode).trans ?_))))
    simp only [t, f, h] at hinfo hgate hsize
    simp only [hinfo]
    refine (if_neg hbusy).trans ?_
    simp only [publishable, hgate]
    exact if_neg (Nat.not_lt.mpr hsize)
  · intro a b s hi n v c x hok h0 hv s1 s2
    refine exec_done hi (show _ = execBari a b s from rfl) ?_
    exact (if_neg (by simpa [n] using hok)).trans (if_neg (by omega))
  · intro d a s hi hb hcore x
    simp only [exec, execBarq, issued hi, if_neg (Nat.not_le.mpr hb), hcore, ne_eq, not_true, if_false, out_done, x,
      State.after]
  · intro a s f chdr hi b hs hok hlp hrec hhdr hf he
    refine exec_done hi (show _ = execBar a s from rfl) ?_
    refine (if_neg (by simp [not_inServer hs])).trans ((if_neg (by simpa [b] using hok)).trans ?_)
    simp only [hlp, hrec]
    exact (if_neg (not_not.mpr hhdr)).trans (if_neg (by simp [hf, he]))

/-- A core name's low bits (R190). -/
theorem nameCore_eq (v : Word) : nameCore v = v.toNat % 2 ^ 16 := by
  simp [nameCore, bits]

/-- The second word of a message names its sender, with a mark where it is a vector message (R291). -/
theorem senderWord_eq (core : Nat) :
    senderWord core false = BitVec.ofNat 64 core ∧ senderWord core true = BitVec.ofNat 64 (core + 2 ^ 16) := by
  simp [senderWord, bitsOf]

/-- A message to a core that the strand may reach is sent after its release (R12, R77, R211). -/
theorem exec_message {i : Instr} {a : Src} {src : Opnd} {type : BitVec 8} {words : Strand → List Word}
    {payload : Strand → Vec} {s : State} {target : Nat} (he : exec i s = message i a src type words payload s)
    (hi : s.Issues [a.x, src]) (ht : nameCore (s.me.xr a.r) = target) (hc : s.coreOk s.me (s.me.xr a.r) = true)
    (hr : s.edgeReady s.me = true) (hp : s.pathRoom s.me.launch target = true) :
    exec i s = .next (s.releaseThen s.here (distance (coreClus (slotCore s.here)) (coreClus target))
      (.send { type := type, sender := slotCore s.here, target := target, wid := s.me.wid, words := words s.me,
               payload := payload s.me, hdr := 0, prio := 0, launch := s.me.launch, frame := none, saved := none,
               reply := none, origin := s.me.ctx, order := 0 } 0 0 0)).ran := by
  rw [he, message, issued hi]
  simp [hc, hr, ht, hp]

/-- A request to a core that the strand may reach is sent after its release (R77, R191). -/
theorem exec_delegate {i : Instr} {d : Option RegNo} {a b : Src} {s : State} {target : Nat}
    (he : exec i s = delegate i d a b s)
    (hi : s.Issues (a.x :: b.x :: (requestRegs.map fun r => .xs r false) ++ d.elim [] fun d => [.xd d]))
    (ht : nameCore (s.me.xr a.r) = target) (hc : s.coreOk s.me (s.me.xr a.r) = true) (hr : s.edgeReady s.me = true)
    (hp : s.pathRoom s.me.launch target = true)
    (hself : d.isSome = true → slotIdx s.here ≠ 4 ∨ target ≠ slotCore s.here) :
    exec i s = .next ((d.elim s fun d => s.setMe (s.me.pendDestX d)).releaseThen s.here (distance (coreClus (slotCore s.here)) (coreClus target))
      (.send { type := 4, sender := slotCore s.here, target := target, wid := s.me.wid,
               words := requestRegs.map fun r => s.me.xr r, payload := 0, hdr := s.me.xr b.r, prio := 0,
               launch := s.me.launch, frame := none, saved := none,
               reply := d.map fun d => (s.me.ctx, d, slotCore s.here), origin := s.me.ctx, order := 0 }
        (wordOf i) (s.me.xr a.r) (s.me.xr b.r))).ran := by
  have hself' : ¬(d.isSome && decide (slotIdx s.here = 4) && decide (target = slotCore s.here)) = true := by
    simp only [Bool.and_eq_true, decide_eq_true_eq, not_and]
    rintro ⟨hd, h4⟩ heq
    rcases hself hd with h | h
    · exact h h4
    · exact h heq
  rw [he]
  cases d <;>
    (simp only [delegate, Option.elim] at hi ⊢
     rw [issued hi]
     simp only [ht, hc, hr, hp, Bool.not_true, Bool.false_eq_true, if_false, Bool.or_self, if_neg hself']
     rfl)

/-- Settles O19. -/
theorem messagesAndTasksAreReleased : Obligations.MessagesAndTasksAreReleased := by
  unfold Obligations.MessagesAndTasksAreReleased
  refine ⟨⟨?_, ?_, ?_⟩, ?_, ?_, ?_⟩
  · intro a payload type s t core target m hc hr hp
    obtain ⟨hplain, hvec⟩ := senderWord_eq core
    refine ⟨fun hi => ?_, fun hi => ?_⟩
    · have hmsg := exec_message (show exec (.msg a payload type) s = execMsg a payload type s from rfl) hi (nameCore_eq _) hc hr hp
      rw [hmsg, hplain]
      rfl
    · have hmsg := exec_message (show exec (.msgv a payload type) s = execMsgv a payload type s from rfl) hi (nameCore_eq _) hc hr hp
      rw [hmsg, hvec]
      rfl
  · intro d a b s t core target regs m hc hr hp
    refine ⟨fun hself hi => ?_, fun hi => ?_⟩
    · have hops : s.Issues (a.x :: b.x :: (requestRegs.map fun r => .xs r false) ++ (some d).elim [] fun d => [.xd d]) := hi
      have hdlg := exec_delegate (show exec (.dlg d a b) s = delegate (.dlg d a b) (some d) a b s from rfl) hops (nameCore_eq _) hc hr hp
        fun _ => hself
      rw [hdlg]
      rfl
    · have hops : s.Issues (a.x :: b.x :: (requestRegs.map fun r => .xs r false) ++ (none : Option RegNo).elim [] fun d => [.xd d]) := hi
      have hdlg := exec_delegate (show exec (.dlgn a b) s = delegate (.dlgn a b) none a b s from rfl) hops (nameCore_eq _) hc hr hp
        fun h => absurd h Bool.false_ne_true
      rw [hdlg]
      rfl
  · intro b s ctx d core hi h4 hf hr hc
    have hfree : ¬(!s.me.filled || !s.edgeReady s.me) = true := by simp [hf, hr]
    simp only [exec, execDret, issued hi, if_neg (not_not.mpr h4), if_neg hfree, hc]
    rfl
  · intro a b s hi ht hr
    refine exec_done hi (show _ = execTenq a b s from rfl) ?_
    exact (if_neg (by simpa [taskOf] using ht)).trans (if_neg (by simp [hr]))
  · intro d a b s x hi r va core p ht hx hxw hr
    refine exec_done hi (show _ = execTrec d a b s from rfl) ?_
    refine (if_neg (by simpa [taskOf] using ht)).trans ?_
    have hx' : s.lookup s.me (slotCore s.here)
        (s.depCounter s.me (taskOf (s.me.xr a.r) (s.me.xr b.r)) &&& 0x03FFFFFFFFFFFFFF).toNat = some x := hx
    simp only [hx', hxw, hr, Bool.not_true, Bool.false_eq_true, if_false]
    rfl
  · intro a b s p hi pkg c w hlt hne hg hreach hp hu hk
    have hline := access_line (i := .donate a b) (u := s.me) rfl hreach trivial trivial
    obtain ⟨hw, -, hal, -, -, hpend, hboard, hport, hbusy⟩ := hreach
    have hwho : (s.enter (.donate a b) .donate c .flight s.me).whoAt s.here = w := enter_who rfl rfl
    have hctx : ((s.enter (.donate a b) .donate c .flight s.me).strand s.here).ctx = s.me.ctx := (enter_ctx ..).1
    have hbad : ¬(8 ≤ pkg.toNat || pkg.toNat == s.pkg.toNat || !s.inGroup pkg.toNat) = true := by
      simp [hg, hne]; omega
    refine exec_done hi (show _ = execDonate a b s from rfl) ?_
    refine (if_neg (not_not.mpr (hal (by decide)))).trans ((if_neg hbad).trans (issueMem_done (c' := c) hw rfl (hline.trans ?_)))
    have hboard' : (s.cluster w.clus).boardMem p.pa MemOp.donate.bytes MemOp.donate.writes = false := hboard (by decide)
    have hfree : ¬((s.cluster w.clus).pendingOn s.me.ctx (p.pa / 128) ||
        !(MemOp.donate == .prefetch || MemOp.donate == .flush || MemOp.donate == .invl) &&
          (s.cluster w.clus).boardMem p.pa MemOp.donate.bytes MemOp.donate.writes ||
        s.wayBusy w.clus (p.pa / 128)) = true := by
      rw [hboard', Bool.and_false, Bool.or_false, Bool.or_eq_true, not_or, Bool.not_eq_true, Bool.not_eq_true]
      exact ⟨hpend, hbusy⟩
    have hcached : ¬(p.unc || !(s.cluster w.clus).caches || !(s.portOps s.me.ctx (p.pa / 128)).isEmpty) = true := by
      simp [hu, hk, hport]
    simp only [lineAccess, hwho, hctx, hp, Bool.and_false]
    exact (if_neg Bool.false_ne_true).trans ((if_neg hfree).trans (if_neg hcached))

/-- Settles O20. -/
theorem fifoBanksMoveHalves : Obligations.FifoBanksMoveHalves := by
  unfold Obligations.FifoBanksMoveHalves
  refine ⟨?_, ?_⟩
  · intro bank b s hi n k f leaves hb hm hr
    have hfree : ¬(k.busyBank bank.toNat || s.sramBusy n (16384 * bank.toNat) 16384) = true := by simp [hb, hr]
    refine ⟨fun hl hlen => ?_, fun low hl => ?_⟩
    all_goals
      refine exec_done hi (show _ = execFpush bank b s from rfl) ?_
      refine (if_neg hfree).trans ((if_neg (not_not.mpr hm)).trans ?_)
      simp only [f, k, n] at hl
      simp only [coreClus, hl]
    · exact if_neg (by simp only [f, k, n] at hlen; omega)
    · rfl
  · intro d bank s e r hi n k f leaves hb hm hr he h0
    have hfree : ¬(k.busyBank bank.toNat || s.sramBusy n (16384 * bank.toNat) 16384) = true := by simp [hb, hr]
    refine ⟨fun hp => ?_, fun hp => ?_⟩
    all_goals
      refine exec_done hi (show _ = execFpop d bank s from rfl) ?_
      refine (if_neg hfree).trans ((if_neg (not_not.mpr hm)).trans ?_)
      simp only [f, k, n] at hp he h0
      simp only [coreClus, he, hp, f, k, n]
      exact if_neg (not_not.mpr h0)

end Sys2Proof.Machine
end

section
/-! Instructions of the matrix unit (R233 to R238, R242, R243, R246 to R249; O21). -/

namespace Sys2Proof.Machine

/-- No copy in flight holds a line of a footprint of which none of the stretches meets one (R65). -/
theorem matBoard_eq_false {k : Cluster} {spots : List (Nat × Place)} {l : List (Nat × Nat)}
    (h : ∀ q ∈ l, ∀ p, spotOf spots q.1 = some p → k.boardMem p.pa q.2 true = false) :
    (l.any fun q => match spotOf spots q.1 with
      | some p => k.boardMem p.pa q.2 true
      | none => false) = false := by
  simp only [List.any_eq_false, Bool.not_eq_true]
  intro q hq
  cases hp : spotOf spots q.1 with
  | none => rfl
  | some p => exact h q hq p hp

/-- MMA and MMAT that pass the checks of R238 queue their request. -/
theorem mmaIssue_done {i : Instr} {tags : Bool} {fa fb : BitVec 5} {a b : Src} {s : State} {spots : List (Nat × Place)}
    (he : exec i s = mmaIssue i tags fa fb a b s) (hi : s.Issues [a.x, b.x]) :
    let t := s.me
    let core := slotCore s.here
    let m := s.mat core
    let k := s.cluster (coreClus core)
    let va := t.xr a.r
    let dims := t.xr b.r
    let rows := (footprint m va dims).flatMap fun r => pageParts r.1 r.2
    let regions := s.regionsOf core (pagesOf rows)
    let comp := if m.cf < 2 then s.companions core rows else []
    va.toNat % m.esize = 0 → m.setter = some (slotIdx s.here, t.ctx) → dimsOk dims (matDepth m.af) true tags = true →
    (∀ n ∈ m.banks fa.toNat fb.toNat tags, k.mode n = .fifo ∧ k.busyBank n = false) →
    (tags = true → m.syn = .native ∧ m.bsf = 0 ∧ bindSize m.bind ≠ 0) → addrKind va = .virtual →
    accOk regions = true → (m.cf = 1 → allCmp regions = true) → s.compOk core comp = true → anyRo regions = false →
    t.walking = false → m.reqs.length < 4 → (s.core core).restoring = false →
    s.resolve t core [] true (pagesOf (rows ++ comp)) = .ok spots →
    (∀ q ∈ rows ++ comp, ∀ p, spotOf spots q.1 = some p → k.boardMem p.pa q.2 true = false) →
    exec i s = .next ((s.setMat core { m with
      reqs := m.reqs ++ [⟨tags, va, dims, fa.toNat, fb.toNat, t.ctx, spots⟩] }).setMe (t.advance 4)).ran := by
  intro t core m k va dims rows regions comp hal hset hdims hbanks htags hk hacc hcmp hcomp hro hw hlen hrest hres hfree
  refine exec_done hi he ?_
  have hfifo : ¬((m.banks fa.toNat fb.toNat tags).any fun n => k.mode n != .fifo && !k.busyBank n) = true := by
    simp only [List.any_eq_true, not_exists, not_and]
    intro n hn
    simp [(hbanks n hn).1]
  have hbusy : (m.banks fa.toNat fb.toNat tags).any k.busyBank = false := by
    simp only [List.any_eq_false]
    intro n hn
    simp [(hbanks n hn).2]
  have hformat : ¬(tags && (m.syn != .native || m.bsf != 0 || bindSize m.bind == 0)) = true := by
    cases tags with
    | false => simp
    | true =>
      obtain ⟨h1, h2, h3⟩ := htags rfl
      simp [h1, h2, h3]
  have hset' : ¬(!m.setBy (slotIdx s.here) t.ctx) = true := by simp [MatCtx.setBy, hset]
  have hrgn : ¬((match addrKind va with
      | .tile _ _ => true
      | _ => false) || addrKind va == .badForm || !accOk regions) = true := by simp [hk, hacc]
  have hcmp' : ¬((m.cf == 1 && !allCmp regions) || !s.compOk core comp) = true := by
    by_cases h1 : m.cf = 1 <;> simp [h1, hcomp, hcmp]
  have hheld : ¬(t.walking || decide (4 ≤ m.reqs.length) || (s.core core).restoring ||
      (m.banks fa.toNat fb.toNat tags).any k.busyBank) = true := by
    simp [hw, hrest, hbusy, hlen]
  refine (if_neg (not_not.mpr hal)).trans ((if_neg hset').trans ((if_neg (ne_true_of_eq_false (congrArg not hdims))).trans ((if_neg hfifo).trans
    ((if_neg hformat).trans ((if_neg hrgn).trans ((if_neg hcmp').trans ((if_neg (ne_true_of_eq_false hro)).trans
    ((if_neg hheld).trans ?_))))))))
  simp only [t, core, rows, comp, m, va, dims] at hres
  simp only [hres]
  exact if_neg (ne_true_of_eq_false (matBoard_eq_false hfree))

/-- The checks of ACCZ, ACCRD and ACCCVT that come before translation let the setter's access go on, once the buffered sums
are emitted (R238, R243). -/
theorem accChecks_done {s : State} {k : Nat} {o : MemOp} {c : Cap} {f : State → AccRes} {es : Nat}
    (hes : es = match (generalizing := false) o with
      | .acccvt src _ _ _ => AccTy.bytes src
      | _ => ({ s.mat (slotCore k) with descA := c.acc.desc } : MatCtx).esize)
    (hal : c.addr.toNat % es = 0)
    (hout : (match (generalizing := false) o with
      | .acccvt _ dst _ _ => c.opb.toNat % (if dst.bits = 6 then 4 else 2 * dst.bits) != 0
      | _ => false) = false)
    (hset : (s.mat (slotCore k)).setter = some (slotIdx k, (s.strand k).ctx))
    (hdims : o = .accz → dimsOk c.opb 0 false true = true) (hk : addrKind c.addr = .virtual)
    (hidle : s.matIdle (slotCore k) = true) (hfree : s.emitFree (slotCore k) = true)
    (hrest : (s.core (slotCore k)).restoring = false) :
    accChecks s k o c true f = f (s.emit (s.whoAt k)) := by
  have hdims' : ¬(o == .accz && !dimsOk c.opb 0 false true) = true := by
    by_cases h : o = .accz
    · simp [hdims h]
    · simp [h]
  have hset' : ¬(true && !({ s.mat (slotCore k) with descA := c.acc.desc } : MatCtx).setBy (slotIdx k) (s.strand k).ctx) = true := by
    simp [MatCtx.setBy, hset]
  have hheld : ¬(true && (!s.matIdle (slotCore k) || !s.emitFree (slotCore k) || (s.core (slotCore k)).restoring)) = true := by
    simp [hidle, hfree, hrest]
  subst hes
  refine (if_neg (not_not.mpr hal)).trans ((if_neg (ne_true_of_eq_false hout)).trans ((if_neg hset').trans
    ((if_neg hdims').trans ((if_neg (by simp [hk])).trans ((if_neg (by simp [hk])).trans ((if_neg hheld).trans ?_))))))
  rfl

section
variable {s : State} {k e : Nat} {c : Cap} {got : List Xlat} {spots : List (Nat × Place)}

/-- ACCZ writes zeros to its footprint and the companions, at the homes of their lines (R246). -/
theorem acczAccess_done {rows : List (Nat × Nat)}
    (hrows : rows = (footprint { s.mat (slotCore k) with descA := c.acc.desc } c.addr c.opb).flatMap fun r => pageParts r.1 r.2)
    (hacc : accOk (s.regionsOf (slotCore k) (pagesOf rows)) = true)
    (hro : anyRo (s.regionsOf (slotCore k) (pagesOf rows)) = false)
    (hcomp : s.compOk (slotCore k) (s.companions (slotCore k) rows) = true)
    (hres : s.resolve (s.strand k) (slotCore k) got true (pagesOf (rows ++ s.companions (slotCore k) rows)) = .ok spots)
    (hfree : ∀ q ∈ (rows ++ s.companions (slotCore k) rows).flatMap fun r => pieces r.1 r.2, ∀ p, spotOf spots q.1 = some p →
      (s.cluster (coreClus (slotCore k))).pendingOn (s.strand k).ctx (p.pa / 128) = false ∧
        (s.cluster (coreClus (slotCore k))).boardMem p.pa q.2 true = false) :
    acczAccess s k c e got = .done ((((rows ++ s.companions (slotCore k) rows).flatMap fun r => pieces r.1 r.2).foldl
      (fun (s' : State) (q : Nat × Nat) => match spotOf spots q.1 with
        | some p => s'.storeHome (s.whoAt k) p (BitVec.ofNat 64 q.1) 0 q.2 []
        | none => s') s).freeAt k e) := by
  subst hrows
  simp only [acczAccess, hacc, hro, hcomp, hres, blocks_eq_false hfree, Bool.not_true, Bool.false_eq_true, if_false] <;>
    rfl

/-- ACCRD reads its element, and its companion in a compensated format (R247). -/
theorem accrdAccess_done {d : RegNo} {m : MatCtx} {cells : List (Nat × Nat)}
    (hm : m = { s.mat (slotCore k) with descA := c.acc.desc })
    (hcells : cells = if m.cf == 1 then (c.addr.toNat, 4) :: s.companions (slotCore k) [(c.addr.toNat, 4)]
      else [(c.addr.toNat, m.esize)])
    (hpair : (m.cf == 1) = true → s.companions (slotCore k) [(c.addr.toNat, 4)] ≠ [] ∧
      s.compOk (slotCore k) (s.companions (slotCore k) [(c.addr.toNat, 4)]) = true)
    (hres : s.resolve (s.strand k) (slotCore k) got false (pagesOf cells) = .ok spots)
    (hfree : ∀ q ∈ cells, ∀ p, spotOf spots q.1 = some p →
      (s.cluster (coreClus (slotCore k))).pendingOn (s.strand k).ctx (p.pa / 128) = false ∧
        (s.cluster (coreClus (slotCore k))).boardMem p.pa q.2 false = false) :
    let fin : GatherEnd := if m.cf == 1 then .accrd (s.strand k).ctx e d
      else .x (s.strand k).ctx e d (if m.cf = 3 then ⟨.w64, true⟩ else ⟨.w32, m.cf == 2⟩) false
    accrdAccess s k d c e got = .done (cells.zipIdx.foldl (fun (s' : State) (q : (Nat × Nat) × Nat) => match spotOf spots q.1.1 with
      | some p => s'.readHome (s.whoAt k) p (BitVec.ofNat 64 q.1.1) q.1.2 (.gather e q.2)
      | none => s') { s with gathers := s.gathers.put e ⟨e, cells.length, [], none, fin⟩ }) := by
  intro fin
  have hpair' : ¬(m.cf == 1 && ((s.companions (slotCore k) [(c.addr.toNat, 4)]).isEmpty ||
      !s.compOk (slotCore k) (s.companions (slotCore k) [(c.addr.toNat, 4)]))) = true := by
    cases hc : m.cf == 1 with
    | false => simp
    | true =>
      obtain ⟨hne, hok⟩ := hpair hc
      simp [hne, hok]
  subst hm
  refine (if_neg hpair').trans ?_
  simp only [← hcells, hres, blocks_eq_false hfree, Bool.false_eq_true, if_false]
  rfl

/-- ACCCVT into memory gathers its 16 elements, and takes the writes of its result (R248). -/
theorem cvtAccess_done {src : AccTy} {dst : Elem} {sat : Bool} {ws : List (Nat × Place)} {elems comps parts : List (Nat × Nat)}
    {writes : List Nat} (hk : addrKind c.opb = .virtual)
    (helems : elems = (List.range 16).map fun i => (c.addr.toNat + AccTy.bytes src * i, AccTy.bytes src))
    (hcomps : comps = if src == .f32 then s.companions (slotCore k) elems else [])
    (hparts : parts = pieces c.opb.toNat (2 * dst.bits))
    (hwrites : writes = (List.range parts.length).map fun i => s.serial + i)
    (hro : anyRo (s.regionsOf (slotCore k) (pagesOf [(c.opb.toNat, 2 * dst.bits)])) = false)
    (hcomp : s.compOk (slotCore k) comps = true)
    (hres : s.resolve (s.strand k) (slotCore k) got false (pagesOf (elems ++ comps)) = .ok spots)
    (hws : s.resolve (s.strand k) (slotCore k) got true (pagesOf [(c.opb.toNat, 2 * dst.bits)]) = .ok ws)
    (hown : ∀ q ∈ ws, q.2.remote (coreDie (slotCore k)) = false)
    (hfree : ∀ q ∈ elems ++ comps, ∀ p, spotOf spots q.1 = some p →
      (s.cluster (coreClus (slotCore k))).pendingOn (s.strand k).ctx (p.pa / 128) = false ∧
        (s.cluster (coreClus (slotCore k))).boardMem p.pa q.2 false = false)
    (hfreew : ∀ q ∈ parts, ∀ p, spotOf ws q.1 = some p →
      (s.cluster (coreClus (slotCore k))).pendingOn (s.strand k).ctx (p.pa / 128) = false ∧
        (s.cluster (coreClus (slotCore k))).boardMem p.pa q.2 true = false) :
    let cells := (elems.zipIdx.map fun q => (q.1, 2 * q.2)) ++ elems.zipIdx.filterMap fun q =>
      (s.companions (slotCore k) (if comps.isEmpty then [] else [q.1])).head?.map fun r => (r, 2 * q.2 + 1)
    let fin : GatherEnd := .acccvt (s.strand k).ctx (slotCore k) src dst sat c.acc.mode c.opb none ws writes
    let s2 := s.cvtPending (s.whoAt k) (slotCore k) e (2 * dst.bits) c.opb
      (parts.filterMap fun q => (spotOf ws q.1).map fun p => p.pa / 128) none writes
    cvtAccess s k src dst sat c e got = .done (cells.foldl (fun (s' : State) (q : (Nat × Nat) × Nat) =>
      match spotOf spots q.1.1 with
      | some p => s'.readHome (s.whoAt k) p (BitVec.ofNat 64 q.1.1) q.1.2 (.gather e q.2)
      | none => s') { s2 with gathers := s2.gathers.put e ⟨e, cells.length, [], none, fin⟩ }) := by
  intro cells fin s2
  have hown' : (ws.find? fun q => q.2.remote (coreDie (slotCore k))) = none := by
    simp only [List.find?_eq_none, Bool.not_eq_true]
    exact hown
  subst hwrites hparts
  simp only [cvtAccess, hk]
  simp only [← helems, ← hcomps, hro, hcomp, hres, hws, Option.isSome_none, Bool.false_eq_true, if_false, hown',
    blocks_eq_false hfree, blocks_eq_false hfreew]
  rfl

end

/-- Settles O21: each instruction passes its checks, and its access is made after the emission. -/
theorem matrixInstructionsAct : Obligations.MatrixInstructionsAct := by
  unfold Obligations.MatrixInstructionsAct
  refine ⟨⟨?_, ?_⟩, ?_, ?_⟩
  · intro a b s hi core d s1 h29 hok hidle hfree hrest
    refine exec_done hi (show _ = execMfmt a b s from rfl) ?_
    have hheld : ¬(!s.matIdle core || !s.emitFree core || (s.core core).restoring) = true := by simp [hidle, hfree, hrest]
    exact (if_neg (not_not.mpr h29)).trans ((if_neg (ne_true_of_eq_false (congrArg not hok))).trans (if_neg hheld))
  · intro d a s hi core v ctr unit idx hok hidle
    refine exec_done hi (show _ = execMstat d a s from rfl) ?_
    have hheld : ¬(decide (unit = 0) && !s.matIdle core) = true := by
      by_cases h : unit = 0 <;> simp [h, hidle]
    exact (if_neg (ne_true_of_eq_false (congrArg not hok))).trans (if_neg hheld)
  · intro tags fa fb a b s spots hi
    cases tags
    · exact mmaIssue_done (show exec (.mma fa fb a b) s = mmaIssue (.mma fa fb a b) false fa fb a b s from rfl) hi
    · exact mmaIssue_done (show exec (.mmat fa fb a b) s = mmaIssue (.mmat fa fb a b) true fa fb a b s from rfl) hi
  · intro a b s spots core k t va hw hset hk hidle hfree hrest
    refine ⟨?_, fun d => ?_, fun src dst sat rnd ws => ?_⟩
    · intro i c s1 rows regions comp ps cl hi hal hdims hacc hro hcomp hres hfr
      refine exec_done hi (show _ = execAccz a b s from rfl) (issueMem_done (c' := c) hw rfl ?_)
      have hwho : (s.enter i .accz c .flight t).whoAt k = s.whoAt k := enter_who rfl rfl
      have hctx : ((s.enter i .accz c .flight t).strand k).ctx = t.ctx := (enter_ctx ..).1
      have hchk := accChecks_done (s := s.enter i .accz c .flight t) (k := k) (o := .accz) (c := c) (es := (s.mat core).esize)
        (f := fun s' => acczAccess s' k c s.serial []) rfl hal rfl (by rw [hctx]; exact hset) (fun _ => hdims) hk hidle hfree hrest
      rw [hwho] at hchk
      exact hchk.trans (acczAccess_done rfl hacc hro hcomp hres hfr)
    · intro i c s1 m pair comp cells cl hi hal hpair hres hfr fin s2
      refine exec_done hi (show _ = execAccrd d a s from rfl) (issueMem_done (c' := c) hw rfl ?_)
      have hwho : (s.enter i (.accrd d) c .flight t).whoAt k = s.whoAt k := enter_who rfl rfl
      have hctx : ((s.enter i (.accrd d) c .flight t).strand k).ctx = t.ctx := (enter_ctx ..).1
      have hchk := accChecks_done (s := s.enter i (.accrd d) c .flight t) (k := k) (o := .accrd d) (c := c)
        (es := (s.mat core).esize) (f := fun s' => accrdAccess s' k d c s.serial []) rfl hal rfl (by rw [hctx]; exact hset)
        (fun h => by cases h) hk hidle hfree hrest
      rw [hwho] at hchk
      have hacc := accrdAccess_done (s := s1) (k := k) (e := s.serial) (c := c) (d := d)
        (m := { s1.mat (slotCore k) with descA := (s.mat core).descA }) (cells := cells) rfl rfl hpair hres hfr
      exact hchk.trans hacc
    · intro i out mode c s1 n sb elems comps parts writes cl hi hal hout hko hro hcomp hres hws hown hfr hfrw cells fin s2 s3
      have hcap : ∀ c0 : Cap, c0.opb = out → s.accCap s.here (.acccvt src dst sat rnd) c0 =
          { desc := (s.mat core).descA, mode := mode } := by
        intro c0 h0
        simp only [State.accCap, h0, hko]
        rfl
      refine exec_done hi (show _ = execAcccvt src dst sat rnd a b s from rfl) (issueMem_done (c' := c) hw (by rw [hcap _ rfl]) ?_)
      have hwho : (s.enter i (.acccvt src dst sat rnd) c .flight t).whoAt k = s.whoAt k := enter_who rfl rfl
      have hctx : ((s.enter i (.acccvt src dst sat rnd) c .flight t).strand k).ctx = t.ctx := (enter_ctx ..).1
      have halign : (c.opb.toNat % (if dst.bits = 6 then 4 else 2 * dst.bits) != 0) = false := by
        simpa [c, out, n] using hout
      have hchk := accChecks_done (s := s.enter i (.acccvt src dst sat rnd) c .flight t) (k := k) (o := .acccvt src dst sat rnd)
        (c := c) (es := AccTy.bytes src) (f := fun s' => cvtAccess s' k src dst sat c s.serial []) rfl hal halign
        (by rw [hctx]; exact hset) (fun h => by cases h) hk hidle hfree hrest
      rw [hwho] at hchk
      have hacc := cvtAccess_done (s := s1) (k := k) (e := s.serial) (c := c) (src := src) (dst := dst) (sat := sat) (elems := elems)
        (comps := comps) (parts := parts) (writes := writes) hko rfl rfl rfl rfl hro hcomp hres hws hown hfr hfrw
      exact hchk.trans hacc

end Sys2Proof.Machine
end

section
/-! Instructions of the engines and of the exchange unit (R253 to R264, R266, R340; O22, O23). -/

namespace Sys2Proof.Machine

/-- The core that a ring's notes go to (R253). -/
theorem ringTarget_eq (img : Word) : ringTarget img = bits img.toNat 16 16 := by
  simp [ringTarget, nameCore, bits, Nat.shiftRight_eq_div_pow]

theorem ringNote_iff (img : Word) : ringNote img = true ↔ bits img.toNat 7 1 = 1 := by
  simp [ringNote, bits, BitVec.getLsbD, Nat.testBit_eq_decide_div_mod_eq]

/-- CRING with a legal ring image: the ring is unbound, or bound once its base is translated (R253). -/
theorem cring_bad {s : State} {base img : Word} (h8 : bits img.toNat 8 8 = 0) (h32 : bits img.toNat 32 32 = 0)
    (hlog : ringLog img ≤ 16) (hal : base.toNat % (32 * 2 ^ ringLog img) = 0) (hk : addrKind base = .virtual)
    (hnote : ringNote img = true → s.inLaunch s.me (coreClus (ringTarget img)) = true) :
    (bits img.toNat 8 8 != 0 || bits img.toNat 32 32 != 0 || decide (16 < ringLog img) ||
      base.toNat % (32 * 2 ^ ringLog img) != 0 ||
      (match addrKind base with
        | .tile _ _ => true
        | _ => false) || (ringNote img && !s.inLaunch s.me (coreClus (ringTarget img)))) = false := by
  have hn : (ringNote img && !s.inLaunch s.me (coreClus (ringTarget img))) = false := by
    cases h : ringNote img with
    | false => rfl
    | true => simp [hnote h]
  simp [h8, h32, hal, hk, hn, Nat.not_lt.mpr hlog]

/-- NMG, NMR and NMC that pass their checks fork their operation (R256, R258). -/
theorem nearIssue_done {i : Instr} {kind : Nat} {a b : Src} {e : RegNo} {s : State} {spots : List (Nat × Place)} {n : Near}
    (he : exec i s = nearIssue i kind a b e s) (hi : s.Issues [a.x, b.x, .vs e false]) :
    let t := s.me
    let core := slotCore s.here
    let kn := coreClus core
    let k := s.cluster kn
    let v := t.vr e
    let ring := vbits v 0 2
    let ivs := nearIntervals n
    nearAlign kind v (t.xr a.r) (t.xr b.r) = none → nearOf kind v (frmMode t.frm) (t.xr a.r) (t.xr b.r) = some n →
    (k.rings.find ring).isSome = true →
    (∀ iv ∈ ivs, iv.formOk = true ∧ iv.tile = none ∧ iv.tooLong = false) →
    (∀ iv ∈ ivs, iv.write = true → ∀ p ∈ iv.pages, anyRo [(s.core core).region (p * 16384)] = false) →
    t.walking = false → s.boardFree [kn] = true → translateAll (fun p w => s.resolve t core [] w [p]) ivs = .ok spots →
    k.forkHeld t.ctx (boardOf s.serial k t.nr spots ivs) = false →
      exec i s = .next ((s.fork
        { id := s.serial, kind := kind, clus := kn, core := core, func := t.func, job := .near n, spots := spots,
          ready := false, todo := [], got := [], offs := [], ring := some ring, status := none,
          tag := BitVec.ofNat 16 (vbits v 144 16), codes := [], bytes := 0, aux := 0, aux2 := 0 }
        (boardOf s.serial k t.nr spots ivs) []).setMe (t.advance 4)).ran := by
  intro t core kn k v ring ivs hal hof hring hivs hro hw hboard htr hheld
  refine exec_done hi he ?_
  have hform : (ivs.find? fun v => !v.formOk || v.tile.isSome) = none := by
    simp only [List.find?_eq_none, Bool.not_eq_true]
    intro iv hiv
    simp [hivs iv hiv]
  have hlong : ivs.any Interval.tooLong = false := by
    simp only [List.any_eq_false, Bool.not_eq_true]
    exact fun iv hiv => (hivs iv hiv).2.2
  have hrw : (ivs.find? fun v => v.write && v.pages.any fun p => anyRo [(s.core core).region (p * 16384)]) = none := by
    simp only [List.find?_eq_none, Bool.not_eq_true, Bool.and_eq_false_imp, List.any_eq_false]
    exact fun iv hiv hwr p hp => hro iv hiv hwr p hp
  have hwait : (t.walking || !s.boardFree [kn]) = false := by simp [hw, hboard]
  have hnone : (k.rings.find ring).isNone = false := by simp [← Option.not_isSome, hring]
  simp only [t, core, kn, k, v, ring, ivs] at *
  simp only [hal, hof, hnone, hform, hlong, hrw, hwait, htr, hheld, Bool.false_eq_true, if_false]

/-- Settles O22: each instruction passes its checks, and its branch is what the statement says. -/
theorem engineInstructionsFork : Obligations.EngineInstructionsFork := by
  unfold Obligations.EngineInstructionsFork
  refine ⟨?_, ?_, ?_, ?_⟩
  · intro a b s hi k base img leaves h8 h32 hlog hal hnote
    have hnote' : ringNote (s.me.xr b.r) = true → s.inLaunch s.me (coreClus (ringTarget (s.me.xr b.r))) = true := fun h => by
      rw [ringTarget_eq]
      exact hnote ((ringNote_iff _).mp h)
    refine ⟨fun h0 => ?_, fun p h0 hk hw hwalk hspot hrem => ?_⟩
    · refine exec_done hi (show _ = execCring a b s from rfl) ?_
      have hbad := cring_bad (s := s) h8 h32 hlog hal (by rw [h0]; rfl) hnote'
      refine (if_neg (ne_true_of_eq_false hbad)).trans ((if_pos h0).trans ?_)
      exact congrArg (fun r => Res.done ((s.setCluster (slotCore s.here / 32) { k with rings := r }).setMe (s.me.advance 4)))
        (if_pos h0)
    · refine exec_done hi (show _ = execCring a b s from rfl) ?_
      have hbad := cring_bad (s := s) h8 h32 hlog hal hk hnote'
      have hplace : ¬(p.dom == .package && p.remote (coreDie (slotCore s.here))) = true := by
        rw [show p.remote (coreDie (slotCore s.here)) = false from hrem, Bool.and_false]
        exact Bool.false_ne_true
      obtain ⟨spots, hres, hp⟩ := resolve_spot hwalk hspot
      refine (if_neg (ne_true_of_eq_false hbad)).trans ((if_neg h0).trans ((if_neg (by rw [hk]; decide)).trans
        ((if_neg (ne_true_of_eq_false hw)).trans ?_)))
      simp only [base] at hres hp
      simp only [hres, hp]
      exact (if_neg hplace).trans (congrArg (fun r => Res.done ((s.setCluster (slotCore s.here / 32)
        { k with rings := r }).setMe (s.me.advance 4))) (if_neg h0))
  · intro a s hi hv hw k n
    have hhigh : ¬(s.me.xr a.r).extractLsb' 32 32 ≠ 0 := by
      rw [not_not]
      apply BitVec.eq_of_toNat_eq
      simp [Nat.shiftRight_eq_div_pow]
      omega
    exact exec_done hi (show _ = execCstg a s from rfl) ((if_neg hhigh).trans (if_neg (ne_true_of_eq_false hw)))
  · intro d a b e s spots hi t core kn k v g ivs cast hchk hw hboard hfifo hbusy htr hheld
    refine exec_done hi (show _ = execCpy d a b e s from rfl) ?_
    have hwait : (t.walking || !s.boardFree (kn :: cast) || (g.tofifo && k.busyBank g.fbank) ||
        ivs.any fun v => v.busy k t.nr) = false := by
      have h1 : (ivs.any fun v => v.busy k t.nr) = false := by
        simp only [List.any_eq_false, Bool.not_eq_true]
        exact hbusy
      have h2 : (g.tofifo && k.busyBank g.fbank) = false := by
        cases h : g.tofifo with
        | false => rfl
        | true => simp [hfifo h]
      rw [h1, h2, hw, hboard]
      rfl
    simp only [t, core, kn, k, v, g, ivs, cast] at hchk hwait htr hheld
    simp only [coreClus, hchk, hwait, htr, hheld, Bool.false_eq_true, if_false]
    rfl
  · intro kind a b e s spots n hkind hi
    rcases (by simpa using hkind : kind = 3 ∨ kind = 4 ∨ kind = 5) with rfl | rfl | rfl
    · exact nearIssue_done (show exec (.nmg a b e) s = nearIssue (.nmg a b e) 3 a b e s from rfl) hi
    · exact nearIssue_done (show exec (.nmr a b e) s = nearIssue (.nmr a b e) 4 a b e s from rfl) hi
    · exact nearIssue_done (show exec (.nmc a b e) s = nearIssue (.nmc a b e) 5 a b e s from rfl) hi

/-- XARM and ICFG whose table is translated and read act on what was read (R262, R266). -/
theorem exec_table {i : Instr} {a : Src} {n v : Nat} {f : State → Strand → Nat → Nat → Res} {s s1 s2 : State}
    {spots : List (Nat × Place)} (he : exec i s = tableIssue i a n f s) (hi : s.Issues [a.x])
    (hal : (s.me.xr a.r).toNat % 128 = 0) (hx : (s.xu (coreDie (slotCore s.here))).state ≠ .running)
    (hk : addrKind (s.me.xr a.r) = .virtual) (hw : s.me.walking = false)
    (hres : s.resolve s.me (slotCore s.here) [] false (pagesOf [((s.me.xr a.r).toNat, n)]) = .ok spots)
    (hread : s.readTable s.me (slotCore s.here) spots (s.me.xr a.r).toNat n = .done s1 (v, false))
    (hf : f s1 s.me (slotCore s.here) v = .done s2) : exec i s = .next s2.ran := by
  refine exec_done hi he ?_
  refine (if_neg (not_not.mpr hal)).trans ((if_neg hx).trans ((if_neg (by rw [hk]; decide)).trans
    ((if_neg (ne_true_of_eq_false hw)).trans ?_)))
  simp only [hres, hread]
  exact (if_neg Bool.false_ne_true).trans hf

/-- Settles O23: each instruction passes its checks, and its branch is what the statement says. -/
theorem exchangeInstructionsAct : Obligations.ExchangeInstructionsAct := by
  unfold Obligations.ExchangeInstructionsAct
  refine ⟨⟨?_, ?_, ?_, ?_⟩, ?_⟩
  · intro e s hi die x row hidle hrow
    have hbad : ¬(row.zipIdx.any fun c => c.1 != 0 && !s.member c.2) = true := by
      simp only [List.any_eq_true, not_exists, not_and]
      intro c hc
      rcases hrow c hc with h | h <;> simp [h]
    exact exec_done hi (show _ = execDpost e s from rfl) ((if_neg (not_not.mpr hidle)).trans (if_neg hbad))
  · intro a e s spots hi t core die x v dest rows bytes buf rowl iv hal h3 h122 hd h128 hmax hrows hx hsends hform hro hw htr
    have hdesc : ¬(vbits v 3 13 ≠ 0 ∨ vbits v 122 390 ≠ 0 ∨ 63 < dest ∨ bytes % 128 ≠ 0 ∨ 8388480 < bytes ∨
        (rows = true ∧ (x.emap.isNone = true ∨ bytes % (128 * (1 + rowl)) ≠ 0))) := by
      rintro (h | h | h | h | h | ⟨hr, h⟩)
      · exact h h3
      · exact h h122
      · omega
      · exact h h128
      · omega
      · obtain ⟨hmap, hlen⟩ := hrows hr
        rcases h with h | h
        · exact absurd h (by simp [← Option.not_isSome, hmap])
        · exact h hlen
    have hfree : ¬(x.sends.any fun d => d.dest == dest) = true := by
      simpa using hsends
    have hrw : ¬(rows && iv.pages.any fun p => anyRo [(s.core core).region (p * 16384)]) = true := by
      simp only [Bool.and_eq_true, List.any_eq_true, not_and, not_exists]
      exact fun hr p hp => ne_true_of_eq_false (hro hr p hp)
    refine exec_done hi (show _ = execXsend a e s from rfl) ?_
    refine (if_neg (not_not.mpr hal)).trans ((if_neg hdesc).trans ((if_neg hx).trans ((if_neg hfree).trans
      ((if_neg (ne_true_of_eq_false (congrArg not hform))).trans ((if_neg hrw).trans
      ((if_neg (ne_true_of_eq_false hw)).trans ?_))))))
    simp only [iv, rows, bytes, buf, v, core, t] at htr
    simp only [htr]
    rfl
  · intro d a s v hi die hv
    simp only [die] at hv
    simp only [exec, execXstat, issued hi, coreDie, hv, out_done, State.after]
  · intro d a b s hi x epg topg hx h0 h16 ht ht16 hdiv best
    refine exec_done hi (show _ = execRoute d a b s from rfl) (if_neg ?_)
    have : x / 2 ^ 10 = 0 := Nat.div_eq_of_lt hx
    rintro (h | h | h | h | h | h)
    · exact h this
    · exact h0 h
    · exact Nat.not_lt.mpr h16 h
    · exact ht h
    · exact Nat.not_lt.mpr ht16 h
    · exact Nat.not_lt.mpr hdiv h
  · intro a s s1 spots v hi t core die va hal hx hk hw
    refine ⟨?_, ?_⟩
    · intro hres hread x hbad
      exact exec_table (show exec (.icfg a) s = execIcfg a s from rfl) hi hal hx hk hw hres hread (if_neg (ne_true_of_eq_false hbad))
    · intro hres hread x ivs hbad hro bases htr
      refine exec_table (show exec (.xarm a) s = execXarm a s from rfl) hi hal hx hk hw hres hread ?_
      have hrw : (ivs.find? fun v => v.pages.any fun p => anyRo [(s1.core core).region (p * 16384)]) = none := by
        simp only [List.find?_eq_none, Bool.not_eq_true, List.any_eq_false]
        exact hro
      refine (if_neg (ne_true_of_eq_false hbad)).trans ?_
      simp only [ivs, core, t, x] at hrw htr
      simp only [hrw, htr]
      rfl

end Sys2Proof.Machine
end

section
/-! Traps and system instructions (R268, R269, R271, R273, R274, R343 to R351; O24 to O26). -/

namespace Sys2Proof.Machine

/-- A trap that is no fault of memory goes to the handler (R343). -/
theorem takeTrap_toHandler {t : Trap} (ht : ∀ r b va, t ≠ .translation r b va) (hd : ∀ b va pa, t ≠ .foreignDie b va pa)
    (s : State) (k : Nat) (pc faddr : Word) (w : BitVec 32) : s.takeTrap k t pc faddr w = s.toHandler k t pc faddr w := by
  unfold State.takeTrap
  split
  · exact absurd rfl (ht _ _ _)
  · exact absurd rfl (hd _ _ _)
  · rfl

/-- A context that is not its core's setter moves out to the empty bank as it stands (R351). -/
theorem moveOut_of_not_set {s : State} {k : Nat} {why : SavedWhy} {header : List Word}
    (hfree : (s.core (slotCore k)).shadow.isSome = false)
    (hset : (s.mat (slotCore k)).setBy (slotIdx k) (s.strand k).ctx = false) :
    s.moveOut k why header = some (({ s.setStrand k .idle with serial := s.serial + 16 } : State).setCore (slotCore k)
      { s.core (slotCore k) with
        moves := (s.core (slotCore k)).moves.filter fun m => !(m.out && m.slot == slotIdx k)
        shadow := some
          { slot := slotIdx k, strand := { s.strand k with queue := leaveQueue (s.strand k).queue s.serial, walk := none, trap := none },
            outgoing := true, why := why, header := header, mat := none, said := false, acq := none } }) := by
  simp only [State.moveOut, hfree, hset, Bool.false_and, Bool.or_self, Bool.false_eq_true, if_false]
  rfl

/-- Settles O24: the context moves out, and the handler's strand takes its slot. -/
theorem trapsEnterTheHandler : Obligations.TrapsEnterTheHandler := by
  unfold Obligations.TrapsEnterTheHandler
  intro k t pc faddr w s c u e hdr ht hd hb he h4 hfree hset
  have hshadow : (s.core (slotCore k)).shadow.isSome = false := by
    simp only [State.bankFree, Bool.and_eq_true] at hfree
    simp [← Option.not_isNone, hfree.1]
  have hbad : ¬((s.strand k).bound.isSome || !vecValid ((s.core (slotCore k)).vtab.get 9 0)) = true := by
    simp only [u] at hb
    simp only [e, c] at he
    rw [hb, he]
    decide
  rw [takeTrap_toHandler ht hd]
  simp only [State.toHandler, if_neg hbad, if_neg h4, State.swapOut, hfree, if_true, moveOut_of_not_set hshadow hset,
    Option.map_some]
  refine ⟨_, rfl, ?_, ?_, rfl, rfl, ?_, ?_⟩
  · exact State.strand_setStrand ..
  · exact State.core_setCore ..
  · intro j hj
    exact (State.strand_setStrand_ne _ _ _ _ hj).trans (State.strand_setStrand_ne _ _ _ _ hj)
  · intro j hj
    exact State.core_setCore_ne _ _ _ _ hj

/-- Settles O25: the trap is the instruction's own, and without a handler it ends the launch. -/
theorem trapInstructionsTakeTheirTrap : Obligations.TrapInstructionsTakeTheirTrap := by
  unfold Obligations.TrapInstructionsTakeTheirTrap
  refine ⟨?_, ?_⟩
  · intro s hi takes
    refine ⟨fun e => ?_, fun e => ?_, fun w => ?_⟩
    · exact takesTrap hi (show _ = execTrap e s from rfl) (by simp) rfl
    · exact takesTrap hi (show _ = execBrk e s from rfl) (by simp) rfl
    · exact takesTrap hi (show _ = execIllegalInstruction w s from rfl) (by simp) rfl
  · intro k t pc faddr w s n l ht hd hb hn hl hr
    have hbad : ((s.strand k).bound.isSome || !vecValid ((s.core (slotCore k)).vtab.get 9 0)) = true := by
      rcases hb with h | h <;> rw [h]
      · rfl
      · exact Bool.or_true _
    rw [takeTrap_toHandler ht hd]
    simp only [State.toHandler, hbad, if_true, State.endLaunch, hn, hl, hr]
    rfl

/-- RTE whose bound context is spilled moves it back (R346). -/
theorem returnTrap_some {s : State} {k b : Nat} {v : Saved} (hb : (s.strand k).bound = some b) (hv : s.savedOf b = some v)
    (hsp : v.spilled = true) :
    let to' := if slotIdx v.slot = 4 then v.slot else k
    s.returnTrap k = some ((s.endStrand k).moveBack (slotCore to') (slotIdx to') v) := by
  simp [State.returnTrap, hb, hv, hsp]

/-- A replay instruction of a handler acts on the image of its bound context once that is spilled (R273, R346). -/
theorem exec_replay {i : Instr} {ops : List Opnd} {early : Option Nat} {f : Strand → Saved → Res} {s s2 : State} {b : Nat}
    {v : Saved} (he : exec i s = replay i ops early f s) (hi : s.Issues ops) (hearly : early = none)
    (hb : s.me.bound = some b) (hv : s.savedOf b = some v) (hsp : v.spilled = true)
    (hfr : s.framesFree v.frame1 v.frame2 = true) (hf : f s.me v = .done s2) : exec i s = .next s2.ran := by
  refine exec_done hi he ?_
  simp only [hb, hearly, hv, hsp, hfr, Bool.and_self, if_true, hf]

/-- TLBI and REGI of a launch with the privilege release and then begin their shootdown (R274). -/
theorem exec_shootdown {i : Instr} {entry : Bool} {a : Src} {reserved : Word → Bool} {s : State}
    (he : exec i s = shootdown i entry a reserved s) (hi : s.Issues [a.x]) (hp : s.privileged s.me = true)
    (hr : s.edgeReady s.me = true) (hres : reserved (s.me.xr a.r) = false) :
    exec i s = .next (s.releaseThen s.here .package (.shoot entry (s.me.xr a.r))).ran :=
  exec_done hi he ((if_neg (ne_true_of_eq_false (congrArg not hp))).trans ((if_neg (ne_true_of_eq_false hres)).trans
    (if_neg (ne_true_of_eq_false (congrArg not hr)))))

/-- Without the privilege they raise PROTECTION (R274). -/
theorem shootdown_trap {i : Instr} {entry : Bool} {a : Src} {reserved : Word → Bool} {s s' : State}
    (he : exec i s = shootdown i entry a reserved s) (hi : s.Issues [a.x]) (hp : s.privileged s.me = false)
    (hq : s.me.queue = []) (ht : s.takeTrap s.here (.protection 41) s.me.pc 0 (wordOf i) = some s') :
    exec i s = .next s'.ran :=
  (takesTrap hi he (by simp) (if_pos (congrArg not hp))).1 hq s' ht

/-- Settles O26: RTE by the move of its bound context, the replay instructions by their image, HALT, TLBI and REGI by their
release. -/
theorem handlersReturnAndEdit : Obligations.HandlersReturnAndEdit := by
  unfold Obligations.HandlersReturnAndEdit
  refine ⟨⟨?_, ?_⟩, ?_, ?_, ?_⟩
  · intro s b v hi hb hv hsp hf hq to' c old s1 r
    have hret := returnTrap_some (s := s) (k := s.here) hb hv hsp
    have hready : ¬(!s.me.filled || !s.me.queue.isEmpty) = true := by simp [hf, hq]
    have hexec : exec .rte s = .next ((s.endStrand s.here).moveBack c (slotIdx to') v).ran := by
      refine exec_done hi (show _ = execRte s from rfl) ?_
      refine (if_neg (by simp [hb])).trans ((if_neg hready).trans ?_)
      simp only [hret]
      rfl
    rw [hexec]
    refine ⟨fun h => ?_, fun h => ?_⟩
    · have hacq : v.acquire c = none := if_pos h
      simp only [State.moveBack, hacq]
      rfl
    · have hacq : v.acquire c = some (distance old (c / 32)) := if_neg h
      simp only [State.moveBack, hacq]
      rfl
  · intro s s' hi hb hq ht
    exact (takesTrap hi (show _ = execRte s from rfl) (by simp) (if_pos (by rw [hb]; rfl))).1 hq s' ht
  · intro s b v q w hb hv hsp hfr at' rd
    refine ⟨?_, ?_, ?_⟩
    · intro d hi
      exact exec_replay (show exec (.rqrd d q w) s = execRqrd d q w s from rfl) hi rfl hb hv hsp hfr rfl
    · intro a hi h3 h15 hval
      have hvalid : (!s.entryValid v q) = false := by simpa [State.entryValid, rd, at', entryOff] using hval
      exact exec_replay (show exec (.rqwr a q w) s = execRqwr a q w s from rfl) hi (if_neg (by omega)) hb hv hsp hfr
        (if_neg (ne_true_of_eq_false hvalid))
    · intro hi hval m
      have hvalid : (!s.entryValid v q) = false := by simpa [State.entryValid, rd, at', entryOff] using hval
      exact exec_replay (show exec (.rqdel q) s = execRqdel q s from rfl) hi rfl hb hv hsp hfr
        (if_neg (ne_true_of_eq_false hvalid))
  · intro s hi hf he
    simp [exec, execHalt, issued hi, hf, he]
  · intro a s hi v
    refine ⟨fun hp hr => ⟨fun h => ?_, fun h => ?_⟩, fun hp hq => ⟨fun s' ht => ?_, fun s' ht => ?_⟩⟩
    · exact exec_shootdown (show exec (.tlbi a) s = execTlbi a s from rfl) hi hp hr (by simpa using h)
    · exact exec_shootdown (show exec (.regi a) s = execRegi a s from rfl) hi hp hr (by simpa using h)
    · exact shootdown_trap (show exec (.tlbi a) s = execTlbi a s from rfl) hi hp hq ht
    · exact shootdown_trap (show exec (.regi a) s = execRegi a s from rfl) hi hp hq ht

end Sys2Proof.Machine
end

section
/-! Held strands and empty registers (R72, R131; O27). -/

namespace Sys2Proof.Machine

/-- Every instruction that has an encoding issues by R72 and R131, and the fields that a form names are those that it
issues with. -/
theorem exec_eq_issue (i : Instr) (h : (encode i).isSome = true) (s : State) : ∃ ops f, exec i s = issue i ops f s ∧
   (∀ ops', registerForm i = some ops' → ops' = ops) ∧
   (∀ ops' o c u, memoryForm s.me i = some (ops', o, c, u) → ops' = ops) := by
  cases i <;> try exact absurd h Bool.false_ne_true
  all_goals simp only [exec, execAdd, execAdds, execSub, execMul, execMulh, execDiv, execRem, execNeg, execAnd,
    execAndn, execOr, execXor, execShl, execShr, execRot, execClz, execCtz, execPopc, execBrev, execMin, execMax,
    execSel, execMov, execCmpEq, execCmpNe, execCmpLt, execCmpLe, execCmpGt, execCmpGe, execAddi, execAndi, execOri,
    execXori, execShli, execShriN64, execShriS64, execCmpi, execExtr, execInsr, execWidf, execRds, execWrs, execLi,
    execLih, execLea, execFadd, execFsub, execFmul, execFdiv, execFsqrt, execFfma, execFmin, execFmax, execFcmpEq,
    execFcmpLt, execFcmpLe, execFcmpUn, execFclass, execFcvt, execBr, execCall, execBrc, execLoopn, execBri,
    execCalli, execRet, execVif, execVelse, execVend, execNop, execLd, execSt, execLdg, execSts, execLdp, execLdv,
    execStv, execPf, execFlush, execInvl, execFenceAcq, execFenceRel, execFenceFull, execMode, execAmo, execCas,
    execFamo, execRed, execFredAdd, execFredMinmax, execVred, execGet, execPut, execPutf, execDlg, execDlgn, execDret,
    execSpawn, execSync, execRetire, execPubf, execPubt, execBind, execUnbind, execJctr, execBar, execBari, execBarq,
    execDonate, execTrec, execTenq, execMsg, execMsgv, execFpush, execFpop, execVadd, execVsub, execVmul, execVdiv,
    execVmin, execVmax, execVabs, execVneg, execVsqrt, execVrcp, execVrsq, execVexp2, execVlog2, execVsum, execVrmax,
    execVrmin, execVaddInt, execVsubInt, execVmulInt, execVminS, execVminN, execVmaxS, execVmaxN, execVnegInt,
    execVshl, execVshrS, execVshrN, execVsumInt, execVimad, execVcmpEqInt, execVcmpLtS, execVcmpLtN, execVand,
    execVor, execVxor, execVnot, execVsel, execVmov, execMand, execMor, execMxor, execMnot, execMpop, execMfirst,
    execMset, execMmovx, execVcmp, execVperm, execVshuf, execVbcast, execViota, execVcmpr, execVexpd, execVins,
    execVext, execVcvt, execVscale, execVqnt, execVdqnt, execVfmaF32F64, execVfmaBf16F16, execVfmsF32F64,
    execVfmsBf16F16, execMma, execMmat, execMfmt, execAccz, execAccrd, execMstat, execAcccvt, execCpy, execCstg,
    execCring, execNmg, execNmr, execNmc, execDpost, execXsend, execXarm, execXstat, execRoute, execIcfg, execTrap,
    execRte, execHalt, execBrk, execRqrd, execRqwr, execRqdel, execTlbi, execRegi, alu2,
    issueReg, alu1, aluShift, aluCount, aluBits, aluCmp, aluImm, issueLit, float2, floatPlain, memLoad, memStore,
    fence, atomic, putTo, delegate, message, vecFloat2, vecFloat, vecMinMax, vecFloat1, vecReduce, vecInt2, vecCmpInt,
    vecBits, vecFma, mmaIssue, nearIssue, tableIssue, replay, shootdown]
  all_goals
    refine ⟨_, _, rfl, fun ops' hf => ?_, fun ops' o c u hf => ?_⟩ <;> cases hf <;> rfl

/-- An instruction of registers or of memory has an encoding. -/
theorem form_encodes {i : Instr} {t : Strand} {ops : List Opnd}
    (h : registerForm i = some ops ∨ ∃ o c u, memoryForm t i = some (ops, o, c, u)) : (encode i).isSome = true := by
  obtain h | ⟨o, c, u, h⟩ := h <;> cases i <;> first | rfl | cases h

/-- A register that its instruction makes trap takes REGISTER_EMPTY (R131). -/
theorem takesEmpty {s : State} {i : Instr} {ops : List Opnd} {f : Strand → Res} (hr : s.me.ready = true)
    (hg : s.me.gate ops = .trap) (he : exec i s = issue i ops f s) : s.TakesTrap i .empty s.me.pc := by
  have ho : exec i s = .next (s.trapAtIssue s.here .empty s.me.pc 0 (wordOf i)).ran := by
    rw [he]
    simp only [issue, hr, hg, Bool.not_true, Bool.false_eq_true, if_false, Res.out]
  exact ⟨fun hq s' hs => by rw [ho, trapAtIssue_taken hq hs], fun hq => by rw [ho, trapAtIssue_latched hq]⟩

@[simp] theorem getLsbD_regBit_same (r : RegNo) : (regBit r).getLsbD r.toNat = true := by
  simp [regBit, r.isLt]

theorem getLsbD_regBit_ne {r d : RegNo} (h : d ≠ r) : (regBit r).getLsbD d.toNat = false := by
  have hn : d.toNat ≠ r.toNat := fun e => h (BitVec.eq_of_toNat_eq e)
  simp [regBit, BitVec.getLsbD_one]
  omega

section
variable {t : Strand} {r d : RegNo} {v : Word} {m : Bool}

theorem Strand.setX_of_ne (hr : r ≠ 0) : t.setX r v =
    { t with x := t.x.put r.toNat v, emptyX := t.emptyX &&& ~~~(regBit r), pendX := t.pendX &&& ~~~(regBit r) } :=
  if_neg hr

theorem Strand.xr_setX_same (hr : r ≠ 0) : (t.setX r v).xr r = v := by
  rw [Strand.setX_of_ne hr, Strand.xr, if_neg hr]
  exact get_put ..

/-- A write fills its register, for a source and for a destination. -/
theorem Strand.gateOf_setX_same (hr : r ≠ 0) :
    (t.setX r v).gateOf (.xs r m) = .ok ∧ (t.setX r v).gateOf (.xd r) = .ok := by
  rw [Strand.setX_of_ne hr]
  simp only [Strand.gateOf, if_neg hr]
  simp [srcGate, dstGate]

theorem Strand.gateOf_setX_ne (hr : r ≠ 0) (h : d ≠ r) : (t.setX r v).gateOf (.xs d m) = t.gateOf (.xs d m) := by
  rw [Strand.setX_of_ne hr]
  have hd : d.toNat < 32 := d.isLt
  simp only [Strand.gateOf, BitVec.getLsbD_and, BitVec.getLsbD_not, getLsbD_regBit_ne h, hd, decide_true,
    Bool.not_false, Bool.and_true]

/-- A pending destination makes a later source stall, or trap where its t bit is set. -/
theorem Strand.gateOf_pendDestX (hr : r ≠ 0) :
    (t.pendDestX r).gateOf (.xs r m) = if m then .trap else .stall := by
  rw [Strand.pendDestX, if_neg hr, Strand.gateOf, if_neg hr]
  simp [srcGate]

end

/-- Settles O27: every instruction with an encoding goes through the one gate of `issue`. -/
theorem heldStrandsAndEmptyRegisters : Obligations.HeldStrandsAndEmptyRegisters := by
  unfold Obligations.HeldStrandsAndEmptyRegisters
  refine ⟨?_, ?_, ?_⟩
  · intro i s hi hr
    obtain ⟨ops, f, he, -⟩ := exec_eq_issue i hi s
    simp [he, issue, hr]
  · intro t r m v d hr
    refine ⟨?_, ?_, rfl, rfl, rfl, rfl, Strand.xr_setX_same hr, (Strand.gateOf_setX_same (m := m) hr).1,
      (Strand.gateOf_setX_same (m := m) hr).2, fun h => ⟨Strand.xr_setX_ne t v h, Strand.gateOf_setX_ne hr h⟩,
      Strand.gateOf_pendDestX hr, Strand.gateOf_pendDestX hr⟩
    · simp only [Strand.gateOf, hr, if_false, srcGate]
      cases t.emptyX.getLsbD r.toNat <;> cases t.pendX.getLsbD r.toNat <;> cases m <;> rfl
    · simp only [Strand.gateOf, hr, if_false, dstGate, Bool.and_eq_true]
  · intro i s ops hform hr
    obtain ⟨ops', f, he, hreg, hmem⟩ := exec_eq_issue i (form_encodes hform) s
    have hops : ops = ops' := by
      obtain h | ⟨o, c, u, h⟩ := hform
      · exact hreg _ h
      · exact hmem _ _ _ _ h
    subst hops
    exact ⟨fun hg => by simp [he, issue, hr, hg], fun hg => takesEmpty hr hg he⟩

end Sys2Proof.Machine
end

section
/-! Edges, messages and activations (R9 to R12, R19, R22, R31, R70, R75 to R77, R203, R213, R321; O28 to O30). -/

namespace Sys2Proof.Machine

/-- An event whose condition holds is a step to the state that it gives. -/
theorem event_of {s s' : State} {o : Option State} (h : o = some s') : event s o = .next s'.ran := by
  rw [h, event_some]

/-- One whose condition does not hold waits. -/
theorem event_waits {s : State} {o : Option State} (h : o = none) : event s o = .next s.waits := by
  rw [h, event_none]

/-- An edge whose accesses are performed completes by what its instruction does (R77). -/
theorem exec_edge {k : Nat} {s s' : State} {e : Edge} (he : (s.strand k).edge = some e)
    (hd : s.allDone e.system e.waits = true) (hf : s.finishEdge k e.after = some s') :
    exec (.edge k) s = .next s'.ran := by
  rw [show exec (.edge k) s = execEdge k s from rfl]
  simp only [execEdge, he, hd, if_true, hf, event_some]

/-- Outside a handler an edge has no image to wait for (R346). -/
theorem finishEdge_of_unbound {k : Nat} {s : State} (h : (s.strand k).bound = none) (a : After) :
    s.finishEdge k a = s.finish k a := by
  simp [State.finishEdge, State.boundReady, h]

/-- An edge that does not end its strand waits for no image. -/
theorem finishEdge_of_stays {k : Nat} {s : State} {a : After} (h : a.ends = false) : s.finishEdge k a = s.finish k a := by
  simp [State.finishEdge, h]

/-- RETIRE outside a handler: the join link is decremented, and the slot pops (R19). -/
theorem retireAt_of_unbound {k : Nat} {s : State} (h : (s.strand k).bound = none) :
    s.retireAt k =
      let s0 := s.decLink (coreClus (slotCore k)) (s.strand k)
      let s1 := s0.setStrand k { s0.strand k with edge := (some ⟨[], false, .pop⟩ : Option Edge), jl := none }
      some ((s1.popAt k).getD s1) := by
  simp only [State.retireAt, h]

/-- Settles O28: each edge ends by its instruction's own effect. -/
theorem edgesComplete : Obligations.EdgesComplete := by
  unfold Obligations.EdgesComplete
  intro k s e he hd
  have stays : ∀ {a : After} {s' : State}, e.after = a → a.ends = false → s.finish k a = some s' →
      exec (.edge k) s = .next s'.ran := fun ha hs hf =>
    exec_edge he hd (by rw [ha, finishEdge_of_stays hs, hf])
  have unbound : ∀ {a : After} {s' : State}, e.after = a → (s.strand k).bound = none → s.finish k a = some s' →
      exec (.edge k) s = .next s'.ran := fun ha hb hf =>
    exec_edge he hd (by rw [ha, finishEdge_of_unbound hb, hf])
  refine ⟨fun ha => stays ha rfl rfl, fun r h ha => stays ha rfl rfl, fun r ha => stays ha rfl rfl,
    fun r ha => stays ha rfl rfl, ?_, ?_, ?_, ?_, ?_, ?_, ?_, ?_, ?_⟩
  · intro v ctx d core ha hc
    exact stays ha rfl (by simp only [State.finish, State.answerCaller, hc, State.endStrand])
  · intro m w x y ha hr
    exact stays ha rfl (by simp only [State.finish, hr, if_true])
  · intro ha hb hk
    exact unbound ha hb (by simp only [State.finish, State.haltAt, hb, if_neg hk, State.endStrand])
  · intro ha hb hj
    exact unbound ha hb (by simp only [State.finish, retireAt_of_unbound hb, State.decLink, hj])
  · intro b f h ha hr
    exact exec_edge he hd (by simp only [ha, State.finishEdge, hr, Bool.not_true, Bool.and_false, Bool.false_eq_true,
      if_false, State.finish])
  · intro ha hb pops
    have hp : ∀ s0, s.decLink (coreClus (slotCore k)) (s.strand k) = s0 → pops s0 := fun s0 h0 =>
      unbound ha hb (by simp only [State.finish, retireAt_of_unbound hb, h0])
    refine ⟨?_, fun c hj => ⟨fun hc => hp _ ?_, fun hc => hp _ ?_⟩⟩
    · intro n l hj hn hl
      refine hp _ ?_
      simp [State.decLink, hj, hn, hl]
    · simp only [State.decLink, hj]
      exact if_pos hc
    · simp only [State.decLink, hj]
      exact if_neg hc
  · intro a f hdr live info s1 ha hb hi hs
    have done : ∀ s', s.syncAt k a f hdr live = some s' → exec (.edge k) s = .next s'.ran := fun s' h =>
      unbound ha hb h
    refine ⟨fun hv => ⟨fun hc => done _ ?_, fun hc => done _ ?_⟩, fun hv => done _ ?_⟩
    · simp only [State.syncAt, hi, hs, Option.bind_some, Option.map_some]
      exact congrArg some ((if_pos hv).trans (if_pos hc))
    · simp only [State.syncAt, hi, hs, Option.bind_some, Option.map_some]
      exact congrArg some ((if_pos hv).trans (if_neg hc))
    · simp only [State.syncAt, hi, hs, Option.bind_some, Option.map_some]
      exact congrArg some (if_neg hv)
  · intro d task far va opa opb word x ha hx hw p w hp
    refine stays ha rfl ?_
    have hfar : (p.remote (coreDie (slotCore k)) && !far) = false := by
      cases hr : p.remote (coreDie (slotCore k)) with
      | false => rfl
      | true => rw [hp hr]; rfl
    simp only [State.finish, State.trecAt, hx, hw, Bool.not_true, Bool.false_eq_true, if_false]
    exact (if_neg (ne_true_of_eq_false hfar)).trans rfl
  · intro entry image ha
    exact stays ha rfl rfl

/-- Settles O29: the one event of each, with its conditions given. -/
theorem messagesArriveAndActivate : Obligations.MessagesArriveAndActivate := by
  unfold Obligations.MessagesArriveAndActivate
  refine ⟨?_, ?_, ?_⟩
  · intro i s a ha hfirst s1 hfree
    have hearly : ((s.transit.take i).any fun b => b.origin == a.origin && b.target == a.target) = false := by
      rw [List.any_eq_false]
      intro b hb
      obtain h | h := hfirst b hb <;> simp [h]
    refine ⟨fun hd => ?_, fun p hd hroom hsaved hp => ?_⟩
    · rw [show exec (.messageArrival i) s = execMessageArrival i s from rfl]
      simp [execMessageArrival, ha, hearly, hfree, hd, s1]
    · rw [show exec (.messageArrival i) s = execMessageArrival i s from rfl]
      have hroom' : ¬16 ≤ (s.core a.target).actq.length := Nat.not_le.mpr hroom
      simp only [execMessageArrival, ha, hearly, hfree, hd, hroom', hp, s1, List.isEmpty_nil, Bool.not_true,
        Bool.false_eq_true, if_false, decide_false, Bool.false_or, Option.map_some]
      rw [show s.isSaved a.launch (coreClus a.target) = false from hsaved]
      rfl
  · intro k s a hidle c hn hf h7 h9 s0 hd s1
    have start : ∀ s', s.startAct k a = some s' → exec (.activation k) s = .next s'.ran := by
      intro s' h
      rw [show exec (.activation k) s = event s (s.activate k) from rfl]
      have hact : s.activate k = some s' := by
        simp only [State.activate, hidle, Bool.not_true, Bool.false_eq_true, if_false]
        exact (congrArg (Option.bind · _) hn).trans h
      rw [hact, event_some]
    refine ⟨fun h3 => start _ ?_, fun h3 => start _ ?_⟩
    · simp only [State.startAct, hf, if_neg h7, hd, Bool.false_eq_true, if_false]
      simp only [h9, h3, decide_false, Bool.or_false, Bool.false_eq_true, if_false]
      rfl
    · simp only [State.startAct, hf, if_neg h7, hd, Bool.false_eq_true, if_false]
      simp only [h3, decide_true, Bool.or_true, if_true]
      rfl
  · intro i k s r hr hk reach hload hway s1
    have hwait : (decide (reach ≠ .cluster) && !s.allDone false (s.loadsOf r.ctx)) = false := by
      obtain h | h := hload <;> simp [h]
    rw [show exec (.dlgReply i) s = execDlgReply i s from rfl]
    simp only [execDlgReply, hr, hk]
    refine event_of ((if_neg (ne_true_of_eq_false hwait)).trans ?_)
    rw [State.across, show s.way (coreDie r.server) (coreDie (slotCore k)) = .clear from hway]
    rfl

/-- Settles O30: the event starts the strand that its conditions name. -/
theorem seedsAndTasksStart : Obligations.SeedsAndTasksStart := by
  unfold Obligations.SeedsAndTasksStart
  refine ⟨?_, ?_⟩
  · intro slot n wid s l hl c hrun hg hidle hslot hseed hwid hmine hplace t s1
    have hnot : (s.running (coreClus (slotCore slot)) != some n || l.graph || !s.idleSlot slot || slotIdx slot == 4 ||
        l.seeded.contains wid || !l.widOk wid || !l.mine slot wid || !s.seedPlace l slot) = false := by
      rw [show s.running (coreClus (slotCore slot)) = some n from hrun]
      simp [hg, hidle, hslot, hseed, hwid, hmine, hplace]
    rw [show exec (.seedActivation slot n wid) s = execSeedActivation slot n wid s from rfl]
    simp only [execSeedActivation, hl]
    rw [if_neg (ne_true_of_eq_false hnot), event_some]
    rfl
  · intro slot n s s2 l t nd c k hrun hl hg hslot hidle ht hnd base u s1 hs2 s3 s4 s5
    refine event_of (s := s) (o := s.taskActivation slot) ?_
    have hrun' : ((s.running (coreClus (slotCore slot))).bind fun n => (s.launches.find n).map fun l => (n, l)) =
        some (n, l) := by
      rw [show s.running (coreClus (slotCore slot)) = some n from hrun, Option.bind_some, hl, Option.map_some]
    have hnot : (!l.graph || slotIdx slot == 4 || !s.idleSlot slot) = false := by
      simp [hg, hslot, hidle]
    simp only [State.taskActivation, hrun']
    refine (if_neg (ne_true_of_eq_false hnot)).trans ?_
    refine (congrArg (Option.bind · _) ht).trans ((congrArg (Option.bind · _) hnd).trans ?_)
    exact congrArg (Option.map _) hs2

end Sys2Proof.Machine
end

section
/-! Idle slots, deques and stealing; counters, barriers and donations (R18 to R29, R204 to R209, R214, R322; O31,
O32). -/

namespace Sys2Proof.Machine

theorem distance_self (k : Nat) : distance k k = .cluster := by
  simp [distance]

/-- A steal within the cluster ends in its slot, and its record stays where it lies (R27). -/
theorem stealMove_own {c n : Nat} {s s' : State} {m : StealMove} (hm : (s.core c).engine.moving = some m)
    (hw : m.walks = []) (hv : coreClus m.victim = coreClus c)
    (hn : [0, 1, 2, 3].find? (fun n => s.idleSlot (slotKey c n)) = some n) (hd : s.allDone false m.waits = true)
    (hrun : (s.running (coreClus c)).isSome = true)
    (hs' : (s.setCore c { s.core c with engine := { (s.core c).engine with moving := none } }).resume (slotKey c n)
      (entRec (entMoved m.entry (entRec m.entry))) (entChdr (entMoved m.entry (entRec m.entry))) (s.running (coreClus c))
      (s.funcOf (s.running (coreClus c))) = some s') :
    s.stealMove c = some (s'.invalidate (s'.whoAt (slotKey c n)) .cluster) := by
  have hstay : m.moves (coreClus c) = false := by simp [StealMove.moves, hv]
  have hgo : (!s.allDone false m.waits || (s.running (coreClus c)).isNone) = false := by
    rw [hd, ← Option.not_isSome, hrun]
    rfl
  have hway : s.way (coreDie m.victim) (coreDie c) = .clear := by
    have h : coreDie m.victim = coreDie c := by
      simp only [coreClus, coreDie] at hv ⊢
      omega
    rw [h]
    exact way_self ..
  simp only [State.stealMove, hm, hw, List.isEmpty_nil, Bool.not_true, Bool.false_eq_true, if_false, hn, hgo]
  rw [across_clear hway, hstay, hv, distance_self, if_neg Bool.false_ne_true, if_neg Bool.false_ne_true,
    Option.bind_some]
  exact congrArg (Option.map fun s => s.invalidate (s.whoAt (slotKey c n)) .cluster) hs'

/-- Settles O31: an idle slot, a spill, a refill, a probe and a move, each with its conditions given. -/
theorem idleSlotsFindWork : Obligations.IdleSlotsFindWork := by
  unfold Obligations.IdleSlotsFindWork
  refine ⟨⟨?_, ?_, ?_, ?_, ?_⟩, ?_, ?_⟩
  · intro k s hfree hk c co hact hrun
    have hno : (!s.freeSlot k || slotIdx k == 4) = false := by simp [hfree, hk]
    have hln : (s.running (coreClus (slotCore k))).isNone = false := by
      rw [← Option.not_isSome, show (s.running (coreClus (slotCore k))).isSome = true from hrun]
      rfl
    refine ⟨fun htail hready hidle hr hw hm => event_of (s := s) (o := s.pickWork k) ?_, fun e s' htail hs' =>
      event_of (s := s) (o := s.pickWork k) ?_⟩
    · have hready' : (s.cluster (coreClus (slotCore k))).ready = [] := hready
      simp only [co, c] at hact htail hr hw hm
      simp only [State.pickWork, hno, hact, hln, Bool.false_eq_true, if_false]
      obtain ht | ht := htail <;>
        simp [ht, hidle, hready', hr, hw, hm, co, c]
    · simp only [co, c] at hact htail
      simp only [State.pickWork, hno, hact, hln, Bool.false_eq_true, if_false, htail]
      exact hs'
  · intro c s s1 hsp hlen hw
    refine event_of (s := s) (o := if (s.core c).spilling && 16 ≤ (s.core c).deque.length then s.spillDeque c else none) ?_
    have hl : ¬(s.core c).deque.length < 16 := Nat.not_lt.mpr hlen
    simp only [hsp, hlen, decide_true, Bool.and_true, if_true, State.spillDeque, hw, Option.map_some, if_neg hl]
  · intro c n s l hr hg hlen hl
    rw [show exec (.dequeRefill c) s = execDequeRefill c s from rfl]
    have hno : (decide ((s.core c).groups = 0) || decide (16 ≤ (s.core c).deque.length)) = false := by
      simp [hg, hlen]
    simp only [execDequeRefill, hr, Option.bind_some, hno, hl, Option.map_some, Bool.false_eq_true, if_false, event_some]
  · intro c lvl s co list pos e hr hm hp hl v hway hprobe
    refine event_of (s := s) (o := s.stealProbe c) ?_
    have hno : (!co.engine.running || co.engine.moving.isSome || !s.mayProbe c) = false := by simp [hr, hm, hp]
    have hway' : s.way (coreDie c) (if lvl = 2 then v else coreDie c) = .clear := by
      split
      · next h => exact hway h
      · exact way_self ..
    refine (if_neg (ne_true_of_eq_false hno)).trans ((congrArg (Option.bind · _) hl).trans ?_)
    rw [Option.bind_some]
    refine (across_clear hway').trans ?_
    have hlvl : (if e.level = none then e.emptyRound else e) = if e.level.isNone then e.emptyRound else e := by
      cases e.level <;> rfl
    rw [hlvl]
    simp only [v, list, pos, co] at hprobe
    simp only [hprobe]
    rfl
  · intro c s hw
    exact event_of (if_pos hw)
  · intro c vc s ent info co list pos e r hr hm hp hl hprobe hvc hne hi
    refine event_of (s := s) (o := s.stealProbe c) ?_
    have hno : (!co.engine.running || co.engine.moving.isSome || !s.mayProbe c) = false := by simp [hr, hm, hp]
    refine (if_neg (ne_true_of_eq_false hno)).trans ((congrArg (Option.bind · _) hl).trans ?_)
    rw [Option.bind_some]
    refine (across_clear (way_self ..)).trans ?_
    simp only [list, pos, co] at hprobe
    have hdist : distance (coreClus vc) (coreClus c) = .cluster := by
      rw [show coreClus vc = coreClus c from hvc]
      exact distance_self _
    have hcore : ∀ t : Core, (s.setCore vc t).core c = s.core c := fun t => State.core_setCore_ne _ _ _ _ hne.symm
    simp only [hprobe, decide_true, Bool.true_or, if_true]
    rw [show s.readRec (s.running (coreClus c)) (entRec ent) 24 8 = some info from hi]
    simp only [List.isEmpty_nil, if_true, State.stealRelease, hdist, hcore]
    rfl
  · intro c n s s' m co k r hm hw hv hn hd hrun hs'
    exact event_of (s := s) (o := s.stealMove c) (stealMove_own hm hw hv hn hd hrun hs')

/-- A retraining or sleeping link holds a message of the hardware, and begins to wake (R362, R387). -/
theorem across_held {s : State} {a b : Nat} {ln : Option Nat} {arrive lose : Unit → Option State} (h : s.way a b = .held) :
    s.across a b ln arrive lose =
      if (s.wakeLinks (pathLinks a b 8)).links = s.links then none else some (s.wakeLinks (pathLinks a b 8)) := by
  rw [across_eq, h]

theorem across_lost {s : State} {a b l : Nat} {ln : Option Nat} {arrive lose : Unit → Option State}
    (h : s.way a b = .lost l) :
    s.across a b ln arrive lose = (lose ()).map fun s => s.error 25 2 (l / 8 % 8) (s.funcOf ln) 1 0 l := by
  rw [across_eq, h]

/-- What the intake takes where it has a launch, a die and power (R322). -/
theorem takeDonation_on {s : State} {sender : BitVec 3} {task : BitVec 128} {time : Word} {w : Bool} {n d : Nat}
    {l : Launch} (hl : s.donationLaunch task true = some (n, l)) (hd : s.fewest l = some d) (ho : s.dieOn d = true) :
    s.takeDonation sender task time w =
      (({ s with launches := s.launches.put n { l with seedCtr := l.seedCtr + 1 }, donLog := s.donLog ++ [task] } : State).enqueueTask
        d (task ||| (1#128 <<< 98)) l.func).donationNotice n task := by
  simp only [State.takeDonation, hl, hd, ho, Bool.not_true, Bool.false_eq_true, if_false]

theorem takeDonation_off {s : State} {sender : BitVec 3} {task : BitVec 128} {time : Word} {w : Bool} {n d : Nat}
    {l : Launch} (hl : s.donationLaunch task true = some (n, l)) (hd : s.fewest l = some d) (ho : s.dieOn d = false) :
    s.takeDonation sender task time w = { s.wakeDie d with donations := s.donations ++ [⟨task, sender, time⟩] } := by
  simp only [State.takeDonation, hl, hd, ho, Bool.not_false, if_true]

/-- Settles O32: each event with its conditions given. -/
theorem countersBarriersAndDonations : Obligations.CountersBarriersAndDonations := by
  unfold Obligations.CountersBarriersAndDonations
  refine ⟨⟨?_, ?_, ?_, ?_⟩, ?_, ?_⟩
  · intro i s d hd hw hk way woken gone
    have hdst : d.dst = ctrClus d.counter := by simp only [Dec.dst, hk]
    rw [show exec (.joinDecrement i) s = execJoinDecrement i s from rfl]
    simp only [execJoinDecrement, hd, hw, Bool.not_true, Bool.false_eq_true, if_false, hk, hdst]
    refine ⟨fun h => event_of (across_clear h), fun h => ?_, fun l h => event_of (across_lost h)⟩
    by_cases hs : woken.links = s.links
    · rw [if_pos hs]
      exact event_waits ((across_held h).trans (if_pos hs))
    · rw [if_neg hs]
      exact event_of ((across_held h).trans (if_neg hs))
  · intro i info s p hp hi hway hplan
    rw [show exec (.parkMove i) s = execParkMove i s from rfl]
    simp only [execParkMove, hp, Option.bind_some]
    refine event_of ((across_clear hway).trans ?_)
    simp only [State.parkAt, hi, hplan]
    rfl
  · intro i info line sp tiles s s1 p hp c r dst gone hway hi hplan hmove j
    rw [show exec (.parkMove i) s = execParkMove i s from rfl]
    simp only [execParkMove, hp, Option.bind_some]
    refine event_of ((across_clear hway).trans ?_)
    simp only [State.parkAt]
    rw [show s.readRec p.launch (recOf p.frame) 24 8 = some info from hi,
      show s.planMove p.launch (recOf p.frame) (ctrClus (fnCtr p.frame)) = some (sp, line, tiles) from hplan]
    exact congrArg (Option.map _) hmove
  · intro i s a ha hway c co x k s0
    rw [show exec (.barrierArrival i) s = execBarrierArrival i s from rfl]
    simp only [execBarrierArrival, ha, Option.bind_some]
    refine ⟨fun hn hroom => ?_, fun hlast => ?_⟩
    · refine event_of ((across_clear hway).trans ?_)
      exact (if_neg hn).trans (if_neg (Nat.not_le.mpr hroom))
    · refine event_of ((across_clear hway).trans ?_)
      exact if_pos hlast
  · intro sender task s0 s refuses
    have step : exec (.donationIntake sender task) s0 = event s0 (some (
        if task.extractLsb' 99 29 != 0 then s.refuse task 3
        else if (s.donationLaunch task true).isNone then s.refuse task 2
        else if 64 ≤ s.donations.length then s.refuse task 1
        else s.takeDonation sender task s.now false)) := rfl
    refine ⟨fun h => ?_, fun h => ?_, fun h hl => ?_, fun h hl hn => ?_, fun n l d h hl hn hd => ⟨fun ho => ?_, fun ho => ?_⟩⟩
    · simp only [s, h, List.foldl_nil]
      cases s0
      simp only at h
      rw [h]
    · refine step.trans ?_
      rw [if_pos (by simpa using h)]
      rfl
    · refine step.trans ?_
      rw [h, hl]
      rfl
    · refine step.trans ?_
      have hn' : (s.donationLaunch task true).isNone = false := by rw [← Option.not_isSome, hl]; rfl
      rw [h, hn', if_neg (by decide), if_neg (by decide), if_pos hn]
      rfl
    · refine step.trans ?_
      rw [h, hl, if_neg (by decide), if_neg (by simp), if_neg (Nat.not_le.mpr hn), takeDonation_on hl hd ho, event_some]
    · refine step.trans ?_
      rw [h, hl, if_neg (by decide), if_neg (by simp), if_neg (Nat.not_le.mpr hn), takeDonation_off hl hd ho, event_some]
      rfl
  · intro i s d hd refuses
    have step : exec (.donationWaitExpiry i) s = event s
        (let s' : State := { s with donations := s.donations.eraseIdx i }
        if (s.donationLaunch d.task true).isNone then some (s'.refuse d.task 4)
        else if 100000 ≤ (s.now - d.time).toNat then some (s'.refuse d.task 1)
        else none) := by
      rw [show exec (.donationWaitExpiry i) s = execDonationWaitExpiry i s from rfl]
      simp only [execDonationWaitExpiry, hd]
    refine ⟨fun hl => step.trans ?_, fun hl hn => step.trans ?_⟩
    · rw [hl]
      rfl
    · have hn' : (s.donationLaunch d.task true).isNone = false := by rw [← Option.not_isSome, hl]; rfl
      rw [hn', if_neg (by decide), if_pos hn]
      rfl

end Sys2Proof.Machine
end

section
/-! The ordering machine: queues, homes and host traffic (R51 to R73, R358 to R362; O33 to O35). -/

namespace Sys2Proof.Machine

/-! Homes of device memory (R51, R62). -/

/-- With no copy of the line at the host nothing is pulled. -/
theorem pullHost_of_uncopied {s : State} {l : Nat} (h : ∀ c ∈ s.copies, c.line ≠ l) : s.pullHost l false = s := by
  have hm : (s.copies.filter fun c => c.line == l) = [] := by
    simpa [List.filter_eq_nil_iff] using h
  simp [State.pullHost, hm]

theorem l2Touch_copies (s : State) (d l : Nat) : (s.l2Touch d l).copies = s.copies := (l2Touch_keeps s d l).2.1

theorem l2Touch_slice (s : State) (d l k : Nat) : (s.l2Touch d l).slice k = s.slice k := by
  rw [State.slice, (l2Touch_keeps s d l).2.2.2, State.slice]

theorem l2Touch_readLine (s : State) (d l k : Nat) : (s.l2Touch d l).readLine k = s.readLine k := by
  rw [State.readLine, (l2Touch_keeps s d l).1, State.readLine]

section
variable {s : State} {l : Nat} (hd : paHost (128 * l) = false) (hc : ∀ c ∈ s.copies, c.line ≠ l)
include hd hc

/-- A line of device memory that no host has copied is read at its home. -/
theorem homeRead_device (core func : Nat) (va : Word) (die : Nat) :
    s.homeRead core func va die l = (s.l2Touch die l, s.readLine l) := by
  have hp : (s.l2Touch die l).pullHost l false = s.l2Touch die l :=
    pullHost_of_uncopied (by rw [l2Touch_copies]; exact hc)
  simp only [State.homeRead, hd, Bool.false_eq_true, if_false, hp, l2Touch_readLine]

/-- It is written there. -/
theorem homeWrite_device (core func : Nat) (va : Word) (die : Nat) (d : Line) (m : ByteMask) :
    s.homeWrite core func va die l d m = (s.l2Touch die l).mergeLine l d m := by
  have hp : (s.l2Touch die l).pullHost l false = s.l2Touch die l :=
    pullHost_of_uncopied (by rw [l2Touch_copies]; exact hc)
  simp only [State.homeWrite, hd, Bool.false_eq_true, if_false, hp]

end

/-- A die asks for no line that no filter tracks. -/
theorem askLost_of_untracked {s : State} {die l : Nat} (h : ∀ p, ∀ e ∈ s.filters.get p [], e.line ≠ l) :
    s.askLost die l = s := by
  have hf : ∀ p, (s.filters.get p []).find? (fun e => e.line == l) = none := by
    intro p
    simpa [List.find?_eq_none] using h p
  simp [State.askLost, hf]

/-- FILL of a cluster's only fetch: what waits on it is answered, and its atomics act (R70). -/
theorem fillOne_only {clus line n : Nat} {s : State} {f : Fetch} {d : Line} (hf : (s.cluster clus).fetches = [f])
    (hl : f.line = line) (hg : f.got = some (n, d)) (hw : s.wayBusy clus line = false) :
    let w : Who := ⟨f.core, f.ctx, f.func, 5⟩
    let s1 := (s.setCluster clus { s.cluster clus with fetches := [] }).performed f.serial
    s.fillOne clus line =
      if f.poisoned then
        some (f.atoms.foldl (fun s' a =>
          if a.req.returning then (s'.performed a.serial).failSink a.sink .poison
          else (s'.performed a.serial).discardAt (64 * servedAt w.die line + homeSlice (128 * line)) 1)
          (f.loads.foldl (fun s' x => s'.answerLoad x d true) s1))
      else
        let r := s1.install w line (f.bytes d) f.place f.va f.behind
        let held := match r.2 with
          | some c => if c.st = LState.a then f.bytes d else c.data
          | none => f.bytes d
        some (f.atoms.foldl (fun s' a => s'.runAtom w f.place f.va line a)
          (f.loads.foldl (fun s' x => s'.answerLoad x held false) r.1)) := by
  subst hl
  intro w s1
  have hloads : f.loads.filter (fun _ => true) = f.loads := List.filter_eq_self.mpr fun _ _ => rfl
  simp only [State.fillOne, hf, hw, hg, Bool.false_eq_true, if_false, beq_self_eq_true, Option.isSome_some, Bool.and_true,
    List.filter_cons, if_true, List.filter_nil, List.foldl_cons, List.foldl_nil, bne_self_eq_false, Bool.false_and,
    Bool.not_false, List.flatMap_cons, List.flatMap_nil, List.append_nil, hloads, List.map_nil]
  rfl

/-- Settles O33: the head of its queue, or the line, with the conditions given. -/
theorem queuesServeTheirHeads : Obligations.QueuesServeTheirHeads := by
  unfold Obligations.QueuesServeTheirHeads
  refine ⟨?_, ?_, ?_, ?_⟩
  · intro core h s it r hq hh hd hs
    rw [show exec (.drain core h) s = execDrain core h s from rfl]
    have hd' : s.dieOn (coreDie core) = true := hd
    simp [execDrain, hq, Nat.not_le.mpr hh, hd', hs, swept]
  · intro link h s it r hq hh hd hs
    rw [show exec (.ingress link h) s = execIngress link h s from rfl]
    simp [execIngress, hq, Nat.not_le.mpr hh, hd, hs, swept]
  · intro link s it r hq s1 key
    refine ⟨fun hup => ⟨fun hh => ?_, fun hn => ?_⟩, fun slow ha => ?_⟩
    · rw [show exec (.hop link) s = execHop link s from rfl]
      simp only [execHop, hq, hup]
      rw [if_pos hh, event_some]
      simp only [s1, hup, key]
    · rw [show exec (.hop link) s = execHop link s from rfl]
      simp only [execHop, hq, hup]
      rw [if_neg hn, event_some]
      simp only [s1, hup]
    · rw [show exec (.hop link) s = execHop link s from rfl]
      simp only [execHop, hq, ha, event_some]
  · intro core line s c hc hserve hbusy
    rw [show exec (.evict core line) s = execEvict core line s from rfl]
    have hfind : (s.cluster (coreClus core)).findLine line = some c := hc
    have hbusy' : s.wayBusy (coreClus core) line = false := hbusy
    have hserve' : (decide (core % 32 = 0) || s.live.any fun l => slotCore l.slot == core) = true := by
      simpa using hserve
    simp [execEvict, hfind, hbusy', hserve', swept]
    rfl

/-- Settles O34: an item at the home of its line, and the FILL of a fetch. -/
theorem itemsActAtTheirHome : Obligations.ItemsActAtTheirHome := by
  unfold Obligations.ItemsActAtTheirHome
  refine ⟨?_, ?_⟩
  · intro s it hd hp hc hf hsh hheld old use
    have hask : (if (s.l2host.find (l2Key it.die it.line)).isNone then s.askLost it.die it.line else s) = s := by
      rw [askLost_of_untracked hf, ite_self]
    have hcp : ∀ c ∈ (s.performed it.serial).copies, c.line ≠ it.line := hc
    refine ⟨?_, ?_, ?_, ?_⟩
    · intro off n k ha
      simp only [State.perform, hask, ha, hp, homeRead_device hd hc, Bool.false_eq_true, if_false]
      rfl
    · intro d m h ha
      simp only [State.perform, hask, ha, State.performWrite, hd, hheld, hsh, List.any_nil, Bool.or_self,
        Bool.false_eq_true, if_false, homeWrite_device hd hc]
      rfl
    · intro f d m ha s1 r
      simp only [State.perform, hask, ha, hp, Bool.false_eq_true, if_false, homeRead_device hd hcp]
      rw [homeWrite_device hd (by simpa [l2Touch_copies] using hcp)]
      simp only [l2Touch_slice]
      rfl
    · intro q off k ha x v none s1 s2
      have hdec : (q.kind == .dec && x == 0) = decide none := by
        rw [Bool.decide_and]
        rfl
      have hs2 : (if (q.kind == .dec && x == 0) = true then ((s.performed it.serial).l2Touch it.die it.line)
          else ((s.performed it.serial).l2Touch it.die it.line).homeWrite it.core it.func it.va it.die it.line
            (lineAt v.1 off) (byteMask off q.kind.bytes)) = s2 := by
        rw [homeWrite_device hd (by simpa [l2Touch_copies] using hcp), hdec]
        simp only [decide_eq_true_eq]
        rfl
      simp only [State.perform, hask, ha, hp, Bool.false_eq_true, if_false, homeRead_device hd hcp]
      refine ⟨fun hr => ?_, fun hr => ?_⟩
      · simp only [State.slotFlags, hr, if_true]
        exact congrArg (fun t : State => (t.deliver k x).sinkFlags k v.2) hs2
      · simp only [State.slotFlags, hr, Bool.false_eq_true, if_false]
        exact congrArg (fun t : State => t.setSlice it.slice { t.slice it.slice with
          ctr := countFlags (t.slice it.slice).ctr v.2 }) hs2
  · intro clus line n s f d hf hl hg hw w s1 bytes
    refine ⟨fun hp => ?_, fun hp => ?_⟩
    · rw [show exec (.fill clus line) s = event s (swept (s.fillOne clus line)) from rfl, fillOne_only hf hl hg hw,
        if_pos hp, swept, Option.map_some, event_some]
    · rw [show exec (.fill clus line) s = event s (swept (s.fillOne clus line)) from rfl, fillOne_only hf hl hg hw, hp,
        swept]
      rfl

/-- The dies of a mask whose links sleep: none where every powered one is awake (R362). -/
theorem asleep_nil {s : State} {m : BitVec 8}
    (h : ∀ d, d < 8 → setHas m d = true → s.dieOn d = true → s.dieAwake d = true) : s.asleep m = [] := by
  simp only [State.asleep, List.filter_eq_nil_iff, List.mem_range, Bool.and_eq_true, Bool.not_eq_true', not_and,
    Bool.not_eq_false]
  exact fun d hd hm => h d hd hm.1 hm.2

/-- The atomic at the head of a fabric port acts, once what its line needs stands ready (R55). -/
theorem portAtomic_head {p : Nat} {s s1 : State} {o : PortOp} {r : List PortOp} (hq : (s.port p).queue = o :: r)
    (ha : s.allDone false o.after = true) (hp : s.poison.contains (o.pa / 128) = false)
    (h1 : (paHost o.pa = true ∧ s.hostCarries p = true ∧ s.mayOwn (o.pa / 128) true = true ∧
        s1 = (((s.setPort p { s.port p with queue := r }).performed o.serial).hostFlushLine (o.pa / 128)).hostOwns
          (o.pa / 128) true) ∨
      (paHost o.pa = false ∧ s.heldOn (sliceOf (o.pa / 128)) (o.pa / 128) = false ∧
        s.rowBusy (paDie o.pa) (o.pa / 128) = false ∧
        s1 = ((s.setPort p { s.port p with queue := r }).performed o.serial).pullHost (o.pa / 128) true)) :
    s.portAtomic p =
      let old := s1.readMem o.pa o.req.kind.bytes
      let v := o.req.apply old
      let s2 := s1.mergeLine (o.pa / 128) (lineAt v.1 (o.pa % 128)) (byteMask (o.pa % 128) o.req.kind.bytes)
      some (if o.req.returning then (s2.deliver o.sink old).sinkFlags o.sink v.2
        else s2.setPort p { s2.port p with ctr := countFlags (s2.port p).ctr v.2 }) := by
  have hp' : ((s.setPort p { s.port p with queue := r }).performed o.serial).poison.contains (o.pa / 128) = false := hp
  obtain ⟨hh, hc, ho, rfl⟩ | ⟨hh, hc, ho, rfl⟩ := h1
  · simp only [State.portAtomic, hq, ha, hh, hc, ho, hp', Bool.not_true, Bool.false_and, Bool.and_self, Bool.or_self,
      Bool.false_eq_true, if_false, if_true, Bool.and_false]
    split <;> rfl
  · simp only [State.portAtomic, hq, ha, hh, hc, ho, hp', Bool.not_true, Bool.false_and, Bool.or_self, Bool.not_false,
      Bool.false_eq_true, if_false, Bool.and_false]
    split <;> rfl

/-- Settles O35: each of the events, with its conditions given. -/
theorem hostTrafficIsServed : Obligations.HostTrafficIsServed := by
  unfold Obligations.HostTrafficIsServed
  refine ⟨?_, ?_, ?_, ?_⟩
  · intro line p s hc
    refine ⟨fun hs hw => ?_, fun it r hq => ?_, fun ht => ⟨fun h => ?_, fun h => ?_⟩, fun q e ht hm => ?_⟩
    · rw [show exec (.biack line p) s = execBiack line p s from rfl]
      have hany : ((s.slice (sliceOf line)).sharers.any fun e => e.1 == line && e.2.1 == p) = true := by
        simpa using hs
      simp [execBiack, hany, hc, hw]
    · rw [show exec (.hostw p) s = execHostw p s from rfl]
      simp [execHostw, hq, hc]
    · rw [show exec (.hostSnoop line p) s = execHostSnoop line p s from rfl]
      simp [execHostSnoop, hc, ht, h]
    · rw [show exec (.hostSnoop line p) s = execHostSnoop line p s from rfl]
      have hno : (s.queuedBack line && !s.hostFree line) = false := by
        obtain h | h := h <;> simp [h]
      simp [execHostSnoop, hc, ht, hno]
    · rw [show exec (.hostSnoop line p) s = execHostSnoop line p s from rfl]
      simp [execHostSnoop, hc, ht, asleep_nil hm]
  · intro pa v w p s line n
    refine ⟨fun hv => ⟨?_, ?_⟩, fun hv hal => ⟨fun hh => ⟨fun hm => ?_, fun hm => ?_⟩, fun s1 hh hf => ⟨?_, ?_⟩⟩⟩
    · rw [show exec (.host (.load pa w p)) s = execHost (.load pa w p) s from rfl]
      simp [execHost, hv]
    · rw [show exec (.host (.store pa w v p)) s = execHost (.store pa w v p) s from rfl]
      simp [execHost, hv]
    · rw [show exec (.host (.load pa w p)) s = execHost (.load pa w p) s from rfl]
      simp only [execHost, hv, hh, Bool.not_true, Bool.false_eq_true, if_false]
      exact event_of ((if_neg (not_not.mpr hal)).trans (congrArg (Option.map _) (if_pos hm)))
    · rw [show exec (.host (.store pa w v p)) s = execHost (.store pa w v p) s from rfl]
      simp only [execHost, State.hostChange, hv, hh, Bool.not_true, Bool.false_eq_true, if_false, if_true]
      have hno : ¬(!s.mayOwn (pa.toNat / 128) true) = true := by
        rw [show s.mayOwn (pa.toNat / 128) true = true from hm]
        decide
      exact event_of ((if_neg (not_not.mpr hal)).trans (if_neg hno))
    · rw [show exec (.host (.load pa w p)) s = execHost (.load pa w p) s from rfl]
      simp only [execHost, hv, hh, Bool.not_true, Bool.not_false, Bool.false_eq_true, if_false, if_true]
      exact event_of ((if_neg (not_not.mpr hal)).trans (congrArg (Option.map _) hf))
    · rw [show exec (.host (.store pa w v p)) s = execHost (.store pa w v p) s from rfl]
      simp only [execHost, State.hostChange, hv, hh, Bool.not_true, Bool.false_eq_true, if_false]
      exact event_of ((if_neg (not_not.mpr hal)).trans (congrArg (Option.map _) hf))
  · intro place line s
    refine ⟨fun h => ?_, fun d h => ?_, fun d h => ?_, ?_⟩
    · subst h; rfl
    · subst h; rfl
    · subst h; rfl
    · intro k c h hc s1
      subst h
      rw [show exec (.uncorrectableError (.clusterSram k) line) s = execUncorrectableError (.clusterSram k) line s from rfl]
      have hw : (s.whoFor k).clus = k := Nat.mul_div_cancel_left k (by decide)
      simp only [execUncorrectableError, hc, event_some, State.sendPoison, hw]
      rfl
  · intro p s o r hq ha hp n line s0 s1 h1 old v s2
    have hstep := portAtomic_head hq ha hp h1
    rw [show exec (.fabricPortAtomic p) s = event s (swept (s.portAtomic p)) from rfl, hstep, swept, Option.map_some,
      event_some]
    refine ⟨fun hr => ?_, fun hr => ?_⟩
    · rw [hr]
      rfl
    · rw [hr]
      rfl

end Sys2Proof.Machine
end

section
/-! Engines and the exchange (R64, R80, R252 to R267, R374; O36, O37). -/

namespace Sys2Proof.Machine

/-- An engine operation with accesses left does not end. -/
theorem finishEngine_of_todo {s : State} {e : Engine} (h : e.todo ≠ []) : s.finishEngine e = none := by
  have ht : e.todo.isEmpty = false := by simpa using h
  simp [State.finishEngine, ht]

/-- An access after which the operation has others left. -/
theorem engStep_more {s s1 : State} {x y : Engine} {g : Geometry} {i : Nat} {a : EngAcc} (hj : x.job = .copy g)
    (hi : x.todo[i]? = some a) (ha : s.copyAccess x g i a = .done s1 y) (ht : y.todo ≠ []) :
    s.engStep x i = some (s1.setEngine y).sweep := by
  simp only [State.engStep, hi, hj, ha, finishEngine_of_todo ht, Option.getD_none]

theorem engStep_waits {s : State} {x : Engine} {g : Geometry} {i : Nat} {a : EngAcc} (hj : x.job = .copy g)
    (hi : x.todo[i]? = some a) (ha : s.copyAccess x g i a = .wait) : s.engStep x i = none := by
  simp only [State.engStep, hi, hj, ha]

theorem execEng_of {s : State} {x : Engine} {e i : Nat} (h : s.engine e = some x) :
    exec (.eng e i) s = event s (s.engStep x i) := by
  rw [show exec (.eng e i) s = execEng e i s from rfl]
  simp only [execEng, h]

/-- A stage goes on while accesses are left. -/
theorem stage_of_todo {x : Engine} {g : Geometry} {a : EngAcc} (h : x.todo ≠ []) : x.stage g a = x := by
  have ht : x.todo.isEmpty = false := by simpa using h
  simp [Engine.stage, ht]

/-- Writing to the named clusters takes no access from the list. -/
theorem castWrite_todo (s : State) (x : Engine) (g : Geometry) (b at' v : Nat) (bad : Bool) :
    (s.castWrite x g b at' v bad).2.todo = x.todo := by
  unfold State.castWrite
  refine List.foldlRecOn (motive := fun a : State × Engine => a.2.todo = x.todo) g.mcast _ rfl fun a ha c _ => ?_
  dsimp only
  split <;> exact ha

/-- A list of which one element is taken keeps another. -/
theorem eraseIdx_ne_nil {α : Type} {l : List α} {i : Nat} {a : α} (h : l[i]? = some a) (hl : l.length ≠ 1) :
    l.eraseIdx i ≠ [] := by
  have hi : i < l.length := (List.getElem?_eq_some_iff.mp h).1
  intro hn
  have := congrArg List.length hn
  rw [List.length_eraseIdx_of_lt hi, List.length_nil] at this
  omega

section
variable {s : State} {x : Engine} {g : Geometry} {i : Nat}

/-- A copy reads an element of its scratch source, which is then to be written (R255). -/
theorem copyAccess_read {j k b : Nat} (hs : g.src = .sram b) (hf : g.fifo = none) :
    s.copyAccess x g i (.read j k) =
      let at' := sramAt b (g.srcOff x.offs j)
      if s.sramBusy x.clus at' g.esz then .wait
      else .done s { x with
        todo := x.todo.eraseIdx i ++ [.write j ((s.cluster x.clus).readSram at' g.esz) ((s.cluster x.clus).badAt at' g.esz)]
        codes := if (s.cluster x.clus).badAt at' g.esz then codePoison :: x.codes.filter fun c => c != codePoison else x.codes } := by
  simp only [State.copyAccess, hs, Engine.copyGot, hf, Engine.without]
  cases (s.cluster x.clus).badAt (sramAt b (g.srcOff x.offs j)) g.esz
  all_goals
    simp only [Bool.false_eq_true, if_false, if_true]
    rw [stage_of_todo (by simp)]

/-- It writes one into every named cluster. -/
theorem copyAccess_write {j v b : Nat} {bad : Bool} (hd : g.dst = .sram b) :
    s.copyAccess x g i (.write j v bad) =
      let r := s.castWrite { x with todo := x.todo.eraseIdx i } g b (sramAt b (g.dstOff j)) v bad
      if g.mcast.any fun c => s.sramBusy c (sramAt b (g.dstOff j)) g.esz then .wait else .done r.1 r.2 := by
  simp only [State.copyAccess, hd]
  rfl

end

/-- Settles O36: each access and each start, with its conditions given. -/
theorem enginesMoveTheirElements : Obligations.EnginesMoveTheirElements := by
  unfold Obligations.EnginesMoveTheirElements
  refine ⟨?_, ?_, ?_⟩
  · intro e i s x g hx hj
    refine ⟨?_, ?_, ?_⟩
    · intro j k b hi hs hf kk at'
      refine ⟨fun hb => ?_, fun hb => ?_⟩
      · rw [execEng_of hx]
        exact event_waits (engStep_waits hj hi ((copyAccess_read hs hf).trans (if_pos hb)))
      · rw [execEng_of hx]
        exact event_of (engStep_more hj hi ((copyAccess_read hs hf).trans (if_neg (ne_true_of_eq_false hb)))
          (List.append_ne_nil_of_right_ne_nil _ (List.cons_ne_nil _ _)))
    · intro j v bad b hi hd hl r
      refine ⟨fun hb => ?_, fun hb => ?_⟩
      · rw [execEng_of hx]
        have hany : (g.mcast.any fun c => s.sramBusy c (sramAt b (g.dstOff j)) g.esz) = true := by simpa using hb
        exact event_waits (engStep_waits hj hi ((copyAccess_write hd).trans (if_pos hany)))
      · rw [execEng_of hx]
        have hany : (g.mcast.any fun c => s.sramBusy c (sramAt b (g.dstOff j)) g.esz) = false := by simpa using hb
        refine event_of (engStep_more hj hi ((copyAccess_write hd).trans (if_neg (ne_true_of_eq_false hany))) ?_)
        rw [castWrite_todo]
        exact eraseIdx_ne_nil hi hl
    · intro ctx d ht hr hg hh hst s1
      rw [execEng_of hx]
      refine event_of ?_
      simp only [State.engStep, State.finishEngine, ht, hr, hg, hh, hst, List.getElem?_nil, List.isEmpty_nil, Bool.not_true,
        Bool.or_self, Bool.false_eq_true, if_false]
      rfl
  · intro e s x n p hx hj hr hp h16
    have hfirst : ((spotOf x.spots n.src).map fun p => stackOf p.pa).getD 16 = stackOf p.pa := by rw [hp]; rfl
    rw [show exec (.nearMemoryExec e) s = execNearMemoryExec e s from rfl]
    simp only [execNearMemoryExec, hx, hj, hr, hfirst, Bool.false_eq_true, if_false]
    refine ⟨fun hs => ?_, fun hs => ?_⟩
    · have hno : (decide (stackOf p.pa = 16) || (x.spots.map fun p => stackOf p.2.pa).any fun y => y != stackOf p.pa) = false := by
        simpa [h16] using hs
      rw [hno]
      rfl
    · have hyes : (decide (stackOf p.pa = 16) || (x.spots.map fun p => stackOf p.2.pa).any fun y => y != stackOf p.pa) = true := by
        simpa [h16] using hs
      rw [hyes]
      rfl
  · intro clus n r s l k hh hl hst hsc hr hcount hboard core v g xa xb bind ring ivs s1 bad
    have hhold : (k.holder.bind fun n => (s.launches.find n).map fun l => (n, l)) = some (n, l) := by
      rw [hh, Option.bind_some, hl, Option.map_some]
    have hgo : (decide (bits (l.word 432).toNat 0 16 ≤ k.sched) || !k.started) = false := by
      simp [hst, hsc]
    have hsc' : (decide (k.sc.toNat < bits r 0 32) || decide (32 ≤ k.board.length)) = false := by
      simp [hcount, hboard]
    have step : exec (.scheduleEntryStart clus) s = event s
        (if bits r 34 30 ≠ 0 || bits r 192 320 ≠ 0 || (k.rings.find ring).isNone ||
            (copyChecks g v xa xb k (s.core core) bind).isSome then some { s1 with
              engines := s1.engines ++ [{ copyEngine s.serial 2 clus core l.func
                  ⟨1, false, none, 1, 1, 0, 0, 0, 0, 0, 0, 0, 0, .mem 0, .mem 0, []⟩ [] (some ring) none g.tag with
                codes := [codeRange] }]
              serial := s1.serial + 1 }
          else if !s.boardFree (clus :: castList clus g.mask) || (g.tofifo && k.busyBank g.fbank) ||
              (ivs.any fun v => v.busy k bind) then none
          else match translateAll (s.walkPage core l.func) ivs with
            | .walk _ _ => none
            | .trap _ _ => some { s1 with
              engines := s1.engines ++ [{ copyEngine s.serial 2 clus core l.func
                  ⟨1, false, none, 1, 1, 0, 0, 0, 0, 0, 0, 0, 0, .mem 0, .mem 0, []⟩ [] (some ring) none g.tag with
                codes := [codeRange] }]
              serial := s1.serial + 1 }
            | .ok spots =>
              some (s1.fork (copyEngine s.serial 2 clus core l.func (geometryOf g v xa xb clus k bind) spots
                (some ring) none g.tag) (boardOf s.serial k bind spots ivs) (castList clus g.mask))) := by
      rw [show exec (.scheduleEntryStart clus) s = execScheduleEntryStart clus s from rfl]
      simp only [k] at hhold hgo hr
      simp only [execScheduleEntryStart, hhold, hgo, Bool.false_eq_true, if_false, hr]
      exact congrArg (event s) (if_neg (ne_true_of_eq_false hsc'))
    have hbad : (bits r 34 30 ≠ 0 || bits r 192 320 ≠ 0 || (k.rings.find ring).isNone ||
        (copyChecks g v xa xb k (s.core core) bind).isSome) = true ↔ bad := by
      simp [bad, or_assoc]
    refine ⟨fun hb => ?_, fun spots hb hfree hfifo hbusy htr => ?_⟩
    · rw [step, if_pos (hbad.mpr hb)]
      exact ⟨_, rfl, rfl, rfl, rfl, rfl, rfl, rfl⟩
    · have hany : (ivs.any fun v => v.busy k bind) = false := by simpa using hbusy
      rw [step, if_neg (mt hbad.mp hb), hfree, hfifo, hany, htr]
      rfl

/-! The exchange (R259 to R267). -/

@[simp] theorem State.xu_setXu (s : State) (d : Nat) (x : Exchange) : (s.setXu d x).xu d = x := by
  simp [State.xu, State.setXu]

/-- Without a table no row is held at the ingress. -/
theorem rowHeld_of_no_table {x : Exchange} (h : x.emap = none) (e : Nat) : x.rowHeld e = false := by
  simp [Exchange.rowHeld, h]

/-- A row that was taken up is gone on with, copy by copy (R267). -/
theorem ingressRow_goes {s : State} {die e : Nat} {m : XTable} {l : List Nat} (hm : (s.xu die).emap = some m)
    (hh : (s.xu die).rowHeld e = true) (hc : (Tab.get (s.xu die).receives e .reset : Receive).copies = some l) :
    s.ingressRow die e = s.spread die e m l := by
  simp only [State.ingressRow, hm, hh, hc, Bool.not_true, Bool.false_eq_true, if_false]

/-- A row whose check holds is dropped where it was seen before, and otherwise taken up (R267). -/
theorem ingressRow_taken {s : State} {die e : Nat} {m : XTable} {r : Receive} {h : Line}
    (hm : (s.xu die).emap = some m) (hh : (s.xu die).rowHeld e = true)
    (hr : (Tab.get (s.xu die).receives e .reset : Receive) = r) (hl : ((r.lines.head?).map fun l => l.data).getD 0 = h)
    (hc : r.copies = none) (hbad : ∀ l ∈ r.lines, l.bad = false)
    (hcrc : crc32c ((r.lines.drop 1).map fun l => l.data) = rowBits h 672 32) :
    s.ingressRow die e =
      if seenRow (Tab.get (s.xu die).seen (rowBits h 608 6) []) (rowBits h 576 32) then
        some ((s.setXu die (s.xu die).dropDup).setReceive die e { r with lines := [], put := r.put + 128 * r.lines.length })
      else
        let chosen := (rankBy (fun j => scoreKey (rowBits h (32 * j) 32)) m.epg).take m.topk
        let s := s.setReceive die e { r with copies := some chosen }
        some ((s.spread die e m chosen).getD s) := by
  have hchk : ((r.lines.any fun l => l.bad) || crc32c ((r.lines.drop 1).map fun l => l.data) != rowBits h 672 32) =
      false := by
    rw [hcrc, bne_self_eq_false, Bool.or_false]
    simpa using hbad
  simp only [State.ingressRow, hm, hh, hr, hl, Bool.not_true, Bool.false_eq_true, if_false]
  split
  · next h => exact absurd (hc.symm.trans h) (Option.some_ne_none _).symm
  · rw [if_neg (ne_true_of_eq_false hchk)]

/-- Settles O37: each event of a round, with its conditions given. -/
theorem exchangeRoundsRun : Obligations.ExchangeRoundsRun := by
  unfold Obligations.ExchangeRoundsRun
  refine ⟨⟨?_, ?_, ?_, ?_⟩, ?_, ?_⟩
  · intro die i e s c hi hc s1 x
    have step : exec (.calendarArrival die) s = event s (s1.takeCalendar die c) := by
      rw [show exec (.calendarArrival die) s = execCalendarArrival die s from rfl]
      simp only [execCalendarArrival, hi, hc, Option.bind_some]
      rfl
    refine ⟨fun h => ?_, fun h => ?_, fun hg h => ?_⟩
    · rw [step]
      exact event_of (if_pos h)
    · rw [step]
      refine event_waits ?_
      obtain h | ⟨hg, h⟩ := h
      · refine (if_neg (Nat.lt_asymm h)).trans (if_pos fun hg => ?_)
        rw [hg] at h
        exact Nat.lt_irrefl _ h
      · refine (if_neg ?_).trans ((if_neg (not_not.mpr hg)).trans (if_pos h))
        rw [hg]
        exact Nat.lt_irrefl _
    · rw [step]
      have hn : ¬(x.state = .granted ∨ x.state = .running) := by
        obtain h | h := h <;> simp [h]
      refine event_of ((if_neg ?_).trans ((if_neg (not_not.mpr hg)).trans (if_neg hn)))
      rw [hg]
      exact Nat.lt_irrefl _
  · intro die s c hst hcal hts hnext
    have hb : (s.setXu die { s.xu die with state := .running }).beginPhase die = none := by
      simp only [State.beginPhase, State.xu_setXu]
      rw [show ({ s.xu die with state := .running } : Exchange).nextPhase = none from hnext, Option.bind_none, ite_self]
    rw [show exec (.phaseStart die) s = execPhaseStart die s from rfl]
    simp only [execPhaseStart]
    split
    · next c' _ hc' =>
      obtain rfl : c' = c := Option.some.inj (hc'.symm.trans hcal)
      refine event_of ((if_neg (Nat.not_lt.mpr hts)).trans (congrArg some ?_))
      rw [hb, Option.getD_none]
    · next h => exact absurd (hst.symm.trans h) (by decide)
    · next h => exact (h _ hst hcal).elim
  · intro die p s x hst hph hnext ht hgr
    rw [show exec (.phaseStart die) s = execPhaseStart die s from rfl]
    simp only [execPhaseStart]
    split
    · next h _ => exact absurd (hst.symm.trans h) (by decide)
    · refine event_of ((if_neg (not_not.mpr hph)).trans ((congrArg (Option.bind · _) hnext).trans ?_))
      refine (if_neg (Nat.not_lt.mpr ht)).trans (congrArg some ?_)
      exact congrArg (fun m : Option Grant => ({ s.setXu die { x with
        phase := p
        moving := (m.bind fun g => (x.sendTo g.partner).bind fun d =>
          if d.issued.toNat ≤ (x.phaseTime p).1 && !d.lost then some (s.serial, g.partner, g.lines) else none) } with
        serial := s.serial + 1 } : State)) hgr
    · next h _ => exact absurd hst h
  · intro die s x hst hrec
    have hr : (!x.records.isEmpty) = false := by rw [hrec]; rfl
    have step : exec (.phaseEnd die) s = event s (if x.phase ≠ x.ended then
          if (s.die die).ptc.toNat < (x.phaseTime x.phase).2 then none
          else if x.phase ≠ x.sentEnd then
            (s.endSending die).map fun s => s.setXu die { s.xu die with sentEnd := (s.xu die).phase, moving := none }
          else (s.endReceiving die).map fun s => s.setXu die { s.xu die with ended := (s.xu die).phase }
        else if x.nextPhase.isSome then none
        else if (s.die die).ptc.toNat < ((x.cal.map fun c => c.stop.toNat).getD 0) then none
        else s.endRound die) :=
      congrArg (event s) ((if_neg (not_not.mpr hst)).trans (if_neg (ne_true_of_eq_false hr)))
    refine ⟨fun hne ht => ⟨fun hs hg => ?_, fun hs hg => ?_⟩, fun heq hn ht => ⟨fun d hd hh => ?_, fun hd he ha => ?_⟩⟩
    · rw [step, if_pos hne, if_neg (Nat.not_lt.mpr ht), if_pos hs]
      refine event_of (congrArg (Option.map _) (a₂ := some s) ?_)
      simp only [State.endSending]
      rw [show (s.xu die).grantIn (s.xu die).phase false = none from hg]
    · rw [step, if_pos hne, if_neg (Nat.not_lt.mpr ht), if_neg (not_not.mpr hs)]
      refine event_of (congrArg (Option.map _) (a₂ := some s) ?_)
      simp only [State.endReceiving]
      rw [show (s.xu die).grants.find? (fun g => g.phase == (s.xu die).phase && g.rx) = none from hg]
    · rw [step, if_neg (not_not.mpr heq), hn, if_neg (by decide), if_neg (Nat.not_lt.mpr ht)]
      have hno : ((s.xu die).receives.any fun r => (s.xu die).rowHeld r.1) = false := by
        simpa only [List.any_eq_false, Bool.not_eq_true] using hh
      refine event_of ((if_neg (ne_true_of_eq_false hno)).trans ?_)
      rw [show (s.xu die).sends.find? (fun d => !d.reported) = some d from hd]
    · rw [step, if_neg (not_not.mpr heq), hn, if_neg (by decide), if_neg (Nat.not_lt.mpr ht)]
      have hno : ((s.xu die).receives.any fun r => (s.xu die).rowHeld r.1) = false := by
        simp only [List.any_eq_false, Bool.not_eq_true]
        exact fun r _ => rowHeld_of_no_table he r.1
      refine event_of ((if_neg (ne_true_of_eq_false hno)).trans ?_)
      rw [show (s.xu die).sends.find? (fun d => !d.reported) = none from hd]
      simp only [x] at he ha
      simp only [x]
      split
      · next h => exact absurd (he.symm.trans h) (Option.some_ne_none _).symm
      · simp only [ha, Bool.not_true, Bool.false_eq_true, if_false]
  · intro die e s m x r h src seq old n hm hh
    refine ⟨fun hr hbad hcrc => ?_, ?_, fun hr => ?_⟩
    · have step := ingressRow_taken hm hh rfl rfl hr hbad hcrc
      exact ⟨fun hold => event_of (step.trans (if_pos hold)),
        fun hold => event_of (step.trans (if_neg (ne_true_of_eq_false hold)))⟩
    · intro j l s1 hr hput s2
      exact event_of ((ingressRow_goes hm hh hr).trans (congrArg (Option.map _) hput))
    · exact event_of ((ingressRow_goes hm hh hr).trans rfl)
  · intro die e bytes s g d x hst hph hs hg hp hdie hd
    rw [show exec (.exchangeLinkFailure die e bytes) s = event s (s.linkFailure die e bytes) from rfl]
    have hno : ¬(x.state ≠ .running ∨ x.phase = x.ended) := by simp [hst, hph]
    have hgo : ((x.grantIn x.phase false).any (fun g => g.partner == e) && x.phase ≠ x.sentEnd) = true := by
      simp [hg, hp, hs]
    refine event_of ((if_neg hno).trans ((if_pos hgo).trans ?_))
    simp only [x] at hd
    have hdie' : ∀ y, (s.setXu die y).dieOf e = none := fun _ => hdie
    simp only [hd, hdie, hdie', Option.map_some, Option.isSome_none, Bool.false_eq_true, if_false, x]

end Sys2Proof.Machine
end

section
/-! The Centroid (R365, R369 to R377; O38). -/

namespace Sys2Proof.Machine

/-- The owner's write of a governed register takes effect (R365). -/
theorem governed_owner {s : State} {who : BitVec 16} {reg : Nat} (o : Option State) (hb : s.boot.running.isSome = true)
    (ho : s.owns who = true) : s.governed who reg o = o := by
  simp [State.governed, ← Option.not_isSome, hb, ho]

/-- Another master's is dropped and recorded, after a lease that has run out has ended (R364, R365). -/
theorem governed_other {s : State} {who : BitVec 16} {reg : Nat} (o : Option State) (hb : s.boot.running.isSome = true)
    (ho : s.owns who = false) :
    s.governed who reg o = some (s.expireLease.error 15 1 0 0 1 (Config.registerOffset reg) who.toNat) := by
  simp [State.governed, ← Option.not_isSome, hb, ho]

/-- A post of a member joins the round, which closes once it was the last (R370). -/
theorem joinRound_member {s : State} {p : Post} (hl : p.late = false) (hg : p.gen = s.cg.gen)
    (hm : s.group.members.contains p.endpoint = true) :
    s.joinRound p =
      let s1 : State := { s with cg := { s.cg with
        rows := s.cg.rows.put p.endpoint (p.row.set p.endpoint 0), openAt := some (s.cg.openAt.getD s.now) } }
      (if s1.allPosted then s1.tryClose else none).getD s1 := by
  simp only [State.joinRound, hl, hg, hm, Bool.false_eq_true, ne_eq, not_true_eq_false, or_self, if_false, Bool.not_true]

/-- An open round closes when every member has posted, or its deadline has passed (R370). -/
theorem tryClose_some {s : State} {t : Word} (ho : s.cg.openAt = some t) (h : (s.allPosted || s.overdue) = true)
    (hs : s.groupSkew ≠ 0xFFFF) : s.tryClose = some s.closeRound := by
  have hs' : (s.groupSkew != 0xFFFF) = true := by simpa using hs
  simp only [State.tryClose, ho, h, hs', Bool.and_self, if_true]

/-- Settles O38: each event with its conditions given. -/
theorem theCentroidRuns : Obligations.TheCentroidRuns := by
  unfold Obligations.TheCentroidRuns
  refine ⟨⟨?_, ?_, ?_⟩, ?_, ?_, ?_, ?_⟩
  · intro i s p hp hc hen hov c s0
    have step : exec (.centroidPost i) s = event s (some (s0.joinRound p)) := by
      rw [show exec (.centroidPost i) s = execCentroidPost i s from rfl]
      simp only [execCentroidPost, State.takePost, hc, hen, hov, Bool.not_true, Bool.false_eq_true, if_false,
        Option.getD_none, hp, Option.map_some]
      rfl
    refine ⟨fun h => ?_, fun hl hg => ⟨fun hm => ?_, fun hm => ?_⟩⟩
    · exact step.trans (event_of (congrArg some (if_pos h)))
    · have hn : ¬(p.late = true ∨ p.gen ≠ s0.cg.gen) := by
        rintro (h | h)
        · exact Bool.false_ne_true (hl.symm.trans h)
        · exact h hg
      refine step.trans (event_of (congrArg some ((if_neg hn).trans (if_pos ?_))))
      rw [hm]
      rfl
    · have hj := joinRound_member (s := s0) hl hg hm
      intro s1
      refine ⟨fun h => ?_, fun h hs => ?_⟩
      · exact step.trans (event_of (congrArg some (hj.trans
          (congrArg (Option.getD · s1) (if_neg (ne_true_of_eq_false h))))))
      · refine step.trans (event_of (congrArg some (hj.trans ((congrArg (Option.getD · s1) (if_pos h)).trans ?_))))
        exact congrArg (Option.getD · s1) (tryClose_some (s := s1) rfl (by rw [h]; rfl) hs)
  · intro s t hc ho ht hs
    have hov : s.overdue = true := by simpa only [State.overdue, ho, decide_eq_true_eq] using ht
    rw [show exec .roundDeadlineExpiry s = execRoundDeadlineExpiry s from rfl]
    simp only [execRoundDeadlineExpiry, hc, if_true, tryClose_some ho (by rw [hov, Bool.or_true]) hs, event_some]
  · intro die gen s learn
    have step : exec (.generationChange die gen) s = execGenerationChange die gen s := rfl
    refine ⟨fun h => ?_, fun h => ⟨fun hc hg => ?_, fun hc hg => ?_, fun hc hg => ?_⟩⟩
    · exact step.trans (event_waits (if_pos h))
    · refine step.trans (event_of ((if_neg (Nat.not_le.mpr h)).trans ((if_pos hc).trans ((if_neg ?_).trans (if_pos hg)))))
      rw [hg]
      exact Nat.lt_irrefl _
    · refine step.trans (event_of ((if_neg (Nat.not_le.mpr h)).trans ((if_neg (ne_true_of_eq_false hc)).trans ?_)))
      exact congrArg (fun t : State => some (t.learn die gen)) (if_neg (Nat.not_lt.mpr hg))
    · refine step.trans (event_of ((if_neg (Nat.not_le.mpr h)).trans ((if_neg (ne_true_of_eq_false hc)).trans ?_)))
      exact congrArg (fun t : State => some (t.learn die gen)) (if_pos hg)
  · intro s hen hc ht
    have hno : (!s.group.en || !s.centroidHere || decide ((s.now - s.cg.beatAt).toNat < 1000)) = false := by
      rw [hen, hc, decide_eq_false (Nat.not_lt.mpr ht)]
      rfl
    exact event_of (if_neg (ne_true_of_eq_false hno))
  · intro pkg iod n m s hn hm hen hlt hmiss hlive
    rw [show exec (.centroidTakeover pkg iod) s = execCentroidTakeover pkg iod s from rfl]
    simp only [execCentroidTakeover, hn, hm]
    refine event_of (if_neg (ne_true_of_eq_false ?_))
    have hl : (((s.group.line.take n).drop (m + 1)).any fun p => p.1 == s.pkg.toNat) = false := by
      simpa only [List.any_eq_false, beq_iff_eq] using hlive
    simp [hen, hlt, hmiss, hl]
  · intro die t1 t2 t3 t4 pkgSkew grpSkew s hd hp hg hf hdue hc
    have hno : (decide (8 ≤ die) || !s.boundOk pkgSkew 2 || !s.boundOk grpSkew 20 || !s.exchangeDue die ||
        !s.exchangeFits die t1 t2 t3 t4) = false := by
      simp [hd, hp, hg, hf, hdue]
    rw [show exec (.gnomonExchange die t1 t2 t3 t4 pkgSkew grpSkew) s =
      execGnomonExchange die t1 t2 t3 t4 pkgSkew grpSkew s from rfl]
    have hc' : ∀ x, (s.setDie die x).centroidHere = false := fun _ => hc
    refine event_of ((if_neg (ne_true_of_eq_false hno)).trans ?_)
    simp only [hc', Bool.false_and, Bool.false_eq_true, if_false, Option.getD_none, State.correction, hc]
  · intro reg value who s hb
    refine ⟨fun ho => ?_, fun ho hr hl => ?_⟩
    · exact event_of (governed_other _ hb ho)
    · subst hr
      refine event_of ((governed_owner _ hb ho).trans (congrArg some ?_))
      have hlead : s.leads = true := by simp [State.leads, hl]
      simp only [hlead, Bool.true_or, if_true]
      rfl

end Sys2Proof.Machine
end

section
/-! Walks, shootdowns, the fault unit, migrations and the moves of contexts (R175, R326 to R354; O39 to O41). -/

namespace Sys2Proof.Machine

section
variable {k seq : Nat} {s : State} {w : Walk}

/-- The walk that holds a strand in issue (R175). -/
theorem findWalk_issue (ha : (s.strand k).active = true) (hw : (s.strand k).walk = some w) (hb : w.busy = true)
    (hq : 16 ≤ seq) : s.findWalk k seq = some (none, w) := by
  simp only [State.findWalk, ha, Bool.not_true, Bool.false_eq_true, if_false, if_neg (Nat.not_lt.mpr hq), hw,
    Option.bind_some, hb, if_true]

/-- The walk of an entry of the replay queue. -/
theorem findWalk_entry {e : Entry} (ha : (s.strand k).active = true) (hq : seq < 16)
    (he : (s.strand k).queue[seq]? = some e) (hp : e.phase = .walking w) : s.findWalk k seq = some (some e, w) := by
  simp only [State.findWalk, ha, Bool.not_true, Bool.false_eq_true, if_false, if_pos hq, he, Option.bind_some, hp]

/-- A walk that does not wait at a migrating page ends with what the tables say (R328). -/
theorem exec_walkDone {v : Victims} {f : Option Entry × Walk} {s' : State} (hf : s.findWalk k seq = some f)
    (hw : f.2.waiting = none) (he : s.endWalk k f v = some s') :
    exec (.translationWalkDone k seq v) s = .next s'.sweep.ran := by
  refine event_of (o := swept ((s.findWalk k seq).bind fun f =>
    if f.2.waiting.isSome then none else s.endWalk k f v)) ?_
  rw [hf, Option.bind_some, hw]
  exact congrArg swept he

end

/-- Settles O39: each event with its conditions given. -/
theorem walksAndShootdownsEnd : Obligations.WalksAndShootdownsEnd := by
  unfold Obligations.WalksAndShootdownsEnd
  refine ⟨⟨?_, ?_, ?_⟩, ?_, ?_⟩
  · intro k seq v s w x ha hw hb hq hx gets
    have hend : ∀ v, s.endWalk k (none, w) v = some (gets v) := fun v => by
      simp only [State.endWalk, State.issueWalk, hx]
      rfl
    refine ⟨fun hn => exec_walkDone (findWalk_issue ha hw hb hq) hn (hend v), fun t hn ht => ?_⟩
    refine event_of (o := swept _) ?_
    rw [findWalk_issue ha hw hb hq, Option.bind_some]
    simp only [hn, if_neg (Nat.not_lt.mpr ht), hend]
    rfl
  · intro k seq leaf v s w ha hw hb hq hn hl
    refine exec_walkDone (findWalk_issue ha hw hb hq) hn ?_
    simp only [State.endWalk, State.issueWalk, hl, hn, Option.isSome_none, Bool.false_eq_true, if_false]
  · intro k seq v s e w ha hq he hp
    refine ⟨fun x s' hn hx hr => ?_, fun z d g hop => ⟨fun r hn hr => ?_, fun t hn ht => ?_⟩⟩
    · refine exec_walkDone (findWalk_entry ha hq he hp) hn ?_
      simp only [State.endWalk, State.entryWalk, hx, hr]
    · refine exec_walkDone (findWalk_entry ha hq he hp) hn ?_
      simp only [State.endWalk, State.entryWalk, hr, State.walkFails, hop]
    · refine event_of (o := Option.bind _ _) ?_
      rw [findWalk_entry ha hq he hp, Option.bind_some]
      simp only [hn, if_neg (Nat.not_lt.mpr ht), State.walkFails, hop]
  · intro f value s hf hb q writes
    have hno : (decide (512 < f) || s.boot.running.isNone) = false := by
      rw [← Option.not_isSome, hb, decide_eq_false (Nat.not_lt.mpr hf)]
      rfl
    have go : ∀ (i : Instr) (w : InvWrite),
        exec i s = event s (if decide (512 < f) || s.boot.running.isNone then none else some (s.invWrite f w)) →
        writes i w := by
      intro i w hi
      have hi' : exec i s = .next (s.invWrite f w).ran := by rw [hi, hno]; rfl
      refine ⟨fun h => hi'.trans ?_, fun h hl => hi'.trans ?_, fun h hl => hi'.trans ?_⟩
      · exact congrArg (fun t : State => Host.Outcome.next t.ran) (if_pos (by rw [h]; rfl))
      · exact congrArg (fun t : State => Host.Outcome.next t.ran)
          ((if_neg (by rw [h]; decide)).trans (if_neg (Nat.not_le.mpr hl)))
      · exact congrArg (fun t : State => Host.Outcome.next t.ran) ((if_neg (by rw [h]; decide)).trans (if_pos hl))
    exact ⟨go _ _ rfl, go _ _ rfl⟩
  · intro i die s h hi hd hack hent
    have hno : (decide (8 ≤ die) || h.acked.contains die) = false := by simp [hd, hack]
    have step : exec (.shootdownAck i die) s = event s (s.shootAck i die) := rfl
    refine ⟨fun w hw hall hpin => step.trans (event_of ?_), fun hw hmat => ?_⟩
    · simp only [State.shootAck, hi, hno, hent, Bool.false_eq_true, if_false, hw, hall, hpin, Bool.not_false,
        Bool.and_self, if_true]
    · intro s1 w h1 s2
      refine step.trans (event_of ?_)
      simp only [State.shootAck, hi]
      refine (if_neg (ne_true_of_eq_false hno)).trans ((if_neg (ne_true_of_eq_false hent)).trans ?_)
      rw [hw]
      exact if_neg (ne_true_of_eq_false hmat)

section
variable {s : State} {die : Nat} {f : PageFault} {v : Saved}

/-- The page of a fault as the fault unit sees it: the log of its size (R334). -/
def faultLog (s : State) (f : PageFault) : Nat :=
  match s.leafOf f.func (f.va.toNat % 2 ^ 58) with
  | .ok (_, _, log) => log
  | .error _ => 14

/-- A pending page is the page of the fault. -/
def samePage (s : State) (f : PageFault) (p : PendingPage) : Bool :=
  p.fault.func == f.func && (p.page == f.va.toNat % 2 ^ 58 / 2 ^ p.log ||
    p.page * 2 ^ p.log / 2 ^ faultLog s f == f.va.toNat % 2 ^ 58 / 2 ^ faultLog s f)

/-- A fault of a saved context joins the page that is pending already, or makes one (R334). -/
theorem takeFault_spilled (hv : s.savedOf f.ctx = some v) (hs : v.spilled = true) :
    s.takeFault die f =
      let d := s.die die
      let rest := d.faultq.filter fun g => g.ctx != f.ctx
      if d.pending.any (samePage s f) then
        some (s.setDie die { d with
          faultq := rest
          pending := d.pending.map fun p => if samePage s f p then { p with ctxs := p.ctxs ++ [f.ctx] } else p })
      else if 256 ≤ d.pending.length then none
      else some (s.setDie die { d with
        faultq := rest
        pending := d.pending ++ [⟨f, f.va.toNat % 2 ^ 58 / 2 ^ faultLog s f, faultLog s f, none, [f.ctx]⟩] }) := by
  simp only [State.takeFault, hv, hs, Bool.not_true, Bool.false_eq_true, if_false] <;>
    rfl

/-- The oldest fault is taken first, where it can be (R334). -/
theorem exec_pageFault {r : List PageFault} {s1 : State} (hd : die < 8) (hq : (s.die die).faultq = f :: r)
    (he : (s.die die).fault.en = true) (ht : s.takeFault die f = some s1) :
    exec (.pageFault die) s = .next ((s1.recordFault die).getD s1).ran := by
  rw [show exec (.pageFault die) s = execPageFault die s from rfl]
  simp only [execPageFault, if_neg (Nat.not_le.mpr hd), State.pageFault, he, Bool.not_true, Bool.false_eq_true, if_false,
    hq, List.findSome?_cons, ht, event_some]

end

/-- The owner's write of a register that a die has takes effect (R365). -/
theorem exec_dieRegister {i : Instr} {s s' : State} {die n : Nat} {who : BitVec 16} {o : Option State} (hd : die < 8)
    (hb : s.boot.running.isSome = true) (ho : s.owns who = true)
    (hi : exec i s = event s (if 8 ≤ die then none else s.governed who n o)) (h : o = some s') : exec i s = .next s'.ran := by
  rw [hi, if_neg (Nat.not_le.mpr hd), governed_owner _ hb ho, h, event_some]

/-- The mask of FRCTL keeps CNTTH. -/
theorem bits_high_and (v : Word) : bits (v &&& 0xFFFF0003).toNat 16 16 = bits v.toNat 16 16 := by
  have h : (v &&& 0xFFFF0003).extractLsb' 16 16 = v.extractLsb' 16 16 := by
    ext i hi
    interval_cases i <;> simp
  simpa only [bits, BitVec.extractLsb'_toNat, Nat.shiftRight_eq_div_pow] using congrArg BitVec.toNat h

/-- Settles O40: each event with its conditions given. -/
theorem pageFaultsAndMigrations : Obligations.PageFaultsAndMigrations := by
  unfold Obligations.PageFaultsAndMigrations
  refine ⟨⟨?_, ?_, ?_⟩, ?_, ?_⟩
  · intro die s f r v hd hq hv hs he d va log same rest taken
    refine ⟨fun hany => exec_pageFault hd hq he ?_, fun hany hlen => exec_pageFault hd hq he ?_⟩
    · exact (takeFault_spilled hv hs).trans (if_pos hany)
    · exact (takeFault_spilled hv hs).trans ((if_neg (ne_true_of_eq_false hany)).trans (if_neg (Nat.not_le.mpr hlen)))
  · intro die s p hd he hq hp hfull d f s1
    rw [show exec (.pageFault die) s = execPageFault die s from rfl]
    simp only [execPageFault, if_neg (Nat.not_le.mpr hd), State.pageFault, he, Bool.not_true, Bool.false_eq_true, if_false,
      hq, List.findSome?_nil]
    refine event_of ?_
    simp only [State.recordFault, hp, hfull, Bool.false_eq_true, if_false]
    rfl
  · intro die record value who s hd hb ho d s1
    refine ⟨fun p hp => ⟨?_, ?_⟩, ?_, fun hz => ?_, fun hz => ?_⟩
    · refine exec_dieRegister hd hb ho rfl ?_
      rw [show s.pendingOf die record = some p from hp]
      rfl
    · refine exec_dieRegister hd hb ho rfl ?_
      rw [show s.pendingOf die record = some p from hp]
      rfl
    · exact exec_dieRegister hd hb ho rfl rfl
    · refine exec_dieRegister hd hb ho rfl (congrArg (fun v => some (s.setDie die
        { s.die die with fault := { (s.die die).fault with frctl := v } })) (if_pos ?_))
      exact (bits_high_and value).trans hz
    · refine exec_dieRegister hd hb ho rfl (congrArg (fun v => some (s.setDie die
        { s.die die with fault := { (s.die die).fault with frctl := v } })) (if_neg ?_))
      rwa [bits_high_and]
  · intro die value who s hd hb ho d dst start
    refine ⟨fun h => ?_, fun h => ⟨fun r hr => ?_, fun s1 hr => ?_⟩⟩
    · exact exec_dieRegister hd hb ho rfl (congrArg some (if_pos h))
    · refine exec_dieRegister hd hb ho rfl (congrArg some ((if_neg (ne_true_of_eq_false h)).trans ?_))
      simp only [start, dst, d] at hr
      rw [hr]
    · refine exec_dieRegister hd hb ho rfl (congrArg some ((if_neg (ne_true_of_eq_false h)).trans ?_))
      simp only [start, dst, d] at hr
      rw [hr]
  · intro die s m hm hs h
    have hno : (s.shoots.any fun h => h.migration == some m.shoot) = false := by
      simpa only [List.any_eq_false, beq_iff_eq] using hs
    refine ⟨fun hdr hpin => ?_, fun w hdr hall hclear hnew => ?_⟩
    · have hfree : ((List.range 8).any fun d => s.pinned h d) = false := by
        simpa only [List.any_eq_false, List.mem_range, Bool.not_eq_true] using hpin
      refine event_of ((congrArg (List.findSome? _) hm).trans (List.findSome?_singleton.trans
        ((if_neg (ne_true_of_eq_false hno)).trans ?_)))
      rw [hdr]
      exact if_neg (ne_true_of_eq_false hfree)
    · have hgo : (s.allDone false w && s.frameClear m.old m.size) = true := by rw [hall, hclear]; rfl
      refine event_of ((congrArg (List.findSome? _) hm).trans (List.findSome?_singleton.trans
        ((if_neg (ne_true_of_eq_false hno)).trans ?_)))
      rw [hdr]
      exact (if_pos hgo).trans (if_pos hnew)

/-- The trap of the oldest entry, where all entries have faulted or finished (R344). -/
theorem trapTake_oldest {s s' : State} {k : Nat} {e : Entry} {r : List Entry} {t : Trap}
    (ha : (s.strand k).active = true) (hs : (s.strand k).settled = true) (he : (s.strand k).edge = none)
    (hw : (s.strand k).wait = none) (hq : (s.strand k).queue = e :: r) (hp : e.phase = .faulted t)
    (ht : ∀ a b va, t ≠ .translation a b va) (hf : ∀ b va pa, t ≠ .foreignDie b va pa)
    (h : s.takeTrap k t e.pc e.addr e.iword = some s') : s.trapTake k = some s' := by
  have hno : (!(s.strand k).active || !(s.strand k).settled || (s.strand k).edge.isSome || (s.strand k).wait.isSome) =
      false := by
    rw [ha, hs, he, hw]
    rfl
  simp only [State.trapTake, hno, Bool.false_eq_true, if_false, hq, List.head?_cons, hp, Option.bind_some]
  rw [h, Option.some_or]

/-- Settles O41: each event with its conditions given. -/
theorem contextsMoveThroughTheShadowBank : Obligations.ContextsMoveThroughTheShadowBank := by
  unfold Obligations.ContextsMoveThroughTheShadowBank
  refine ⟨?_, ?_, ?_, ?_, ?_⟩
  · intro k s s' e r t u ha hs he hw hq hp ht hf h
    exact event_of (s := s) (o := s.trapTake k) (trapTake_oldest ha hs he hw hq hp ht hf h)
  · intro c f1 f2 s s1 b hb ho hfr hfree s2
    refine event_of (s := s) (o := s.contextSpill c) ?_
    simp only [State.contextSpill, hb, ho, Bool.not_true, Bool.false_eq_true, if_false, hfr, hfree]
    rfl
  · intro c s m r v hsh hreq hout hv hsp hd hfree s1
    have step : ∀ b, (s.die (coreDie c)).ptc.ult v.left = b → s.stagingFill c = if b then none else
        some (s1.setCore c { s1.core c with
          moves := r
          shadow := (some
            { slot := m.slot, strand := s.loadImage v.frame1 v.frame2 v.shell, outgoing := false, why := v.why, header := [],
              mat := s.loadMat v.frame1 v.frame2 v.held, said := false, acq := v.acquire c } : Option Shadow) }) := by
      intro b hb
      simp only [State.stagingFill, hsh, hreq, hv, Option.bind_some, hout, hsp, hd, hfree, hb, Bool.not_true,
        Bool.false_or]
      rfl
    exact ⟨fun h => event_waits (step _ h), fun h => event_of (step _ h)⟩
  · intro c s b hb ho hm hacq ha
    refine event_of (s := s) (o := s.contextSwap c) ?_
    simp only [State.contextSwap, hb, ho, hm, hacq, ha, Option.isSome_none, Bool.false_and, Bool.or_self,
      Bool.false_eq_true, if_false, Option.map_some]
  · intro die value who s hd hb ho d
    exact ⟨exec_dieRegister hd hb ho rfl rfl, fun _ => exec_dieRegister hd hb ho rfl rfl⟩

end Sys2Proof.Machine
end

section
/-! Launches and clusters (R310 to R321, R356; O42 to O45). -/

namespace Sys2Proof.Machine

/-- A launch that waits for nothing more is decided (R312). -/
theorem exec_decide {n : Nat} {s s' : State} {l : Launch} (hl : s.launches.find n = some l) (hw : l.state = .waiting)
    (h0 : l.waitn = 0) (hd : s.decide n l = some s') : exec (.launchComplete n) s = .next s'.ran := by
  refine event_of (s := s) (o := s.completeLaunch n) ?_
  simp only [State.completeLaunch, hl, hw, h0, if_true, hd]

/-- Settles O42: each event with its conditions given. -/
theorem queuesFeedTheLaunchTable : Obligations.QueuesFeedTheLaunchTable := by
  unfold Obligations.QueuesFeedTheLaunchTable
  refine ⟨⟨?_, ?_⟩, ?_, ?_⟩
  · intro f tail s hf hb q s1
    have hno : (decide (512 < f) || s.boot.running.isNone) = false := by
      rw [← Option.not_isSome, hb, decide_eq_false (Nat.not_lt.mpr hf)]
      rfl
    have hq : s1.fn f = { q with qtail := tail } := State.fn_setFn ..
    have hover : s1.overrun f = if ({ q with qtail := tail } : Fn).en && 2 ^ ({ q with qtail := tail } : Fn).log <
        ({ q with qtail := tail } : Fn).pending then
          (s1.setFn f { q with qtail := tail, qctl := q.qctl &&& ~~~(16 : Word) }).error 4 1 0 f 1 0 tail.toNat
        else s1 := by
      simp only [State.overrun, hq]
    refine ⟨fun hon => event_of ((if_neg (ne_true_of_eq_false hno)).trans (if_pos (by rw [hon]; rfl))), fun hon => ?_⟩
    have hon' : ¬(!s.fnOn f) = true := by rw [hon]; decide
    refine ⟨fun h => ?_, fun he h => ?_⟩
    · refine event_of ((if_neg (ne_true_of_eq_false hno)).trans ((if_neg hon').trans (congrArg some (hover.trans ?_))))
      refine if_neg fun hc => ?_
      rw [Bool.and_eq_true, decide_eq_true_eq] at hc
      obtain h | h := h
      · exact Bool.false_ne_true (h.symm.trans hc.1)
      · exact Nat.not_lt.mpr h hc.2
    · refine event_of ((if_neg (ne_true_of_eq_false hno)).trans ((if_neg hon').trans (congrArg some (hover.trans ?_))))
      refine if_pos ?_
      rw [Bool.and_eq_true, decide_eq_true_eq]
      exact ⟨he, h⟩
  · intro f s s1 s2 a words q hnext hp ha h1 h2 n l wait s3
    have hok : (!addrWord a || [a, 0][1]? != some 0) = false := by
      rw [ha]
      rfl
    refine event_of (s := s) (o := s.takeEntry f) ?_
    unfold State.takeEntry
    dsimp only
    rw [if_neg (not_not.mpr hnext), if_neg (Nat.not_lt.mpr hp), h1, Option.bind_some, List.head?_cons, Option.getD_some, h2,
      Option.bind_some, hok, if_neg Bool.false_ne_true]
    refine congrArg (fun s : State => some s) ?_
    by_cases hw : wait = 0
    · rw [if_pos hw]
      refine (if_pos ?_).trans (congrArg (fun w => (s3.decide n { l with waitn := w }).getD s3) hw)
      rw [Bool.not_false, Bool.true_and, decide_eq_true_eq]
      exact hw
    · rw [if_neg hw]
      refine if_neg ?_
      rw [Bool.not_false, Bool.true_and, decide_eq_true_eq]
      exact hw
  · intro n s l hl hw h0 ends bad
    have finish : ∀ c, s.decide n l = some { s with launches := s.launches.put n { l with state := .ended c } } → ends c :=
      fun c h => exec_decide hl hw h0 h
    have hgo : l.pf = false ∨ l.ie = true → ¬(l.pf && !l.ie) = true := by
      rintro (h | h) <;> simp [h]
    refine ⟨fun hp hi => finish 4 ?_, fun h hb => finish 2 ?_, fun h hb hg => ⟨fun hpart => finish 3 ?_,
      fun hpart hs => finish 1 ?_, fun hpart hs => exec_decide hl hw h0 ?_⟩⟩
    · exact if_pos (by rw [hp, hi]; rfl)
    · exact (if_neg (hgo h)).trans (if_pos hb)
    · exact (if_neg (hgo h)).trans ((if_neg (ne_true_of_eq_false hb)).trans ((if_neg (ne_true_of_eq_false hg)).trans
        (if_pos hpart)))
    · exact (if_neg (hgo h)).trans ((if_neg (ne_true_of_eq_false hb)).trans ((if_neg (ne_true_of_eq_false hg)).trans
        ((if_neg (ne_true_of_eq_false hpart)).trans (if_pos hs))))
    · exact (if_neg (hgo h)).trans ((if_neg (ne_true_of_eq_false hb)).trans ((if_neg (ne_true_of_eq_false hg)).trans
        ((if_neg (ne_true_of_eq_false hpart)).trans (if_neg hs))))
  · intro n s l t hl hr hf ht hlate
    have hgo : (l.state == .ready && l.byteBits 512 32 32 != 0 &&
        decide (l.byteBits 512 32 32 * 1000000 ≤ (s.now - t).toNat)) = true := by
      rw [hr, bne_iff_ne.mpr ht, decide_eq_true hlate]
      rfl
    refine event_of ?_
    rw [hl]
    dsimp only
    split
    next u hu =>
      obtain rfl : u = t := Option.some.inj (hu.symm.trans hf)
      refine (if_pos hgo).trans (congrArg some ?_)
      unfold State.endLaunch
      dsimp only
      rw [hl]
      exact if_pos hr
    next hu => rw [hf] at hu; cases hu

/-- What a release waits for does not depend on the launch table. -/
theorem allDone_launches (s : State) (t : Tab Launch) (b : Bool) (w : List Nat) :
    ({ s with launches := t } : State).allDone b w = s.allDone b w := rfl

/-- An ended launch that has begun its flush ends once that is done; any other begins it (R313). -/
theorem completeLaunch_ended {n st : Nat} {s : State} {l : Launch} (hl : s.launches.find n = some l)
    (he : l.state = .ended st) : s.completeLaunch n = match l.flushing with
      | some w => if s.allDone true w then s.finishLaunch n l st else none
      | none =>
        if !(s.heldBy n).all fun k => s.stoppedIn k then none
        else
          let r := (s.heldBy n).foldl (fun (a : State × List Nat) k =>
            ((a.1.flushCluster k).1, a.2 ++ (a.1.flushCluster k).2)) (s, [])
          let l' : Launch := { l with flushing := some r.2 }
          let s' := { r.1 with launches := r.1.launches.put n l' }
          if s'.allDone true r.2 then some ((s'.finishLaunch n l' st).getD s') else some s' := by
  unfold State.completeLaunch
  rw [hl]
  dsimp only
  rw [he] <;>
  rfl

/-- Settles O43: the flush, the record and the release of the successors, each with its conditions given. -/
theorem launchesCompleteAfterTheirFlush : Obligations.LaunchesCompleteAfterTheirFlush := by
  unfold Obligations.LaunchesCompleteAfterTheirFlush
  refine ⟨?_, ?_, ?_⟩
  · intro n k s l st hl he hf hh hs r hr
    refine event_of (s := s) (o := s.completeLaunch n) ?_
    have hstop : ¬(!(s.heldBy n).all fun k => s.stoppedIn k) = true := by
      rw [hh, List.all_cons, hs, List.all_nil]
      decide
    rw [completeLaunch_ended hl he, hf]
    refine (if_neg hstop).trans ?_
    rw [hh, List.foldl_cons, List.foldl_nil]
    simp only [r] at hr ⊢
    generalize s.flushCluster k = q at hr ⊢
    exact if_neg (ne_true_of_eq_false ((allDone_launches ..).trans hr))
  · intro n s l st w hl he hf hall hh f base log leaves
    have step : ∀ s', s.writeCompletion l st = some s' → s'.heldBy n = [] → leaves s' := by
      intro s' hw hn
      refine event_of (s := s) (o := s.completeLaunch n) ?_
      rw [completeLaunch_ended hl he, hf]
      refine (if_pos hall).trans ((congrArg (Option.map _) hw).trans ?_)
      simp only [Option.map_some, hn]
      rfl
    refine ⟨fun hb => step s (if_pos hb) hh, ?_⟩
    intro pa hb hpa hready ph s1 hn
    refine step _ ?_ hn
    refine (if_neg hb).trans ((congrArg (Option.bind · _) hpa).trans (if_neg ?_))
    rw [hready]
    decide
  · intro func st lid n s l waits
    refine ⟨fun h => ?_, ?_⟩
    · simp only [State.releaseSuccessor]
      rw [show s.launches.find? _ = none from h]
    · intro h l1 s1
      have hn : l.waitn ≠ 0 := fun h0 => by
        have := List.find?_some h
        simp [waits, h0] at this
      have hstep : s.releaseSuccessor func st lid = if l1.waitn = 0 then (s1.decide n l1).getD s1 else s1 := by
        simp only [State.releaseSuccessor]
        rw [show s.launches.find? _ = some (n, l) from h]
      have hw : l1.waitn = l.waitn - 1 := rfl
      refine ⟨fun h1 => hstep.trans (if_neg (by omega)), fun h1 s2 h2 => hstep.trans ((if_pos (by omega)).trans ?_)⟩
      rw [h2]
      rfl

end Sys2Proof.Machine
end

section
/-! Clusters among the launches (R317 to R319, R356; O44, O45). -/

namespace Sys2Proof.Machine

theorem preemptFirst_mem (a b : Nat × Launch) : preemptFirst a b = a ∨ preemptFirst a b = b := by
  unfold preemptFirst
  repeat' split
  all_goals simp

theorem preemptFirst_le (a b : Nat × Launch) :
    (preemptFirst a b).2.prio ≤ a.2.prio ∧ (preemptFirst a b).2.prio ≤ b.2.prio := by
  unfold preemptFirst
  repeat' split
  all_goals omega

/-- The cluster to pre-empt is one of the candidates, and none has a holder of lower priority (R319). -/
theorem foldl_preemptFirst (r : List (Nat × Launch)) (e : Nat × Launch) :
    r.foldl preemptFirst e ∈ e :: r ∧ ∀ x ∈ e :: r, (r.foldl preemptFirst e).2.prio ≤ x.2.prio := by
  induction r generalizing e with
  | nil => simp
  | cons a r ih =>
    obtain ⟨hmem, hmin⟩ := ih (preemptFirst e a)
    rw [List.foldl_cons]
    obtain ⟨hea, haa⟩ := preemptFirst_le e a
    have hfirst := hmin _ (List.mem_cons_self ..)
    refine ⟨?_, fun x hx => ?_⟩
    · obtain h | h := List.mem_cons.mp hmem
      · rw [h]
        obtain h | h := preemptFirst_mem e a <;> simp [h]
      · simp [h]
    · rw [List.mem_cons, List.mem_cons] at hx
      obtain rfl | rfl | hx := hx
      · exact hfirst.trans hea
      · exact hfirst.trans haa
      · exact hmin x (List.mem_cons_of_mem _ hx)

/-- A cluster that may be pre-empted for launch `n`, with its holder (R319). -/
def State.preemptCand (s : State) (n : Nat) (l : Launch) (e : Nat × Cluster) : Option (Nat × Launch) :=
  match e.2.holder.bind fun h => s.launches.find h with
  | some h =>
    if e.2.holder != some n && h.state == .ready && e.2.started && e.2.save == .off && s.mayGain e.1 l &&
        h.prio + s.pf.pdelta.toNat ≤ l.prio && s.wants n l e.1 then some (e.1, h) else none
  | none => none

theorem preempt_of_find {s : State} {n : Nat} {l : Launch} (hl : s.launches.find n = some l) :
    s.preempt n = match s.clusters.filterMap (s.preemptCand n l) with
      | [] => none
      | e :: r => some (s.beginSave (r.foldl preemptFirst e).1 n) := by
  unfold State.preempt
  rw [hl] <;>
  rfl

theorem preemptCand_key {s : State} {n : Nat} {l : Launch} {e : Nat × Cluster} {x : Nat × Launch}
    (h : s.preemptCand n l e = some x) : x.1 = e.1 := by
  unfold State.preemptCand at h
  split at h
  · split at h
    · rw [← Option.some.inj h]
    · cases h
  · cases h

theorem preemptCand_iff {s : State} {n : Nat} {l h : Launch} {e : Nat × Cluster} :
    s.preemptCand n l e = some (e.1, h) ↔ ∃ m, e.2.holder = some m ∧ m ≠ n ∧ s.launches.find m = some h ∧
      h.state = .ready ∧ e.2.started = true ∧ e.2.save = .off ∧ s.mayGain e.1 l = true ∧
      h.prio + s.pf.pdelta.toNat ≤ l.prio ∧ s.wants n l e.1 = true := by
  unfold State.preemptCand
  cases hm : e.2.holder with
  | none => simp
  | some m =>
    cases hf : s.launches.find m with
    | none => simp [hf]
    | some h' =>
      simp only [Option.bind_some, hf, Option.ite_none_right_eq_some, Bool.and_eq_true, bne_iff_ne, beq_iff_eq, ne_eq,
        Option.some.injEq, decide_eq_true_eq, Prod.mk.injEq, true_and]
      constructor
      · rintro ⟨⟨⟨⟨⟨⟨⟨hn, hr⟩, hst⟩, hsv⟩, hg⟩, hp⟩, hw⟩, rfl⟩
        exact ⟨m, rfl, hn, hf, hr, hst, hsv, hg, hp, hw⟩
      · rintro ⟨_, rfl, hn, hf', hr, hst, hsv, hg, hp, hw⟩
        obtain rfl : h' = h := Option.some.inj (hf.symm.trans hf')
        exact ⟨⟨⟨⟨⟨⟨⟨hn, hr⟩, hst⟩, hsv⟩, hg⟩, hp⟩, hw⟩, rfl⟩

/-- Settles O44: the grant, the ageing and the quantum with their conditions given, the pre-emption by the least priority. -/
theorem clustersGoToTheirLaunches : Obligations.ClustersGoToTheirLaunches := by
  unfold Obligations.ClustersGoToTheirLaunches
  refine ⟨?_, ?_, ?_, ?_⟩
  · intro k n s l hk hh hnext hd first s1 s2
    have hgo : ¬(decide (2048 ≤ k) || (s.cluster k).holder.isSome) = true := by
      rw [hh, decide_eq_false (Nat.not_le.mpr hk)]
      decide
    refine event_of (s := s) (o := s.grant k) ((if_neg hgo).trans ((congrArg (Option.bind · _) hnext).trans (if_neg ?_)))
    rw [hd]
    decide
  · intro n s l hl hr hb step hstep
    rw [show exec (.ageingStep n) s = execAgeingStep n s from rfl]
    have hgo : (l.state == .ready && s.blocked n l && decide (step ≤ (s.now - l.ageFrom).toNat)) = true := by
      rw [hr, hb, decide_eq_true hstep]
      rfl
    refine event_of ?_
    rw [hl]
    exact if_pos hgo
  · intro k n s l e r hh hl hr hstart hsave hq hf
    have hgo : ¬(l.state != .ready || !(s.cluster k).started || (s.cluster k).save != .off ||
        decide ((s.now - (s.cluster k).heldAt).toNat < 1000 * s.pf.quant.toNat)) = true := by
      rw [hr, hstart, hsave, decide_eq_false (Nat.not_lt.mpr hq)]
      decide
    refine event_of (s := s) (o := s.rotate k) ?_
    have hm : ((s.cluster k).holder.bind fun n => (s.launches.find n).map fun l => (n, l)) = some (n, l) := by
      rw [hh, Option.bind_some, hl, Option.map_some]
    unfold State.rotate
    dsimp only
    rw [hm]
    dsimp only
    rw [if_neg hgo, hf]
    rfl
  · intro n s l hl may ⟨e0, he0, h0, hm0⟩
    have hiff : ∀ e h, s.preemptCand n l e = some (e.1, h) ↔ may e h := fun e h => preemptCand_iff
    have hne : s.clusters.filterMap (s.preemptCand n l) ≠ [] := by
      have := List.mem_filterMap.mpr ⟨e0, he0, (hiff e0 h0).mpr hm0⟩
      exact List.ne_nil_of_mem this
    obtain ⟨x, r, hc⟩ := List.exists_cons_of_ne_nil hne
    obtain ⟨hmem, hmin⟩ := foldl_preemptFirst r x
    rw [← hc] at hmem hmin
    obtain ⟨e, he, hpe⟩ := List.mem_filterMap.mp hmem
    have hkey : e.1 = (r.foldl preemptFirst x).1 := (preemptCand_key hpe).symm
    refine ⟨e, he, (r.foldl preemptFirst x).2, (hiff ..).mp (hpe.trans (by rw [hkey])), fun e' he' h' hm' => ?_, ?_⟩
    · exact hmin (e'.1, h') (List.mem_filterMap.mpr ⟨e', he', (hiff ..).mpr hm'⟩)
    · refine event_of (s := s) (o := s.preempt n) ((preempt_of_find hl).trans ?_)
      rw [hc, hkey]
      rfl

end Sys2Proof.Machine
end

section
/-! What writes memory at the homes of lines and moves their copies keeps memory canonical, and leaves the cores, the saved
clusters, the owner and the images of the device as they are (log 3, log 22). -/

namespace Sys2Proof.Machine

/-- `t` has the cores, the saved clusters, the owner and the images of `s`, and its memory is canonical where that of `s` is. -/
structure State.Quiet (s t : State) : Prop where
  mem : Memory.wf s.mem = true → Memory.wf t.mem = true
  cores : t.cores = s.cores
  saved : t.savedClusters = s.savedClusters
  mgmt : t.mgmt = s.mgmt
  boot : t.boot = s.boot

namespace State.Quiet

theorem refl (s : State) : Quiet s s := ⟨id, rfl, rfl, rfl, rfl⟩

theorem trans {s t u : State} (h : Quiet s t) (g : Quiet t u) : Quiet s u :=
  ⟨g.mem ∘ h.mem, g.cores.trans h.cores, g.saved.trans h.saved, g.mgmt.trans h.mgmt, g.boot.trans h.boot⟩

/-- A state that differs in other fields only. -/
theorem of_fields {s t : State} (hm : t.mem = s.mem) (hc : t.cores = s.cores) (hs : t.savedClusters = s.savedClusters)
    (hg : t.mgmt = s.mgmt) (hb : t.boot = s.boot) : Quiet s t := ⟨fun h => hm ▸ h, hc, hs, hg, hb⟩

theorem foldl {α : Type} {f : State → α → State} (hf : ∀ s x, Quiet s (f s x)) (l : List α) (s : State) :
    Quiet s (l.foldl f s) := by
  induction l generalizing s with
  | nil => exact refl s
  | cons x r ih => exact (hf s x).trans (ih _)

theorem ite {s t u : State} {c : Prop} [Decidable c] (ht : Quiet s t) (hu : Quiet s u) : Quiet s (if c then t else u) := by
  split
  · exact ht
  · exact hu

end State.Quiet

open State (Quiet)

namespace State

theorem writeMem_quiet (s : State) (a v n : Nat) : Quiet s (s.writeMem a v n) := by
  refine ⟨fun h => State.writeMem_wf h .., ?_, ?_, ?_, ?_⟩ <;>
  · unfold State.writeMem
    split <;> rfl

theorem mergeLine_quiet (s : State) (l : Nat) (d : Line) (m : ByteMask) : Quiet s (s.mergeLine l d m) :=
  ⟨fun h => State.mergeLine_wf h .., rfl, rfl, rfl, rfl⟩

theorem hostDone_quiet (s : State) (n : Nat) : Quiet s (s.hostDone n) := .of_fields rfl rfl rfl rfl rfl

theorem refreshCopies_quiet (s : State) (l : Nat) : Quiet s (s.refreshCopies l) :=
  .foldl (fun s d => by split <;> exact .of_fields rfl rfl rfl rfl rfl) ..

theorem hostWrite_quiet (s : State) (it : Item) : Quiet s (s.hostWrite it) := by
  unfold State.hostWrite
  split
  · exact ((mergeLine_quiet ..).trans (refreshCopies_quiet ..)).trans (hostDone_quiet ..)
  · exact hostDone_quiet ..

theorem hostFlushLine_quiet (s : State) (l : Nat) : Quiet s (s.hostFlushLine l) :=
  .foldl (fun s p => by
    simp only []
    refine .ite (.refl s) (Quiet.trans (t := s.setHostLink p _) (.of_fields rfl rfl rfl rfl rfl) (.foldl hostWrite_quiet ..))) ..

theorem releaseHeld_quiet (s : State) (k l : Nat) : Quiet s (s.releaseHeld k l) := by
  simp only [State.releaseHeld]
  refine .ite (.refl s) (Quiet.trans (t := s.setSlice k _) (.of_fields rfl rfl rfl rfl rfl) (.foldl (fun s it => ?_) ..))
  split
  · exact (mergeLine_quiet ..).trans (hostDone_quiet ..)
  · exact hostDone_quiet ..

theorem pullHost_quiet (s : State) (l : Nat) (d : Bool) : Quiet s (s.pullHost l d) := by
  have h : Quiet s ((s.copies.filter fun c => c.line == l).foldl (fun s c =>
      if c.dirty then s.mergeLine l c.data (BitVec.allOnes 128) else s) s) :=
    .foldl (fun s c => .ite (mergeLine_quiet ..) (.refl s)) ..
  unfold State.pullHost
  simp only []
  generalize (s.copies.filter fun c => c.line == l).foldl (fun s c =>
    if c.dirty then s.mergeLine l c.data (BitVec.allOnes 128) else s) s = s1 at h ⊢
  refine h.trans (.ite (.ite (.refl _) (Quiet.trans ?_ (releaseHeld_quiet ..))) (.ite (.refl _) ?_))
  · exact .of_fields rfl rfl rfl rfl rfl
  · exact .of_fields rfl rfl rfl rfl rfl

theorem hwWrite_quiet (s : State) (a v n : Nat) : Quiet s (s.hwWrite a v n) := by
  simp only [State.hwWrite]
  exact .ite (((hostFlushLine_quiet ..).trans (writeMem_quiet ..)).trans (refreshCopies_quiet ..))
    (.ite (.of_fields rfl rfl rfl rfl rfl) ((pullHost_quiet ..).trans (writeMem_quiet ..)))

theorem error_quiet (s : State) (k v d f c a x : Nat) : Quiet s (s.error k v d f c a x) := by
  simp only [State.error]
  generalize (if k = 8 then { s.er with exh := true } else s.er) = e
  exact .ite (.of_fields rfl rfl rfl rfl rfl) (.ite (.of_fields rfl rfl rfl rfl rfl) ((hwWrite_quiet ..).trans (.of_fields rfl rfl rfl rfl rfl)))

theorem poisonLine_quiet (s : State) (l u d : Nat) : Quiet s (s.poisonLine l u d) :=
  .ite (.refl s) (Quiet.trans (t := { s with poison := l :: s.poison }) (.of_fields rfl rfl rfl rfl rfl) (error_quiet ..))

theorem snoopPoison_quiet (s : State) (l d p : Nat) : Quiet s (s.snoopPoison l d p) :=
  (poisonLine_quiet ..).trans (error_quiet ..)

theorem snoopDie_quiet (s : State) (l d : Nat) (b : Bool) : Quiet s (s.snoopDie l d b) := by
  unfold State.snoopDie
  split
  · exact .refl s
  · exact Quiet.trans (.ite (.refl s) ((mergeLine_quiet ..).trans (refreshCopies_quiet ..))) (.of_fields rfl rfl rfl rfl rfl)

theorem snoopMask_quiet (s : State) (l : Nat) (m : BitVec 8) (b : Bool) : Quiet s (s.snoopMask l m b) :=
  .foldl (fun s d => .ite (snoopDie_quiet ..) (.refl s)) ..

theorem serveSnoop_quiet (s : State) (p : Nat) (e : FilterEntry) (d : Bool) : Quiet s (s.serveSnoop p e d) := by
  simp only [State.serveSnoop]
  have h := (hostFlushLine_quiet s e.line).trans (snoopMask_quiet _ e.line e.mask d)
  exact (Quiet.ite (h.trans (snoopPoison_quiet ..)) h).trans (.of_fields rfl rfl rfl rfl rfl)

theorem hostOwns_quiet (s : State) (l : Nat) (w : Bool) : Quiet s (s.hostOwns l w) := by
  simp only [State.hostOwns]
  split
  · exact .ite ((hostFlushLine_quiet ..).trans (serveSnoop_quiet ..)) (hostFlushLine_quiet ..)
  · exact hostFlushLine_quiet ..

theorem upToDate_quiet (s : State) (pa : Nat) : Quiet s (s.upToDate pa) :=
  .ite ((hostFlushLine_quiet ..).trans (hostOwns_quiet ..)) (pullHost_quiet ..)

theorem claimLine_quiet (s : State) (l : Nat) : Quiet s (s.claimLine l) :=
  .ite ((hostFlushLine_quiet ..).trans (hostOwns_quiet ..)) (pullHost_quiet ..)

theorem writeSys_quiet (s : State) (a v n : Nat) : Quiet s (s.writeSys a v n) :=
  .ite ((claimLine_quiet ..).trans (writeMem_quiet ..)) (hwWrite_quiet ..)

theorem pushFrame_quiet (s : State) (d a : Nat) : Quiet s (s.pushFrame d a) := by
  simp only [State.pushFrame]
  exact .ite (error_quiet ..) ((writeSys_quiet ..).trans (.of_fields rfl rfl rfl rfl rfl))

theorem claimFrames_quiet (s : State) (f : List Nat) : Quiet s (s.claimFrames f) := .foldl (fun s l => pullHost_quiet ..) ..

end State

end Sys2Proof.Machine
end

section
/-! The start, the save and the restore of a cluster (R317, R356; O45). -/

namespace Sys2Proof.Machine

/-- What no change of a list touches stays as it was. -/
theorem foldl_keeps {α β : Type} (π : State → β) {f : State → α → State} (hf : ∀ s x, π (f s x) = π s) (l : List α)
    (s : State) : π (l.foldl f s) = π s := by
  induction l generalizing s with
  | nil => rfl
  | cons x r ih => rw [List.foldl_cons, ih, hf]

/-- Each core of a list is set once, from what it was. -/
theorem foldl_setCore_core {f : Core → Core} {l : List Nat} (hl : l.Nodup) (s : State) {j : Nat} :
    (l.foldl (fun s i => s.setCore i (f (s.core i))) s).core j = if j ∈ l then f (s.core j) else s.core j := by
  induction l generalizing s with
  | nil => rfl
  | cons i r ih =>
    obtain ⟨hi, hr⟩ := List.nodup_cons.mp hl
    rw [List.foldl_cons, ih hr]
    by_cases hj : j = i
    · subst hj
      rw [if_neg hi, if_pos (List.mem_cons_self ..), State.core_setCore]
    · simp only [State.core_setCore_ne _ _ _ _ hj, List.mem_cons, hj, false_or]

/-- A property of a core that no change takes away stays. -/
theorem foldl_core_keeps {α : Type} {P : Core → Prop} {f : State → α → State} {j : Nat}
    (hkeep : ∀ s x, P (s.core j) → P ((f s x).core j)) (l : List α) {s : State} (h : P (s.core j)) :
    P ((l.foldl f s).core j) := by
  induction l generalizing s with
  | nil => exact h
  | cons x r ih => exact ih (hkeep _ _ h)

/-- A property that every change of a list gives its core, and takes from no other, each core of the list has. -/
theorem foldl_core_has {P : Core → Prop} {f : State → Nat → State} {j : Nat} (hset : ∀ s, P ((f s j).core j))
    (hkeep : ∀ s i, P (s.core j) → P ((f s i).core j)) {l : List Nat} (hl : j ∈ l) (s : State) :
    P ((l.foldl f s).core j) := by
  induction l generalizing s with
  | nil => cases hl
  | cons i r ih =>
    obtain rfl | hj := List.mem_cons.mp hl
    · exact foldl_core_keeps hkeep r (hset _)
    · exact ih hj _

/-- A core that is set to one with a property keeps it. -/
theorem core_setCore_has {P : Core → Prop} {s : State} {m j : Nat} {c : Core} (hc : j = m → P c) (h : P (s.core j)) :
    P ((s.setCore m c).core j) := by
  by_cases hj : j = m
  · subst hj
    rw [State.core_setCore]
    exact hc rfl
  · rwa [State.core_setCore_ne _ _ _ _ hj]

theorem clusCores_nodup (k : Nat) : (clusCores k).Nodup :=
  List.nodup_range.map fun a b h => by simpa using h

theorem mem_clusCores {k i : Nat} (h : i < 32) : 32 * k + i ∈ clusCores k :=
  List.mem_map.mpr ⟨i, List.mem_range.mpr h, rfl⟩

/-- A cluster begins with cores without work, with these vector tables and regions (R317). -/
def State.startCores (s : State) (k : Nat) (c : Cluster) (vt rt : Tab (BitVec 128)) : State :=
  (clusCores k).foldl (fun s i => s.setCore i { (s.core i).cleared with vtab := vt, regions := rt }) (s.setCluster k c)

theorem startCores_core (s : State) {k i : Nat} (c : Cluster) (vt rt : Tab (BitVec 128)) (h : i < 32) :
    (s.startCores k c vt rt).core (32 * k + i) = { (s.core (32 * k + i)).cleared with vtab := vt, regions := rt } :=
  (foldl_setCore_core (f := fun c => { c.cleared with vtab := vt, regions := rt }) (clusCores_nodup k) _).trans
    (if_pos (mem_clusCores h))

theorem startCores_clusters (s : State) (k : Nat) (c : Cluster) (vt rt : Tab (BitVec 128)) :
    (s.startCores k c vt rt).clusters = s.clusters.put k c :=
  foldl_keeps State.clusters (fun s i => State.setCore_clusters s i _) ..

theorem startCores_cluster (s : State) (k : Nat) (c : Cluster) (vt rt : Tab (BitVec 128)) :
    (s.startCores k c vt rt).cluster k = c := by
  unfold State.cluster
  rw [startCores_clusters]
  exact State.cluster_setCluster ..

theorem startCores_mem (s : State) (k : Nat) (c : Cluster) (vt rt : Tab (BitVec 128)) :
    (s.startCores k c vt rt).mem = s.mem := 
  foldl_keeps State.mem (fun s i => State.setCore_mem s i _) ..

/-- The cores of a saved cluster come back, with these vector tables, and the contexts that left wait to be moved back (R356). -/
def State.restoreCores (s : State) (k : Nat) (c : Cluster) (v : SavedCluster) (vt : Tab (BitVec 128)) : State :=
  v.slots.foldl (fun s e =>
    s.setCore (slotCore e.1) { s.core (slotCore e.1) with
      moves := (s.core (slotCore e.1)).moves ++ [⟨slotIdx e.1, e.2, false, []⟩] })
    ((clusCores k).foldl (fun s i =>
      s.setCore i { v.cores.get i .reset with vtab := vt, utlb := (s.core i).utlb, icache := (s.core i).icache })
      (s.setCluster k c))

theorem restoreCores_cluster (s : State) (k : Nat) (c : Cluster) (v : SavedCluster) (vt : Tab (BitVec 128)) :
    (s.restoreCores k c v vt).cluster k = c := by
  have h : (s.restoreCores k c v vt).clusters = s.clusters.put k c :=
    (foldl_keeps State.clusters (fun s (e : Nat × Nat) => State.setCore_clusters s (slotCore e.1) _) ..).trans
      (foldl_keeps State.clusters (fun s i => State.setCore_clusters s i _) ..)
  unfold State.cluster
  rw [h]
  exact State.cluster_setCluster ..

theorem restoreCores_saved (s : State) (k : Nat) (c : Cluster) (v : SavedCluster) (vt : Tab (BitVec 128)) :
    (s.restoreCores k c v vt).savedClusters = s.savedClusters :=
  (foldl_keeps State.savedClusters (fun s (e : Nat × Nat) => State.setCore_savedClusters s (slotCore e.1) _) ..).trans
    (foldl_keeps State.savedClusters (fun s i => State.setCore_savedClusters s i _) ..)

theorem restoreCores_vtab (s : State) (k : Nat) (c : Cluster) (v : SavedCluster) (vt : Tab (BitVec 128)) {i : Nat} (h : i < 32) :
    ((s.restoreCores k c v vt).core (32 * k + i)).vtab = vt := by
  refine foldl_core_keeps (P := fun c => c.vtab = vt) (fun s e hs => ?_) _
    (foldl_core_has (P := fun c => c.vtab = vt) (fun s => ?_) (fun s i hs => ?_) (mem_clusCores h) _)
  · exact core_setCore_has (P := fun c => c.vtab = vt) (fun hj => hj ▸ hs) hs
  · rw [State.core_setCore]
  · exact core_setCore_has (P := fun c => c.vtab = vt) (fun _ => rfl) hs

/-- Settles O45: each part with its conditions given; the cores and the cluster of a start and of a restore. -/
theorem clustersStartAndAreSaved : Obligations.ClustersStartAndAreSaved := by
  unfold Obligations.ClustersStartAndAreSaved
  refine ⟨?_, ?_, ?_, ?_⟩
  · intro k n s s1 s2 l vt rt hh hl hst hr hno hd hv hrt
    have hm : ((s.cluster k).holder.bind fun n => (s.launches.find n).map fun l => (n, l)) = some (n, l) := by
      rw [hh, Option.bind_some, hl, Option.map_some]
    have hsaved : (s.savedClusters.any fun v => v.clus == k && v.launch == n) = false := by
      rw [List.any_eq_false]
      intro v hv h
      simp only [Bool.and_eq_true, beq_iff_eq] at h
      exact hno v hv h
    have hgo : ¬((s.cluster k).started || l.state != .ready || (s.savedClusters.any fun v => v.clus == k && v.launch == n) ||
        !s.dieOn (clusDie k)) = true := by
      rw [hst, hr, hsaved, hd]
      decide
    generalize hc : ({ (s.cluster k).freed with
      modes := l.bankModes, rings := l.rings, holder := some n, heldAt := (s.cluster k).heldAt, started := true } : Cluster) = c
    have hs : s.startCluster k = some (s2.startCores k c vt rt) := by
      unfold State.startCluster
      dsimp only
      rw [hm]
      dsimp only
      rw [if_neg hgo, hv, Option.bind_some]
      dsimp only
      rw [hrt, Option.map_some, ← hc]
      rfl
    have hclus := startCores_cluster s2 k c vt rt
    have hcore := fun i (hi : i < 32) => startCores_core s2 (k := k) c vt rt hi
    have hmem := startCores_mem s2 k c vt rt
    generalize s2.startCores k c vt rt = u at hs hclus hcore hmem
    exact ⟨_, event_of hs, hclus, hcore, hmem⟩
  · intro k n s hh hs hdq hsl hsv r
    refine event_of (s := s) (o := s.saveCluster k) ?_
    have hcan : ¬(!s.savable k) = true := by rw [hsv]; decide
    unfold State.saveCluster
    dsimp only
    split
    next hold _ =>
      rw [hdq]
      dsimp only
      rw [hsl]
      exact if_neg hcan
    next hsave => exact absurd (hs.symm.trans hsave) nofun
    next hnot _ => exact absurd hs (hnot n hh)
  · intro k n s s1 w said f hh hs hw hf hr
    refine event_of (s := s) (o := s.saveCluster k) ?_
    have hdone : ¬(!s.allDone true w) = true := by rw [hw]; decide
    unfold State.saveCluster
    dsimp only
    split
    next hsave => exact absurd (hs.symm.trans hsave) nofun
    next m w' said' hhold hsave =>
      obtain ⟨rfl, rfl⟩ := SaveStage.flushing.inj (hs.symm.trans hsave)
      obtain rfl : n = m := Option.some.inj (hh.symm.trans hhold)
      rw [if_neg hdone, show s.takeFrames (clusDie k) saveFrames = (s1, some f) from hf]
      exact if_pos hr
    next _ hnot => exact absurd hs (hnot n w said hh)
  · intro k n s s1 l v vt hh hl hv hst hr hd hready hvec s2
    have hm : ((s.cluster k).holder.bind fun n => (s.launches.find n).map fun l => (n, l)) = some (n, l) := by
      rw [hh, Option.bind_some, hl, Option.map_some]
    have hgo : ¬((s.cluster k).started || l.state != .ready || !s.dieOn (clusDie k) || !s.framesReady v.frames) = true := by
      rw [hst, hr, hd, hready]
      decide
    generalize hc : ({ ({ v.cluster with sram := s2.readBanks v.frames } : Cluster).refill with
      lines := [], holder := some n, heldAt := (s.cluster k).heldAt, next := none, started := true, save := .off
      tlb := (s.cluster k).tlb } : Cluster) = c
    have hs : s.restoreCluster k = some
        ((v.frames.foldl (fun s a => s.pushFrame (clusDie k) a) s2).restoreCores k c v vt) := by
      unfold State.restoreCluster
      dsimp only
      rw [hm]
      dsimp only
      rw [hv, Option.bind_some, if_neg hgo, hvec, Option.map_some, ← hc]
      rfl
    have hfold := (State.Quiet.foldl (fun s a => State.pushFrame_quiet s (clusDie k) a) v.frames s2).saved
    generalize v.frames.foldl (fun s a => s.pushFrame (clusDie k) a) s2 = s3 at hs hfold
    have hclus := restoreCores_cluster s3 k c v vt
    have hvtab := fun i (hi : i < 32) => restoreCores_vtab s3 k c v vt hi
    have hsaved := restoreCores_saved s3 k c v vt
    generalize s3.restoreCores k c v vt = u at hs hclus hvtab hsaved
    exact ⟨_, event_of hs, hclus, hvtab, hsaved.trans (hfold.trans (State.claimFrames_quiet ..).saved)⟩

end Sys2Proof.Machine
end

section
/-! Links and dies (R361, R362, R387; O46). -/

namespace Sys2Proof.Machine

/-- A table without some keys: what stands under the others stays. -/
theorem get_filter {α : Type} (t : Tab α) (p : Nat → Bool) (k : Nat) (d : α) :
    Tab.get (t.filter fun e => p e.1) k d = if p k then Tab.get t k d else d := by
  induction t with
  | nil => simp [Tab.get]
  | cons e r ih =>
    obtain ⟨j, v⟩ := e
    by_cases hj : j = k
    · subst hj
      cases hp : p j <;> simp [hp, Tab.get, ih]
    · cases hp : p j <;> simp [hp, Tab.get, ih, hj]

/-- The end of a launch changes the launch table alone. -/
theorem endLaunch_eq (s : State) (n : Option Nat) (c : Nat) : ∃ l, s.endLaunch n c = { s with launches := l } := by
  unfold State.endLaunch
  split
  · exact ⟨s.launches, rfl⟩
  · split
    · split
      · exact ⟨_, rfl⟩
      · exact ⟨s.launches, rfl⟩
    · exact ⟨s.launches, rfl⟩

theorem foldl_endLaunch_eq (l : List Nat) (c : Nat) (s : State) :
    ∃ t, l.foldl (fun s n => s.endLaunch (some n) c) s = { s with launches := t } := by
  induction l generalizing s with
  | nil => exact ⟨s.launches, rfl⟩
  | cons n r ih =>
    obtain ⟨t, ht⟩ := endLaunch_eq s (some n) c
    rw [List.foldl_cons, ht]
    exact ih _

/-- A reset die has its reset values but for its clock, nothing of it is left, and what other dies hold stays (R362). -/
theorem resetDie_values (die : Nat) (s : State) :
    let t := s.resetDie die
    let x := s.die die
    t.die die = { Die.reset with
        ptc := x.ptc, slew := x.slew, frac := x.frac, exchanged := x.exchanged, pkgSkew := x.pkgSkew, grpSkew := x.grpSkew } ∧
      (∀ k, coreDie (slotCore k) = die → t.strand k = .idle) ∧ (∀ c, coreDie c = die → t.core c = .reset) ∧
      (∀ k, clusDie k = die → t.cluster k = .reset) ∧
      (∀ k, coreDie (slotCore k) ≠ die → t.strand k = s.strand k) ∧ t.mem = s.mem := by
  obtain ⟨l, hl⟩ := foldl_endLaunch_eq
    ((s.clusters.filter fun e => clusDie e.1 == die).filterMap fun e => e.2.holder).eraseDups 7 s
  simp only [State.resetDie, hl]
  refine ⟨get_put .., fun k hk => ?_, fun c hc => ?_, fun k hk => ?_, fun k hk => ?_, trivial⟩
  · exact (get_filter _ (fun j => !(coreDie (slotCore j) == die)) ..).trans (if_neg (by simp [hk]))
  · exact (get_filter _ (fun j => !(coreDie j == die)) ..).trans (if_neg (by simp [hc]))
  · exact (get_filter _ (fun j => clusDie j != die) ..).trans (if_neg (by simp [hk]))
  · exact (get_filter _ (fun j => !(coreDie (slotCore j) == die)) ..).trans (if_pos (by simp [hk]))

/-- With nothing in its buffers and no slice in use, a die loses nothing before its reset (R362). -/
theorem exec_dieFatalReset {die : Nat} {s : State} (hd : die < 8) (hon : s.dieOn die = true) (hs : s.slicesOf die = [])
    (hp : ∀ e ∈ s.posting, e.1 / 64 / 8192 ≠ die) (hi : ∀ e ∈ s.ingress, e.1 / 64 % 8 ≠ die) :
    exec (.dieFatalReset die) s = .next (s.resetDie die).sweep.ran := by
  have hno : ¬(decide (8 ≤ die) || !s.dieOn die) = true := by
    rw [hon, decide_eq_false (Nat.not_le.mpr hd)]
    decide
  have hlose : s.loseHeld die = s := by
    unfold State.loseHeld
    rw [hs]
    rfl
  have hown : (s.posting.filter fun e => e.1 / 64 / 8192 == die) = [] :=
    List.filter_eq_nil_iff.mpr fun e he => by simpa using hp e he
  have hcome : (s.ingress.filter fun e => e.1 / 64 % 8 == die) = [] :=
    List.filter_eq_nil_iff.mpr fun e he => by simpa using hi e he
  have hpost : (s.posting.filter fun e => e.1 / 64 / 8192 != die) = s.posting :=
    List.filter_eq_self.mpr fun e he => by simpa using hp e he
  have hing : (s.ingress.filter fun e => e.1 / 64 % 8 != die) = s.ingress :=
    List.filter_eq_self.mpr fun e he => by simpa using hi e he
  refine event_of ((if_neg hno).trans ?_)
  dsimp only
  rw [hlose, hown, hcome, hpost, hing]
  rfl

/-- A link that wakes is up (R362). -/
def State.linkUp (s : State) (k : Nat) : State :=
  match (s.link k).state with
  | .asleep .. => s.setLink k { s.link k with state := .up }
  | _ => s

theorem linkUp_asleep {s : State} {k : Nat} {t : Option Word} {slow : Bool} (h : (s.link k).state = .asleep t slow) :
    s.linkUp k = s.setLink k { s.link k with state := .up } := by
  unfold State.linkUp
  rw [h]

theorem linkUp_up {s : State} {k : Nat} (h : (s.link k).state = .up) : s.linkUp k = s := by
  unfold State.linkUp
  rw [h]

/-- A gated die is on again (R362). -/
def State.dieUp (s : State) (d : Nat) : State :=
  if (s.die d).power = .gated then s.setDie d { s.die d with power := .on } else s

theorem dieUp_on {s : State} {d : Nat} (h : (s.die d).power = .on) : s.dieUp d = s :=
  if_neg (by rw [h]; decide)

theorem dieUp_gated {s : State} {d : Nat} (h : (s.die d).power = .gated) :
    s.dieUp d = s.setDie d { s.die d with power := .on } := if_pos h

theorem exec_dieLinkTrained {s : State} {l : Nat} {t : Word} {slow : Bool} (h : (s.link l).state = .asleep (some t) slow) :
    exec (.dieLinkTrained l) s = event s (
      if (s.die (l / 8)).power == .dead || (s.die (l % 8)).power == .dead then none
      else some ((((((s.linkUp l).linkUp (linkKey (l % 8) (l / 8))).dieUp (l / 8)).dieUp (l % 8)).sendInvs (l / 8)).sendInvs
        (l % 8))) := by
  rw [show exec (.dieLinkTrained l) s = execDieLinkTrained l s from rfl]
  unfold execDieLinkTrained
  dsimp only
  split
  next => rfl
  next hno => exact absurd h (hno t slow)

/-- Settles O46: each event with its conditions given; what a reset leaves. -/
theorem linksAndDiesChangeState : Obligations.LinksAndDiesChangeState := by
  unfold Obligations.LinksAndDiesChangeState
  refine ⟨⟨?_, ?_, ?_⟩, ?_, ?_, resetDie_values, ?_, ?_, ?_⟩
  · intro p s hp hd
    have hno : (decide (2 ≤ p) || (s.hostLink p).down) = false := by
      rw [hd, decide_eq_false (Nat.not_le.mpr hp)]
      rfl
    refine ⟨event_of (if_neg (ne_true_of_eq_false hno)), fun ⟨e, he, x, hx, t, hxp, hxt, ht⟩ => event_of (if_neg ?_)⟩
    rw [hno, Bool.false_or, Bool.not_eq_true, Bool.not_eq_false']
    refine List.any_eq_true.mpr ⟨e, he, List.any_eq_true.mpr ⟨x, hx, ?_⟩⟩
    rw [hxp, hxt, beq_self_eq_true, Bool.true_and]
    exact decide_eq_true ht
  · intro p s hp hv
    refine event_of (if_neg ?_)
    rw [hv, decide_eq_false (Nat.not_le.mpr hp)]
    decide
  · intro l s hl h64 h65 hst
    refine event_of (if_neg ?_)
    rw [hl, beq_eq_false_iff_ne.mpr h64, beq_eq_false_iff_ne.mpr h65, beq_eq_false_iff_ne.mpr hst]
    decide
  · intro die s s1 hd hon hdr
    have hno : (decide (8 ≤ die) || !s.dieOn die) = false := by
      rw [hon, decide_eq_false (Nat.not_le.mpr hd)]
      rfl
    refine ⟨fun hidle => event_of ((if_neg ?_).trans (congrArg (Option.map _) hdr)),
      event_of ((if_neg (ne_true_of_eq_false hno)).trans (congrArg (Option.map _) hdr))⟩
    rw [hno, hidle]
    decide
  · exact fun die s hd hon hs hp hi => exec_dieFatalReset hd hon hs hp hi
  · intro l s t hst ht
    rw [show exec (.linkwakeMaxExpiry l) s = execLinkwakeMaxExpiry l s from rfl]
    refine event_of ?_
    split
    next u hu =>
      obtain rfl : u = t := Option.some.inj (LinkState.asleep.inj (hu.symm.trans hst)).1
      exact if_neg (Nat.not_lt.mpr ht)
    next hno => exact absurd hst (hno t)
  · intro die n s t slow hd hp haw hn hst ht
    refine event_of (if_neg ?_)
    rw [haw, beq_eq_false_iff_ne.mpr hp, decide_eq_false (Nat.not_le.mpr hd), Bool.false_or, Bool.false_or, Bool.false_or,
      Bool.not_eq_true, Bool.not_eq_false']
    refine List.any_eq_true.mpr ⟨n, hn, ?_⟩
    rw [hst]
    exact decide_eq_true ht
  · intro a b s t slow ha hb hne hst hback hon hgated
    have hdiv : (8 * a + b) / 8 = a := by omega
    have hmod : (8 * a + b) % 8 = b := by omega
    have hlinks : 8 * b + a ≠ 8 * a + b := by omega
    have hdead : ¬((s.die a).power == .dead || (s.die b).power == .dead) = true := by
      rw [hon, hgated]
      decide
    rw [exec_dieLinkTrained hst, hdiv, hmod, if_neg hdead, event_some, linkUp_asleep hst]
    generalize hs1 : s.setLink (8 * a + b) { s.link (8 * a + b) with state := .up } = s1
    have hback1 : (s1.link (8 * b + a)).state = .up := by
      rw [← hs1, State.link_setLink_ne _ _ _ _ hlinks]
      exact hback
    have hon1 : (s1.die a).power = .on := by rw [← hs1]; exact hon
    have hgated1 : (s1.die b).power = .gated := by rw [← hs1]; exact hgated
    have hdie1 : s1.die b = s.die b := by rw [← hs1]; rfl
    rw [show linkKey b a = 8 * b + a from rfl, linkUp_up hback1, dieUp_on hon1, dieUp_gated hgated1, hdie1]

end Sys2Proof.Machine
end

section
/-! The owner, the start of the device, and its wear (R363 to R368, R378 to R388; O47 to O50). -/

namespace Sys2Proof.Machine

theorem expireLease_kept {s : State} (h : s.mgmt.owner = 0 ∨ s.mgmt.lease ≠ 0) : s.expireLease = s :=
  if_pos (by rwa [Bool.or_eq_true, decide_eq_true_eq, decide_eq_true_eq])

theorem expireLease_ended {s : State} (ho : s.mgmt.owner ≠ 0) (hl : s.mgmt.lease = 0) :
    s.expireLease = ({ s with mgmt := { s.mgmt with owner := 0, gen := s.mgmt.gen + 1 } } : State).error 14 0 0 0 1
      (Config.registerOffset 47) s.mgmt.owner.toNat :=
  if_neg (by rw [Bool.or_eq_true, decide_eq_true_eq, decide_eq_true_eq, not_or, not_not]; exact ⟨ho, hl⟩)

/-- A lease that has run down leaves the device without an owner (R364). -/
theorem expireLease_mgmt (s : State) : s.expireLease.mgmt =
    if s.mgmt.owner = 0 || s.mgmt.lease ≠ 0 then s.mgmt else { s.mgmt with owner := 0, gen := s.mgmt.gen + 1 } := by
  unfold State.expireLease
  dsimp only
  split
  · rfl
  · exact (State.error_quiet ..).mgmt

theorem expireLease_boot (s : State) : s.expireLease.boot = s.boot := by
  unfold State.expireLease
  dsimp only
  split
  · rfl
  · exact (State.error_quiet ..).boot

/-- The management unit after a CLAIM on channel `ch`, with what CLAIMST says of it (R364). -/
def Mgmt.claimed (m : Mgmt) (v : Word) (ch : Nat) : Mgmt :=
  match m.claim v ch with
  | some m' => { m' with claimst := m'.claimst.put ch 3 }
  | none => { m with claimst := m.claimst.put ch 1 }

/-- A CLAIM on an interface of the device once it has started (R364). -/
theorem exec_claim {s : State} {v : Word} {ch : Nat} (hc : ch ≤ 256) (hb : s.boot.running.isSome = true) :
    exec (.claim v ch) s = .next ({ s.expireLease with mgmt := s.expireLease.mgmt.claimed v ch } : State).ran := by
  have hno : ¬(decide (256 < ch) || s.expireLease.boot.running.isNone) = true := by
    rw [expireLease_boot, ← Option.not_isSome, hb, decide_eq_false (Nat.not_lt.mpr hc)]
    decide
  rw [show exec (.claim v ch) s = execClaim v ch s from rfl]
  unfold execClaim Mgmt.claimed
  dsimp only
  rw [if_neg hno]
  generalize s.expireLease = s1
  cases s1.mgmt.claim v ch with
  | some m => rfl
  | none => rfl

/-- The lease runs down with time, and one that has run down leaves no owner (R363, R364). -/
theorem elapse_mgmt (ns : Nat) (s : State) :
    (s.elapse ns).mgmt = ({ s with mgmt := { s.mgmt with lease := BitVec.ofNat 32 (s.mgmt.lease.toNat - ns) } } :
      State).expireLease.mgmt := by
  unfold State.elapse
  dsimp only
  rw [expireLease_mgmt, expireLease_mgmt]
  have h : ∀ s : State, s.unproved.mgmt = s.mgmt := fun s => foldl_keeps State.mgmt (fun s d => State.setDie_mgmt s d _) ..
  rw [h, foldl_keeps State.mgmt fun s d => State.setDie_mgmt s d _]

/-- A change of a partition that no launch holds a cluster of (R379). -/
theorem partChange_of {s : State} {k : Nat} {f : BitVec 10} {en : Bool} (hn : (s.part k).next = some (f, en))
    (hh : s.partHeld k = false) : s.partChange k = if !(s.part k).scrub then some (s.assign k f en) else
      match (s.part k).drain with
      | none =>
        let t := (s.drainFrame (partBase k) partSize).invFrame (partBase k) partSize
        some (t.setPart k { s.part k with drain := some (t.frameItems (partBase k) partSize) })
      | some w =>
        if s.allDone false w && s.frameClear (partBase k) partSize then some ((s.scrub k).assign k f en) else none := by
  unfold State.partChange
  dsimp only
  rw [hn]
  exact if_neg (ne_true_of_eq_false hh)

/-- Settles O47: CLAIM by its conditions, the lease over time, and the change of a partition. -/
theorem ownersClaimAndPartition : Obligations.OwnersClaimAndPartition := by
  unfold Obligations.OwnersClaimAndPartition
  refine ⟨⟨?_, ?_, ?_⟩, ?_, ?_⟩
  · intro value ch s hc hb m self heir held fits gives
    have taken : held → ∀ m', m.claim value ch = some m' → m'.claimst = m.claimst → gives m' := by
      intro hheld m' hm hst
      refine (exec_claim hc hb).trans ?_
      rw [expireLease_kept hheld]
      unfold Mgmt.claimed
      rw [hm, ← hst]
    have refused : held → m.claim value ch = none → exec (.claim value ch) s =
        .next ({ s with mgmt := { m with claimst := m.claimst.put ch 1 } } : State).ran := by
      intro hheld hm
      refine (exec_claim hc hb).trans ?_
      rw [expireLease_kept hheld]
      unfold Mgmt.claimed
      rw [hm]
    have pass : fits → m.claim value ch = if m.owner = 0 then
          (if heir = self then some { m with owner := self, gen := m.gen + 1, lease := leaseTime } else none)
        else if self ≠ m.owner then none
        else if heir = self then some { m with lease := leaseTime }
        else if heir = 0 then some { m with owner := 0, gen := m.gen + 1, lease := 0 }
        else some { m with owner := heir, gen := m.gen + 1, lease := leaseTime } := by
      intro ⟨_, hs, he, hg⟩
      refine if_neg ?_
      rintro (h | h | h)
      · exact hs h
      · exact h he
      · exact h hg
    refine ⟨fun hf ho hh => ?_, fun hf ho hs hh => ?_, fun hf ho hs hh => ?_, fun hf ho hs hh h0 => ?_, fun hheld h => ?_,
      fun hheld => ?_⟩
    · exact taken hf.1 _ ((pass hf).trans ((if_pos ho).trans (if_pos hh))) rfl
    · exact taken hf.1 _ ((pass hf).trans ((if_neg ho).trans ((if_neg (not_not.mpr hs)).trans (if_pos hh)))) rfl
    · have hne : heir ≠ self := fun h => hf.2.1 (h.symm.trans hh)
      exact taken hf.1 _ ((pass hf).trans ((if_neg ho).trans ((if_neg (not_not.mpr hs)).trans
        ((if_neg hne).trans (if_pos hh))))) rfl
    · exact taken hf.1 _ ((pass hf).trans ((if_neg ho).trans ((if_neg (not_not.mpr hs)).trans
        ((if_neg hh).trans (if_neg h0))))) rfl
    · refine refused hheld ?_
      by_cases hf : fits
      · obtain h | ⟨ho, hh⟩ | ⟨ho, hs⟩ := h
        · exact absurd hf h
        · exact (pass hf).trans ((if_pos ho).trans (if_neg hh))
        · exact (pass hf).trans ((if_neg ho).trans (if_pos hs))
      · refine if_pos ?_
        by_contra hc
        rw [not_or, not_or, not_not, not_not] at hc
        exact hf ⟨hheld, hc⟩
    · obtain ⟨ho, hl⟩ := not_or.mp hheld
      have hex := expireLease_ended ho (not_not.mp hl)
      have hmg := expireLease_mgmt s
      rw [← hex]
      have hkept : s.expireLease.expireLease = s.expireLease := by
        refine expireLease_kept (.inl ?_)
        rw [hex]
        exact congrArg Mgmt.owner (State.error_quiet ..).mgmt
      rw [exec_claim hc hb, exec_claim hc ((congrArg (fun b : Boot => b.running.isSome) (expireLease_boot s)).trans hb), hkept]
  · intro ns s ho hl
    refine ⟨_, rfl, ?_⟩
    rw [show ((s.elapse ns).ran).mgmt = (s.elapse ns).mgmt from rfl, elapse_mgmt, expireLease_mgmt]
    have hlt := s.mgmt.lease.isLt
    refine ⟨fun h => ?_, fun h => ?_⟩
    · have h0 : BitVec.ofNat 32 (s.mgmt.lease.toNat - ns) = 0 := by rw [Nat.sub_eq_zero_of_le h]; rfl
      rw [if_neg (by rw [Bool.or_eq_true, decide_eq_true_eq, decide_eq_true_eq, not_or, not_not]; exact ⟨ho, h0⟩)]
      exact ⟨rfl, rfl, h0⟩
    · have hn : (BitVec.ofNat 32 (s.mgmt.lease.toNat - ns)).toNat = s.mgmt.lease.toNat - ns := by
        rw [BitVec.toNat_ofNat]
        omega
      have h0 : BitVec.ofNat 32 (s.mgmt.lease.toNat - ns) ≠ 0 := fun h0 => by
        rw [h0] at hn
        have : s.mgmt.lease.toNat - ns = 0 := hn.symm
        omega
      rw [if_pos (by rw [Bool.or_eq_true, decide_eq_true_eq, decide_eq_true_eq]; exact .inr h0)]
      exact ⟨rfl, rfl, hn⟩
  · intro s ho hl
    refine event_of ((if_neg ?_).trans (congrArg some (expireLease_ended ho hl)))
    rw [Bool.or_eq_true, decide_eq_true_eq, decide_eq_true_eq, not_or, not_not]
    exact ⟨ho, hl⟩
  · intro k value who s hb how p f en writes
    have hw : ∀ p', (s.part k.toNat).write value = p' → writes p' := by
      intro p' hp
      refine event_of ((governed_owner _ hb how).trans ?_)
      rw [hp]
    refine ⟨fun hbusy => hw _ (if_pos hbusy), fun hbusy hf he => hw _ ?_, fun hbusy hne => hw _ ?_⟩
    · exact (if_neg (ne_true_of_eq_false hbusy)).trans (if_pos ⟨hf, he⟩)
    · exact (if_neg (ne_true_of_eq_false hbusy)).trans (if_neg hne)
  · intro k s f en hn hh p
    refine ⟨fun hs => event_of (s := s) (o := s.partChange k.toNat) ?_,
      fun w hs hd hw hf => event_of (s := s) (o := s.partChange k.toNat) ?_⟩
    · rw [partChange_of hn hh]
      refine if_pos ?_
      rw [show (s.part k.toNat).scrub = false from hs]
      rfl
    · rw [partChange_of hn hh]
      refine (if_neg ?_).trans ?_
      · rw [show (s.part k.toNat).scrub = true from hs]
        decide
      · rw [show (s.part k.toNat).drain = some w from hd]
        exact if_pos (by rw [hw, hf]; rfl)

end Sys2Proof.Machine
end

section
/-! The start of the device, its wear and its registers (R5, R365 to R368, R385 to R388; O48 to O50). -/

namespace Sys2Proof.Machine

/-- Before the device has started no register answers (R366). -/
theorem exec_registerWrite_off {s : State} (reg : BarReg) (v : Word) (who : BitVec 16) (h : s.boot.running = none) :
    exec (.registerWrite reg v who) s = .next s.waits := by
  rw [show exec (.registerWrite reg v who) s = execRegisterWrite reg v who s from rfl]
  unfold execRegisterWrite
  rw [if_pos (by rw [h]; simp), event_none]

theorem exec_claim_off {s : State} (v : Word) (ch : Nat) (h : s.boot.running = none) :
    exec (.claim v ch) s = .next s.waits := by
  rw [show exec (.claim v ch) s = execClaim v ch s from rfl]
  unfold execClaim
  dsimp only
  rw [if_pos (by rw [expireLease_boot, h]; simp), event_none]

/-- Secure start with the image that it takes, if there is one (R366). -/
def State.booted (s : State) : Option (Image × ConfigRecord) → State
  | none => { s with boot := { s.boot with recovery := true } }
  | some (i, r) =>
    State.applyRecord { s with boot := { s.boot with running := some i, record := some r, mrs := measure i.stages } } r

theorem exec_secureBoot {s : State} (hr : s.boot.running = none) (hrec : s.boot.recovery = false) :
    exec .secureBoot s =
      .next (s.booted ((s.boot.candidate s.boot.slotA).or (s.boot.candidate s.boot.slotB))).ran := by
  have hno : ¬(s.boot.running.isSome || s.boot.recovery) = true := by
    rw [hr, hrec]
    decide
  rw [show exec .secureBoot s = execSecureBoot s from rfl]
  refine event_of ((if_neg hno).trans ?_)
  cases (s.boot.candidate s.boot.slotA).or (s.boot.candidate s.boot.slotB) with
  | none => rfl
  | some p => rfl

/-- Settles O48: each event with its conditions given. -/
theorem theDeviceStartsSecurely : Obligations.TheDeviceStartsSecurely := by
  unfold Obligations.TheDeviceStartsSecurely
  refine ⟨?_, fun reg v who ch s h => ⟨exec_registerWrite_off reg v who h, exec_claim_off v ch h⟩, ?_, ?_, ?_⟩
  · intro s hr hrec b
    have start : exec .secureBoot s = .next (s.booted ((b.candidate b.slotA).or (b.candidate b.slotB))).ran :=
      exec_secureBoot hr hrec
    refine ⟨fun ha hb => ?_, fun i r h => ?_⟩
    · rw [start, ha, hb]
      rfl
    · rw [start]
      obtain h | ⟨ha, hb⟩ := h
      · rw [h]
        rfl
      · rw [ha, hb]
        rfl
  · intro slotB i s hrec
    have hno : ¬(!s.boot.recovery) = true := by rw [hrec]; decide
    refine ⟨fun hg => event_of ((if_neg hno).trans (if_pos (by rw [hg]; rfl))), fun hg => event_of ((if_neg hno).trans
      ((if_neg (by rw [hg]; decide)).trans ?_))⟩
    cases slotB with
    | true => rfl
    | false => rfl
  · intro nonce s r hr hrec b
    have hno : ¬s.boot.recovery = true := ne_true_of_eq_false hrec
    have go : ∀ t, (if 1048576 ≤ b.leaf then some { s with boot := { b with reports := b.reports ++ [[]] } }
        else some { s with boot := { b with leaf := b.leaf + 1, reports := b.reports ++ [b.report nonce r] } }) = some t →
        exec (.attestationReport nonce) s = .next t.ran := by
      intro t ht
      rw [show exec (.attestationReport nonce) s = execAttestationReport nonce s from rfl]
      refine event_of (Eq.trans ?_ ht)
      split
      next hn => exact absurd (hn.symm.trans hr) nofun
      next r' hr' =>
        obtain rfl : r' = r := Option.some.inj (hr'.symm.trans hr)
        exact if_neg hno
    exact ⟨fun h => go _ (if_neg (Nat.not_le.mpr h)), fun h => go _ (if_pos h)⟩
  · intro record who s i hi hrec
    have go : ∀ t, (if !s.owns who || !recordGood i.configKeyHash record then some s
        else match s.boot.select i.configKeyHash with
          | some (_, true) => some { s with boot := { s.boot with copyB := some record } }
          | _ => some { s with boot := { s.boot with copyA := some record } }) = some t →
        exec (.configRecordReplace record who) s = .next t.ran := by
      intro t ht
      rw [show exec (.configRecordReplace record who) s = execConfigRecordReplace record who s from rfl]
      refine event_of (Eq.trans ?_ ht)
      split
      next hn => exact absurd (hn.symm.trans hi) nofun
      next i' hi' =>
        obtain rfl : i' = i := Option.some.inj (hi'.symm.trans hi)
        exact if_neg (ne_true_of_eq_false hrec)
    refine ⟨fun h => go _ (if_pos ?_), fun ho hg => ?_⟩
    · obtain h | h := h <;> simp [h]
    · have hgo : ¬(!s.owns who || !recordGood i.configKeyHash record) = true := by
        rw [ho, hg]
        decide
      refine ⟨fun r hr => go _ ((if_neg hgo).trans ?_), fun r hr => go _ ((if_neg hgo).trans ?_)⟩
      · rw [hr]
      · rw [hr]

/-- A die with an HBM row under repair, and a read all of whose parts have come (R386). -/
def repairing : State :=
  { State.reset with
    ras := ⟨3600 ||| (16 <<< 17), [⟨.hbmRow, 0, 0, [], true⟩], []⟩
    gathers := [(0, ⟨0, 0, [], none, .accrd 0 0 0⟩)] }

/-- The reads that are still under way after a step. -/
def readsLeft : Out → Nat
  | .next t => t.gathers.length
  | _ => 0

/-- Refutes O49: what waited for a row goes on once it has been remapped (R386), so the model then finishes the reads whose parts
have all come; the statement leaves the reads as they were. -/
theorem not_wearAndPowerAreManaged : ¬ Obligations.WearAndPowerAreManaged := by
  unfold Obligations.WearAndPowerAreManaged
  rintro ⟨-, hremap, -⟩
  have h := hremap 0 repairing ⟨.hbmRow, 0, 0, [], true⟩ rfl rfl (.inl rfl)
  exact absurd (congrArg readsLeft h) (by decide)

theorem registerWrite_free {s : State} {fn : Nat} {reg : PlainReg} {v : Word} {who : BitVec 16} (hn : regNumber reg = none)
    (h : (∀ f, reg ≠ .maxprio f) ∨ fn = 0) : s.registerWrite fn reg v who = some (s.writeReg reg (v &&& regMask reg)) := by
  unfold State.registerWrite
  dsimp only
  rw [hn]
  dsimp only
  split
  next f =>
    obtain h | h := h
    · exact absurd rfl (h f)
    · rw [if_pos h]
  next => rfl

theorem registerWrite_maxprio {s : State} {fn f : Nat} {v : Word} {who : BitVec 16} (h : fn ≠ 0) :
    s.registerWrite fn (.maxprio f) v who = some s := congrArg some (if_neg h)

theorem registerWrite_governed {s : State} {fn n : Nat} {reg : PlainReg} {v : Word} {who : BitVec 16}
    (hn : regNumber reg = some n) :
    s.registerWrite fn reg v who = s.governed who n (some (s.writeReg reg (v &&& regMask reg))) := by
  unfold State.registerWrite
  dsimp only
  rw [hn]

/-- A register with no bit to store is read-only (R5). -/
theorem writeReg_readOnly {s : State} {reg : PlainReg} {v : Word} (h : regMask reg = 0) : s.writeReg reg v = s := by
  cases reg
  case frtail | fflget | migst | sflcnt | ertail | erdrop | pwrst => rfl
  all_goals simp [regMask] at h

/-- Settles O50: writes by what governs the register, and reads. -/
theorem registersTakeTheirOwnersWrites : Obligations.RegistersTakeTheirOwnersWrites := by
  unfold Obligations.RegistersTakeTheirOwnersWrites
  refine ⟨?_, ?_, ?_⟩
  · intro fn reg value who s hex hre hb v i
    have hno : ¬(!regExists reg || !regReached fn reg || s.boot.running.isNone) = true := by
      rw [hex, hre, ← Option.not_isSome, hb]
      decide
    have go : ∀ t, s.registerWrite fn reg value who = some t → exec i s = .next t.ran :=
      fun t ht => event_of ((if_neg hno).trans ht)
    refine ⟨fun hn => ⟨fun h => go _ ?_, fun f hf hfn => go _ ?_⟩, fun n hn => ⟨fun ho hl => go _ ?_, fun ho => go _ ?_, fun ho hm => ?_⟩⟩
    · exact registerWrite_free hn h
    · subst hf
      exact registerWrite_maxprio hfn
    · refine (registerWrite_governed hn).trans ((governed_other _ hb ho).trans ?_)
      rw [expireLease_kept hl]
    · exact (registerWrite_governed hn).trans (governed_owner _ hb ho)
    · refine go _ ((registerWrite_governed hn).trans ((governed_owner _ hb ho).trans ?_))
      rw [writeReg_readOnly hm]
  · intro fn r s hb hr
    refine event_of (if_neg ?_)
    rw [hr, ← Option.not_isSome, hb]
    decide
  · intro f d s r hr
    fin_cases hr <;> rfl

end Sys2Proof.Machine
end

section
/-! The matrix unit (R239 to R245; O51). -/

namespace Sys2Proof.Machine

/-- A search that only one element of the list can answer gives that answer. -/
theorem findSome?_only {α β : Type} {f : α → Option β} {c : α} {l : List α} (hc : c ∈ l) (h : ∀ d ∈ l, d ≠ c → f d = none) :
    l.findSome? f = f c := by
  induction l with
  | nil => cases hc
  | cons d r ih =>
    rw [List.findSome?_cons]
    by_cases hd : d = c
    · subst hd
      cases hf : f d with
      | some v => rfl
      | none =>
        refine List.findSome?_eq_none_iff.mpr fun x hx => ?_
        by_cases hx' : x = d
        · rw [hx', hf]
        · exact h x (List.mem_cons_of_mem _ hx) hx'
    · rw [h d (List.mem_cons_self ..) hd]
      exact ih ((List.mem_cons.mp hc).resolve_left (Ne.symm hd)) fun x hx => h x (List.mem_cons_of_mem _ hx)

/-- A core without requests has none that is served. -/
theorem serveCore_empty {s : State} {k d : Nat} (h : ((s.cluster k).mats.get d .reset).reqs = []) : s.serveCore k d = none := by
  unfold State.serveCore
  dsimp only
  rw [h]

/-- The oldest request of a core, once its operands are there and no emission is under way (R239 to R243). -/
theorem serveCore_request {s : State} {k c : Nat} {m m1 : MatCtx} {r : MatReq} {rest : List MatReq} {k1 : Cluster} {a b : Nat}
    (hm : (s.cluster k).mats.get c .reset = m) (hr : m.reqs = r :: rest) (he : m.emitting = none)
    (hp : (s.cluster k).popOperands m r = some (k1, m1, a, b)) :
    let acc := k1.compute (s.tileHeld k r.ctx) m1 r a b
    s.serveCore k c = if s.banksBusy k (m.banks r.fa r.fb r.mmat) || acc.wait then none else
      some (s.setCluster k { k1 with
        mats := k1.mats.put c (({ acc.ctx with reqs := rest, kpos := m1.kpos + matDepth m1.af } : MatCtx).commit r acc)
        served := c }) := by
  intro acc
  unfold State.serveCore
  dsimp only
  rw [hm, hr]
  dsimp only
  rw [he, hp]
  cases s.banksBusy k (m.banks r.fa r.fb r.mmat) with
  | true => rfl
  | false => rfl

/-- A cluster in which one core alone has requests serves that core. -/
theorem exec_matrixRequestServe {s : State} {k c : Nat} (hc : c < 32)
    (h : ∀ d, d < 32 → d ≠ c → ((s.cluster k).mats.get d .reset).reqs = []) :
    exec (.matrixRequestServe k) s = event s (s.serveCore k c) := by
  refine congrArg (event s) (findSome?_only ?_ fun d hd hne => ?_)
  · exact List.mem_map.mpr ⟨(c + 31 - (s.cluster k).served % 32) % 32, List.mem_range.mpr (by omega), by omega⟩
  · obtain ⟨i, -, rfl⟩ := List.mem_map.mp hd
    exact serveCore_empty (h _ (by omega) hne)

/-- Settles O51: the service by its conditions, what a commit leaves in the buffer, and the emission. -/
theorem matrixRequestsAreServed : Obligations.MatrixRequestsAreServed := by
  unfold Obligations.MatrixRequestsAreServed
  refine ⟨?_, ?_, ?_⟩
  · intro clus c s m m1 r rest k1 a b hc k hno hm hr he hp acc m2
    rw [exec_matrixRequestServe hc hno, serveCore_request hm hr he hp]
    refine ⟨fun h => ?_, fun hb hw => ?_⟩
    · rw [if_pos (by simpa using h), event_none]
    · rw [if_neg (by rw [hb]; simpa using hw), event_some]
  · intro m r acc b hb he
    refine ⟨fun hne => ?_, fun heq hc => ?_, fun heq hc => ?_⟩
    · simp [MatCtx.commit, hb, hne]
    · simp [MatCtx.commit, hb, heq, hc, he]
    · simp [MatCtx.commit, hb, heq, hc]
  · intro core s b m he hb
    rw [show exec (.coalescingEmit core) s = execCoalescingEmit core s from rfl]
    refine event_of ?_
    split
    next hn => exact absurd (hn.symm.trans he) nofun
    next b' hb' =>
      obtain rfl : b' = b := Option.some.inj (hb'.symm.trans he)
      exact if_neg (ne_true_of_eq_false hb)

end Sys2Proof.Machine
end

section
/-! Memory reads back what was written (R4, R51; O54). -/

namespace Sys2Proof.Machine

/-- A write of `n` bytes changes no byte outside them. -/
theorem Memory.read_writeN_ne (n : Nat) {m : Memory} {a v b : Nat} (h : b < a ∨ a + n ≤ b) :
    (m.writeN a v n).read b = m.read b := by
  induction n generalizing m a v with
  | zero => rfl
  | succ n ih =>
    rw [Memory.writeN, ih (by omega)]
    exact Memory.read_write_ne _ _ _ _ (by omega)

/-- A number of `n` bytes reads back little-endian (R4). -/
theorem Memory.readN_writeN (n : Nat) {m : Memory} (hm : Memory.wf m = true) (a v : Nat) :
    (m.writeN a v n).readN a n = v % 2 ^ (8 * n) := by
  induction n generalizing m a v with
  | zero => simp [Memory.readN, Nat.mod_one]
  | succ n ih =>
    have hw := Memory.write_wf hm a (BitVec.ofNat 8 v)
    rw [Memory.writeN, Memory.readN, ih hw, Memory.read_writeN_ne n (by omega), Memory.read_write hm, BitVec.toNat_ofNat,
      show 8 * (n + 1) = 8 + 8 * n by ring, Nat.pow_add, Nat.mod_mul]

/-- A masked write changes no byte outside its stretch. -/
theorem Memory.read_writeMasked_ne (n : Nat) {m : Memory} {a v k b : Nat} (h : b < a ∨ a + n ≤ b) :
    (m.writeMasked a v k n).read b = m.read b := by
  induction n generalizing m a v k with
  | zero => rfl
  | succ n ih =>
    rw [Memory.writeMasked, ih (by omega)]
    split
    · exact Memory.read_write_ne _ _ _ _ (by omega)
    · rfl

/-- A masked write sets byte `j` of its stretch where bit `j` of the mask is set, and leaves it otherwise (R51). -/
theorem Memory.read_writeMasked (n : Nat) {m : Memory} (hm : Memory.wf m = true) {a v k j : Nat} (hj : j < n) :
    (m.writeMasked a v k n).read (a + j) =
      if k.testBit j then BitVec.ofNat 8 (v / 2 ^ (8 * j)) else m.read (a + j) := by
  induction n generalizing m a v k j with
  | zero => omega
  | succ n ih =>
    have hw : Memory.wf (if k % 2 = 1 then m.write a (BitVec.ofNat 8 v) else m) = true := by
      split
      · exact Memory.write_wf hm ..
      · exact hm
    rw [Memory.writeMasked]
    cases j with
    | zero =>
      rw [Memory.read_writeMasked_ne n (by omega), Nat.testBit_zero]
      by_cases hk : k % 2 = 1
      · simp [hk, Memory.read_write hm]
      · simp [hk]
    | succ j =>
      rw [show a + (j + 1) = a + 1 + j by omega, ih hw (by omega), Nat.testBit_succ, Nat.div_div_eq_div_mul,
        show 256 * 2 ^ (8 * j) = 2 ^ (8 * (j + 1)) by rw [show 8 * (j + 1) = 8 + 8 * j by ring, Nat.pow_add]]
      congr 1
      split
      · exact Memory.read_write_ne _ _ _ _ (by omega)
      · rfl

theorem writeMem_absent {s : State} {a n : Nat} (v : Nat) (h : bytesExist a n = false) : s.writeMem a v n = s :=
  if_neg (ne_true_of_eq_false h)

/-- Settles O54: the bytes of a write and of a masked merge, read one by one. -/
theorem memoryReadsBackWhatWasWritten : Obligations.MemoryReadsBackWhatWasWritten := by
  unfold Obligations.MemoryReadsBackWhatWasWritten
  intro s hs
  refine ⟨fun a v n h => ?_, fun a v n h => writeMem_absent v h, fun a v n b hb => ?_, fun l d m j hj => ?_, fun l d m a ha => ?_⟩
  · rw [State.readMem, if_pos h, State.writeMem, if_pos h]
    exact Memory.readN_writeN n hs a v
  · rw [State.readByte, State.writeMem]
    split
    · exact Memory.read_writeN_ne n hb
    · rfl
  · have hbyte : BitVec.ofNat 8 (d.toNat / 2 ^ (8 * j)) = BitVec.ofNat 8 (lineBytes d j 1) := by
      refine BitVec.eq_of_toNat_eq ?_
      rw [lineBytes, BitVec.toNat_ofNat, BitVec.toNat_ofNat, Nat.mod_mod_of_dvd _ (by decide)]
    rw [← hbyte]
    simp only [State.readByte, State.mergeLine]
    rw [Memory.read_writeMasked 128 hs hj]
    rfl
  · simp only [State.readByte, State.mergeLine]
    rw [Memory.read_writeMasked_ne 128 (by omega)]

end Sys2Proof.Machine
end

section
/-! Decoded words, the step and the reset (R13, R70, R127 to R150; O56, O57, O60). -/

namespace Sys2Proof.Machine

/-- Settles O56: the decoder on words written field by field. -/
theorem wordsOfTheTablesDecode : Obligations.WordsOfTheTablesDecode := by
  unfold Obligations.WordsOfTheTablesDecode
  refine ⟨?_, ?_, ?_, ?_, ?_, ?_, ?_, ?_⟩ <;> decide +kernel

theorem fetch_inside {s : State} {k : Nat} (hw : (s.strand k).way = none) (hh : (s.strand k).pc ≠ (s.strand k).nextHeader) :
    s.fetch k = s.fetchWord k := by
  unfold State.fetch
  dsimp only
  rw [hw]
  exact if_neg hh

/-- The word at the program counter of a block that may be decoded (R127). -/
theorem fetchWord_ok {s s1 : State} {k v : Nat} (hn : (s.strand k).hword.getLsbD 14 = false)
    (hc : s.code (s.strand k) (slotCore k) (s.strand k).pc 4 = .ok s1 v) :
    (∀ i, decode (BitVec.ofNat 32 v) none = .ok i → s.fetchWord k = .instr s1 i) ∧
    (∀ e, decode (BitVec.ofNat 32 v) none = .error e → e ≠ .literalMissing →
      s.fetchWord k = .instr s1 (.illegalInstruction (BitVec.ofNat 32 v))) ∧
    (∀ s2 x i, decode (BitVec.ofNat 32 v) none = .error .literalMissing → (s.strand k).pc + 4 ≠ (s.strand k).nextHeader →
      s1.code (s.strand k) (slotCore k) ((s.strand k).pc + 4) 4 = .ok s2 x →
        decode (BitVec.ofNat 32 v) (some (BitVec.ofNat 32 x)) = .ok i → s.fetchWord k = .instr s2 i) := by
  unfold State.fetchWord
  dsimp only
  rw [hc]
  dsimp only
  rw [if_neg (ne_true_of_eq_false hn)]
  refine ⟨fun i hi => ?_, fun e he hne => ?_, fun s2 x i hm hlast hx hi => ?_⟩
  · rw [hi]
  · rw [he]
    cases e <;> first | rfl | exact absurd rfl hne
  · rw [hm]
    dsimp only
    rw [if_neg hlast, hx]
    dsimp only
    rw [hi]

/-- A slot without a strand that is active does not issue (R13). -/
theorem attempt_inactive {s : State} {k : Nat} (h : (s.strand k).active = false) :
    s.attempt k = .next ({ s with here := k, stalled := false } : State).waits := by
  unfold State.attempt
  dsimp only
  refine if_pos ?_
  rw [show ({ s with here := k, stalled := false } : State).strand k = s.strand k from rfl, h]
  rfl

/-- A strand with nothing in its way issues the instruction that it fetches (R70). -/
theorem attempt_ready {s s1 : State} {i : Instr} (hs : s.stalled = false) (hp : (s.die (coreDie (slotCore s.here))).power = .on)
    (hst : s.stopped s.me = false) (hr : s.me.ready = true) (hl : s.me.reload = none) (hf : s.fetch s.here = .instr s1 i) :
    s.attempt s.here = exec i s1 := by
  have hself : ({ s with here := s.here, stalled := false } : State) = s := by rw [← hs]
  have hready := hr
  rw [Strand.ready] at hready
  simp only [Bool.and_eq_true, Bool.not_eq_true'] at hready
  obtain ⟨⟨⟨⟨⟨⟨hact, -⟩, -⟩, -⟩, -⟩, hq⟩, -⟩ := hready
  have hnext : s.me.nextReplay = none := by
    refine List.find?_eq_none.mpr fun e he hrep => ?_
    have := List.any_eq_false.mp hq e he
    rw [hrep] at this
    exact this rfl
  have hgo : ¬(!(s.strand s.here).active || (s.die (coreDie (slotCore s.here))).power != .on) = true := by
    rw [show (s.strand s.here).active = true from hact, hp]
    decide
  have hrel : s.reloaded s.me = none := by
    unfold State.reloaded
    rw [hl]
    rfl
  unfold State.attempt
  dsimp only
  rw [hself, if_neg hgo, if_neg (by rw [show s.stopped (s.strand s.here) = false from hst]; decide),
    show (s.strand s.here).nextReplay = none from hnext]
  dsimp only
  rw [if_neg (by rw [show (s.strand s.here).ready = true from hr]; decide), show s.reloaded (s.strand s.here) = none from hrel]
  unfold State.issueSlot
  dsimp only
  rw [hf]
  exact if_neg (by rw [show (s.strand s.here).reload = none from hl]; decide)

theorem roundRobin_only (last : Nat) {n : Nat} (hn : n < 5) : roundRobin last [n] = some n := by
  unfold roundRobin
  cases hf : ([1, 2, 3, 4, 5].map fun i => (last + i) % 5).find? fun m => [n].contains m with
  | none =>
    have hall := List.find?_eq_none.mp hf n (List.mem_map.mpr ⟨(n + 4 - last % 5) % 5 + 1, ?_, by omega⟩)
    · simp at hall
    · have : (n + 4 - last % 5) % 5 < 5 := Nat.mod_lt _ (by decide)
      interval_cases (n + 4 - last % 5) % 5 <;> decide
  | some m => simpa using List.find?_some hf

/-- The only slot that is ready is selected, whatever its age and its class (R13). -/
theorem selectSlot_only (core : Core) (cls : Nat → SlotClass) {n : Nat} (hn : n < 5) : selectSlot core cls [n] = some n := by
  unfold selectSlot
  dsimp only
  by_cases ha : core.age.toNat ≤ core.pass.get n 0
  · rw [List.filter_cons_of_pos (by simpa using ha)]
    cases hc : cls n <;> simp [hc]
  · rw [List.filter_cons_of_neg (by simpa using ha)]
    refine (findSome?_only (c := cls n) ?_ fun d _ hd => ?_).trans ?_
    · cases cls n <;> decide
    · rw [List.filter_cons_of_neg (by simpa using Ne.symm hd)]
      simp [roundRobin]
    · rw [List.filter_cons_of_pos (by simp)]
      exact roundRobin_only _ hn

/-- A slot with what its attempt comes to. -/
def State.tryOf (s : State) (c n : Nat) : Tried := ⟨n, s.attempt (slotKey c n)⟩

/-- A core of which one slot alone issues, by its own attempt (R13). -/
theorem runIssue_only {s s2 : State} {c n : Nat} (hn : n < 5)
    (hno : ∀ m, m < 5 → m ≠ n → (s.strand (slotKey c m)).active = false)
    (ha : s.attempt (slotKey c n) = .next s2) (h2 : s2.stalled = false) :
    s.runIssue c [] = .next (s2.setCore c ((s2.core c).issued n (s.strand (slotKey c n)).cls [n]
      (decide ((s.core c).age.toNat ≤ (s.core c).pass.get n 0)))) := by
  have hready : ∀ m ∈ [0, 1, 2, 3, 4], (s.tryOf c m).isReady = (m == n) := by
    intro m hm
    by_cases hmn : m = n
    · subst hmn
      rw [beq_self_eq_true, Tried.isReady, State.tryOf]
      dsimp only
      rw [ha]
      exact (Bool.not_eq_true' _).mpr h2
    · have hm5 : m < 5 := by
        simp only [List.mem_cons, List.not_mem_nil, or_false] at hm
        omega
      rw [beq_eq_false_iff_ne.mpr hmn, Tried.isReady, State.tryOf]
      dsimp only
      rw [attempt_inactive (hno m hm5 hmn)]
      rfl
  have hpick : [0, 1, 2, 3, 4].filter (fun m => m == n) = [n] ∧ [0, 1, 2, 3, 4].find? (fun m => m == n) = some n := by
    interval_cases n <;> decide
  have hlist : (([0, 1, 2, 3, 4].map fun m => s.tryOf c m).filter fun r => r.isReady).map (fun r => r.slot) = [n] := by
    rw [List.filter_map, List.map_map, show List.filter ((fun r => r.isReady) ∘ fun m => s.tryOf c m) [0, 1, 2, 3, 4] = [n] from
      (List.filter_congr hready).trans hpick.1]
    rfl
  have hfind : ([0, 1, 2, 3, 4].map fun m => s.tryOf c m).find? (fun r => r.slot == n) = some (s.tryOf c n) := by
    rw [List.find?_map]
    exact congrArg (Option.map _) hpick.2
  have htried : ([0, 1, 2, 3, 4].filter fun m => !([] : List Nat).contains m).map (fun m => (⟨m, s.attempt (slotKey c m)⟩ : Tried)) =
      [0, 1, 2, 3, 4].map fun m => s.tryOf c m := rfl
  unfold State.runIssue
  dsimp only
  rw [htried]
  split
  next r hr =>
    refine absurd (List.find?_some hr) ?_
    obtain ⟨m, hm, rfl⟩ := List.mem_map.mp (List.mem_of_find?_eq_some hr)
    rw [State.tryOf]
    dsimp only
    by_cases hmn : m = n
    · subst hmn
      rw [ha]
      dsimp only
      rw [h2, Bool.false_and]
      exact Bool.false_ne_true
    · have hm5 : m < 5 := by
        simp only [List.mem_cons, List.not_mem_nil, or_false] at hm
        omega
      rw [attempt_inactive (hno m hm5 hmn)]
      simp [State.waits, State.strand]
  next =>
    rw [hlist, selectSlot_only _ _ hn]
    dsimp only
    rw [hfind, State.tryOf]
    dsimp only
    rw [ha]
    simp only [List.any_cons, List.any_nil, Bool.or_false]

/-- Settles O57: the turn of the agenda, the word that is fetched, and the issue of the one slot that is ready. -/
theorem aStepRunsTheDecodedInstruction : Obligations.AStepRunsTheDecodedInstruction := by
  unfold Obligations.AStepRunsTheDecodedInstruction
  refine ⟨fun s i r h => ?_, ?_, ?_⟩
  · unfold step
    rw [h]
    rfl
  · intro s s1 v t w hw hh hn hc
    rw [fetch_inside hw hh]
    exact fetchWord_ok hn hc
  · intro s s1 s2 i n c ha hs hn hno hp hst hr hl hf he h2
    have hkey : slotKey c n = s.here := by
      simp only [slotKey, c, n, slotCore, slotIdx]
      omega
    have hat : s.attempt (slotKey c n) = .next s2 := by
      rw [hkey, attempt_ready hs hp hst hr hl hf, he]
    have hrun := runIssue_only hn hno hat h2
    rw [hkey] at hrun
    unfold step
    rw [ha]
    exact hrun

/-- Settles O60: the values of the reset, and the invariants on them. -/
theorem resetLeavesTheManualsValues : Obligations.ResetLeavesTheManualsValues := by
  unfold Obligations.ResetLeavesTheManualsValues
  have hmem : Safety.MemoryCanonical State.reset := rfl
  have hage : Safety.AgeLegal State.reset :=
    ⟨fun c => ⟨show 64 ≤ Core.reset.age.toNat by decide, fun n => Nat.zero_le _⟩, fun v hv => absurd hv List.not_mem_nil⟩
  refine ⟨hmem, hage, fun k b => rfl, fun k => rfl, rfl, rfl, rfl, fun f => ⟨rfl, rfl⟩, fun d => ⟨rfl, rfl, rfl, rfl, rfl⟩,
    rfl, ?_, ?_, ?_, ?_, ?_, ?_, rfl, ?_, ?_⟩
  all_goals decide +kernel

end Sys2Proof.Machine
end

section
/-! A cached store changes exactly its bytes (R56, R176; O53). -/

namespace Sys2Proof.Machine

/-- Byte `j` of a line, as a bit vector. -/
def lineByte (d : Line) (j : Nat) : Byte := d.extractLsb' (8 * j) 8

theorem lineBytes_one (d : Line) (j : Nat) : lineBytes d j 1 = (lineByte d j).toNat := by
  rw [lineByte, BitVec.extractLsb'_toNat, Nat.shiftRight_eq_div_pow, lineBytes]

theorem testBit_spread (n m j b : Nat) (hb : b < 8) : (spread m n).testBit (8 * j + b) = (decide (j < n) && m.testBit j) := by
  induction n generalizing m j with
  | zero => simp [spread]
  | succ n ih =>
    have hlow : (if m % 2 = 1 then 255 else 0) < 2 ^ 8 := by split <;> decide
    rw [spread, Nat.add_comm, show 256 = 2 ^ 8 from rfl, Nat.testBit_two_pow_mul_add _ hlow]
    cases j with
    | zero =>
      rw [if_pos (by omega), Nat.testBit_zero, Nat.mul_zero, Nat.zero_add]
      by_cases hm : m % 2 = 1
      · simp only [hm, if_true]
        interval_cases b <;> simp [Nat.testBit]
      · simp [hm]
    | succ j =>
      rw [if_neg (by omega), show 8 * (j + 1) + b - 8 = 8 * j + b by omega, ih, Nat.testBit_succ]
      simp

/-- A merge takes the bytes that the mask names, and keeps the others (R51). -/
theorem lineByte_mergeBytes (old new : Line) (m : ByteMask) {j : Nat} (hj : j < 128) :
    lineByte (mergeBytes old new m) j = if m.getLsbD j then lineByte new j else lineByte old j := by
  refine BitVec.eq_of_getLsbD_eq fun b hb => ?_
  have hmask : (maskBits m).getLsbD (8 * j + b) = m.getLsbD j := by
    rw [maskBits, BitVec.getLsbD_ofNat, testBit_spread _ _ _ _ hb, decide_eq_true hj, decide_eq_true (by omega)]
    rfl
  have hin : 8 * j + b < 1024 := by omega
  rw [BitVec.getLsbD_eq_getElem hin] at hmask
  cases hm : m.getLsbD j <;> simp [lineByte, mergeBytes, hb, hmask, hm, hin]

theorem getLsbD_byteMask {off n j : Nat} (hj : j < 128) :
    (byteMask off n).getLsbD j = decide (off ≤ j ∧ j < off + n) := by
  rw [byteMask, BitVec.getLsbD_ofNat, Nat.mul_comm, Nat.testBit_two_pow_mul, Nat.testBit_two_pow_sub_one, decide_eq_true hj,
    Bool.true_and, ← Bool.decide_and]
  congr 1
  exact propext ⟨fun ⟨h, h'⟩ => ⟨h, by omega⟩, fun ⟨h, h'⟩ => ⟨h, by omega⟩⟩

/-- A value placed in a line stands there byte by byte, little-endian. -/
theorem lineByte_lineAt {v off j : Nat} (ho : off ≤ j) (hj : j < 128) :
    (lineByte (lineAt v off) j).toNat = v / 2 ^ (8 * (j - off)) % 256 := by
  refine Nat.eq_of_testBit_eq fun b => ?_
  rw [lineByte, lineAt, BitVec.extractLsb'_toNat, BitVec.toNat_ofNat, show 256 = 2 ^ 8 from rfl, Nat.testBit_mod_two_pow,
    Nat.testBit_mod_two_pow, Nat.testBit_shiftRight, Nat.testBit_mod_two_pow, Nat.testBit_mul_two_pow, Nat.testBit_div_two_pow]
  by_cases hb : b < 8
  · rw [decide_eq_true hb, decide_eq_true (show 8 * j + b < 1024 by omega), decide_eq_true (show 8 * off ≤ 8 * j + b by omega),
      show 8 * j + b - 8 * off = b + 8 * (j - off) by omega]
    rfl
  · rw [decide_eq_false hb]
    rfl

theorem find?_filter_ne (k : List CLine) {l l' : Nat} (h : l' ≠ l) :
    (k.filter fun o => o.line != l).find? (fun c => c.line == l') = k.find? fun c => c.line == l' := by
  rw [List.find?_filter]
  congr 1
  funext c
  by_cases hc : c.line = l' <;> simp [hc, h]

theorem findLine_putLine (k : Cluster) (c : CLine) : (k.putLine c).findLine c.line = some c := by
  simp [Cluster.findLine, Cluster.putLine]

theorem findLine_putLine_ne (k : Cluster) {c : CLine} {l : Nat} (h : l ≠ c.line) :
    (k.putLine c).findLine l = k.findLine l := by
  rw [Cluster.findLine, Cluster.putLine, List.find?_cons_of_neg (by simpa using Ne.symm h), find?_filter_ne _ h]
  rfl

/-- A store to a line held in S or D merges its bytes there (R56). -/
theorem storeCached_held {s : State} {w : Who} {l : Nat} {x : CLine} (p : Place) (va : Word) (off len v : Nat)
    (hx : (s.cluster w.clus).findLine l = some x) (ha : x.st ≠ LState.a) :
    s.storeCached w p va l off len v = s.setCluster w.clus ((s.cluster w.clus).putLine { s.written w.clus w.ctx x with
      st := .d, data := mergeBytes x.data (lineAt v off) (byteMask off len)
      valid := x.valid ||| byteMask off len, dirty := x.dirty ||| byteMask off len }) := by
  unfold State.storeCached
  dsimp only
  rw [hx]
  dsimp only
  rw [if_neg ha, hx]

/-- A store issues with its strand as it is. -/
theorem form_store {t u : Strand} {i : Instr} {ops : List Opnd} {o : MemOp} {c : Cap}
    (h : memoryForm t i = some (ops, o, c, u)) (ho : (∃ z, o = .store z false) ∨ o = .storeV) : u = t := by
  unfold memoryForm at h
  split at h <;> simp only [Option.some.injEq, Prod.mk.injEq, reduceCtorEq] at h
  all_goals obtain ⟨rfl, rfl, rfl, rfl⟩ := h
  all_goals first | rfl | (obtain ⟨z, hz⟩ | hz := ho <;> cases hz)

/-- Settles O53: the line after the merge, and what else a store leaves. -/
theorem storesLeaveTheOtherBytes : Obligations.StoresLeaveTheOtherBytes := by
  unfold Obligations.StoresLeaveTheOtherBytes
  intro i s t ops o c u p x v n hf hi hr hrem hov kn hunc hcache hx ha he off
  obtain rfl : u = s.me := form_store hf (hov.imp (fun ⟨z, h, _⟩ => ⟨z, h⟩) And.left)
  have hexec := (loadsAndStoresReachTheirLine.2 i s ops o c s.me p hf hi hr) hrem
  have hst : exec i s = .next ((((s.enter i o c .flight s.me).storeCached (s.whoAt s.here) p c.addr (p.pa / 128) off n v).freeAt
      s.here s.serial).ran) := by
    obtain ⟨z, rfl, rfl, rfl⟩ | ⟨rfl, rfl, rfl⟩ := hov
    · refine (hexec.1 z false rfl).trans (congrArg (fun m : State => Host.Outcome.next (m.freeAt s.here s.serial).ran) (if_pos ?_))
      rw [hunc, show (s.cluster (s.whoAt s.here).clus).caches = true from hcache]
      rfl
    · refine (hexec.2 rfl).trans (congrArg (fun m : State => Host.Outcome.next (m.freeAt s.here s.serial).ran) (if_pos ?_))
      rw [hunc, show (s.cluster (s.whoAt s.here).clus).caches = true from hcache]
      rfl
  have hpend : o.pend = id := by
    obtain ⟨z, rfl, -, -⟩ | ⟨rfl, -, -⟩ := hov <;> rfl
  have hline : x.line = p.pa / 128 := by simpa using List.find?_some hx
  rw [storeCached_held (s := s.enter i o c .flight s.me) (w := s.whoAt s.here) p c.addr off n v hx ha] at hst
  generalize hy : ({ (s.enter i o c .flight s.me).written (s.whoAt s.here).clus (s.whoAt s.here).ctx x with
      st := .d, data := mergeBytes x.data (lineAt v off) (byteMask off n)
      valid := x.valid ||| byteMask off n, dirty := x.dirty ||| byteMask off n } : CLine) = y at hst
  obtain rfl := Host.Outcome.next.inj (he.symm.trans hst)
  have hyl : y.line = p.pa / 128 := by rw [← hy]; exact hline
  have hclus : ∀ k, (((((s.enter i o c .flight s.me).setCluster (s.whoAt s.here).clus
      (((s.enter i o c .flight s.me).cluster (s.whoAt s.here).clus).putLine y)).freeAt s.here s.serial).ran).cluster k) =
      (s.setCluster kn ((s.cluster kn).putLine y)).cluster k := fun k => rfl
  have hme : ((((s.enter i o c .flight s.me).setCluster (s.whoAt s.here).clus
      (((s.enter i o c .flight s.me).cluster (s.whoAt s.here).clus).putLine y)).freeAt s.here s.serial).ran).me =
      (({ s.me with queue := s.me.queue ++ [c.entry i s.me s.serial .flight] } : Strand).advance 4).free s.serial := by
    have henter := enter_strand s i o c s.me
    rw [hpend, id_eq] at henter
    exact (State.strand_setStrand ..).trans (congrArg (fun t : Strand => t.free s.serial) henter)
  refine ⟨⟨y, ?_, ?_, fun j hj hlo hhi => ?_, fun j hj hout => ?_⟩, fun l hl => ?_, fun k hk => ?_, fun a => rfl,
    fun k hk => ?_, fun r => ?_, fun r => ?_, fun r => ?_, ?_⟩
  · rw [hclus, State.cluster_setCluster, ← hyl]
    exact findLine_putLine ..
  · rw [← hy]
  · have hin : (byteMask off n).getLsbD j = true := by
      rw [getLsbD_byteMask hj]
      exact decide_eq_true ⟨hlo, hhi⟩
    rw [← hy]
    refine ⟨?_, ?_⟩
    · rw [lineBytes_one, lineByte_mergeBytes _ _ _ hj, if_pos hin, lineByte_lineAt hlo hj]
    · rw [BitVec.getLsbD_or, hin, Bool.or_true]
  · have hnot : (byteMask off n).getLsbD j = false := by
      rw [getLsbD_byteMask hj]
      exact decide_eq_false (by omega)
    rw [← hy]
    refine ⟨?_, ?_⟩
    · rw [lineBytes_one, lineBytes_one, lineByte_mergeBytes _ _ _ hj, if_neg (ne_true_of_eq_false hnot)]
    · rw [BitVec.getLsbD_or, hnot, Bool.or_false]
  · rw [hclus, State.cluster_setCluster, findLine_putLine_ne _ (by rw [hyl]; exact hl)]
  · rw [hclus, State.cluster_setCluster_ne _ _ _ _ hk]
  · exact (State.strand_setStrand_ne _ _ _ _ hk).trans (State.strand_setStrand_ne _ _ _ _ hk)
  all_goals rw [hme]
  all_goals rfl

end Sys2Proof.Machine
end

section
/-! What every step keeps (log 3, R14). `Safe M A s` says both invariants of a state at once, each under a condition of its
own, so that one walk through the model's operations serves the two: memory is canonical where `M`, and AGE is legal where
`A`. For what an operation answers there is a predicate for each kind of answer. -/

namespace Sys2Proof.Machine

open Safety

/-- Memory is canonical where `M`, and AGE is legal where `A`. -/
def Safe (M A : Prop) (s : State) : Prop := (M → MemoryCanonical s) ∧ (A → AgeLegal s)

/-- The core keeps to R14 where `A`. -/
def SafeCore (A : Prop) (c : Core) : Prop := A → CoreLegal c

/-- The state of a pair is safe. -/
def SafeFst {α : Type} (M A : Prop) (p : State × α) : Prop := Safe M A p.1

/-- What is there has the property. -/
def IfSome {α : Type} (P : α → Prop) (o : Option α) : Prop := ∀ a, o = some a → P a

/-- The state that a step leaves is safe. -/
def SafeOut (M A : Prop) (o : Out) : Prop := ∀ t, o = .next t → Safe M A t

/-- The state that the meaning of an instruction leaves, where it is done, is safe. -/
def SafeRes (M A : Prop) : Res → Prop
  | .done s => Safe M A s
  | _ => True

/-- The state that an access leaves, where it is made, is safe. -/
def SafeAcc (M A : Prop) : AccRes → Prop
  | .done s => Safe M A s
  | _ => True

/-- The state after a read of code is safe. -/
def SafeCode (M A : Prop) : CodeRes → Prop
  | .ok s _ => Safe M A s
  | _ => True

/-- The state after a fetch is safe. -/
def SafeFetched (M A : Prop) : Fetched → Prop
  | .instr s _ => Safe M A s
  | _ => True

/-- The state after an access of an engine, or after what must come first, is safe. -/
def SafeEng {α : Type} (M A : Prop) : EngRes α → Prop
  | .done s _ | .first s => Safe M A s
  | .wait => True

/-- The state of an operation that may be refused is safe. -/
def SafeExcept {ε : Type} (M A : Prop) : Except ε State → Prop
  | .ok s => Safe M A s
  | .error _ => True

variable {M A : Prop}

/-! A choice between two values keeps what both have. -/

theorem ite_of {α : Sort _} {P : α → Prop} {c : Prop} [Decidable c] {a b : α} (ha : P a) (hb : P b) :
    P (if c then a else b) := by
  split
  · exact ha
  · exact hb

/-! Answers of several kinds. -/

namespace IfSome

variable {α β : Type} {P : α → Prop} {Q : β → Prop}

theorem none : IfSome P none := nofun

theorem some {a : α} (h : P a) : IfSome P (some a) := fun _ e => Option.some.inj e ▸ h

theorem map {o : Option α} {f : α → β} (h : IfSome P o) (hf : ∀ a, P a → Q (f a)) : IfSome Q (o.map f) := by
  rintro _ hb
  obtain ⟨a, ha, rfl⟩ := Option.map_eq_some_iff.1 hb
  exact hf a (h a ha)

theorem mapAny {o : Option α} {f : α → β} (hf : ∀ a, Q (f a)) : IfSome Q (o.map f) := by
  rintro _ hb
  obtain ⟨a, _, rfl⟩ := Option.map_eq_some_iff.1 hb
  exact hf a

theorem bind {o : Option α} {f : α → Option β} (h : IfSome P o) (hf : ∀ a, P a → IfSome Q (f a)) :
    IfSome Q (o.bind f) := by
  intro b hb
  obtain ⟨a, ha, hb⟩ := Option.bind_eq_some_iff.1 hb
  exact hf a (h a ha) b hb

theorem bindAny {o : Option α} {f : α → Option β} (hf : ∀ a, IfSome Q (f a)) : IfSome Q (o.bind f) := by
  intro b hb
  obtain ⟨a, _, hb⟩ := Option.bind_eq_some_iff.1 hb
  exact hf a b hb

theorem getD {o : Option α} {d : α} (h : IfSome P o) (hd : P d) : P (o.getD d) := by
  cases o with
  | none => exact hd
  | some a => exact h a rfl

theorem or {o p : Option α} (h : IfSome P o) (hp : IfSome P p) : IfSome P (o.or p) := by
  cases o with
  | none => exact hp
  | some a => exact h

theorem findSome {l : List β} {f : β → Option α} (hf : ∀ b, IfSome P (f b)) : IfSome P (l.findSome? f) := by
  intro a ha
  obtain ⟨b, _, hb⟩ := List.exists_of_findSome?_eq_some ha
  exact hf b a hb

theorem foldl {o : Option α} {f : Option α → β → Option α} {l : List β} (h : IfSome P o)
    (hf : ∀ o, IfSome P o → ∀ b, IfSome P (f o b)) : IfSome P (l.foldl f o) := by
  induction l generalizing o with
  | nil => exact h
  | cons b r ih => exact ih (hf o h b)

end IfSome

theorem SafeFst.fst {α : Type} {p : State × α} (h : SafeFst M A p) : Safe M A p.1 := h

theorem SafeFst.of_eq {α : Type} {p : State × α} {s : State} {a : α} (h : SafeFst M A p) (e : p = (s, a)) : Safe M A s := by
  subst e
  exact h

theorem SafeFst.foldl {α β : Type} {p : State × α} {f : State × α → β → State × α} {l : List β} (h : SafeFst M A p)
    (hf : ∀ p, SafeFst M A p → ∀ b, SafeFst M A (f p b)) : SafeFst M A (l.foldl f p) := by
  induction l generalizing p with
  | nil => exact h
  | cons b r ih => exact ih (hf p h b)

theorem SafeOut.next {s : State} (h : Safe M A s) : SafeOut M A (.next s) := fun _ e => Host.Outcome.next.inj e ▸ h

theorem SafeOut.fault {r : Fault} : SafeOut M A (.fault r) := fun _ e => nomatch e

theorem SafeAcc.of_eq {r : AccRes} {s : State} (h : SafeAcc M A r) (e : r = .done s) : Safe M A s := by
  subst e
  exact h

theorem SafeCode.of_eq {r : CodeRes} {s : State} {v : Nat} (h : SafeCode M A r) (e : r = .ok s v) : Safe M A s := by
  subst e
  exact h

theorem SafeFetched.of_eq {r : Fetched} {s : State} {i : Instr} (h : SafeFetched M A r) (e : r = .instr s i) : Safe M A s := by
  subst e
  exact h

theorem SafeEng.of_done {α : Type} {r : EngRes α} {s : State} {v : α} (h : SafeEng M A r) (e : r = .done s v) :
    Safe M A s := by
  subst e
  exact h

theorem SafeEng.of_first {α : Type} {r : EngRes α} {s : State} (h : SafeEng M A r) (e : r = .first s) : Safe M A s := by
  subst e
  exact h

theorem SafeExcept.of_eq {ε : Type} {r : Except ε State} {s : State} (h : SafeExcept M A r) (e : r = .ok s) : Safe M A s := by
  subst e
  exact h

/-! Cores, and tables of cores. -/

theorem coreLegal_reset : CoreLegal .reset := ⟨by decide, fun _ => by exact Nat.zero_le _⟩

theorem coreLegal_same {c d : Core} (h : CoreLegal c) (ha : d.age = c.age) (hp : d.pass = c.pass) : CoreLegal d := by
  unfold CoreLegal
  rw [ha, hp]
  exact h

theorem SafeCore.same {c d : Core} (h : SafeCore A c) (ha : d.age = c.age) (hp : d.pass = c.pass) : SafeCore A d :=
  fun a => coreLegal_same (h a) ha hp

/-- What stands in other fields does not matter, in the form that finds the core that changes. -/
theorem SafeCore.upd {c : Core} {vtab actq deque spilling refilling groups short barriers last utlb icache regions
    engine rstack shadow moves discards} (h : SafeCore A c) :
    SafeCore A { c with
      vtab, actq, deque, spilling, refilling, groups, short, barriers, last, utlb, icache, regions,
      engine, rstack, shadow, moves, discards } :=
  h

theorem SafeCore.worked {c : Core} (h : SafeCore A c) : SafeCore A c.worked := h

theorem SafeCore.cleared {c : Core} (h : SafeCore A c) : SafeCore A c.cleared := h.same rfl rfl

/-- What a write of AGE leaves keeps to R14, whatever stood there. -/
theorem SafeCore.setAge {c : Core} {v : Word} : SafeCore A (c.setAge v) := by
  intro _
  refine ⟨?_, fun n => ?_⟩
  · rw [Core.setAge_age, ageStored_toNat]
    split
    · omega
    · split <;> omega
  · rw [Core.setAge_pass]
    exact Nat.min_le_right ..

/-- Passing over the ready slots raises no counter above AGE (R14). -/
theorem foldl_pass_le {l : List Nat} {n age : Nat} (p : Tab Nat) (h : ∀ k, Tab.get p k 0 ≤ age) (k : Nat) :
    Tab.get (l.foldl (fun p m => if m = n then p else p.put m (min (p.get m 0 + 1) age)) p) k 0 ≤ age := by
  induction l generalizing p with
  | nil => exact h k
  | cons m r ih =>
    refine ih _ fun k => ?_
    dsimp only
    split
    · exact h k
    · by_cases hk : m = k
      · subst hk
        rw [get_put]
        exact Nat.min_le_right ..
      · rw [get_put_ne (h := Ne.symm hk)]
        exact h k

theorem SafeCore.issued {c : Core} {n : Nat} {cls : SlotClass} {ready : List Nat} {aged : Bool} (h : SafeCore A c) :
    SafeCore A (c.issued n cls ready aged) := by
  intro a
  obtain ⟨hage, hpass⟩ := h a
  refine ⟨hage, fun k => ?_⟩
  change Tab.get (Tab.put (if aged then c.pass else _) n 0) k 0 ≤ c.age.toNat
  by_cases hk : k = n
  · subst hk
    rw [get_put]
    exact Nat.zero_le _
  · rw [get_put_ne (h := hk)]
    split
    · exact hpass k
    · exact foldl_pass_le _ hpass k

/-- Every core of a table keeps to R14. -/
def CoresLegal (t : Tab Core) : Prop := ∀ c, CoreLegal (Tab.get t c .reset)

namespace CoresLegal

variable {t : Tab Core}

theorem nil : CoresLegal [] := fun _ => coreLegal_reset

theorem put {k : Nat} {c : Core} (h : CoresLegal t) (hc : CoreLegal c) : CoresLegal (t.put k c) := by
  intro j
  by_cases hj : j = k
  · subst hj
    rw [get_put]
    exact hc
  · rw [get_put_ne (h := hj)]
    exact h j

theorem filter {p : Nat → Bool} (h : CoresLegal t) : CoresLegal (t.filter fun e => p e.1) := by
  intro j
  rw [get_filter]
  exact ite_of (h j) coreLegal_reset

/-- A change of every entry that keeps its key. -/
theorem map {f : Nat × Core → Nat × Core} (h : CoresLegal t) (hf : ∀ e, (f e).1 = e.1)
    (hc : ∀ e, CoreLegal e.2 → CoreLegal (f e).2) : CoresLegal (t.map f) := by
  intro j
  have key : ∀ t : Tab Core, CoreLegal (Tab.get t j .reset) → CoreLegal (Tab.get (t.map f) j .reset) := by
    intro t
    induction t with
    | nil => exact id
    | cons e r ih =>
      intro ht
      have hk := hf e
      have hv := hc e
      rw [List.map_cons]
      generalize f e = g at hk hv
      obtain ⟨k, d⟩ := g
      obtain ⟨i, c⟩ := e
      change k = i at hk
      subst hk
      unfold Tab.get at ht ⊢
      split
      · exact hv (by rwa [if_pos ‹_›] at ht)
      · exact ih (by rwa [if_neg ‹_›] at ht)
  exact key t (h j)

end CoresLegal

/-- The cores of every saved cluster keep to R14. -/
def SavedLegal (l : List SavedCluster) : Prop := ∀ v ∈ l, CoresLegal v.cores

namespace SavedLegal

variable {l : List SavedCluster}

theorem filter {p : SavedCluster → Bool} (h : SavedLegal l) : SavedLegal (l.filter p) :=
  fun v hv => h v (List.mem_filter.1 hv).1

theorem map {f : SavedCluster → SavedCluster} (h : SavedLegal l) (hf : ∀ v, CoresLegal v.cores → CoresLegal (f v).cores) :
    SavedLegal (l.map f) := by
  intro v hv
  obtain ⟨w, hw, rfl⟩ := List.mem_map.1 hv
  exact hf w (h w hw)

theorem append {v : SavedCluster} (h : SavedLegal l) (hv : CoresLegal v.cores) : SavedLegal (l ++ [v]) := by
  intro w hw
  rcases List.mem_append.1 hw with hw | hw
  · exact h w hw
  · rw [List.mem_singleton.1 hw]
    exact hv

end SavedLegal

theorem SafeCore.get {t : Tab Core} {c : Nat} (h : A → CoresLegal t) : SafeCore A (Tab.get t c .reset) := fun a => h a c

/-! States: what an operation that keeps the three fields keeps, and the operations on them. -/

namespace Safe

variable {s t : State}

/-- What stands in other fields does not matter. -/
theorem fields (h : Safe M A s) (hm : t.mem = s.mem) (hc : t.cores = s.cores) (hs : t.savedClusters = s.savedClusters) :
    Safe M A t := by
  obtain ⟨hmem, hage⟩ := h
  refine ⟨fun m => ?_, fun a => ?_⟩
  · unfold MemoryCanonical
    rw [hm]
    exact hmem m
  · unfold AgeLegal State.core
    rw [hc, hs]
    exact hage a

/-- What stands in other fields does not matter, in the form that finds the state that changes. -/
theorem upd {agenda here serial stalled live hostLive poison l2host l2sets strands clusters dies slices posting links
    ingress gathers engines transit arrivals replies decs parks saved launches fns pf parts er ras power mgmt boot cg
    donations donOut refusals refusalRing donLog fabric host copies hostGot filters shoots pkg} (h : Safe M A s) :
    Safe M A { s with
      agenda, here, serial, stalled, live, hostLive, poison, l2host, l2sets, strands, clusters, dies,
      slices, posting, links, ingress, gathers, engines, transit, arrivals, replies, decs, parks, saved, launches,
      fns, pf, parts, er, ras, power, mgmt, boot, cg, donations, donOut, refusals, refusalRing, donLog, fabric, host,
      copies, hostGot, filters, shoots, pkg } :=
  h

/-- Other cores and saved clusters, which are legal where those that stood there are. -/
theorem ofCores {agenda here serial stalled live hostLive poison l2host l2sets strands clusters dies slices posting
    links ingress gathers engines transit arrivals replies decs parks saved launches fns pf parts er ras power mgmt
    boot cg donations donOut refusals refusalRing donLog fabric host copies hostGot filters shoots pkg cores
    savedClusters} (h : Safe M A s) (hc : A → CoresLegal s.cores → CoresLegal cores)
    (hs : A → SavedLegal s.savedClusters → SavedLegal savedClusters) :
    Safe M A { s with
      agenda, here, serial, stalled, live, hostLive, poison, l2host, l2sets, strands, clusters, dies, slices, posting,
      links, ingress, gathers, engines, transit, arrivals, replies, decs, parks, saved, launches, fns, pf, parts, er,
      ras, power, mgmt, boot, cg, donations, donOut, refusals, refusalRing, donLog, fabric, host, copies, hostGot,
      filters, shoots, pkg, cores, savedClusters } :=
  ⟨h.1, fun a => ⟨hc a (h.2 a).1, hs a (h.2 a).2⟩⟩

/-- Some cells of memory are left out. -/
theorem filterMem {p : Host.Cell → Bool} (h : Safe M A s) : Safe M A { s with mem := s.mem.filter p } :=
  ⟨fun m => Memory.filter_wf (h.1 m) p, h.2⟩

theorem cores (h : Safe M A s) (a : A) : CoresLegal s.cores := (h.2 a).1

theorem saved (h : Safe M A s) (a : A) : SavedLegal s.savedClusters := (h.2 a).2

theorem core {c : Nat} (h : Safe M A s) : SafeCore A (s.core c) := SafeCore.get h.cores

theorem setCore {c : Nat} {d : Core} (h : Safe M A s) (hd : SafeCore A d) : Safe M A (s.setCore c d) :=
  h.ofCores (fun a hc => hc.put (hd a)) fun _ => id

/-- A change of a core that leaves AGE and the counters. -/
theorem updCore {c d} {vtab actq deque spilling refilling groups short barriers last utlb icache regions
    engine rstack shadow moves discards} (h : Safe M A s) :
    Safe M A (s.setCore c { s.core d with
      vtab, actq, deque, spilling, refilling, groups, short, barriers, last, utlb, icache, regions,
      engine, rstack, shadow, moves, discards }) :=
  h.setCore h.core.upd

/-- Other saved clusters, which are legal where those that stood there are. -/
theorem setSaved {l : List SavedCluster} (h : Safe M A s) (hl : A → SavedLegal s.savedClusters → SavedLegal l) :
    Safe M A { s with savedClusters := l } := h.ofCores (fun _ => id) hl

theorem quiet (h : Safe M A s) (q : State.Quiet s t) : Safe M A t :=
  (show Safe M A { s with mem := t.mem } from ⟨fun m => q.mem (h.1 m), h.2⟩).fields rfl q.cores q.saved

theorem foldl {α : Type} {f : State → α → State} {l : List α} (h : Safe M A s)
    (hf : ∀ s, Safe M A s → ∀ a, Safe M A (f s a)) : Safe M A (l.foldl f s) := by
  induction l generalizing s with
  | nil => exact h
  | cons a r ih => exact ih (hf s h a)

theorem foldr {α : Type} {f : α → State → State} {l : List α} (h : Safe M A s)
    (hf : ∀ s, Safe M A s → ∀ a, Safe M A (f a s)) : Safe M A (l.foldr f s) := by
  induction l with
  | nil => exact h
  | cons a r ih => exact hf _ ih a

end Safe

end Sys2Proof.Machine
end

section
/-! Every step keeps memory canonical and AGE legal: memory, host lines and the fault unit. -/

namespace Sys2Proof.Machine

open Safety

variable {M A : Prop} {s : State}

theorem Safe.setStrand {k : Nat} {t : Strand} (h : Safe M A s) : Safe M A (s.setStrand k t) := h.upd

theorem Safe.setCluster {k : Nat} {t : Cluster} (h : Safe M A s) : Safe M A (s.setCluster k t) := h.upd

theorem Safe.setDie {d : Nat} {t : Die} (h : Safe M A s) : Safe M A (s.setDie d t) := h.upd

theorem Safe.setSlice {k : Nat} {t : Slice} (h : Safe M A s) : Safe M A (s.setSlice k t) := h.upd

theorem Safe.setLink {k : Nat} {t : Link} (h : Safe M A s) : Safe M A (s.setLink k t) := h.upd

theorem Safe.setFn {f : Nat} {t : Fn} (h : Safe M A s) : Safe M A (s.setFn f t) := h.upd

theorem Safe.setPart {k : Nat} {t : Part} (h : Safe M A s) : Safe M A (s.setPart k t) := h.upd

theorem Safe.setPort {p : Nat} {t : Port} (h : Safe M A s) : Safe M A (s.setPort p t) := h.upd

theorem Safe.setHostLink {p : Nat} {t : HostLink} (h : Safe M A s) : Safe M A (s.setHostLink p t) := h.upd

theorem Safe.writeMem {a v n : Nat} (h : Safe M A s) : Safe M A (s.writeMem a v n) := h.quiet (State.writeMem_quiet ..)

theorem Safe.mergeLine {l : Nat} {d : Line} {mask : ByteMask} (h : Safe M A s) : Safe M A (s.mergeLine l d mask) :=
  h.quiet (State.mergeLine_quiet ..)

theorem Safe.fresh (h : Safe M A s) : Safe M A s.fresh := h.upd

theorem Safe.addLive {l : Live} (h : Safe M A s) : Safe M A (s.addLive l) := h.upd

theorem Safe.performed {n : Nat} (h : Safe M A s) : Safe M A (s.performed n) := h.upd

theorem Safe.hostDone {n : Nat} (h : Safe M A s) : Safe M A (s.hostDone n) := h.upd

theorem Safe.accepted {n : Nat} (h : Safe M A s) : Safe M A (s.accepted n) := Safe.upd h.performed

theorem Safe.refreshCopies {line : Nat} (h : Safe M A s) : Safe M A (s.refreshCopies line) := by
  unfold State.refreshCopies
  refine Safe.foldl h fun _ ht _ => ?_
  split
  · exact ht.upd
  · exact ht

theorem Safe.hostWrite {it : Item} (h : Safe M A s) : Safe M A (s.hostWrite it) := by
  unfold State.hostWrite
  split
  · exact h.mergeLine.refreshCopies.hostDone
  · exact h.hostDone

theorem Safe.hostFlushLine {line : Nat} (h : Safe M A s) : Safe M A (s.hostFlushLine line) :=
  h.foldl (fun _ ht _ => ite_of ht (ht.setHostLink.foldl (fun _ hu _ => hu.hostWrite)))

theorem Safe.releaseHeld {sl line : Nat} (h : Safe M A s) : Safe M A (s.releaseHeld sl line) := by
  unfold State.releaseHeld
  dsimp only
  refine ite_of h (Safe.foldl h.setSlice (fun _ ht _ => ?_))
  split
  · exact ht.mergeLine.hostDone
  · exact ht.hostDone

theorem Safe.pullHost {line : Nat} {drop : Bool} (h : Safe M A s) : Safe M A (s.pullHost line drop) := by
  unfold State.pullHost
  extract_lets _ t
  have ht : Safe M A t := h.foldl fun _ hu _ => ite_of hu.mergeLine hu
  exact ite_of (ite_of ht (Safe.releaseHeld (Safe.upd ht.setSlice))) (ite_of ht ht.upd)

theorem Safe.hwWrite {pa v n : Nat} (h : Safe M A s) : Safe M A (s.hwWrite pa v n) :=
  ite_of h.hostFlushLine.writeMem.refreshCopies (ite_of h.setSlice h.pullHost.writeMem)

theorem Safe.error {kind sev die func count addr aux : Nat} (h : Safe M A s) :
    Safe M A (s.error kind sev die func count addr aux) :=
  ite_of h.upd (ite_of h.upd (Safe.upd h.hwWrite))

theorem Safe.poisonLine {l unit die : Nat} (h : Safe M A s) : Safe M A (s.poisonLine l unit die) :=
  ite_of h (Safe.error h.upd)

theorem Safe.crcPoison {l endpoint die : Nat} (h : Safe M A s) : Safe M A (s.crcPoison l endpoint die) :=
  ite_of h.error (Safe.upd h.error)

theorem Safe.writeImage {f1 f2 : Nat} {l : List ImageField} (h : Safe M A s) : Safe M A (s.writeImage f1 f2 l) :=
  h.foldl (fun _ ht _ => Safe.writeMem (ht.foldl (fun _ hu _ => hu.pullHost)))

theorem Safe.editImage {v : Saved} {f : Strand → Strand} (h : Safe M A s) : SafeFst M A (s.editImage v f) :=
  h.writeImage

theorem Safe.onCtx {ctx : Nat} {f : Strand → Strand} (h : Safe M A s) : Safe M A (s.onCtx ctx f) := by
  unfold State.onCtx
  dsimp only
  split
  · exact h.setStrand
  · split
    · exact h.updCore
    · exact h
  · split
    · exact ite_of (Safe.upd h.editImage.fst) h.upd
    · exact h
  · exact h

theorem Safe.untrack {line : Option Nat} {gone : BitVec 8} (h : Safe M A s) : Safe M A (s.untrack line gone) :=
  h.foldl (fun _ ht _ => ht.upd)

theorem Safe.l2Evict {die line : Nat} (h : Safe M A s) : Safe M A (s.l2Evict die line) := by
  unfold State.l2Evict
  dsimp only
  split
  · exact h
  · exact Safe.untrack (Safe.upd (ite_of h h.setHostLink))

theorem Safe.l2Touch {die line : Nat} (h : Safe M A s) : Safe M A (s.l2Touch die line) :=
  ite_of h.upd (Safe.upd h.l2Evict)

theorem Safe.snoopDie {line die : Nat} {drop : Bool} (h : Safe M A s) : Safe M A (s.snoopDie line die drop) := by
  unfold State.snoopDie
  dsimp only
  split
  · exact h
  · exact Safe.upd (ite_of h h.mergeLine.refreshCopies)

theorem Safe.snoopMask {line : Nat} {mask : BitVec 8} {drop : Bool} (h : Safe M A s) :
    Safe M A (s.snoopMask line mask drop) :=
  h.foldl (fun _ ht _ => ite_of ht.snoopDie ht)

theorem Safe.track {line die : Nat} {dirty fetched : Bool} (h : Safe M A s) :
    Safe M A (s.track line die dirty fetched) := by
  unfold State.track
  dsimp only
  refine ite_of (Safe.upd ?_) ?_
  · split
    · exact h.upd
    · exact h
  · split
    · refine Safe.upd (Safe.snoopMask (Safe.hostFlushLine ?_))
      split
      · exact h.upd
      · exact h
    · split
      · exact h.upd
      · exact h

theorem Safe.snoopPoison {line die p : Nat} (h : Safe M A s) : Safe M A (s.snoopPoison line die p) := h.poisonLine.error

theorem Safe.askLost {die line : Nat} (h : Safe M A s) : Safe M A (s.askLost die line) := by
  unfold State.askLost
  dsimp only
  refine Safe.foldl h fun _ ht _ => ?_
  split
  · exact ite_of (Safe.upd ht.snoopPoison) ht
  · exact ht

theorem Safe.wakeDie {d : Nat} (h : Safe M A s) : Safe M A (s.wakeDie d) := by
  unfold State.wakeDie
  dsimp only
  refine Safe.foldl h fun _ ht _ => ?_
  split
  · exact ht.setLink
  · exact ht

theorem Safe.serveSnoop {p : Nat} {e : FilterEntry} {drop : Bool} (h : Safe M A s) : Safe M A (s.serveSnoop p e drop) :=
  Safe.upd (ite_of h.hostFlushLine.snoopMask.snoopPoison h.hostFlushLine.snoopMask)

theorem Safe.hostOwns {line : Nat} {write : Bool} (h : Safe M A s) : Safe M A (s.hostOwns line write) := by
  unfold State.hostOwns
  dsimp only
  split
  · exact ite_of h.hostFlushLine.serveSnoop h.hostFlushLine
  · exact h.hostFlushLine

theorem Safe.upToDate {pa : Nat} (h : Safe M A s) : Safe M A (s.upToDate pa) :=
  ite_of h.hostFlushLine.hostOwns h.pullHost

theorem Safe.claimLine {l : Nat} (h : Safe M A s) : Safe M A (s.claimLine l) :=
  ite_of h.hostFlushLine.hostOwns h.pullHost

theorem Safe.writeSys {pa v n : Nat} (h : Safe M A s) : Safe M A (s.writeSys pa v n) :=
  ite_of h.claimLine.writeMem h.hwWrite

theorem Safe.sysPut {pa v n : Nat} (h : Safe M A s) : IfSome (Safe M A) (s.sysPut pa v n) :=
  ite_of (IfSome.some h.writeSys) IfSome.none

theorem Safe.putFault {die : Nat} {f : FaultRecord} (h : Safe M A s) : Safe M A (s.putFault die f) := by
  unfold State.putFault
  dsimp only
  refine Safe.setDie ?_
  split
  · exact h.writeSys.writeSys.writeSys
  · exact h.writeSys

theorem Safe.putOrDrop {die : Nat} {f : FaultRecord} (h : Safe M A s) : Safe M A (s.putOrDrop die f) :=
  ite_of h.setDie h.putFault

theorem Safe.startShoot {func : Nat} {entry : Bool} {image : Word} {ctx : Option Nat} {register : Bool}
    {migration : Option Nat} (h : Safe M A s) : Safe M A (s.startShoot func entry image ctx register migration) :=
  Safe.upd h.fresh

theorem Safe.startMigration {die f va new : Nat} {command small : Bool} (h : Safe M A s) :
    SafeExcept M A (s.startMigration die f va new command small) := by
  unfold State.startMigration
  dsimp only
  split
  · exact trivial
  · exact ite_of trivial (ite_of trivial h.writeSys.startShoot.setDie)

theorem Safe.takeFrame {die : Nat} (h : Safe M A s) : IfSome (SafeFst M A) (s.takeFrame die) :=
  ite_of IfSome.none (IfSome.some h.setDie)

theorem Safe.autoMigrate {die f va : Nat} {e : BitVec 128} (h : Safe M A s) : Safe M A (s.autoMigrate die f va e) := by
  unfold State.autoMigrate
  dsimp only
  split
  · exact h.putOrDrop
  · refine ite_of h (ite_of h.putOrDrop ?_)
    split
    · exact h.putOrDrop
    next s1 new e1 =>
      have ht := h.takeFrame _ e1
      split
      next s2 e2 => exact ht.startMigration.of_eq e2
      · exact ht.putOrDrop

theorem Safe.countAccess {core func va pa : Nat} (h : Safe M A s) : Safe M A (s.countAccess core func va pa) := by
  unfold State.countAccess
  dsimp only
  refine ite_of h.setDie (ite_of (Safe.foldl h.setDie (fun _ ht _ => ?_)) h.setDie.putOrDrop)
  split
  · exact ht.autoMigrate
  · exact ht

end Sys2Proof.Machine
end

section
/-! Every step keeps memory canonical and AGE legal: caches, homes and edges. -/

namespace Sys2Proof.Machine

open Safety

variable {M A : Prop} {s : State}

theorem Safe.failSink {k : Sink} {t : Trap} (h : Safe M A s) : Safe M A (s.failSink k t) := by
  unfold State.failSink
  dsimp only
  split
  · exact h
  · exact h.onCtx
  · exact h.onCtx
  · exact h.onCtx
  · exact h.onCtx
  · split
    · exact h.upd
    · exact h

theorem Safe.enqueueTask {die : Nat} {task : BitVec 128} {func : Nat} (h : Safe M A s) :
    Safe M A (s.enqueueTask die task func) :=
  Safe.upd h.setDie

theorem Safe.trecAnswer {c e die : Nat} {d : RegNo} {task : BitVec 128} {va : Word} {old : Nat} (h : Safe M A s) :
    Safe M A (s.trecAnswer c e die d task va old) :=
  ite_of h.onCtx.error (ite_of h.onCtx.enqueueTask h.onCtx)

theorem Safe.deliver {k : Sink} {v : Nat} (h : Safe M A s) : Safe M A (s.deliver k v) := by
  unfold State.deliver
  dsimp only
  split
  · exact h
  · exact h.onCtx
  · exact h.onCtx
  · split
    · exact h.upd
    · exact h
  · exact h.trecAnswer
  · exact ite_of h.onCtx (Safe.upd h.onCtx)

theorem Safe.deliverRead {k : Sink} {v : Nat} (h : Safe M A s) : Safe M A (s.deliverRead k v) := by
  unfold State.deliverRead
  split
  · exact ite_of h.deliver h
  · exact ite_of h.deliver h
  · exact h.deliver

theorem Safe.sinkFlags {k : Sink} {fl : Nat} (h : Safe M A s) : Safe M A (s.sinkFlags k fl) := by
  unfold State.sinkFlags
  split
  · exact ite_of h h.onCtx
  · exact h

theorem Safe.lose {it : Item} {link : Nat} (h : Safe M A s) : Safe M A (s.lose it link) := by
  unfold State.lose
  dsimp only
  split
  · exact h.performed.failSink
  · exact ite_of h.performed.failSink h.performed.error
  · exact h.performed.error

theorem Safe.forward {die : Nat} {it : Item} (h : Safe M A s) : Safe M A (s.forward die it) := ite_of h.lose h.setLink

theorem Safe.noteItem {kn : Nat} {it : Item} (h : Safe M A s) : Safe M A (s.noteItem kn it) := ite_of h.setCluster h

theorem Safe.enqueue {w : Who} {it : Item} {isLoad : Bool} (h : Safe M A s) : Safe M A (s.enqueue w it isLoad) :=
  ite_of (Safe.forward (h.addLive.noteItem.foldl (fun _ ht _ => ht.countAccess))) (Safe.upd h.addLive.noteItem)

theorem Safe.post {w : Who} {va : Word} {line : Nat} {act : Act} {serial : Nat} {after : List Nat} {isLoad : Bool}
    (h : Safe M A s) : Safe M A (s.post w va line act serial after isLoad) :=
  h.enqueue

theorem Safe.postNew {w : Who} {va : Word} {line : Nat} {act : Act} {after : List Nat} (h : Safe M A s) :
    Safe M A (s.postNew w va line act after) :=
  h.fresh.post

theorem Safe.postBack {w : Who} {c : CLine} {act : Act} (h : Safe M A s) : Safe M A (s.postBack w c act) :=
  h.fresh.enqueue

theorem Safe.atomOnLine {kn ctx : Nat} {c : CLine} {off : Nat} {r : AtomReq} {sink : Sink} (h : Safe M A s) :
    Safe M A (s.atomOnLine kn ctx c off r sink) :=
  ite_of h.setCluster.deliver.sinkFlags h.setCluster

theorem Safe.discardAt {sl n : Nat} (h : Safe M A s) : Safe M A (s.discardAt sl n) := h.setSlice

theorem Safe.answerLoad {w : WaitLoad} {d : Line} {poisoned : Bool} (h : Safe M A s) :
    Safe M A (s.answerLoad w d poisoned) :=
  ite_of h.performed.failSink h.performed.deliverRead

theorem Safe.evictLine {w : Who} {l : Nat} (h : Safe M A s) : Safe M A (s.evictLine w l) := by
  unfold State.evictLine
  dsimp only
  split
  · exact h
  · split
    · exact h.setCluster
    · exact h.setCluster.postBack
    · exact h.setCluster.postBack

theorem Safe.sendPoison {w : Who} {c : CLine} (h : Safe M A s) : Safe M A (s.sendPoison w c) :=
  ite_of h.setCluster h.setCluster.postBack

theorem Safe.allocate {w : Who} {l : Nat} (h : Safe M A s) : SafeFst M A (s.allocate w l) := by
  unfold State.allocate
  dsimp only
  split
  · exact h
  · split
    · exact h.evictLine
    · exact h

theorem Safe.install {w : Who} {l : Nat} {d : Line} {p : Place} {va : Word} {behind : List Nat} (h : Safe M A s) :
    SafeFst M A (s.install w l d p va behind) := by
  unfold State.install
  dsimp only
  split
  · exact ite_of h h.setCluster
  · exact ite_of h h.allocate.fst.setCluster

theorem Safe.queueFetch {w : Who} {p : Place} {va : Word} {l : Nat} {loads : List WaitLoad} {atoms : List WaitAtom}
    (h : Safe M A s) : Safe M A (s.queueFetch w p va l loads atoms) :=
  h.fresh.post.setCluster

theorem Safe.runAtom {w : Who} {p : Place} {va : Word} {l : Nat} {a : WaitAtom} (h : Safe M A s) :
    Safe M A (s.runAtom w p va l a) := by
  unfold State.runAtom
  split
  · exact ite_of h.evictLine.queueFetch (ite_of h.performed.atomOnLine h.queueFetch)
  · exact ite_of h.queueFetch h.performed.post

theorem Safe.fillOne {kn l : Nat} (h : Safe M A s) : IfSome (Safe M A) (s.fillOne kn l) := by
  unfold State.fillOne
  dsimp only
  split
  · exact IfSome.none
  · split
    · exact IfSome.none
    · refine ite_of ?_ ?_
      · exact IfSome.some (Safe.foldl (h.setCluster.performed.foldl (fun _ ht _ => ht.answerLoad)) (fun _ ht _ =>
          ite_of ht.performed.failSink ht.performed.discardAt))
      · exact IfSome.some (Safe.foldl (h.setCluster.performed.install.fst.foldl (fun _ ht _ => ht.answerLoad)) (fun _
          ht _ => ht.runAtom))

theorem Safe.loadCached {w : Who} {p : Place} {va : Word} {l off len entry : Nat} {sink : Sink} (h : Safe M A s) :
    Safe M A (s.loadCached w p va l off len entry sink) := by
  unfold State.loadCached
  dsimp only
  split
  · exact ite_of h.evictLine.addLive.queueFetch (ite_of h.setCluster.deliver h.addLive.queueFetch)
  · exact h.addLive.queueFetch

theorem Safe.storeCached {w : Who} {p : Place} {va : Word} {l off len v : Nat} (h : Safe M A s) :
    Safe M A (s.storeCached w p va l off len v) := by
  unfold State.storeCached
  dsimp only
  split
  · refine Safe.setCluster ?_
    split
    · exact ite_of h.evictLine h
    · exact h
  · refine Safe.setCluster (SafeFst.fst (Safe.allocate ?_))
    split
    · exact ite_of h.evictLine h
    · exact h

theorem Safe.addLocal {w : Who} {p : Place} {va : Word} {l : Nat} {f : IncFmt} {inc : Line} {mask : ByteMask}
    (h : Safe M A s) : Safe M A (s.addLocal w p va l f inc mask) := by
  unfold State.addLocal
  dsimp only
  split
  · refine Safe.setCluster ?_
    split
    · exact ite_of h h.evictLine
    · exact h
  · refine Safe.setCluster (SafeFst.fst (Safe.allocate ?_))
    split
    · exact ite_of h h.evictLine
    · exact h

theorem Safe.atomCluster {w : Who} {p : Place} {va : Word} {l off entry : Nat} {r : AtomReq} {sink : Sink}
    (h : Safe M A s) : Safe M A (s.atomCluster w p va l off entry r sink) := by
  unfold State.atomCluster
  dsimp only
  split
  · refine ite_of (Safe.atomOnLine ?_) (Safe.queueFetch (Safe.addLive ?_))
    · split
      · exact ite_of h.evictLine h
      · exact h
    · split
      · exact ite_of h.evictLine h
      · exact h
  · refine Safe.queueFetch (Safe.addLive ?_)
    split
    · exact ite_of h.evictLine h
    · exact h

theorem Safe.homeRead {core func : Nat} {va : Word} {die line : Nat} (h : Safe M A s) :
    SafeFst M A (s.homeRead core func va die line) := by
  unfold State.homeRead
  dsimp only
  refine ite_of ?_ h.l2Touch.pullHost
  split
  · exact h.l2Touch
  · exact Safe.upd h.l2Touch.countAccess.hostFlushLine.askLost.track

theorem Safe.homeWrite {core func : Nat} {va : Word} {die line : Nat} {d : Line} {mask : ByteMask} (h : Safe M A s) :
    Safe M A (s.homeWrite core func va die line d mask) := by
  unfold State.homeWrite
  dsimp only
  refine ite_of ?_ h.l2Touch.pullHost.mergeLine
  exact ite_of (Safe.upd (Safe.track (Safe.upd h.homeRead.fst))) (Safe.track (Safe.upd h.homeRead.fst))

theorem Safe.performWrite {it : Item} {d : Line} {mask : ByteMask} {toHost : Bool} (h : Safe M A s) :
    Safe M A (s.performWrite it d mask toHost) := by
  unfold State.performWrite
  dsimp only
  refine ite_of (ite_of ?_ h.homeWrite.performed) (ite_of h.setSlice.accepted h.homeWrite.performed)
  split
  · exact Safe.accepted (Safe.untrack (Safe.upd h.homeWrite.setHostLink))
  · exact h.homeWrite.performed

theorem Safe.performComp {it : Item} {off : Nat} {v : BitVec 32} {comp : Nat} (h : Safe M A s) :
    Safe M A (s.performComp it off v comp) :=
  ite_of h.discardAt h.homeRead.fst.homeRead.fst.homeWrite.homeWrite.setSlice

theorem Safe.slotFlags {sl : Nat} {r : AtomReq} {k : Sink} {fl : Nat} (h : Safe M A s) :
    Safe M A (s.slotFlags sl r k fl) :=
  ite_of h.sinkFlags h.setSlice

theorem Safe.perform {it : Item} (h : Safe M A s) : Safe M A (s.perform it) := by
  unfold State.perform
  extract_lets _ t _ _ _ _ u r
  have ht : Safe M A t := ite_of h.askLost h
  have hu : Safe M A u := ht.performed
  have hr : SafeFst M A r := hu.homeRead
  split
  · exact ite_of (Safe.upd ht.homeRead.fst.setCluster) ht.homeRead.fst.performed
  · exact ite_of ht.homeRead.fst.performed.failSink ht.homeRead.fst.performed.deliverRead
  · exact ht.performWrite
  · exact ite_of hu.discardAt hr.fst.setSlice.homeWrite
  · exact ht.performed.performComp
  · exact ht.performed.poisonLine
  · exact ite_of hu hu.upd
  · extract_lets _ _ _ _ w
    have hw : Safe M A w := ite_of hr.fst hr.fst.homeWrite
    exact ite_of (ite_of hu.failSink hu.discardAt) (Safe.slotFlags (ite_of hw.deliver hw))

theorem Safe.storeHome {w : Who} {p : Place} {va : Word} {v n : Nat} {after : List Nat} (h : Safe M A s) :
    Safe M A (s.storeHome w p va v n after) :=
  Safe.postNew (ite_of h h.evictLine)

theorem Safe.storeAs {w : Who} {p : Place} {va : Word} {v n serial : Nat} (h : Safe M A s) :
    Safe M A (s.storeAs w p va v n serial) :=
  Safe.post (ite_of h h.evictLine)

theorem Safe.finishCvt {g : Gather} {ctx core : Nat} {src : AccTy} {dst : Elem} {sat : Bool} {mode : Round}
    {target : Word} {sram : Option Nat} {spots : List (Nat × Place)} {writes : List Nat} (h : Safe M A s) :
    Safe M A (s.finishCvt g ctx core src dst sat mode target sram spots writes) := by
  unfold State.finishCvt
  dsimp only
  split
  · exact h.onCtx.setCluster
  · refine Safe.foldl h.onCtx.setCluster fun _ ht _ => ?_
    split
    · exact ht.performed.storeAs
    · exact ht.performed

theorem Safe.finishGather {id : Nat} {g : Gather} (h : Safe M A s) : Safe M A (s.finishGather id g) := by
  unfold State.finishGather
  dsimp only
  split
  · split
    · exact Safe.onCtx h.upd
    · exact Safe.onCtx h.upd
    · exact Safe.foldl (Safe.onCtx (Safe.setCluster h.upd)) (fun _ ht _ => ht.performed)
  · split
    · exact ite_of (Safe.onCtx h.upd) h.upd
    · exact ite_of (Safe.onCtx h.upd) h.upd
    · exact Safe.finishCvt h.upd

theorem Safe.sweep (h : Safe M A s) : Safe M A s.sweep := h.foldl (fun _ ht _ => ht.finishGather)

theorem Safe.writeBack {w : Who} {system : Bool} (h : Safe M A s) : Safe M A (s.writeBack w system) := by
  unfold State.writeBack
  dsimp only
  refine Safe.foldl h fun _ ht _ => ite_of ht ?_
  split
  · exact ht
  · exact ht.evictLine
  · split
    · exact ht.setCluster.postBack
    · exact ht

theorem Safe.release {w : Who} {reach : Dom} (h : Safe M A s) : SafeFst M A (s.release w reach) := ite_of h h.writeBack

theorem Safe.releaseCluster {w : Who} {reach : Dom} (h : Safe M A s) : SafeFst M A (s.releaseCluster w reach) :=
  ite_of h h.writeBack

theorem Safe.invalidate {w : Who} {reach : Dom} (h : Safe M A s) : Safe M A (s.invalidate w reach) := by
  unfold State.invalidate
  refine ite_of h (Safe.foldl h (fun _ ht _ => ite_of ht ?_))
  split
  · exact ht.setCluster
  · exact ht.evictLine
  · exact ht

end Sys2Proof.Machine
end

section
/-! Every step keeps memory canonical and AGE legal: issue, accesses and fetches. -/

namespace Sys2Proof.Machine

open Safety

variable {M A : Prop} {s : State}

theorem Safe.ran (h : Safe M A s) : Safe M A s.ran := h.upd

theorem Safe.waits (h : Safe M A s) : Safe M A s.waits := h.upd

theorem Safe.event {o : Option State} (h : Safe M A s) (ho : IfSome (Safe M A) o) : SafeOut M A (event s o) := by
  unfold Machine.event
  split
  next t => exact SafeOut.next (ho t rfl).ran
  · exact SafeOut.next h.waits

theorem Safe.setMe {t : Strand} (h : Safe M A s) : Safe M A (s.setMe t) := h.setStrand

theorem Safe.endLaunch {n : Option Nat} {status : Nat} (h : Safe M A s) : Safe M A (s.endLaunch n status) := by
  unfold State.endLaunch
  split
  · exact h
  · split
    · exact ite_of h.upd h
    · exact h

theorem Safe.increment {w : Who} {p : Place} {va : Word} {f : IncFmt} {v comp : Nat} (h : Safe M A s) :
    Safe M A (s.increment w p va f v comp) :=
  ite_of (Safe.postNew (ite_of h h.evictLine)) h.addLocal

theorem Safe.emitBuf {w : Who} {m : MatCtx} {b : CoalBuf} (h : Safe M A s) : Safe M A (s.emitBuf w m b) := by
  unfold State.emitBuf
  refine Safe.foldl h fun _ ht _ => ?_
  split
  · exact ht.foldl fun _ hu _ => hu.increment
  · exact ht

theorem Safe.setMat {core : Nat} {m : MatCtx} (h : Safe M A s) : Safe M A (s.setMat core m) := h.setCluster

theorem Safe.emit {w : Who} (h : Safe M A s) : Safe M A (s.emit w) := by
  unfold State.emit
  dsimp only
  split
  · exact h
  · exact h.setMat.emitBuf
  · exact h.setMat.emitBuf
  · exact h.setMat.emitBuf.emitBuf

theorem Safe.moveOut {k : Nat} {why : SavedWhy} {header : List Word} (h : Safe M A s) :
    IfSome (Safe M A) (s.moveOut k why header) :=
  ite_of IfSome.none (IfSome.some (Safe.updCore (Safe.upd (Safe.setStrand (ite_of h.emit h)))))

theorem Safe.swapOut {k : Nat} {why : SavedWhy} {header : List Word} (h : Safe M A s) :
    IfSome (Safe M A) (s.swapOut k why header) :=
  ite_of h.moveOut IfSome.none

theorem Safe.endStrand {k : Nat} (h : Safe M A s) : Safe M A (s.endStrand k) := h.setStrand

theorem Safe.toHandler {k : Nat} {t : Trap} {pc faddr : Word} {iword : BitVec 32} (h : Safe M A s) :
    IfSome (Safe M A) (s.toHandler k t pc faddr iword) := by
  unfold State.toHandler
  dsimp only
  refine ite_of (IfSome.some h.endLaunch.endStrand) (ite_of ?_ ?_)
  · exact IfSome.map h.swapOut (fun _ ht => Safe.upd (ite_of ht.upd ht.updCore))
  · exact IfSome.map h.swapOut fun _ ht => Safe.upd ht.setStrand

theorem Safe.toFaultUnit {k : Nat} {t : Trap} {pc faddr : Word} {iword : BitVec 32} (h : Safe M A s) :
    IfSome (Safe M A) (s.toFaultUnit k t pc faddr iword) :=
  IfSome.map h.swapOut (fun _ ht => Safe.setDie (ite_of ht.countAccess ht))

theorem Safe.takeTrap {k : Nat} {t : Trap} {pc faddr : Word} {iword : BitVec 32} (h : Safe M A s) :
    IfSome (Safe M A) (s.takeTrap k t pc faddr iword) := by
  unfold State.takeTrap
  split
  · exact h.toFaultUnit
  · exact h.toFaultUnit
  · exact h.toHandler

theorem Safe.askBank {k : Nat} (h : Safe M A s) : IfSome (Safe M A) (s.askBank k) :=
  ite_of IfSome.none (IfSome.some h.updCore)

theorem Safe.latchTrap {k : Nat} {l : Latched} (h : Safe M A s) : Safe M A (s.latchTrap k l) :=
  ite_of (IfSome.getD h.setStrand.askBank h.setStrand) h.setStrand

theorem Safe.trapAtIssue {k : Nat} {t : Trap} {pc faddr : Word} {iword : BitVec 32} (h : Safe M A s) :
    Safe M A (s.trapAtIssue k t pc faddr iword) := by
  unfold State.trapAtIssue
  split
  next s1 e => exact (ite_of h.takeTrap IfSome.none) _ e
  · exact h.latchTrap

theorem Safe.pushFrame {die a : Nat} (h : Safe M A s) : Safe M A (s.pushFrame die a) := ite_of h.error h.writeSys.setDie

theorem Safe.freeFrames {v : Saved} (h : Safe M A s) : Safe M A (s.freeFrames v) := h.foldl (fun _ ht _ => ht.pushFrame)

theorem Safe.dropSaved {ctx : Nat} (h : Safe M A s) : Safe M A (s.dropSaved ctx) := by
  unfold State.dropSaved
  dsimp only
  split
  · exact Safe.upd (ite_of h.freeFrames h)
  · exact h

theorem Safe.moveBack {c slot : Nat} {v : Saved} (h : Safe M A s) : Safe M A (s.moveBack c slot v) := by
  unfold State.moveBack
  dsimp only
  refine Safe.updCore (SafeFst.fst ?_)
  split
  · exact h.releaseCluster
  · exact h

theorem Safe.returnTrap {k : Nat} (h : Safe M A s) : IfSome (Safe M A) (s.returnTrap k) := by
  unfold State.returnTrap
  dsimp only
  split
  · exact ite_of IfSome.none (IfSome.some h.endStrand.moveBack)
  · exact IfSome.none

theorem Safe.out {r : Res} {i : Instr} (h : SafeRes M A r) (hs : Safe M A s) : SafeOut M A (Res.out r s i) := by
  unfold Res.out
  split
  next s' e => exact SafeOut.next h.ran
  · exact SafeOut.next hs.waits
  · exact SafeOut.next hs.setMe.waits
  · exact SafeOut.next hs.trapAtIssue.ran
  · exact SafeOut.next hs.trapAtIssue.ran

theorem Safe.issue {i : Instr} {ops : List Opnd} {f : Strand → Res} (hf : ∀ a, SafeRes M A (f a)) (h : Safe M A s) :
    SafeOut M A (issue i ops f s) := by
  unfold Machine.issue
  dsimp only
  refine ite_of (SafeOut.next h.waits) ?_
  split
  · exact SafeOut.next h.waits
  · exact Safe.out trivial h
  · exact Safe.out (hf _) h

theorem Safe.issueReg {i : Instr} {ops : List Opnd} {g : Strand → Strand} (h : Safe M A s) :
    SafeOut M A (issueReg i ops g s) :=
  Safe.issue (fun _ => h.setMe) h

theorem Safe.freeAt {k e : Nat} (h : Safe M A s) : Safe M A (s.freeAt k e) := h.setStrand

theorem Safe.tileAccess {k : Nat} {o : MemOp} {c : Cap} {e : Nat} {n : BitVec 4} {off : Nat} (h : Safe M A s) :
    SafeAcc M A (tileAccess s k o c e n off) := by
  unfold Machine.tileAccess
  dsimp only
  split
  · exact trivial
  · exact trivial
  · refine ite_of trivial (ite_of ?_ ?_)
    · split
      · exact h.freeAt
      · exact h.freeAt
      · exact trivial
    · split
      · exact h.setCluster.freeAt
      · exact h.setCluster.freeAt
      · exact ite_of h.setCluster.deliver.sinkFlags h.setCluster.freeAt
      · exact ite_of h.setCluster.deliver.sinkFlags h.setCluster.freeAt
      · exact ite_of h.setCluster.deliver.sinkFlags h.setCluster.freeAt
      · exact h.deliver

theorem Safe.readHome {w : Who} {p : Place} {va : Word} {n : Nat} {k : Sink} (h : Safe M A s) :
    Safe M A (s.readHome w p va n k) :=
  Safe.post (Safe.fresh (ite_of h h.evictLine))

theorem Safe.acczAccess {k : Nat} {c : Cap} {e : Nat} {got : List Xlat} (h : Safe M A s) :
    SafeAcc M A (acczAccess s k c e got) := by
  unfold Machine.acczAccess
  dsimp only
  refine ite_of trivial (ite_of trivial (ite_of trivial ?_))
  split
  · exact trivial
  · exact trivial
  · refine ite_of trivial (Safe.freeAt (Safe.foldl h (fun _ ht _ => ?_)))
    split
    · exact ht.storeHome
    · exact ht

theorem Safe.accrdAccess {k : Nat} {d : RegNo} {c : Cap} {e : Nat} {got : List Xlat} (h : Safe M A s) :
    SafeAcc M A (accrdAccess s k d c e got) := by
  unfold Machine.accrdAccess
  dsimp only
  refine ite_of trivial ?_
  split
  · exact trivial
  · exact trivial
  · refine ite_of trivial (Safe.foldl h.upd (fun _ ht ⟨_, _⟩ => ?_))
    split
    · exact ht.readHome
    · exact ht

theorem Safe.cvtPending {w : Who} {core e n : Nat} {target : Word} {stores : List Nat} {sram : Option Nat}
    {writes : List Nat} (h : Safe M A s) : Safe M A (s.cvtPending w core e n target stores sram writes) :=
  Safe.setCluster (h.foldl (fun _ ht _ => Safe.upd ht.addLive))

theorem Safe.cvtAccess {k : Nat} {src : AccTy} {dst : Elem} {sat : Bool} {c : Cap} {e : Nat} {got : List Xlat}
    (h : Safe M A s) : SafeAcc M A (cvtAccess s k src dst sat c e got) := by
  unfold Machine.cvtAccess
  dsimp only
  refine ite_of trivial (ite_of trivial (ite_of trivial (ite_of trivial ?_)))
  split
  · exact trivial
  · exact trivial
  · split
    · exact trivial
    · exact trivial
    · split
      · exact trivial
      · refine ite_of trivial (Safe.foldl (Safe.upd h.cvtPending) (fun _ ht _ => ?_))
        split
        · exact ht.readHome
        · exact ht

theorem Safe.accChecks {k : Nat} {o : MemOp} {c : Cap} {first : Bool} {f : State → AccRes} (h : Safe M A s)
    (hf : ∀ t, Safe M A t → SafeAcc M A (f t)) : SafeAcc M A (accChecks s k o c first f) := by
  unfold Machine.accChecks
  dsimp only
  refine ite_of trivial (ite_of trivial ?_)
  exact ite_of trivial (ite_of trivial (ite_of trivial (ite_of trivial (ite_of trivial (hf _ (ite_of h.emit h))))))

theorem Safe.readCell {w : Who} {p : Place} {va : Word} {n : Nat} {behind : List Nat} {sink : Sink} (h : Safe M A s) :
    Safe M A (s.readCell w p va n behind sink) :=
  ite_of (Safe.post (Safe.fresh (ite_of h h.evictLine))) h.fresh.loadCached

theorem Safe.ldpAccess {k : Nat} {z : Size} {d : RegNo} {pk : BitVec 3} {c : Cap} {e : Nat} {got : List Xlat}
    (h : Safe M A s) : SafeAcc M A (ldpAccess s k z d pk c e got) := by
  unfold Machine.ldpAccess
  dsimp only
  refine ite_of trivial ?_
  split
  · exact trivial
  · exact trivial
  · refine ite_of trivial (Safe.sweep (Safe.foldl h.upd (fun _ ht _ => ?_)))
    split
    · exact ht.readCell
    · exact ht

theorem Safe.toPort {w : Who} {p : Place} {va : Word} {r : AtomReq} {sink : Sink} {e : Nat} (h : Safe M A s) :
    Safe M A (s.toPort w p va r sink e) :=
  Safe.setPort (Safe.addLive (ite_of h h.evictLine))

theorem Safe.atomAt {w : Who} {p : Place} {va : Word} {r : AtomReq} {sink : Sink} {e : Nat} (h : Safe M A s) :
    Safe M A (s.atomAt w p va r sink e) :=
  ite_of h.toPort (ite_of h.atomCluster (Safe.post (ite_of h h.evictLine)))

theorem Safe.lineAccess {k : Nat} {o : MemOp} {c : Cap} {e : Nat} {p : Place} (h : Safe M A s) :
    SafeAcc M A (lineAccess s k o c e p) := by
  unfold Machine.lineAccess
  dsimp only
  refine ite_of trivial (ite_of trivial ?_)
  split
  · exact ite_of (Safe.post (ite_of h h.evictLine)) h.loadCached
  · exact ite_of (Safe.post (ite_of h h.evictLine)) h.loadCached
  · exact ite_of (Safe.post (ite_of h h.evictLine)) h.loadCached
  · exact Safe.freeAt (ite_of h.storeHome h.storeCached)
  · exact Safe.freeAt (ite_of h.storeHome h.storeCached)
  · exact Safe.post (ite_of h h.evictLine)
  · exact Safe.freeAt (ite_of h.storeHome h.storeCached)
  · exact ite_of h.atomAt h.fresh.atomAt.freeAt
  · exact ite_of h.atomAt h.fresh.atomAt.freeAt
  · exact ite_of h.atomAt h.fresh.atomAt.freeAt
  · exact Safe.post (ite_of h h.evictLine)
  · exact ite_of h.freeAt h.queueFetch.freeAt
  · exact Safe.freeAt (ite_of h h.evictLine)
  · exact Safe.freeAt (ite_of h h.evictLine)
  · exact h

theorem Safe.access {k : Nat} {o : MemOp} {c : Cap} {e : Nat} {got : List Xlat} {first : Bool} (h : Safe M A s) :
    SafeAcc M A (access s k o c e got first) := by
  unfold Machine.access
  dsimp only
  split
  · exact h.accChecks fun _ ht => ht.acczAccess
  · exact h.accChecks fun _ ht => ht.accrdAccess
  · exact h.accChecks fun _ ht => ht.cvtAccess
  · exact ite_of trivial h.ldpAccess
  · refine ite_of trivial ?_
    split
    · exact ite_of h.freeAt trivial
    · refine ite_of h.freeAt ?_
      split
      · exact trivial
      · exact trivial
      · exact trivial
      · exact h.tileAccess
    · refine ite_of trivial (ite_of trivial ?_)
      split
      · exact trivial
      · exact trivial
      · split
        · exact h.lineAccess
        · exact trivial

theorem Safe.enter {i : Instr} {o : MemOp} {c : Cap} {ph : Phase} {u : Strand} (h : Safe M A s) :
    Safe M A (s.enter i o c ph u) :=
  Safe.upd h.setMe

theorem Safe.issueMem {i : Instr} {o : MemOp} {c : Cap} {u : Strand} (h : Safe M A s) :
    SafeRes M A (issueMem s i o c u) := by
  unfold Machine.issueMem
  dsimp only
  refine ite_of trivial ?_
  split
  next s2 e => exact h.enter.access.of_eq e
  · exact trivial
  · exact trivial
  · refine Safe.enter ?_
    split
    · exact h.emit
    · exact h.emit
    · exact h.emit
    · exact h
  · refine Safe.enter ?_
    split
    · exact h.emit
    · exact h.emit
    · exact h.emit
    · exact h

theorem Safe.retry {k : Nat} {e : Entry} {got : List Xlat} {first : Bool} (h : Safe M A s) :
    IfSome (Safe M A) (s.retry k e got first) := by
  unfold State.retry
  dsimp only
  split
  · exact IfSome.some h.freeAt
  · split
    next s2 e1 => exact IfSome.some ((Safe.access (Safe.setStrand (Safe.setStrand (ite_of h.setStrand h)))).of_eq e1)
    · exact IfSome.none
    · exact IfSome.some (Safe.setStrand (ite_of h.setStrand h))
    · exact IfSome.some (Safe.setStrand (ite_of h.setStrand h))
    · exact IfSome.some (Safe.setStrand (ite_of h.setStrand h))

theorem Safe.codeLine {core func : Nat} {va : Word} {line : Nat} (h : Safe M A s) :
    SafeFst M A (s.codeLine core func va line) := by
  unfold State.codeLine
  dsimp only
  split
  · exact h
  · exact h.homeRead.fst.updCore

theorem Safe.code {t : Strand} {core : Nat} {va : Word} {n : Nat} (h : Safe M A s) :
    SafeCode M A (s.code t core va n) := by
  unfold State.code
  dsimp only
  split
  · exact trivial
  · exact ite_of trivial (ite_of trivial (ite_of trivial h.codeLine.fst))

theorem Safe.fetchWord {k : Nat} (h : Safe M A s) : SafeFetched M A (s.fetchWord k) := by
  unfold State.fetchWord
  dsimp only
  split
  · exact trivial
  · exact trivial
  · exact trivial
  next s1 v e =>
    have ht := h.code.of_eq e
    refine ite_of ht ?_
    split
    · exact ht
    · refine ite_of ht ?_
      split
      · exact trivial
      · exact trivial
      · exact trivial
      next s2 l e1 =>
        have hu := ht.code.of_eq e1
        split <;> exact hu
    · exact ht

theorem Safe.enterHeader {k : Nat} {hdr : Word} {way : EntryWay} (h : Safe M A s) :
    SafeFetched M A (s.enterHeader k hdr way) := by
  unfold State.enterHeader
  dsimp only
  refine ite_of trivial ?_
  split
  · exact trivial
  · exact trivial
  · exact trivial
  next s1 v e =>
    have ht := h.code.of_eq e
    refine ite_of trivial ?_
    split
    · exact trivial
    · exact trivial
    · exact trivial
    next s2 v1 e1 => exact (ht.code.of_eq e1).setStrand.fetchWord

theorem Safe.fetch {k : Nat} (h : Safe M A s) : SafeFetched M A (s.fetch k) := by
  unfold State.fetch
  dsimp only
  split
  · exact h.enterHeader
  · exact ite_of h.enterHeader h.fetchWord

end Sys2Proof.Machine
end

section
/-! Every step keeps memory canonical and AGE legal: frames and joins. -/

namespace Sys2Proof.Machine

open Safety

variable {M A : Prop} {s : State}

theorem Safe.setClusterOf {ln : Option Nat} {k : Nat} {c : Cluster} (h : Safe M A s) : Safe M A (s.setClusterOf ln k c) :=
  ite_of (h.setSaved fun _ hl => hl.map fun _ hv => ite_of (P := fun v : SavedCluster => CoresLegal v.cores) hv hv) h.setCluster

theorem Safe.coreOf {ln : Option Nat} {c : Nat} (h : Safe M A s) : SafeCore A (s.coreOf ln c) := by
  unfold State.coreOf
  split
  next v hv => exact .get fun a => h.saved a v (List.mem_of_find?_eq_some hv)
  · exact h.core

theorem Safe.setCoreOf {ln : Option Nat} {c : Nat} {t : Core} (h : Safe M A s) (ht : SafeCore A t) :
    Safe M A (s.setCoreOf ln c t) :=
  ite_of (h.setSaved fun a hl => hl.map fun _ hv =>
    ite_of (P := fun v : SavedCluster => CoresLegal v.cores) (hv.put (ht a)) hv) (h.setCore ht)

theorem Safe.writeRec {ln : Option Nat} {r : Rec} {o v n : Nat} (h : Safe M A s) :
    IfSome (Safe M A) (s.writeRec ln r o v n) := by
  unfold State.writeRec
  refine ite_of (IfSome.bindAny (fun _ => h.sysPut)) ?_
  split
  · exact h.sysPut
  · exact ite_of IfSome.none (IfSome.some h.setClusterOf)

theorem Safe.writeFields {ln : Option Nat} {r : Rec} {l : List ImageField} (h : Safe M A s) :
    IfSome (Safe M A) (s.writeFields ln r l) :=
  IfSome.foldl (IfSome.some h) (fun _ ho _ => IfSome.bind ho (fun _ ht => ht.writeRec))

theorem Safe.resume {k : Nat} {r : Rec} {hdr : Word} {ln : Option Nat} {func : Nat} (h : Safe M A s) :
    IfSome (Safe M A) (s.resume k r hdr ln func) := by
  unfold State.resume
  dsimp only
  split
  · exact IfSome.mapAny fun _ => Safe.upd h.setStrand
  · exact IfSome.none

theorem Safe.takeRoom {ln : Option Nat} {k : Nat} {spill : Bool} {line size : Nat} {tiles : List (Nat × Nat)}
    (h : Safe M A s) : Safe M A (s.takeRoom ln k spill line size tiles) :=
  h.setClusterOf

theorem Safe.copyRec {ln : Option Nat} {a b : Rec} {n : Nat} (h : Safe M A s) : IfSome (Safe M A) (s.copyRec ln a b n) := by
  induction n with
  | zero => exact IfSome.some h
  | succ n ih => exact IfSome.bind ih fun _ ht => IfSome.bindAny fun _ => ht.writeRec

theorem Safe.copyTiles {ln : Option Nat} {m n : Nat} {tiles : List (Nat × Nat)} {l : List (Nat × Word)} (h : Safe M A s) :
    IfSome (Safe M A) (s.copyTiles ln m n tiles l) := by
  induction l generalizing s with
  | nil => exact IfSome.some h
  | cons e r ih => exact IfSome.bind h.copyRec fun _ ht => ih ht

theorem Safe.moveRec {ln : Option Nat} {r dst : Rec} {tiles : List (Nat × Nat)} (h : Safe M A s) :
    IfSome (Safe M A) (s.moveRec ln r dst tiles) := by
  unfold State.moveRec
  dsimp only
  split
  · exact IfSome.bind (IfSome.bind h.copyRec (fun _ ht => ht.copyTiles)) (fun _ ht => IfSome.map ht.writeFields (fun _
      hu => hu.setClusterOf))
  · exact IfSome.none

theorem Safe.spillWrite {ln : Option Nat} {k i : Nat} (h : Safe M A s) : Safe M A (s.spillWrite ln k i) := by
  unfold State.spillWrite
  split
  · split
    · exact h.writeSys
    · exact h
  · exact h

theorem Safe.setCtr {ln : Option Nat} {c : BitVec 24} {j : JoinCounter} (h : Safe M A s) : Safe M A (s.setCtr ln c j) :=
  ite_of h.setClusterOf.spillWrite h.setClusterOf

theorem Safe.placeReady {ln : Option Nat} {k : Nat} {frame : Word} {prio : BitVec 8} (h : Safe M A s) :
    IfSome (Safe M A) (s.placeReady ln k frame prio) := by
  unfold State.placeReady
  dsimp only
  refine ite_of (IfSome.some (Safe.upd h.setClusterOf)) ?_
  exact ite_of (IfSome.some (Safe.spillWrite (Safe.upd h.setClusterOf))) IfSome.none

theorem Safe.giveParked {ln : Option Nat} {c : BitVec 24} (h : Safe M A s) : Safe M A (s.giveParked ln c) := by
  unfold State.giveParked
  dsimp only
  split
  · exact h
  · refine ite_of h (ite_of ?_ (Safe.upd h.releaseCluster.fst.setCtr))
    split
    next s1 e => exact (h.placeReady _ e).setCtr
    · exact h

theorem Safe.decrement {ln : Option Nat} {c : BitVec 24} (h : Safe M A s) : Safe M A (s.decrement ln c) :=
  ite_of h.error h.setCtr.giveParked

theorem Safe.placeWaiting {ln : Option Nat} {k : Nat} (h : Safe M A s) : Safe M A (s.placeWaiting ln k) :=
  h.foldl (fun _ ht _ => ht.giveParked)

theorem Safe.sendAct {a : Activation} (h : Safe M A s) : Safe M A (s.sendAct a) := h.upd

theorem Safe.loseMsg {m : Activation} {link : Nat} (h : Safe M A s) : Safe M A (s.loseMsg m link) := by
  unfold State.loseMsg
  split
  · exact h.onCtx
  · exact h.error

theorem Safe.sendMsg {k : Nat} {m : Activation} {word : BitVec 32} {opa opb : Word} (h : Safe M A s) :
    Safe M A (s.sendMsg k m word opa opb) := by
  unfold State.sendMsg
  dsimp only
  split
  · exact Safe.upd (Safe.loseMsg (ite_of h.setStrand h))
  · exact Safe.sendAct (ite_of h.setStrand h)

theorem Safe.wakeLinks {l : List Nat} (h : Safe M A s) : Safe M A (s.wakeLinks l) := by
  unfold State.wakeLinks
  dsimp only
  refine Safe.foldl h fun _ ht _ => ?_
  split
  · exact ht.setLink
  · exact ht

theorem Safe.across {a b : Nat} {ln : Option Nat} {arrive lose : Unit → Option State} (h : Safe M A s)
    (harrive : ∀ a, IfSome (Safe M A) (arrive a)) (hlose : ∀ a, IfSome (Safe M A) (lose a)) :
    IfSome (Safe M A) (s.across a b ln arrive lose) := by
  unfold State.across
  dsimp only
  split
  · exact harrive _
  · exact ite_of IfSome.none (IfSome.some h.wakeLinks)
  · exact IfSome.map (hlose _) (fun _ ht => ht.error)

theorem Safe.discardMsg {a : Activation} (h : Safe M A s) : Safe M A (s.discardMsg a) := h.updCore.error

theorem Safe.goOn {k : Nat} {hdr : Option Word} (h : Safe M A s) : Safe M A (s.goOn k hdr) := h.setStrand

theorem Safe.endAcquire {k : Nat} {reach : Dom} {hdr : Option Word} (h : Safe M A s) :
    Safe M A (s.endAcquire k reach hdr) :=
  h.invalidate.goOn

theorem Safe.beginAcquire {k : Nat} {reach : Dom} {hdr : Option Word} (h : Safe M A s) :
    Safe M A (s.beginAcquire k reach hdr) :=
  ite_of h.endAcquire h.setStrand

theorem Safe.decLink {clus : Nat} {t : Strand} (h : Safe M A s) : Safe M A (s.decLink clus t) := by
  unfold State.decLink
  dsimp only
  split
  · exact h
  · split
    · exact ite_of (Safe.endLaunch h.upd) h.upd
    · exact h
  · exact ite_of h.decrement h.upd

theorem Safe.popAt {k : Nat} (h : Safe M A s) : IfSome (Safe M A) (s.popAt k) := by
  unfold State.popAt
  dsimp only
  cases (s.core (slotCore k)).tail (slotIdx k) with
  | entry e => exact h.updCore.resume
  | wait => exact IfSome.some (Safe.setStrand (h.setCore (ite_of h.core.upd h.core)))
  | notMine => exact IfSome.some h.endStrand
  | empty => exact IfSome.some h.endStrand

theorem Safe.answerCaller {server : Nat} {caller : Option (Nat × RegNo × Nat)} {v : Word} (h : Safe M A s) :
    Safe M A (s.answerCaller server caller v) := by
  unfold State.answerCaller
  split
  · exact h.upd
  · exact h

theorem Safe.retireAt {k : Nat} (h : Safe M A s) : IfSome (Safe M A) (s.retireAt k) := by
  unfold State.retireAt
  dsimp only
  split
  · refine IfSome.some (Safe.endStrand ?_)
    split
    · exact ite_of (Safe.answerCaller (ite_of h.dropSaved h)) (Safe.decLink (ite_of h.dropSaved h))
    · exact h
  · exact IfSome.some (IfSome.getD h.decLink.setStrand.popAt h.decLink.setStrand)

theorem Safe.haltAt {k : Nat} (h : Safe M A s) : Safe M A (s.haltAt k) := by
  unfold State.haltAt
  dsimp only
  refine Safe.endStrand (Safe.endLaunch ?_)
  split
  · refine Safe.dropSaved ?_
    split
    · exact ite_of h.answerCaller h
    · exact h
  · exact ite_of h.answerCaller h

theorem Safe.endParked {k : Nat} (h : Safe M A s) : Safe M A (s.endParked k) := by
  unfold State.endParked
  dsimp only
  refine Safe.endStrand ?_
  split
  · exact h.endLaunch.dropSaved
  · exact h

theorem Safe.syncRelease {k clus : Nat} {reach : Dom} {hdr : Word} (h : Safe M A s) :
    Safe M A (s.syncRelease k clus reach hdr) := by
  unfold State.syncRelease
  dsimp only
  refine ite_of ?_ ?_
  · exact Safe.beginAcquire (SafeFst.fst (ite_of h h.releaseCluster))
  · exact Safe.setStrand (SafeFst.fst (ite_of h h.releaseCluster))

theorem Safe.syncAt {k : Nat} {a : RegNo} {f hdr live : Word} (h : Safe M A s) :
    IfSome (Safe M A) (s.syncAt k a f hdr live) := by
  unfold State.syncAt
  dsimp only
  refine IfSome.bindAny (fun _ => IfSome.map h.writeFields (fun _ ht => ite_of ?_ ?_))
  · exact ite_of ht.setCtr.beginAcquire ht.setCtr.syncRelease
  · exact Safe.endParked (ite_of ht.setCtr (Safe.upd ht.setCtr))

theorem Safe.parkStays {p : Park} (h : Safe M A s) : Safe M A (s.parkStays p) := Safe.giveParked h.upd

theorem Safe.parkAt {p : Park} (h : Safe M A s) : IfSome (Safe M A) (s.parkAt p) := by
  unfold State.parkAt
  dsimp only
  split
  · exact IfSome.none
  · split
    · exact IfSome.some h.parkStays
    · exact IfSome.map (Safe.moveRec (Safe.takeRoom h.upd)) (fun _ ht => ht.setCtr.giveParked)

theorem Safe.completeBarrier {ln : Option Nat} {b : Word} (h : Safe M A s) : Safe M A (s.completeBarrier ln b) :=
  Safe.placeWaiting (Safe.foldl (h.setCoreOf (SafeCore.upd h.coreOf)) (fun _ ht _ => ht.sendAct))

theorem Safe.barLast {ctx : Nat} {reach : Dom} {hdr : Word} (h : Safe M A s) : Safe M A (s.barLast ctx reach hdr) := by
  unfold State.barLast
  dsimp only
  split
  · exact h.beginAcquire
  · exact h.invalidate.onCtx

theorem Safe.dropShadow {ctx : Nat} (h : Safe M A s) : Safe M A (s.dropShadow ctx) := by
  unfold State.dropShadow
  dsimp only
  split
  · exact Safe.setCore h (SafeCore.upd h.core)
  · exact h.dropSaved

theorem Safe.barWait {ctx : Nat} (h : Safe M A s) : Safe M A (s.barWait ctx) := by
  unfold State.barWait
  dsimp only
  split
  · exact h.endParked
  · refine Safe.dropShadow ?_
    split
    · exact h.endLaunch.dropSaved
    · exact h

theorem Safe.arriveAt {a : Arrival} (h : Safe M A s) : IfSome (Safe M A) (s.arriveAt a) := by
  unfold State.arriveAt
  dsimp only
  refine ite_of (IfSome.some h.completeBarrier.barLast) (ite_of IfSome.none ?_)
  exact IfSome.some (Safe.barWait (ite_of (h.setCoreOf (SafeCore.upd h.coreOf)) (Safe.spillWrite (h.setCoreOf
    (SafeCore.upd h.coreOf)))))

theorem Safe.barSend {k : Nat} {b frame hdr : Word} (h : Safe M A s) : Safe M A (s.barSend k b frame hdr) :=
  ite_of (IfSome.getD h.setStrand.arriveAt (Safe.upd h.setStrand)) (Safe.upd h.setStrand)

theorem Safe.trecSend {k : Nat} {d : RegNo} {task : BitVec 128} {p : Place} {addr opa opb : Word} {word : BitVec 32}
    (h : Safe M A s) : Safe M A (s.trecSend k d task p addr opa opb word) :=
  Safe.post (ite_of (Safe.upd h.setStrand) (Safe.evictLine (Safe.upd h.setStrand)))

theorem Safe.trecAt {k : Nat} {d : RegNo} {task : BitVec 128} {far : Bool} {va opa opb : Word} {word : BitVec 32}
    (h : Safe M A s) : IfSome (Safe M A) (s.trecAt k d task far va opa opb word) := by
  unfold State.trecAt
  dsimp only
  split
  · exact ite_of IfSome.none (IfSome.some h.setStrand)
  · refine ite_of (IfSome.some h.setStrand.trapAtIssue) ?_
    exact ite_of (IfSome.some h.release.fst.setStrand) (IfSome.some h.trecSend)

theorem Safe.finish {k : Nat} {a : After} (h : Safe M A s) : IfSome (Safe M A) (s.finish k a) := by
  unfold State.finish
  dsimp only
  split
  · exact IfSome.some h.goOn
  · exact IfSome.some h.beginAcquire
  · exact ite_of IfSome.none (IfSome.some h.syncRelease)
  · exact IfSome.some h.endAcquire
  · exact h.retireAt
  · exact h.popAt
  · exact h.syncAt
  · exact IfSome.some h.haltAt
  · exact IfSome.some h.barSend
  · exact ite_of (IfSome.some h.sendMsg.goOn) IfSome.none
  · exact IfSome.some h.answerCaller.endStrand
  · exact IfSome.some h.enqueueTask.goOn
  · exact h.trecAt
  · exact IfSome.some h.goOn.setStrand.startShoot

theorem Safe.finishEdge {k : Nat} {a : After} (h : Safe M A s) : IfSome (Safe M A) (s.finishEdge k a) :=
  ite_of IfSome.none h.finish

theorem Safe.beginEdge {k : Nat} {waits : List Nat} {system : Bool} {a : After} (h : Safe M A s) :
    Safe M A (s.beginEdge k waits system a) :=
  ite_of (IfSome.getD h.finishEdge h.setStrand) h.setStrand

theorem Safe.releaseThen {k : Nat} {reach : Dom} {a : After} (h : Safe M A s) : Safe M A (s.releaseThen k reach a) :=
  h.emit.release.fst.beginEdge

theorem Safe.fenceThen {k : Nat} {reach : Dom} {a : After} (h : Safe M A s) : Safe M A (s.fenceThen k reach a) :=
  h.emit.release.fst.beginEdge

theorem Safe.boundRelease {k b : Nat} (h : Safe M A s) : Safe M A (s.boundRelease k b) := by
  unfold State.boundRelease
  dsimp only
  split
  · exact h.emit.release.fst.beginEdge
  · exact h.emit.beginEdge

end Sys2Proof.Machine
end

section
/-! Every step keeps memory canonical and AGE legal: atomics, loads and stores, and messages to elsewhere. -/

namespace Sys2Proof.Machine

open Safety

variable {M A : Prop} {s : State}

theorem Safe.atomic {i : Instr} {o : MemOp} {ops : List Opnd} {a b : Src} {opd : Strand → Word} (h : Safe M A s) :
    SafeOut M A (atomic i o ops a b opd s) :=
  Safe.issue (fun _ => h.issueMem) h

theorem Safe.execAmo {op : AtomOp} {ty : NumTy} {d : RegNo} {a b : Src} (h : Safe M A s) :
    SafeOut M A (execAmo op ty d a b s) :=
  h.atomic

theorem Safe.execRed {op : AtomOp} {ty : NumTy} {a b : Src} (h : Safe M A s) : SafeOut M A (execRed op ty a b s) :=
  h.atomic

theorem Safe.execCas {ty : NumTy} {d : RegNo} {a b : Src} (h : Safe M A s) : SafeOut M A (execCas ty d a b s) :=
  h.atomic

theorem Safe.execFamo {op : AtomOp} {ty : NumTy} {d : RegNo} {a b : Src} (h : Safe M A s) :
    SafeOut M A (execFamo op ty d a b s) :=
  Safe.issue (fun _ => h.issueMem) h

theorem Safe.execFredMinmax {op : AtomOp} {ty : NumTy} {a b : Src} (h : Safe M A s) :
    SafeOut M A (execFredMinmax op ty a b s) :=
  h.atomic

theorem Safe.incrementAt {t : Strand} {va : Word} {n : Nat} {f : IncFmt} {v : Nat} (h : Safe M A s) :
    SafeRes M A (incrementAt s t va n f v) := by
  unfold Machine.incrementAt
  dsimp only
  split
  · exact trivial
  · exact trivial
  · split
    · exact trivial
    · refine ite_of trivial (ite_of trivial (ite_of trivial (ite_of trivial ?_)))
      split
      · exact trivial
      · exact trivial
      · split
        · exact trivial
        · refine ite_of trivial (Safe.setMe (ite_of (Safe.foldl h (fun _ ht _ => ?_)) (ite_of (Safe.postNew (ite_of h
            h.evictLine)) h.addLocal)))
          split
          · exact ht.increment
          · exact ht

theorem Safe.execFredAdd {a b : Src} (h : Safe M A s) : SafeOut M A (execFredAdd a b s) :=
  Safe.issue (fun _ => ite_of trivial h.incrementAt) h

theorem Safe.execVred {ty : NumTy} {a b : Src} (h : Safe M A s) : SafeOut M A (execVred ty a b s) :=
  Safe.issue (fun _ => ite_of trivial h.incrementAt) h

theorem Safe.memLoad {i : Instr} {o : MemOp} {ops : List Opnd} {a : Src} {off : BitVec 12} {unit : Nat} (h : Safe M A s) :
    SafeOut M A (memLoad i o ops a off unit s) :=
  Safe.issue (fun _ => h.issueMem) h

theorem Safe.memStore {i : Instr} {o : MemOp} {z : Size} {src : RegNo} {a : Src} {off : BitVec 12} (h : Safe M A s) :
    SafeOut M A (memStore i o z src a off s) :=
  Safe.issue (fun _ => h.issueMem) h

theorem Safe.execLd {z : Size} {d : RegNo} {a : Src} {off : BitVec 12} (h : Safe M A s) :
    SafeOut M A (execLd z d a off s) :=
  h.memLoad

theorem Safe.execSt {z : Size} {src : RegNo} {a : Src} {off : BitVec 12} (h : Safe M A s) :
    SafeOut M A (execSt z src a off s) :=
  h.memStore

theorem Safe.execLdg {z : Size} {d : RegNo} {a : Src} {off : BitVec 12} (h : Safe M A s) :
    SafeOut M A (execLdg z d a off s) :=
  h.memLoad

theorem Safe.execSts {z : Size} {src : RegNo} {a : Src} {off : BitVec 12} (h : Safe M A s) :
    SafeOut M A (execSts z src a off s) :=
  h.memStore

theorem Safe.execLdp {z : Size} {d : RegNo} {k : BitVec 3} {a : Src} {off : BitVec 9} (h : Safe M A s) :
    SafeOut M A (execLdp z d k a off s) :=
  Safe.issue (fun _ => h.issueMem) h

theorem Safe.execLdv {v : RegNo} {a : Src} {off : BitVec 12} (h : Safe M A s) : SafeOut M A (execLdv v a off s) :=
  h.memLoad

theorem Safe.execStv {v : RegNo} {a : Src} {off : BitVec 12} (h : Safe M A s) : SafeOut M A (execStv v a off s) :=
  Safe.issue (fun _ => h.issueMem) h

theorem Safe.execPf {a : Src} {off : BitVec 12} (h : Safe M A s) : SafeOut M A (execPf a off s) := h.memLoad

theorem Safe.execFlush {a : Src} {off : BitVec 12} (h : Safe M A s) : SafeOut M A (execFlush a off s) := h.memLoad

theorem Safe.execInvl {a : Src} {off : BitVec 12} (h : Safe M A s) : SafeOut M A (execInvl a off s) := h.memLoad

theorem Safe.fence {i : Instr} {rel acq : Bool} {a : Src} {off : BitVec 12} (h : Safe M A s) :
    SafeOut M A (fence i rel acq a off s) := by
  unfold Machine.fence
  dsimp only
  refine Safe.issue (fun _ => ?_) h
  split
  · exact trivial
  · exact ite_of trivial trivial
  · exact ite_of trivial (ite_of h.fenceThen h.beginAcquire)

theorem Safe.execFenceAcq {a : Src} {off : BitVec 12} (h : Safe M A s) : SafeOut M A (execFenceAcq a off s) := h.fence

theorem Safe.execFenceRel {a : Src} {off : BitVec 12} (h : Safe M A s) : SafeOut M A (execFenceRel a off s) := h.fence

theorem Safe.execFenceFull {a : Src} {off : BitVec 12} (h : Safe M A s) : SafeOut M A (execFenceFull a off s) := h.fence

theorem Safe.emptyWay {w : Who} {b : Nat} (h : Safe M A s) : SafeFst M A (s.emptyWay w b) :=
  SafeFst.foldl h (fun _ ha _ => ha.fst.evictLine)

theorem Safe.changeMode {w : Who} {b : Nat} {m : BankMode} (h : Safe M A s) : Safe M A (s.changeMode w b m) := by
  unfold State.changeMode
  dsimp only
  refine ite_of h ?_
  exact ite_of (ite_of h.setCluster.emptyWay.fst.setCluster h.setCluster.emptyWay.fst.setCluster) h.setCluster

theorem Safe.execMode {bank : BitVec 5} {m : BankMode} (h : Safe M A s) : SafeOut M A (execMode bank m s) :=
  Safe.issue (fun _ => ite_of trivial (ite_of trivial (ite_of trivial h.changeMode.setMe))) h

theorem Safe.execModeComplete {clus bank : Nat} (h : Safe M A s) : SafeOut M A (execModeComplete clus bank s) := by
  unfold Machine.execModeComplete
  dsimp only
  refine h.event ?_
  split
  · exact ite_of (IfSome.some h.setCluster) IfSome.none
  · exact IfSome.none

theorem Safe.execGet {z : Size} {d : RegNo} {a : Src} (h : Safe M A s) : SafeOut M A (execGet z d a s) :=
  Safe.issue (fun _ => h.issueMem) h

theorem Safe.putTo {i : Instr} {z : Size} {ordered : Bool} {a b : Src} (h : Safe M A s) :
    SafeOut M A (putTo i z ordered a b s) :=
  Safe.issue (fun _ => h.issueMem) h

theorem Safe.execPut {z : Size} {a b : Src} (h : Safe M A s) : SafeOut M A (execPut z a b s) := h.putTo

theorem Safe.execPutf {z : Size} {a b : Src} (h : Safe M A s) : SafeOut M A (execPutf z a b s) := h.putTo

theorem Safe.delegate {i : Instr} {d : Option RegNo} {a b : Src} (h : Safe M A s) :
    SafeOut M A (delegate i d a b s) := by
  unfold Machine.delegate
  dsimp only
  refine Safe.issue (fun _ => ite_of trivial (ite_of trivial (ite_of trivial (Safe.releaseThen ?_)))) h
  split
  · exact h.setMe
  · exact h

theorem Safe.execDlg {d : RegNo} {a b : Src} (h : Safe M A s) : SafeOut M A (execDlg d a b s) := h.delegate

theorem Safe.execDlgn {a b : Src} (h : Safe M A s) : SafeOut M A (execDlgn a b s) := h.delegate

theorem Safe.redelegate {k : Nat} {e : Entry} {d : RegNo} (h : Safe M A s) :
    IfSome (Safe M A) (s.redelegate k e d) := by
  unfold State.redelegate
  dsimp only
  refine ite_of (IfSome.some h.setStrand) (ite_of IfSome.none (ite_of (IfSome.some h.emit.release.fst) ?_))
  split
  · exact IfSome.some h.emit.release.fst.setStrand.loseMsg
  · exact IfSome.some (Safe.upd h.emit.release.fst.setStrand)

theorem Safe.execDret {b : Src} (h : Safe M A s) : SafeOut M A (execDret b s) := by
  unfold Machine.execDret
  refine Safe.issue (fun _ => ite_of trivial (ite_of trivial ?_)) h
  split
  · exact h.releaseThen
  · exact h.emit.beginEdge

theorem Safe.execDlgReply {i : Nat} (h : Safe M A s) : SafeOut M A (execDlgReply i s) := by
  unfold Machine.execDlgReply
  dsimp only
  refine h.event ?_
  split
  · exact IfSome.none
  · refine ite_of IfSome.none ?_
    exact h.across (fun _ => IfSome.some (Safe.invalidate (Safe.onCtx h.upd))) (fun _ => IfSome.some (Safe.onCtx h.upd))

end Sys2Proof.Machine
end

section
/-! Every step keeps memory canonical and AGE legal: scalar and vector instructions. -/

namespace Sys2Proof.Machine

open Safety

variable {M A : Prop} {s : State}

theorem Safe.alu2 {i : Instr} {z : Size} {d : RegNo} {a b : Src} {f : Int → Int → Int} (h : Safe M A s) :
    SafeOut M A (alu2 i z d a b f s) :=
  h.issueReg

theorem Safe.alu1 {i : Instr} {z : Size} {d : RegNo} {a : Src} {f : Int → Int} (h : Safe M A s) :
    SafeOut M A (alu1 i z d a f s) :=
  h.issueReg

theorem Safe.aluBits {i : Instr} {z : Size} {d : RegNo} {a : Src} {f : Nat → Nat → Nat} (h : Safe M A s) :
    SafeOut M A (aluBits i z d a f s) :=
  h.issueReg

theorem Safe.aluCount {i : Instr} {z : Size} {d : RegNo} {a : Src} {f : Nat → Nat → Nat} (h : Safe M A s) :
    SafeOut M A (aluCount i z d a f s) :=
  h.issueReg

theorem Safe.aluShift {i : Instr} {z : Size} {d : RegNo} {a b : Src} {f : Nat → Int → Nat → Int} (h : Safe M A s) :
    SafeOut M A (aluShift i z d a b f s) :=
  h.issueReg

theorem Safe.aluCmp {i : Instr} {z : Size} {d : RegNo} {a b : Src} {f : Int → Int → Bool} (h : Safe M A s) :
    SafeOut M A (aluCmp i z d a b f s) :=
  h.issueReg

theorem Safe.execAdd {z : Size} {d : RegNo} {a b : Src} (h : Safe M A s) : SafeOut M A (execAdd z d a b s) := h.alu2

theorem Safe.execAdds {z : Size} {d : RegNo} {a b : Src} (h : Safe M A s) : SafeOut M A (execAdds z d a b s) := h.alu2

theorem Safe.execSub {z : Size} {d : RegNo} {a b : Src} (h : Safe M A s) : SafeOut M A (execSub z d a b s) := h.alu2

theorem Safe.execMul {z : Size} {d : RegNo} {a b : Src} (h : Safe M A s) : SafeOut M A (execMul z d a b s) := h.alu2

theorem Safe.execMulh {z : Size} {d : RegNo} {a b : Src} (h : Safe M A s) : SafeOut M A (execMulh z d a b s) := h.alu2

theorem Safe.execDiv {z : Size} {d : RegNo} {a b : Src} (h : Safe M A s) : SafeOut M A (execDiv z d a b s) := h.alu2

theorem Safe.execRem {z : Size} {d : RegNo} {a b : Src} (h : Safe M A s) : SafeOut M A (execRem z d a b s) := h.alu2

theorem Safe.execNeg {z : Size} {d : RegNo} {a : Src} (h : Safe M A s) : SafeOut M A (execNeg z d a s) := h.alu1

theorem Safe.execAnd {z : Size} {d : RegNo} {a b : Src} (h : Safe M A s) : SafeOut M A (execAnd z d a b s) := h.alu2

theorem Safe.execAndn {z : Size} {d : RegNo} {a b : Src} (h : Safe M A s) : SafeOut M A (execAndn z d a b s) := h.alu2

theorem Safe.execOr {z : Size} {d : RegNo} {a b : Src} (h : Safe M A s) : SafeOut M A (execOr z d a b s) := h.alu2

theorem Safe.execXor {z : Size} {d : RegNo} {a b : Src} (h : Safe M A s) : SafeOut M A (execXor z d a b s) := h.alu2

theorem Safe.execShl {z : Size} {d : RegNo} {a b : Src} (h : Safe M A s) : SafeOut M A (execShl z d a b s) := h.aluShift

theorem Safe.execShr {z : Size} {d : RegNo} {a b : Src} (h : Safe M A s) : SafeOut M A (execShr z d a b s) := h.aluShift

theorem Safe.execRot {z : Size} {d : RegNo} {a b : Src} (h : Safe M A s) : SafeOut M A (execRot z d a b s) := h.aluShift

theorem Safe.execClz {z : Size} {d : RegNo} {a : Src} (h : Safe M A s) : SafeOut M A (execClz z d a s) := h.aluCount

theorem Safe.execCtz {z : Size} {d : RegNo} {a : Src} (h : Safe M A s) : SafeOut M A (execCtz z d a s) := h.aluCount

theorem Safe.execPopc {z : Size} {d : RegNo} {a : Src} (h : Safe M A s) : SafeOut M A (execPopc z d a s) := h.aluCount

theorem Safe.execBrev {z : Size} {d : RegNo} {a : Src} (h : Safe M A s) : SafeOut M A (execBrev z d a s) := h.aluBits

theorem Safe.execMin {z : Size} {d : RegNo} {a b : Src} (h : Safe M A s) : SafeOut M A (execMin z d a b s) := h.alu2

theorem Safe.execMax {z : Size} {d : RegNo} {a b : Src} (h : Safe M A s) : SafeOut M A (execMax z d a b s) := h.alu2

theorem Safe.execSel {z : Size} {d : RegNo} {a b : Src} (h : Safe M A s) : SafeOut M A (execSel z d a b s) := h.issueReg

theorem Safe.execMov {z : Size} {d : RegNo} {a : Src} (h : Safe M A s) : SafeOut M A (execMov z d a s) := h.alu1

theorem Safe.execCmpEq {z : Size} {d : RegNo} {a b : Src} (h : Safe M A s) : SafeOut M A (execCmpEq z d a b s) :=
  h.aluCmp

theorem Safe.execCmpNe {z : Size} {d : RegNo} {a b : Src} (h : Safe M A s) : SafeOut M A (execCmpNe z d a b s) :=
  h.aluCmp

theorem Safe.execCmpLt {z : Size} {d : RegNo} {a b : Src} (h : Safe M A s) : SafeOut M A (execCmpLt z d a b s) :=
  h.aluCmp

theorem Safe.execCmpLe {z : Size} {d : RegNo} {a b : Src} (h : Safe M A s) : SafeOut M A (execCmpLe z d a b s) :=
  h.aluCmp

theorem Safe.execCmpGt {z : Size} {d : RegNo} {a b : Src} (h : Safe M A s) : SafeOut M A (execCmpGt z d a b s) :=
  h.aluCmp

theorem Safe.execCmpGe {z : Size} {d : RegNo} {a b : Src} (h : Safe M A s) : SafeOut M A (execCmpGe z d a b s) :=
  h.aluCmp

theorem Safe.aluImm {i : Instr} {d : RegNo} {a : Src} {f : Word → Word} (h : Safe M A s) :
    SafeOut M A (aluImm i d a f s) :=
  h.issueReg

theorem Safe.execAddi {d : RegNo} {a : Src} {e : BitVec 15} (h : Safe M A s) : SafeOut M A (execAddi d a e s) :=
  h.aluImm

theorem Safe.execAndi {d : RegNo} {a : Src} {e : BitVec 15} (h : Safe M A s) : SafeOut M A (execAndi d a e s) :=
  h.aluImm

theorem Safe.execOri {d : RegNo} {a : Src} {e : BitVec 15} (h : Safe M A s) : SafeOut M A (execOri d a e s) := h.aluImm

theorem Safe.execXori {d : RegNo} {a : Src} {e : BitVec 15} (h : Safe M A s) : SafeOut M A (execXori d a e s) :=
  h.aluImm

theorem Safe.execShli {d : RegNo} {a : Src} {n : BitVec 6} (h : Safe M A s) : SafeOut M A (execShli d a n s) := h.aluImm

theorem Safe.execShriN64 {d : RegNo} {a : Src} {n : BitVec 6} (h : Safe M A s) : SafeOut M A (execShriN64 d a n s) :=
  h.aluImm

theorem Safe.execShriS64 {d : RegNo} {a : Src} {n : BitVec 6} (h : Safe M A s) : SafeOut M A (execShriS64 d a n s) :=
  h.aluImm

theorem Safe.execCmpi {c : Cond} {unsigned : Bool} {d : RegNo} {a : Src} {e : BitVec 11} (h : Safe M A s) :
    SafeOut M A (execCmpi c unsigned d a e s) :=
  h.aluImm

theorem Safe.execExtr {signed : Bool} {d : RegNo} {a : Src} {lsb wm1 : BitVec 6} (h : Safe M A s) :
    SafeOut M A (execExtr signed d a lsb wm1 s) :=
  h.aluImm

theorem Safe.execInsr {d : RegNo} {a : Src} {lsb wm1 : BitVec 6} (h : Safe M A s) :
    SafeOut M A (execInsr d a lsb wm1 s) :=
  h.issueReg

theorem Safe.issueLit {i : Instr} {ops : List Opnd} {d : RegNo} {f : Strand → Word} (h : Safe M A s) :
    SafeOut M A (issueLit i ops d f s) :=
  Safe.issue (fun _ => h.setMe) h

theorem Safe.execLi {d : RegNo} {lit : BitVec 32} (h : Safe M A s) : SafeOut M A (execLi d lit s) := h.issueLit

theorem Safe.execLih {d : RegNo} {lit : BitVec 32} (h : Safe M A s) : SafeOut M A (execLih d lit s) := h.issueLit

theorem Safe.execLea {d : RegNo} {lit : BitVec 32} (h : Safe M A s) : SafeOut M A (execLea d lit s) := h.issueLit

theorem Safe.execWidf {d : RegNo} {k : BitVec 3} (h : Safe M A s) : SafeOut M A (execWidf d k s) := h.issueReg

theorem Safe.execRds {d : RegNo} {r : StateReg} (h : Safe M A s) : SafeOut M A (execRds d r s) :=
  Safe.issue (fun _ => ite_of trivial h.setMe) h

theorem Safe.execWrs {r : StateReg} {a : Src} (h : Safe M A s) : SafeOut M A (execWrs r a s) := by
  unfold Machine.execWrs
  dsimp only
  refine Safe.issue (fun _ => ite_of trivial ?_) h
  split
  · exact h.setMe
  · exact h.setMe
  · exact Safe.setCore h.setMe SafeCore.setAge
  · exact h.setMe

theorem Safe.float2 {i : Instr} {p : FTy} {rnd : Round} {d : RegNo} {a b : Src} {f : Fmt →
  REnv → FVal → FVal → FRes}
    (h : Safe M A s) : SafeOut M A (float2 i p rnd d a b f s) :=
  h.issueReg

theorem Safe.floatPlain {i : Instr} {p : FTy} {d : RegNo} {a b : Src} {f : Fmt → Nat → Nat → Nat × Flags}
    (h : Safe M A s) : SafeOut M A (floatPlain i p d a b f s) :=
  h.issueReg

theorem Safe.execFadd {p : FTy} {rnd : Round} {d : RegNo} {a b : Src} (h : Safe M A s) :
    SafeOut M A (execFadd p rnd d a b s) :=
  h.float2

theorem Safe.execFsub {p : FTy} {rnd : Round} {d : RegNo} {a b : Src} (h : Safe M A s) :
    SafeOut M A (execFsub p rnd d a b s) :=
  h.float2

theorem Safe.execFmul {p : FTy} {rnd : Round} {d : RegNo} {a b : Src} (h : Safe M A s) :
    SafeOut M A (execFmul p rnd d a b s) :=
  h.float2

theorem Safe.execFdiv {p : FTy} {rnd : Round} {d : RegNo} {a b : Src} (h : Safe M A s) :
    SafeOut M A (execFdiv p rnd d a b s) :=
  h.float2

theorem Safe.execFsqrt {p : FTy} {rnd : Round} {d : RegNo} {a : Src} (h : Safe M A s) :
    SafeOut M A (execFsqrt p rnd d a s) :=
  h.issueReg

theorem Safe.execFfma {p : FTy} {rnd : Round} {d : RegNo} {a b : Src} (h : Safe M A s) :
    SafeOut M A (execFfma p rnd d a b s) :=
  h.issueReg

theorem Safe.execFmin {p : FTy} {d : RegNo} {a b : Src} (h : Safe M A s) : SafeOut M A (execFmin p d a b s) :=
  h.floatPlain

theorem Safe.execFmax {p : FTy} {d : RegNo} {a b : Src} (h : Safe M A s) : SafeOut M A (execFmax p d a b s) :=
  h.floatPlain

theorem Safe.execFcmpEq {p : FTy} {d : RegNo} {a b : Src} (h : Safe M A s) : SafeOut M A (execFcmpEq p d a b s) :=
  h.floatPlain

theorem Safe.execFcmpLt {p : FTy} {d : RegNo} {a b : Src} (h : Safe M A s) : SafeOut M A (execFcmpLt p d a b s) :=
  h.floatPlain

theorem Safe.execFcmpLe {p : FTy} {d : RegNo} {a b : Src} (h : Safe M A s) : SafeOut M A (execFcmpLe p d a b s) :=
  h.floatPlain

theorem Safe.execFcmpUn {p : FTy} {d : RegNo} {a b : Src} (h : Safe M A s) : SafeOut M A (execFcmpUn p d a b s) :=
  h.floatPlain

theorem Safe.execFclass {p : FTy} {d : RegNo} {a : Src} (h : Safe M A s) : SafeOut M A (execFclass p d a s) :=
  h.issueReg

theorem Safe.execFcvt {src dst : NumTy} {rnd : Round} {sat : Bool} {d : RegNo} {a : Src} (h : Safe M A s) :
    SafeOut M A (execFcvt src dst rnd sat d a s) :=
  h.issueReg

theorem Safe.vecFloat {i : Instr} {p : VTy} {ops : List Opnd} {d : RegNo} {m : BitVec 3}
    {f : Strand → REnv → Nat → FRes} (h : Safe M A s) : SafeOut M A (vecFloat i p ops d m f s) :=
  h.issueReg

theorem Safe.vecFloat2 {i : Instr} {p : VTy} {d : RegNo} {a b : Src} {m : BitVec 3}
    {f : Fmt →
  REnv → FVal → FVal → FRes} (h : Safe M A s) : SafeOut M A (vecFloat2 i p d a b m f s) :=
  h.vecFloat

theorem Safe.vecFloat1 {i : Instr} {p : VTy} {d : RegNo} {a : Src} {m : BitVec 3} {f : REnv → Nat → FRes}
    (h : Safe M A s) : SafeOut M A (vecFloat1 i p d a m f s) :=
  h.vecFloat

theorem Safe.vecMinMax {i : Instr} {p : VTy} {big : Bool} {d : RegNo} {a b : Src} {m : BitVec 3} (h : Safe M A s) :
    SafeOut M A (vecMinMax i p big d a b m s) :=
  h.vecFloat

theorem Safe.execVadd {p : VTy} {d : RegNo} {a b : Src} {m : BitVec 3} (h : Safe M A s) :
    SafeOut M A (execVadd p d a b m s) :=
  h.vecFloat2

theorem Safe.execVsub {p : VTy} {d : RegNo} {a b : Src} {m : BitVec 3} (h : Safe M A s) :
    SafeOut M A (execVsub p d a b m s) :=
  h.vecFloat2

theorem Safe.execVmul {p : VTy} {d : RegNo} {a b : Src} {m : BitVec 3} (h : Safe M A s) :
    SafeOut M A (execVmul p d a b m s) :=
  h.vecFloat2

theorem Safe.execVdiv {p : VTy} {d : RegNo} {a b : Src} {m : BitVec 3} (h : Safe M A s) :
    SafeOut M A (execVdiv p d a b m s) :=
  h.vecFloat2

theorem Safe.execVmin {p : VTy} {d : RegNo} {a b : Src} {m : BitVec 3} (h : Safe M A s) :
    SafeOut M A (execVmin p d a b m s) :=
  h.vecMinMax

theorem Safe.execVmax {p : VTy} {d : RegNo} {a b : Src} {m : BitVec 3} (h : Safe M A s) :
    SafeOut M A (execVmax p d a b m s) :=
  h.vecMinMax

theorem Safe.execVabs {p : VTy} {d : RegNo} {a : Src} {m : BitVec 3} (h : Safe M A s) :
    SafeOut M A (execVabs p d a m s) :=
  h.vecFloat1

theorem Safe.execVneg {p : VTy} {d : RegNo} {a : Src} {m : BitVec 3} (h : Safe M A s) :
    SafeOut M A (execVneg p d a m s) :=
  h.vecFloat1

theorem Safe.execVsqrt {p : VTy} {d : RegNo} {a : Src} {m : BitVec 3} (h : Safe M A s) :
    SafeOut M A (execVsqrt p d a m s) :=
  h.vecFloat1

theorem Safe.execVrcp {p : VTy} {d : RegNo} {a : Src} {m : BitVec 3} (h : Safe M A s) :
    SafeOut M A (execVrcp p d a m s) :=
  h.vecFloat1

theorem Safe.execVrsq {p : VTy} {d : RegNo} {a : Src} {m : BitVec 3} (h : Safe M A s) :
    SafeOut M A (execVrsq p d a m s) :=
  h.vecFloat1

theorem Safe.execVexp2 {p : VTy} {d : RegNo} {a : Src} {m : BitVec 3} (h : Safe M A s) :
    SafeOut M A (execVexp2 p d a m s) :=
  h.vecFloat1

theorem Safe.execVlog2 {p : VTy} {d : RegNo} {a : Src} {m : BitVec 3} (h : Safe M A s) :
    SafeOut M A (execVlog2 p d a m s) :=
  h.vecFloat1

theorem Safe.vecReduce {i : Instr} {p : VTy} {d : RegNo} {a : Src} {m : BitVec 3} {off : Nat}
    {f : Round → BitVec 32 → Nat → Nat → FRes} (h : Safe M A s) : SafeOut M A (vecReduce i p d a m off f s) :=
  h.issueReg

theorem Safe.execVsum {p : VTy} {d : RegNo} {a : Src} {m : BitVec 3} (h : Safe M A s) :
    SafeOut M A (execVsum p d a m s) :=
  h.vecReduce

theorem Safe.execVrmax {p : VTy} {d : RegNo} {a : Src} {m : BitVec 3} (h : Safe M A s) :
    SafeOut M A (execVrmax p d a m s) :=
  h.vecReduce

theorem Safe.execVrmin {p : VTy} {d : RegNo} {a : Src} {m : BitVec 3} (h : Safe M A s) :
    SafeOut M A (execVrmin p d a m s) :=
  h.vecReduce

theorem Safe.vecInt2 {i : Instr} {w : Nat} {d : RegNo} {a b : Src} {m : BitVec 3} {f : Nat → Nat → Int} (h : Safe M A s) :
    SafeOut M A (vecInt2 i w d a b m f s) :=
  h.issueReg

theorem Safe.execVaddInt {w : Width} {d : RegNo} {a b : Src} {m : BitVec 3} (h : Safe M A s) :
    SafeOut M A (execVaddInt w d a b m s) :=
  h.vecInt2

theorem Safe.execVsubInt {w : Width} {d : RegNo} {a b : Src} {m : BitVec 3} (h : Safe M A s) :
    SafeOut M A (execVsubInt w d a b m s) :=
  h.vecInt2

theorem Safe.execVmulInt {w : Width} {d : RegNo} {a b : Src} {m : BitVec 3} (h : Safe M A s) :
    SafeOut M A (execVmulInt w d a b m s) :=
  h.vecInt2

theorem Safe.execVminS {w : Width} {d : RegNo} {a b : Src} {m : BitVec 3} (h : Safe M A s) :
    SafeOut M A (execVminS w d a b m s) :=
  h.vecInt2

theorem Safe.execVminN {w : Width} {d : RegNo} {a b : Src} {m : BitVec 3} (h : Safe M A s) :
    SafeOut M A (execVminN w d a b m s) :=
  h.vecInt2

theorem Safe.execVmaxS {w : Width} {d : RegNo} {a b : Src} {m : BitVec 3} (h : Safe M A s) :
    SafeOut M A (execVmaxS w d a b m s) :=
  h.vecInt2

theorem Safe.execVmaxN {w : Width} {d : RegNo} {a b : Src} {m : BitVec 3} (h : Safe M A s) :
    SafeOut M A (execVmaxN w d a b m s) :=
  h.vecInt2

theorem Safe.execVshl {w : Width} {d : RegNo} {a b : Src} {m : BitVec 3} (h : Safe M A s) :
    SafeOut M A (execVshl w d a b m s) :=
  h.vecInt2

theorem Safe.execVshrS {w : Width} {d : RegNo} {a b : Src} {m : BitVec 3} (h : Safe M A s) :
    SafeOut M A (execVshrS w d a b m s) :=
  h.vecInt2

theorem Safe.execVshrN {w : Width} {d : RegNo} {a b : Src} {m : BitVec 3} (h : Safe M A s) :
    SafeOut M A (execVshrN w d a b m s) :=
  h.vecInt2

theorem Safe.execVnegInt {w : Width} {d : RegNo} {a : Src} {m : BitVec 3} (h : Safe M A s) :
    SafeOut M A (execVnegInt w d a m s) :=
  h.issueReg

theorem Safe.execVimad {w : Width} {d : RegNo} {a b : Src} {m : BitVec 3} (h : Safe M A s) :
    SafeOut M A (execVimad w d a b m s) :=
  h.issueReg

theorem Safe.execVsumInt {w : Width} {d : RegNo} {a : Src} {m : BitVec 3} (h : Safe M A s) :
    SafeOut M A (execVsumInt w d a m s) :=
  h.issueReg

theorem Safe.vecCmpInt {i : Instr} {w : Nat} {k : BitVec 3} {a b : Src} {m : BitVec 3} {f : Nat → Nat → Bool}
    (h : Safe M A s) : SafeOut M A (vecCmpInt i w k a b m f s) :=
  h.issueReg

theorem Safe.execVcmpEqInt {w : Width} {k : BitVec 3} {a b : Src} {m : BitVec 3} (h : Safe M A s) :
    SafeOut M A (execVcmpEqInt w k a b m s) :=
  h.vecCmpInt

theorem Safe.execVcmpLtS {w : Width} {k : BitVec 3} {a b : Src} {m : BitVec 3} (h : Safe M A s) :
    SafeOut M A (execVcmpLtS w k a b m s) :=
  h.vecCmpInt

theorem Safe.execVcmpLtN {w : Width} {k : BitVec 3} {a b : Src} {m : BitVec 3} (h : Safe M A s) :
    SafeOut M A (execVcmpLtN w k a b m s) :=
  h.vecCmpInt

theorem Safe.execVcmp {p : VTy} {c : VCond} {k : BitVec 3} {a b : Src} {m : BitVec 3} (h : Safe M A s) :
    SafeOut M A (execVcmp p c k a b m s) :=
  h.issueReg

theorem Safe.vecBits {i : Instr} {ops : List Opnd} {d : RegNo} {m : BitVec 3} {f : Strand → Vec} (h : Safe M A s) :
    SafeOut M A (vecBits i ops d m f s) :=
  h.issueReg

theorem Safe.execVand {d : RegNo} {a b : Src} {m : BitVec 3} (h : Safe M A s) : SafeOut M A (execVand d a b m s) :=
  h.vecBits

theorem Safe.execVor {d : RegNo} {a b : Src} {m : BitVec 3} (h : Safe M A s) : SafeOut M A (execVor d a b m s) :=
  h.vecBits

theorem Safe.execVxor {d : RegNo} {a b : Src} {m : BitVec 3} (h : Safe M A s) : SafeOut M A (execVxor d a b m s) :=
  h.vecBits

theorem Safe.execVnot {d : RegNo} {a : Src} {m : BitVec 3} (h : Safe M A s) : SafeOut M A (execVnot d a m s) :=
  h.vecBits

theorem Safe.execVmov {d : RegNo} {a : Src} {m : BitVec 3} (h : Safe M A s) : SafeOut M A (execVmov d a m s) :=
  h.vecBits

theorem Safe.execVsel {d : RegNo} {a b : Src} {m : BitVec 3} (h : Safe M A s) : SafeOut M A (execVsel d a b m s) :=
  h.issueReg

theorem Safe.execMand {k i j : BitVec 3} (h : Safe M A s) : SafeOut M A (execMand k i j s) := h.issueReg

theorem Safe.execMor {k i j : BitVec 3} (h : Safe M A s) : SafeOut M A (execMor k i j s) := h.issueReg

theorem Safe.execMxor {k i j : BitVec 3} (h : Safe M A s) : SafeOut M A (execMxor k i j s) := h.issueReg

theorem Safe.execMnot {k i : BitVec 3} (h : Safe M A s) : SafeOut M A (execMnot k i s) := h.issueReg

theorem Safe.execMpop {d : RegNo} {i : BitVec 3} (h : Safe M A s) : SafeOut M A (execMpop d i s) := h.issueReg

theorem Safe.execMfirst {d : RegNo} {i : BitVec 3} (h : Safe M A s) : SafeOut M A (execMfirst d i s) := h.issueReg

theorem Safe.execMset {k : BitVec 3} {a : Src} (h : Safe M A s) : SafeOut M A (execMset k a s) := h.issueReg

theorem Safe.execMmovx {d : RegNo} {i : BitVec 3} (h : Safe M A s) : SafeOut M A (execMmovx d i s) := h.issueReg

theorem Safe.execVperm {w : Width} {d : RegNo} {a b : Src} {m : BitVec 3} (h : Safe M A s) :
    SafeOut M A (execVperm w d a b m s) :=
  h.issueReg

theorem Safe.execVshuf {w : Width} {d : RegNo} {a b : Src} {m : BitVec 3} (h : Safe M A s) :
    SafeOut M A (execVshuf w d a b m s) :=
  h.issueReg

theorem Safe.execVbcast {w : Width} {d : RegNo} {a : Src} {m : BitVec 3} (h : Safe M A s) :
    SafeOut M A (execVbcast w d a m s) :=
  h.issueReg

theorem Safe.execViota {w : Width} {d : RegNo} {m : BitVec 3} (h : Safe M A s) : SafeOut M A (execViota w d m s) :=
  h.issueReg

theorem Safe.execVcmpr {w : Width} {d : RegNo} {a : Src} {m : BitVec 3} (h : Safe M A s) :
    SafeOut M A (execVcmpr w d a m s) :=
  h.issueReg

theorem Safe.execVexpd {w : Width} {d : RegNo} {a : Src} {m : BitVec 3} (h : Safe M A s) :
    SafeOut M A (execVexpd w d a m s) :=
  h.issueReg

theorem Safe.execVins {w : Width} {d : RegNo} {a b : Src} {m : BitVec 3} (h : Safe M A s) :
    SafeOut M A (execVins w d a b m s) :=
  h.issueReg

theorem Safe.execVext {w : Width} {d : RegNo} {a b : Src} (h : Safe M A s) : SafeOut M A (execVext w d a b s) :=
  h.issueReg

theorem Safe.execVcvt {src dst : Elem} {sat : Bool} {d : RegNo} {a : Src} {m : BitVec 3} (h : Safe M A s) :
    SafeOut M A (execVcvt src dst sat d a m s) :=
  h.issueReg

theorem Safe.execVscale {n : Narrow} {e4m3 : Bool} {d : RegNo} {a : Src} {m : BitVec 3} (h : Safe M A s) :
    SafeOut M A (execVscale n e4m3 d a m s) :=
  h.issueReg

theorem Safe.execVqnt {n : Narrow} {d : RegNo} {a b : Src} {m : BitVec 3} (h : Safe M A s) :
    SafeOut M A (execVqnt n d a b m s) :=
  h.issueReg

theorem Safe.execVdqnt {n : Narrow} {d : RegNo} {a b : Src} {m : BitVec 3} (h : Safe M A s) :
    SafeOut M A (execVdqnt n d a b m s) :=
  h.issueReg

theorem Safe.vecFma {i : Instr} {p : VTy} {sub : Bool} {d a b c : RegNo} {m : BitVec 2} {rnd : Round} (h : Safe M A s) :
    SafeOut M A (vecFma i p sub d a b c m rnd s) :=
  h.issueReg

theorem Safe.execVfmaF32F64 {wide : Bool} {d a b c : RegNo} {m : BitVec 2} {rnd : Round} (h : Safe M A s) :
    SafeOut M A (execVfmaF32F64 wide d a b c m rnd s) :=
  h.vecFma

theorem Safe.execVfmaBf16F16 {wide : Bool} {d a b c : RegNo} {m : BitVec 2} {rnd : Round} (h : Safe M A s) :
    SafeOut M A (execVfmaBf16F16 wide d a b c m rnd s) :=
  h.vecFma

theorem Safe.execVfmsF32F64 {wide : Bool} {d a b c : RegNo} {m : BitVec 2} {rnd : Round} (h : Safe M A s) :
    SafeOut M A (execVfmsF32F64 wide d a b c m rnd s) :=
  h.vecFma

theorem Safe.execVfmsBf16F16 {wide : Bool} {d a b c : RegNo} {m : BitVec 2} {rnd : Round} (h : Safe M A s) :
    SafeOut M A (execVfmsBf16F16 wide d a b c m rnd s) :=
  h.vecFma

end Sys2Proof.Machine
end

section
/-! Every step keeps memory canonical and AGE legal: engines and control flow. -/

namespace Sys2Proof.Machine

open Safety

variable {M A : Prop} {s : State}

theorem Safe.patchFetches {kn l : Nat} {d : Line} {m : ByteMask} {poisoned : Bool} (h : Safe M A s) :
    Safe M A (s.patchFetches kn l d m poisoned) :=
  ite_of h.setCluster h

theorem Safe.engWriteHome {w : Who} {va : Word} {pa v n : Nat} {poisoned : Bool} (h : Safe M A s) :
    Safe M A (s.engWriteHome w va pa v n poisoned) :=
  Safe.patchFetches (ite_of h.fresh.addLive.performWrite.poisonLine h.fresh.addLive.performWrite)

theorem Safe.engReadHome {core func : Nat} {va : Word} {pa n : Nat} (h : Safe M A s) :
    SafeEng M A (s.engReadHome core func va pa n) :=
  ite_of trivial h.homeRead.fst

theorem Safe.engReadCache {w : Who} {p : Place} {va : Word} {n : Nat} (h : Safe M A s) :
    SafeEng M A (s.engReadCache w p va n) := by
  unfold State.engReadCache
  dsimp only
  refine ite_of h.engReadHome (ite_of trivial ?_)
  split
  · exact ite_of h.evictLine (ite_of h (ite_of trivial (ite_of h.homeRead.fst h.homeRead.fst.install.fst)))
  · exact ite_of trivial (ite_of h.homeRead.fst h.homeRead.fst.install.fst)

theorem Safe.engWrite {w : Who} {pa : Nat} {va : Word} {v n : Nat} {poisoned : Bool} (h : Safe M A s) :
    SafeEng M A (s.engWrite w pa va v n poisoned) :=
  ite_of h.evictLine (ite_of trivial h.engWriteHome)

theorem Safe.engReadAll {f : State → Nat → Nat → EngRes (Nat × Bool)} {l : List (Nat × Nat)} (h : Safe M A s)
    (hf : ∀ t, Safe M A t → ∀ a n, SafeEng M A (f t a n)) : SafeEng M A (s.engReadAll f l) := by
  induction l generalizing s with
  | nil => exact h
  | cons p r ih =>
    have hp := hf s h p.1 p.2
    unfold State.engReadAll
    split
    next t v e =>
      have ht := ih (hp.of_done e)
      split
      next u w e' => exact ht.of_done e'
      next u e' => exact ht.of_first e'
      · trivial
    next t e => exact hp.of_first e
    · trivial

theorem Safe.engWriteAll {f : State → Nat → Nat → Nat → EngRes Unit} {v : Nat} {l : List (Nat × Nat)} (h : Safe M A s)
    (hf : ∀ t, Safe M A t → ∀ a v n, SafeEng M A (f t a v n)) : SafeEng M A (s.engWriteAll f v l) := by
  induction l generalizing v with
  | nil => exact h
  | cons p r ih =>
    unfold State.engWriteAll
    split
    next t u e => exact hf t (ih.of_done e) ..
    · exact ih

theorem Safe.writeRecord {clus core ring r : Nat} (h : Safe M A s) : SafeEng M A (s.writeRecord clus core ring r) := by
  unfold State.writeRecord
  dsimp only
  split
  · exact h
  · refine ite_of trivial ?_
    split
    · exact trivial
    · split
      next s1 v e =>
        have ht := h.engWrite.of_done e
        exact ite_of ht.setCluster.sendAct ht.setCluster
      · exact h.engWrite

theorem Safe.execCring {a b : Src} (h : Safe M A s) : SafeOut M A (execCring a b s) := by
  unfold Machine.execCring
  dsimp only
  refine Safe.issue (fun _ => ite_of trivial (ite_of h.setCluster.setMe (ite_of trivial (ite_of trivial ?_)))) h
  split
  · exact trivial
  · exact trivial
  · split
    · exact trivial
    · exact ite_of trivial h.setCluster.setMe

theorem Safe.fork {e : Engine} {b : BoardEntry} {others : List Nat} (h : Safe M A s) : Safe M A (s.fork e b others) :=
  Safe.upd (h.setCluster.foldl (fun _ ht _ => ht.setCluster))

theorem Safe.execCpy {d : RegNo} {a b : Src} {e : RegNo} (h : Safe M A s) : SafeOut M A (execCpy d a b e s) := by
  unfold Machine.execCpy
  dsimp only
  refine Safe.issue (fun _ => ?_) h
  split
  · exact trivial
  · refine ite_of trivial ?_
    split
    · exact trivial
    · exact trivial
    · exact ite_of trivial h.fork.setMe

theorem Safe.execCstg {a : Src} (h : Safe M A s) : SafeOut M A (execCstg a s) :=
  Safe.issue (fun _ => ite_of trivial (ite_of trivial h.setCluster.setMe)) h

theorem Safe.execScheduleEntryStart {clus : Nat} (h : Safe M A s) : SafeOut M A (execScheduleEntryStart clus s) := by
  unfold Machine.execScheduleEntryStart
  dsimp only
  refine h.event ?_
  split
  · exact IfSome.none
  · refine ite_of IfSome.none ?_
    split
    · exact IfSome.none
    · refine ite_of IfSome.none (ite_of (IfSome.some (Safe.upd h.setCluster)) (ite_of IfSome.none ?_))
      split
      · exact IfSome.none
      · exact IfSome.some (Safe.upd h.setCluster)
      · exact IfSome.some h.setCluster.fork

theorem Safe.nearIssue {i : Instr} {kind : Nat} {a b : Src} {e : RegNo} (h : Safe M A s) :
    SafeOut M A (nearIssue i kind a b e s) := by
  unfold Machine.nearIssue
  dsimp only
  refine Safe.issue (fun _ => ?_) h
  split
  · exact trivial
  · exact trivial
  · refine ite_of trivial ?_
    split
    · exact trivial
    · refine ite_of trivial ?_
      split
      · exact trivial
      · refine ite_of trivial ?_
        split
        · exact trivial
        · exact trivial
        · exact ite_of trivial h.fork.setMe

theorem Safe.execNmg {a b : Src} {e : RegNo} (h : Safe M A s) : SafeOut M A (execNmg a b e s) := h.nearIssue

theorem Safe.execNmr {a b : Src} {e : RegNo} (h : Safe M A s) : SafeOut M A (execNmr a b e s) := h.nearIssue

theorem Safe.execNmc {a b : Src} {e : RegNo} (h : Safe M A s) : SafeOut M A (execNmc a b e s) := h.nearIssue

theorem Safe.setEngine {e : Engine} (h : Safe M A s) : Safe M A (s.setEngine e) := h.upd

theorem Safe.execNearMemoryExec {id : Nat} (h : Safe M A s) : SafeOut M A (execNearMemoryExec id s) := by
  unfold Machine.execNearMemoryExec
  dsimp only
  refine h.event ?_
  split
  · exact IfSome.none
  · split
    · exact IfSome.none
    · exact ite_of IfSome.none (ite_of (IfSome.some h.setEngine) (IfSome.some h.setEngine))

theorem Safe.engRead {e : Engine} {copy : Bool} {l : List (Nat × Nat)} (h : Safe M A s) :
    SafeEng M A (s.engRead e copy l) := by
  unfold State.engRead
  dsimp only
  refine h.engReadAll fun _ ht _ _ => ?_
  split
  · exact trivial
  · exact ite_of ht.engReadCache ht.engReadHome

theorem Safe.engStore {e : Engine} {v : Nat} {bad : Bool} {l : List (Nat × Nat)} (h : Safe M A s) :
    SafeEng M A (s.engStore e v bad l) := by
  unfold State.engStore
  dsimp only
  refine h.engWriteAll fun _ ht _ _ _ => ?_
  split
  · exact trivial
  · exact ht.engWrite

theorem Safe.castWrite {e : Engine} {g : Geometry} {b at' v : Nat} {bad : Bool} (h : Safe M A s) :
    SafeFst M A (s.castWrite e g b at' v bad) :=
  SafeFst.foldl h (fun _ ha _ => ite_of ha.fst ha.fst.setCluster)

theorem Safe.copyAccess {e : Engine} {g : Geometry} {i : Nat} {a : EngAcc} (h : Safe M A s) :
    SafeEng M A (s.copyAccess e g i a) := by
  unfold State.copyAccess
  dsimp only
  split
  · split
    next s1 v e1 => exact h.engRead.of_done e1
    next s1 e1 => exact h.engRead.of_first e1
    · exact trivial
  · split
    · exact ite_of trivial h
    · split
      next s1 v e1 => exact h.engRead.of_done e1
      next s1 e1 => exact h.engRead.of_first e1
      · exact trivial
  · split
    · exact ite_of trivial h.castWrite.fst
    · split
      next s1 v1 e1 => exact h.engStore.of_done e1
      next s1 e1 => exact h.engStore.of_first e1
      · exact trivial
  · split
    · exact h
    · exact ite_of trivial h.setCluster

theorem Safe.nearAccess {e : Engine} {n : Near} {i : Nat} {a : EngAcc} (h : Safe M A s) :
    SafeEng M A (s.nearAccess e n i a) := by
  unfold State.nearAccess
  dsimp only
  split
  · refine ite_of ?_ ?_
    · split
      next s1 v e1 => exact h.engRead.of_done e1
      next s1 e1 => exact h.engRead.of_first e1
      · exact trivial
    · split
      next s1 v e1 =>
        have ht := h.engRead.of_done e1
        exact ite_of ht ht
      next s1 e1 => exact h.engRead.of_first e1
      · exact trivial
  · split
    next s1 old e1 =>
      have ht := h.engRead.of_done e1
      split
      next s2 v1 e2 => exact (Safe.engStore (ite_of h ht)).of_done e2
      next s2 e2 => exact (Safe.engStore (ite_of h ht)).of_first e2
      · exact trivial
    next s1 e1 => exact h.engRead.of_first e1
    · exact trivial
  · exact h

theorem Safe.finishEngine {e : Engine} (h : Safe M A s) : IfSome (Safe M A) (s.finishEngine e) := by
  unfold State.finishEngine
  dsimp only
  refine ite_of IfSome.none ?_
  have hr : SafeEng M A (match e.ring with
      | some g => s.writeRecord e.clus e.core g
          (recordBits (lowestCode e.codes) e.kind e.tag e.bytes e.aux e.aux2 (s.die (coreDie e.core)).ptc)
      | none => .done s ()) := by
    split
    · exact h.writeRecord
    · exact h
  split
  · exact IfSome.none
  next t e => exact IfSome.some (hr.of_first e)
  next t v e =>
    have ht := hr.of_done e
    refine IfSome.some (Safe.upd ?_)
    split
    · exact ht.onCtx
    · exact ht

theorem Safe.engStep {e : Engine} {i : Nat} (h : Safe M A s) : IfSome (Safe M A) (s.engStep e i) := by
  unfold State.engStep
  dsimp only
  split
  · exact h.finishEngine
  next a _ =>
    have hr : SafeEng M A (match e.job with
        | .copy g => s.copyAccess e g i a
        | .near n => s.nearAccess e n i a) := by
      split
      · exact h.copyAccess
      · exact h.nearAccess
    split
    · exact IfSome.none
    next t e => exact IfSome.some (hr.of_first e)
    next t f e =>
      have ht := hr.of_done e
      exact IfSome.some (Safe.sweep (IfSome.getD ht.setEngine.finishEngine ht.setEngine))

theorem Safe.execBr {j : BitVec 26} (h : Safe M A s) : SafeOut M A (execBr j s) := Safe.issue (fun _ => h.setMe) h

theorem Safe.pushReturn {hdr : Word} (h : Safe M A s) : Safe M A (s.pushReturn hdr) := h.updCore

theorem Safe.popReturn (h : Safe M A s) : Safe M A s.popReturn := h.updCore

theorem Safe.execCall {j : BitVec 26} (h : Safe M A s) : SafeOut M A (execCall j s) :=
  Safe.issue (fun _ => h.pushReturn.setMe) h

theorem Safe.execBrc {c : BrCond} {a b : RegNo} {j : BitVec 12} (h : Safe M A s) : SafeOut M A (execBrc c a b j s) :=
  Safe.issue (fun _ => h.setMe) h

theorem Safe.execLoopn {a : RegNo} {j : BitVec 12} (h : Safe M A s) : SafeOut M A (execLoopn a j s) :=
  Safe.issue (fun _ => h.setMe) h

theorem Safe.toRegister {v : Word} {f : Unit → Res} (hf : ∀ a, SafeRes M A (f a)) : SafeRes M A (toRegister v f) :=
  ite_of (hf _) trivial

theorem Safe.execBri {a : Src} (h : Safe M A s) : SafeOut M A (execBri a s) :=
  Safe.issue (fun _ => Safe.toRegister (fun _ => h.setMe)) h

theorem Safe.execCalli {a : Src} (h : Safe M A s) : SafeOut M A (execCalli a s) :=
  Safe.issue (fun _ => Safe.toRegister (fun _ => h.pushReturn.setMe)) h

theorem Safe.execRet {a : Src} (h : Safe M A s) : SafeOut M A (execRet a s) :=
  Safe.issue (fun _ => Safe.toRegister (fun _ => h.popReturn.setMe)) h

theorem Safe.execNop (h : Safe M A s) : SafeOut M A (execNop s) := h.issueReg

theorem Safe.execVif {k : BitVec 3} (h : Safe M A s) : SafeOut M A (execVif k s) := by
  unfold Machine.execVif
  dsimp only
  refine Safe.issue (fun _ => ite_of trivial ?_) h
  split
  · exact trivial
  · exact trivial
  · exact trivial
  next s' v e => exact ite_of trivial (ite_of trivial (h.code.of_eq e).setMe)

theorem Safe.execVelse (h : Safe M A s) : SafeOut M A (execVelse s) := by
  unfold Machine.execVelse
  refine Safe.issue (fun _ => ?_) h
  split
  · exact trivial
  · exact h.setMe

theorem Safe.execVend (h : Safe M A s) : SafeOut M A (execVend s) := by
  unfold Machine.execVend
  refine Safe.issue (fun _ => ?_) h
  split
  · exact trivial
  · exact h.setMe

end Sys2Proof.Machine
end

section
/-! Every step keeps memory canonical and AGE legal: tasks and messages. -/

namespace Sys2Proof.Machine

open Safety

variable {M A : Prop} {s : State}

theorem Safe.allocFrame {t : Strand} {d : RegNo} {size : Nat} (h : Safe M A s) :
    SafeRes M A (s.allocFrame t d size) := by
  unfold State.allocFrame
  dsimp only
  split
  · split
    next s1 e => exact (h.setCtr.takeRoom.writeFields _ e).setMe
    · exact trivial
  · exact trivial

theorem Safe.freeFrame {t : Strand} {d : RegNo} {f : Word} (h : Safe M A s) : SafeRes M A (s.freeFrame t d f) :=
  ite_of trivial (ite_of trivial (ite_of trivial h.setCtr.setClusterOf.placeWaiting.setMe))

theorem Safe.execJctr {d : RegNo} {a : Src} (h : Safe M A s) : SafeOut M A (execJctr d a s) :=
  Safe.issue (fun _ => ite_of trivial (ite_of h.freeFrame (ite_of h.allocFrame trivial))) h

theorem Safe.contHeader {t : Strand} {f : State → Word → Res} (h : Safe M A s)
    (hf : ∀ t, Safe M A t → ∀ a, SafeRes M A (f t a)) : SafeRes M A (s.contHeader t f) := by
  unfold State.contHeader
  refine ite_of (hf _ h _) ?_
  split
  · exact trivial
  · exact trivial
  · exact trivial
  next s1 v e => exact hf _ (h.code.of_eq e) _

theorem Safe.publishable {t : Strand} {h1 : Word} {size : Nat} {f : Unit → Res} (hf : ∀ a, SafeRes M A (f a)) :
    SafeRes M A (publishable t h1 size f) := by
  unfold Machine.publishable
  split
  · exact trivial
  · exact trivial
  · exact ite_of trivial (hf _)

theorem Safe.execPubf {a : Src} (h : Safe M A s) : SafeOut M A (execPubf a s) := by
  unfold Machine.execPubf
  dsimp only
  refine Safe.issue (fun _ => ite_of trivial (ite_of trivial (ite_of trivial (ite_of trivial (h.contHeader (fun _ ht _
    => ?_)))))) h
  split
  · exact trivial
  · refine Safe.publishable fun _ => ?_
    split
    next s2 e => exact (ht.writeFields _ e).setMe
    · exact trivial

theorem Safe.execPubt {a : Src} (h : Safe M A s) : SafeOut M A (execPubt a s) :=
  Safe.issue (fun _ => ite_of trivial h.setMe) h

theorem Safe.execSpawn {a : Src} {lit : BitVec 32} (h : Safe M A s) : SafeOut M A (execSpawn a lit s) := by
  unfold Machine.execSpawn
  dsimp only
  refine Safe.issue (fun _ => ite_of trivial (ite_of trivial (ite_of trivial (ite_of trivial (ite_of trivial ?_))))) h
  split
  · exact trivial
  · exact Safe.setMe (Safe.setCore h.setCtr (SafeCore.upd h.core))

theorem Safe.execBind {k : BitVec 4} {a : Src} (h : Safe M A s) : SafeOut M A (execBind k a s) :=
  Safe.issue (fun _ => ite_of trivial h.setMe) h

theorem Safe.execUnbind {k : BitVec 4} (h : Safe M A s) : SafeOut M A (execUnbind k s) := h.issueReg

theorem Safe.execRetire (h : Safe M A s) : SafeOut M A (execRetire s) := by
  unfold Machine.execRetire
  dsimp only
  refine Safe.issue (fun _ => ite_of trivial (ite_of trivial ?_)) h
  split
  · exact h.boundRelease
  · exact h.releaseThen
  · exact h.emit.beginEdge

theorem Safe.execSync {a : Src} (h : Safe M A s) : SafeOut M A (execSync a s) := by
  unfold Machine.execSync
  dsimp only
  refine Safe.issue (fun _ => ite_of trivial (ite_of trivial (ite_of trivial (ite_of trivial (h.contHeader (fun _ ht _
    => ?_)))))) h
  split
  · exact trivial
  · exact ite_of trivial (Safe.publishable (fun _ => ht.setCtr.setMe))

theorem Safe.execBari {a b : Src} (h : Safe M A s) : SafeOut M A (execBari a b s) := by
  unfold Machine.execBari
  dsimp only
  refine Safe.issue (fun _ => ite_of trivial (ite_of trivial ?_)) h
  exact Safe.setMe (ite_of (Safe.completeBarrier (h.setCoreOf (SafeCore.upd h.coreOf))) (h.setCoreOf (SafeCore.upd
    h.coreOf)))

theorem Safe.execBar {a : Src} (h : Safe M A s) : SafeOut M A (execBar a s) := by
  unfold Machine.execBar
  dsimp only
  refine Safe.issue (fun _ => ite_of trivial (ite_of trivial ?_)) h
  split
  · exact trivial
  · split
    · exact trivial
    · exact ite_of trivial (ite_of trivial h.releaseThen)

theorem Safe.execBarq {d : RegNo} {a : Src} (h : Safe M A s) : SafeOut M A (execBarq d a s) :=
  Safe.issue (fun _ => ite_of trivial (ite_of (ite_of trivial trivial) h.setMe)) h

theorem Safe.execTenq {a b : Src} (h : Safe M A s) : SafeOut M A (execTenq a b s) :=
  Safe.issue (fun _ => ite_of trivial (ite_of trivial h.releaseThen)) h

theorem Safe.execTrec {d : RegNo} {a b : Src} (h : Safe M A s) : SafeOut M A (execTrec d a b s) := by
  unfold Machine.execTrec
  dsimp only
  refine Safe.issue (fun _ => ite_of trivial ?_) h
  split
  · exact ite_of trivial trivial
  · exact ite_of trivial (ite_of trivial h.releaseThen)

theorem Safe.message {i : Instr} {a : Src} {src : Opnd} {type : BitVec 8} {words : Strand → List Word}
    {payload : Strand → Vec} (h : Safe M A s) : SafeOut M A (message i a src type words payload s) :=
  Safe.issue (fun _ => ite_of trivial (ite_of trivial h.releaseThen)) h

theorem Safe.execMsg {a : Src} {payload : RegNo} {type : BitVec 8} (h : Safe M A s) :
    SafeOut M A (execMsg a payload type s) :=
  h.message

theorem Safe.execMsgv {a : Src} {payload : RegNo} {type : BitVec 8} (h : Safe M A s) :
    SafeOut M A (execMsgv a payload type s) :=
  h.message

theorem Safe.execDonate {a b : Src} (h : Safe M A s) : SafeOut M A (execDonate a b s) :=
  Safe.issue (fun _ => ite_of trivial (ite_of trivial h.issueMem)) h

theorem Safe.execFpush {bank : BitVec 5} {b : Src} (h : Safe M A s) : SafeOut M A (execFpush bank b s) := by
  unfold Machine.execFpush
  dsimp only
  refine Safe.issue (fun _ => ite_of trivial (ite_of trivial ?_)) h
  split
  · exact ite_of trivial h.setCluster.setMe
  · exact h.setCluster.setMe

theorem Safe.execFpop {d : RegNo} {bank : BitVec 5} (h : Safe M A s) : SafeOut M A (execFpop d bank s) := by
  unfold Machine.execFpop
  dsimp only
  refine Safe.issue (fun _ => ite_of trivial (ite_of trivial ?_)) h
  split
  · exact trivial
  · exact ite_of trivial h.setCluster.setMe

end Sys2Proof.Machine
end

section
/-! Every step keeps memory canonical and AGE legal: the exchange unit and the Centroid. -/

namespace Sys2Proof.Machine

open Safety

variable {M A : Prop} {s : State}

theorem Safe.setXu {die : Nat} {x : Exchange} (h : Safe M A s) : Safe M A (s.setXu die x) := h.setDie

theorem Safe.readTable {t : Strand} {core : Nat} {spots : List (Nat × Place)} {va n : Nat} (h : Safe M A s) :
    SafeEng M A (s.readTable t core spots va n) := by
  unfold State.readTable
  refine h.engReadAll fun _ ht _ _ => ?_
  split
  · exact trivial
  · exact ht.engReadHome

theorem Safe.tableIssue {i : Instr} {a : Src} {n : Nat} {f : State → Strand → Nat → Nat → Res}
    (hf : ∀ t, Safe M A t → ∀ a b c, SafeRes M A (f t a b c)) (h : Safe M A s) :
    SafeOut M A (tableIssue i a n f s) := by
  unfold Machine.tableIssue
  dsimp only
  refine Safe.issue (fun _ => ite_of trivial (ite_of trivial (ite_of trivial (ite_of trivial ?_)))) h
  split
  · exact trivial
  · exact trivial
  · split
    next s1 v e => exact ite_of trivial (hf _ (h.readTable.of_done e) _ _ _)
    · exact trivial

theorem Safe.execXarm {a : Src} (h : Safe M A s) : SafeOut M A (execXarm a s) := by
  unfold Machine.execXarm
  dsimp only
  refine Safe.tableIssue (fun _ ht _ _ _ => ite_of trivial ?_) h
  split
  · exact trivial
  · split
    · exact trivial
    · exact trivial
    · exact ht.setXu.setMe

theorem Safe.execIcfg {a : Src} (h : Safe M A s) : SafeOut M A (execIcfg a s) :=
  Safe.tableIssue (fun _ ht _ _ _ => ite_of trivial ht.setXu.setMe) h

theorem Safe.sendPost {die : Nat} (h : Safe M A s) : Safe M A (s.sendPost die) := h.upd

theorem Safe.execDpost {e : RegNo} (h : Safe M A s) : SafeOut M A (execDpost e s) :=
  Safe.issue (fun _ => ite_of trivial (ite_of trivial h.setXu.sendPost.setMe)) h

theorem Safe.execXsend {a : Src} {e : RegNo} (h : Safe M A s) : SafeOut M A (execXsend a e s) := by
  unfold Machine.execXsend
  dsimp only
  refine Safe.issue (fun _ => ite_of trivial (ite_of trivial (ite_of trivial (ite_of trivial (ite_of trivial (ite_of
    trivial (ite_of trivial ?_))))))) h
  split
  · exact trivial
  · exact trivial
  · exact h.setXu.setMe

theorem Safe.execXstat {d : RegNo} {a : Src} (h : Safe M A s) : SafeOut M A (execXstat d a s) := by
  unfold Machine.execXstat
  dsimp only
  refine Safe.issue (fun _ => ?_) h
  split
  · exact trivial
  · exact h.setMe

theorem Safe.execRoute {d : RegNo} {a b : Src} (h : Safe M A s) : SafeOut M A (execRoute d a b s) :=
  Safe.issue (fun _ => ite_of trivial h.setMe) h

theorem Safe.xuActs {w : Who} {va : Word} {l : Nat} {direct : State → State} {queued : List Act} (h : Safe M A s)
    (hdirect : ∀ t, Safe M A t → Safe M A (direct t)) : Safe M A (s.xuActs w va l direct queued) :=
  ite_of (Safe.foldl (ite_of h.evictLine h) (fun _ ht _ => ht.postNew)) (hdirect _ (ite_of h.evictLine h))

theorem Safe.xuWrite {core func : Nat} {va : Word} {pa v n : Nat} {poisoned : Bool} (h : Safe M A s) :
    IfSome (Safe M A) (s.xuWrite core func va pa v n poisoned) :=
  ite_of IfSome.none (IfSome.some (h.xuActs (fun _ ht => ht.engWriteHome)))

theorem Safe.xuBad {core func : Nat} {va : Word} {pa endpoint : Nat} (h : Safe M A s) :
    Safe M A (s.xuBad core func va pa endpoint) :=
  h.error.xuActs (fun _ ht => Safe.patchFetches (ite_of ht ht.upd))

theorem Safe.land {x : XTable} {va n : Nat} {l : XLine} {endpoint : Nat} (h : Safe M A s) :
    IfSome (Safe M A) (s.land x va n l endpoint) :=
  IfSome.foldl (IfSome.some h) (fun _ ho _ => IfSome.bind ho (fun _ ht => IfSome.bindAny (fun _ => ite_of (IfSome.some
    ht.xuBad) ht.xuWrite)))

theorem Safe.receiveLine {die e : Nat} {l : XLine} (h : Safe M A s) : IfSome (Safe M A) (s.receiveLine die e l) := by
  unfold State.receiveLine
  dsimp only
  split
  · exact IfSome.some h.setXu
  · refine ite_of ?_ (ite_of (IfSome.some h.setXu) (ite_of (IfSome.some h.setXu) (IfSome.map h.land (fun _ ht =>
      ht.setXu))))
    split
    · exact IfSome.some h.setXu
    · exact ite_of IfSome.none (IfSome.some h.setXu)

theorem Safe.ringRoom {m : XTable} {r : IRing} (h : Safe M A s) : IfSome (Safe M A) (s.ringRoom m r) := by
  unfold State.ringRoom
  split
  next s1 v e => exact ite_of (IfSome.some ((IfSome.mapAny (fun _ => h.engReadHome)) _ e)) IfSome.none
  · exact IfSome.none

theorem Safe.putRow {m : XTable} {va : Nat} {row : List XLine} {e : Nat} (h : Safe M A s) :
    IfSome (Safe M A) (s.putRow m va row e) :=
  IfSome.foldl (IfSome.some h) (fun _ ho _ => IfSome.bind ho (fun _ ht => ht.land))

theorem Safe.putCopy {die e : Nat} {m : XTable} {row : List XLine} {j : Nat} (h : Safe M A s) :
    IfSome (Safe M A) (s.putCopy die e m row j) :=
  IfSome.map (IfSome.bind h.ringRoom (fun _ ht => ht.putRow)) (fun _ ht => ht.setXu)

theorem Safe.setReceive {die e : Nat} {r : Receive} (h : Safe M A s) : Safe M A (s.setReceive die e r) := h.setXu

theorem Safe.spread {die e : Nat} {m : XTable} {l : List Nat} (h : Safe M A s) : IfSome (Safe M A) (s.spread die e m l) := by
  induction l generalizing s with
  | nil => exact IfSome.some h.setXu.setReceive
  | cons j r ih => exact IfSome.map h.putCopy fun _ ht => IfSome.getD (ih ht.setReceive) ht.setReceive

theorem Safe.ingressRow {die e : Nat} (h : Safe M A s) : IfSome (Safe M A) (s.ingressRow die e) := by
  unfold State.ingressRow
  dsimp only
  split
  · exact IfSome.none
  · refine ite_of IfSome.none ?_
    split
    · exact h.spread
    · refine ite_of (IfSome.map h.ringRoom (fun _ ht => Safe.setReceive (Safe.foldl ht (fun _ hu _ => ?_)))) (ite_of
        (IfSome.some h.setXu.setReceive) (IfSome.some (IfSome.getD h.setReceive.spread h.setReceive)))
      split
      · exact ite_of hu.crcPoison hu.poisonLine
      · exact hu

theorem Safe.execIngressRow {die endpoint : Nat} (h : Safe M A s) : SafeOut M A (execIngressRow die endpoint s) :=
  h.event h.ingressRow

theorem Safe.rowAgain {die e : Nat} (h : Safe M A s) : IfSome (Safe M A) (s.rowAgain die e) := by
  unfold State.rowAgain
  dsimp only
  split
  · exact ite_of (IfSome.some h.setXu) IfSome.none
  · exact IfSome.none

theorem Safe.bufLine {d : Send} {off : Nat} (h : Safe M A s) : SafeEng M A (s.bufLine d off) := by
  unfold State.bufLine
  split
  · exact trivial
  · exact h.engReadHome

theorem Safe.bufRow {d : Send} {off n : Nat} (h : Safe M A s) : IfSome (SafeFst M A) (s.bufRow d off n) := by
  induction n generalizing s off with
  | zero => exact IfSome.some (P := SafeFst M A) h
  | succ n ih =>
    unfold State.bufRow
    split
    next t v e => exact IfSome.map (ih (h.bufLine.of_done e)) fun _ hr => hr.fst
    · exact IfSome.none

theorem Safe.beginRow {die : Nat} {d : Send} (h : Safe M A s) : IfSome (Safe M A) (s.beginRow die d) := by
  unfold State.beginRow
  dsimp only
  refine IfSome.bind h.bufRow fun _ hr => ?_
  split
  · exact IfSome.none
  · split
    · exact IfSome.none
    · exact IfSome.map hr.fst.xuWrite fun _ ht => ht.setXu

theorem Safe.sendLine {die : Nat} {d : Send} {l : XLine} (h : Safe M A s) : IfSome (Safe M A) (s.sendLine die d l) := by
  unfold State.sendLine
  split
  · exact IfSome.some h
  · exact h.receiveLine

theorem Safe.moveLine {die : Nat} {good : Bool} (h : Safe M A s) : IfSome (Safe M A) (s.moveLine die good) := by
  unfold State.moveLine
  dsimp only
  refine IfSome.bindAny (fun _ => IfSome.bindAny (fun _ => ite_of IfSome.none (ite_of ?_ ?_)))
  · split
    · exact h.beginRow
    · exact IfSome.map h.sendLine fun _ ht => ht.setXu
  · split
    next s1 v e => exact IfSome.map (h.bufLine.of_done e).sendLine (fun _ hu => hu.setXu)
    · exact IfSome.none

theorem Safe.execEng {e i : Nat} (h : Safe M A s) : SafeOut M A (execEng e i s) := by
  unfold Machine.execEng
  refine h.event ?_
  split
  · exact h.engStep
  · exact IfSome.bindAny fun _ => h.moveLine

theorem Safe.takeCalendar {die : Nat} {c : Calendar} (h : Safe M A s) : IfSome (Safe M A) (s.takeCalendar die c) :=
  ite_of (IfSome.some h) (ite_of IfSome.none (ite_of IfSome.none (IfSome.some h.setXu)))

theorem Safe.execCalendarArrival {die : Nat} (h : Safe M A s) : SafeOut M A (execCalendarArrival die s) := by
  unfold Machine.execCalendarArrival
  dsimp only
  refine h.event ?_
  split
  · exact IfSome.none
  · exact IfSome.bindAny fun _ => Safe.takeCalendar h.upd

theorem Safe.beginPhase {die : Nat} (h : Safe M A s) : IfSome (Safe M A) (s.beginPhase die) :=
  ite_of IfSome.none (IfSome.bindAny (fun _ => ite_of IfSome.none (IfSome.some (Safe.upd h.setXu))))

theorem Safe.execPhaseStart {die : Nat} (h : Safe M A s) : SafeOut M A (execPhaseStart die s) := by
  unfold Machine.execPhaseStart
  dsimp only
  refine h.event ?_
  split
  · exact ite_of IfSome.none (IfSome.some (IfSome.getD h.setXu.beginPhase h.setXu))
  · exact h.beginPhase
  · exact IfSome.none

theorem Safe.endSending {die : Nat} (h : Safe M A s) : IfSome (Safe M A) (s.endSending die) := by
  unfold State.endSending
  dsimp only
  split
  · exact IfSome.some h
  · refine ite_of IfSome.none (ite_of (IfSome.some (ite_of h ?_)) ?_)
    · split
      · exact ite_of h.setXu.setReceive h.setXu
      · exact h.setXu
    · split
      · refine ite_of (IfSome.some ?_) (IfSome.some (Safe.setReceive ?_))
        · split
          · refine Safe.setXu (ite_of h ?_)
            split
            · exact ite_of h.setXu.setReceive h.setXu
            · exact h.setXu
          · refine ite_of h ?_
            split
            · exact ite_of h.setXu.setReceive h.setXu
            · exact h.setXu
        · split
          · refine Safe.setXu (ite_of h ?_)
            split
            · exact ite_of h.setXu.setReceive h.setXu
            · exact h.setXu
          · refine ite_of h ?_
            split
            · exact ite_of h.setXu.setReceive h.setXu
            · exact h.setXu
      · refine IfSome.some ?_
        split
        · refine Safe.setXu (ite_of h ?_)
          split
          · exact ite_of h.setXu.setReceive h.setXu
          · exact h.setXu
        · refine ite_of h ?_
          split
          · exact ite_of h.setXu.setReceive h.setXu
          · exact h.setXu

theorem Safe.endReceiving {die : Nat} (h : Safe M A s) : IfSome (Safe M A) (s.endReceiving die) := by
  unfold State.endReceiving
  dsimp only
  split
  · exact IfSome.some h
  · exact ite_of IfSome.none (ite_of (IfSome.some h) (IfSome.some h.setXu))

theorem Safe.writePending {die : Nat} (h : Safe M A s) : IfSome (Safe M A) (s.writePending die) := by
  unfold State.writePending
  dsimp only
  split
  · exact IfSome.none
  · refine ite_of IfSome.none ?_
    split
    next s1 v e => exact IfSome.some (h.writeRecord.of_done e).setXu
    next s1 e => exact IfSome.some (h.writeRecord.of_first e)
    · exact IfSome.none

theorem Safe.endRound {die : Nat} (h : Safe M A s) : IfSome (Safe M A) (s.endRound die) := by
  unfold State.endRound
  dsimp only
  refine ite_of IfSome.none ?_
  split
  · exact IfSome.some h.setXu
  · split
    · exact IfSome.some h.setXu
    · refine ite_of IfSome.none (IfSome.some ?_)
      split
      · exact h.setXu.sendAct
      · exact h.setXu

theorem Safe.phaseEnd {die : Nat} (h : Safe M A s) : IfSome (Safe M A) (s.phaseEnd die) := by
  unfold State.phaseEnd
  dsimp only
  refine ite_of IfSome.none (ite_of h.writePending (ite_of (ite_of IfSome.none ?_) (ite_of IfSome.none (ite_of
    IfSome.none h.endRound))))
  exact ite_of (IfSome.map h.endSending (fun _ ht => ht.setXu)) (IfSome.map h.endReceiving (fun _ ht => ht.setXu))

theorem Safe.execPhaseEnd {die : Nat} (h : Safe M A s) : SafeOut M A (execPhaseEnd die s) := h.event h.phaseEnd

theorem Safe.linkFailure {die e bytes : Nat} (h : Safe M A s) : IfSome (Safe M A) (s.linkFailure die e bytes) := by
  unfold State.linkFailure
  dsimp only
  refine ite_of IfSome.none (ite_of (IfSome.some ?_) (ite_of (IfSome.some h.setXu) IfSome.none))
  split
  · exact h.setXu.setXu
  · exact h.setXu

theorem Safe.execExchangeLinkFailure {die endpoint bytes : Nat} (h : Safe M A s) :
    SafeOut M A (execExchangeLinkFailure die endpoint bytes s) :=
  h.event h.linkFailure

theorem Safe.peerLine {die e : Nat} {l : XLine} (h : Safe M A s) : IfSome (Safe M A) (s.peerLine die e l) :=
  ite_of h.receiveLine IfSome.none

theorem Safe.expireLease (h : Safe M A s) : Safe M A s.expireLease := ite_of h (Safe.error h.upd)

theorem Safe.governed {who : BitVec 16} {reg : Nat} {o : Option State} (h : Safe M A s) (ho : IfSome (Safe M A) o) :
    IfSome (Safe M A) (s.governed who reg o) :=
  ite_of IfSome.none (ite_of ho (IfSome.some h.expireLease.error))

theorem Safe.closeRound (h : Safe M A s) : Safe M A s.closeRound := h.upd

theorem Safe.tryClose (h : Safe M A s) : IfSome (Safe M A) s.tryClose := by
  unfold State.tryClose
  split
  · exact IfSome.none
  · exact ite_of (IfSome.some h.closeRound) IfSome.none

theorem Safe.joinRound {p : Post} (h : Safe M A s) : Safe M A (s.joinRound p) :=
  ite_of h.upd (ite_of h (IfSome.getD (ite_of (Safe.tryClose h.upd) IfSome.none) h.upd))

theorem Safe.takePost {i : Nat} (h : Safe M A s) : IfSome (Safe M A) (s.takePost i) := by
  unfold State.takePost
  dsimp only
  refine ite_of (IfSome.mapAny (fun _ => h.upd)) (ite_of IfSome.none ?_)
  exact IfSome.mapAny (fun _ => Safe.joinRound (Safe.upd (IfSome.getD (ite_of h.tryClose IfSome.none) h)))

theorem Safe.execCentroidPost {i : Nat} (h : Safe M A s) : SafeOut M A (execCentroidPost i s) := h.event h.takePost

theorem Safe.execRoundDeadlineExpiry (h : Safe M A s) : SafeOut M A (execRoundDeadlineExpiry s) :=
  h.event (ite_of h.tryClose IfSome.none)

theorem Safe.learn {die : Nat} {gen : BitVec 32} (h : Safe M A s) : Safe M A (s.learn die gen) :=
  ite_of h.setXu.sendPost h.setXu

theorem Safe.execCgConfigWrite {reg : CgReg} {value : Word} {who : BitVec 16} (h : Safe M A s) :
    SafeOut M A (execCgConfigWrite reg value who s) :=
  h.event (h.governed (IfSome.some h.upd))

theorem Safe.execGnomonExchange {die : Nat} {t1 t2 t3 t4 : Word} {pkgSkew grpSkew : BitVec 16} (h : Safe M A s) :
    SafeOut M A (execGnomonExchange die t1 t2 t3 t4 pkgSkew grpSkew s) :=
  h.event (ite_of IfSome.none (IfSome.some (IfSome.getD (ite_of h.setDie.tryClose IfSome.none) h.setDie)))

theorem Safe.standDown {gen : BitVec 32} (h : Safe M A s) : IfSome (Safe M A) (s.standDown gen) :=
  IfSome.mapAny (fun _ => h.upd)

theorem Safe.execGenerationChange {die : Nat} {gen : BitVec 32} (h : Safe M A s) :
    SafeOut M A (execGenerationChange die gen s) := by
  unfold Machine.execGenerationChange
  dsimp only
  refine h.event (ite_of IfSome.none (ite_of ?_ ?_))
  · exact ite_of IfSome.none (ite_of (IfSome.some h.learn) (IfSome.map h.standDown (fun _ ht => ht.learn)))
  · exact IfSome.some (Safe.learn (ite_of h.upd h))

theorem Safe.execHeartbeatTimer (h : Safe M A s) : SafeOut M A (execHeartbeatTimer s) :=
  h.event (ite_of IfSome.none (IfSome.some h.upd))

theorem Safe.execCentroidTakeover {pkg : BitVec 3} {iod : Bool} (h : Safe M A s) :
    SafeOut M A (execCentroidTakeover pkg iod s) := by
  unfold Machine.execCentroidTakeover
  dsimp only
  refine h.event ?_
  split
  · exact ite_of IfSome.none (IfSome.some h.upd)
  · exact IfSome.none

theorem Safe.peerBeat {seen : Bool} {pkg : BitVec 3} {iod : Bool} {b : Beat} (h : Safe M A s) :
    IfSome (Safe M A) (s.peerBeat seen pkg iod b) :=
  ite_of (ite_of IfSome.none (IfSome.some h.upd)) (ite_of IfSome.none (IfSome.some h.upd))

theorem Safe.peerPost {p : Post} (h : Safe M A s) : IfSome (Safe M A) (s.peerPost p) :=
  ite_of IfSome.none (IfSome.some h.upd)

theorem Safe.peerConfig {m c r : Word} (h : Safe M A s) : IfSome (Safe M A) (s.peerConfig m c r) :=
  ite_of IfSome.none (IfSome.some h.upd)

theorem Safe.peer {x : Turn} (h : Safe M A s) : IfSome (Safe M A) (s.peer x) := by
  unfold State.peer
  split
  · exact h.peerLine
  · exact h.rowAgain
  · exact h.takeCalendar
  · exact h.peerPost
  · exact IfSome.some h.upd
  · exact h.peerBeat
  · exact h.peerConfig
  · exact IfSome.none

end Sys2Proof.Machine
end

section
/-! Every step keeps memory canonical and AGE legal: events of ordering and of the host. -/

namespace Sys2Proof.Machine

open Safety

variable {M A : Prop} {s : State}

theorem Safe.swept {o : Option State} (h : IfSome (Safe M A) o) : IfSome (Safe M A) (swept o) :=
  IfSome.map h (fun _ hs => hs.sweep)

theorem Safe.execDrain {core h1 : Nat} (h : Safe M A s) : SafeOut M A (execDrain core h1 s) := by
  unfold Machine.execDrain
  dsimp only
  refine h.event (Safe.swept ?_)
  split
  · exact IfSome.none
  · exact ite_of IfSome.none (IfSome.some (Safe.perform h.upd))

theorem Safe.execFill {clus line : Nat} (h : Safe M A s) : SafeOut M A (execFill clus line s) :=
  h.event (Safe.swept h.fillOne)

theorem Safe.execEvict {core line : Nat} (h : Safe M A s) : SafeOut M A (execEvict core line s) :=
  h.event (Safe.swept (ite_of IfSome.none (IfSome.some h.evictLine)))

theorem Safe.execHop {link : Nat} (h : Safe M A s) : SafeOut M A (execHop link s) := by
  unfold Machine.execHop
  dsimp only
  refine h.event ?_
  split
  · exact ite_of (IfSome.some (Safe.upd h.setLink)) (IfSome.some h.setLink.forward)
  · exact IfSome.some h.setLink
  · exact IfSome.none

theorem Safe.execIngress {link h1 : Nat} (h : Safe M A s) : SafeOut M A (execIngress link h1 s) := by
  unfold Machine.execIngress
  dsimp only
  refine h.event (Safe.swept ?_)
  split
  · exact IfSome.none
  · exact ite_of IfSome.none (IfSome.some (Safe.perform h.upd))

theorem Safe.answerInv {line p : Nat} (h : Safe M A s) : Safe M A (s.answerInv line p) :=
  Safe.releaseHeld (Safe.upd (Safe.setSlice (h.foldl (fun _ ht _ => ite_of ht.mergeLine ht))))

theorem Safe.execBiack {line p : Nat} (h : Safe M A s) : SafeOut M A (execBiack line p s) := by
  unfold Machine.execBiack
  dsimp only
  refine h.event (ite_of ?_ IfSome.none)
  exact ite_of IfSome.none (ite_of (IfSome.some h.answerInv) (ite_of IfSome.none (IfSome.some h.wakeDie)))

theorem Safe.execHostw {p : Nat} (h : Safe M A s) : SafeOut M A (execHostw p s) := by
  unfold Machine.execHostw
  dsimp only
  refine h.event ?_
  split
  · exact ite_of IfSome.none (IfSome.some h.setHostLink.hostWrite)
  · exact IfSome.none

theorem Safe.execHostSnoop {line p : Nat} (h : Safe M A s) : SafeOut M A (execHostSnoop line p s) := by
  unfold Machine.execHostSnoop
  dsimp only
  refine h.event (ite_of IfSome.none ?_)
  split
  · exact ite_of IfSome.none (IfSome.some h.hostFlushLine)
  · exact ite_of (IfSome.some h.serveSnoop) (ite_of IfSome.none (IfSome.some (h.foldl (fun _ ht _ => ht.wakeDie))))

theorem Safe.hostFetch {line p : Nat} (h : Safe M A s) : IfSome (Safe M A) (s.hostFetch line p) :=
  ite_of (IfSome.some h) (ite_of IfSome.none (IfSome.some (Safe.upd h.setSlice)))

theorem Safe.hostChange {pa n p : Nat} {f : Nat → Nat} (h : Safe M A s) : IfSome (Safe M A) (s.hostChange pa n p f) :=
  ite_of (ite_of IfSome.none (IfSome.some h.hostOwns.mergeLine)) (IfSome.map h.hostFetch (fun _ ht => ht.upd))

theorem Safe.hostReturn {v : Nat} (h : Safe M A s) : Safe M A (s.hostReturn v) := h.upd

theorem Safe.execHost {op : HostOp} (h : Safe M A s) : SafeOut M A (execHost op s) := by
  unfold Machine.execHost
  dsimp only
  refine ite_of SafeOut.fault (h.event (ite_of IfSome.none ?_))
  split
  · exact IfSome.map (ite_of h.hostFetch (ite_of (IfSome.some h.hostOwns) IfSome.none)) (fun _ ht => ht.hostReturn)
  · exact h.hostChange
  · exact IfSome.bind (ite_of h.hostFetch (ite_of (IfSome.some h.hostOwns) IfSome.none)) (fun _ ht => IfSome.map
      ht.hostChange (fun _ hs' => hs'.hostReturn))

theorem Safe.portAtomic {p : Nat} (h : Safe M A s) : IfSome (Safe M A) (s.portAtomic p) := by
  unfold State.portAtomic
  extract_lets
  split
  · exact IfSome.none
  · extract_lets _ _ t _ u _ _ w
    have ht : Safe M A t := h.setPort.performed
    have hu : Safe M A u := ite_of ht.hostFlushLine.hostOwns ht.pullHost
    have hw : Safe M A w := hu.mergeLine
    refine ite_of IfSome.none (ite_of (IfSome.some (ite_of ht.failSink ht.discardAt)) ?_)
    exact ite_of (IfSome.some hw.deliver.sinkFlags) (IfSome.some hw.setPort)

theorem Safe.execFabricPortAtomic {port : Nat} (h : Safe M A s) : SafeOut M A (execFabricPortAtomic port s) :=
  h.event (Safe.swept h.portAtomic)

theorem Safe.execUncorrectableError {place : ErrorPlace} {line : Nat} (h : Safe M A s) :
    SafeOut M A (execUncorrectableError place line s) := by
  unfold Machine.execUncorrectableError
  refine h.event ?_
  split
  · exact IfSome.some h.poisonLine
  · exact IfSome.some h.poisonLine
  · exact IfSome.some h.poisonLine
  · split
    · exact IfSome.none
    · exact IfSome.some h.sendPoison

theorem Safe.dropSharer {k p : Nat} (h : Safe M A s) : Safe M A (s.dropSharer k p) :=
  h.setSlice.foldl (fun _ ht _ => ht.releaseHeld)

theorem Safe.declareDown {p : Nat} (h : Safe M A s) : Safe M A (s.declareDown p) := by
  unfold State.declareDown
  extract_lets _ _ _ _ u _ _ v
  have hu : Safe M A u := ite_of h.error.setHostLink h.error.setHostLink.setHostLink
  have hv : Safe M A v := ite_of hu hu.setPort.setPort
  exact Safe.foldl hv.upd fun _ hw _ => hw.dropSharer

theorem Safe.execBisnpTimeout {p : Nat} (h : Safe M A s) : SafeOut M A (execBisnpTimeout p s) :=
  h.event (ite_of IfSome.none (IfSome.some h.declareDown))

theorem Safe.execHostLinkDown {p : Nat} (h : Safe M A s) : SafeOut M A (execHostLinkDown p s) :=
  h.event (ite_of IfSome.none (IfSome.some h.declareDown))

theorem Safe.execHostLinkWarmReset {p : Nat} (h : Safe M A s) : SafeOut M A (execHostLinkWarmReset p s) :=
  h.event (ite_of IfSome.none (IfSome.some h.setHostLink))

theorem Safe.unmask {d : Nat} (h : Safe M A s) : Safe M A (s.unmask d) := h.untrack

theorem Safe.drainDie {d : Nat} (h : Safe M A s) : IfSome (Safe M A) (s.drainDie d) :=
  ite_of IfSome.none (IfSome.some (Safe.unmask (h.foldl (fun _ ht _ => ht.hostFlushLine.snoopDie))))

theorem Safe.setLinks {d : Nat} {st : LinkState} (h : Safe M A s) : Safe M A (s.setLinks d st) :=
  h.foldl (fun _ ht _ => ite_of (Safe.setLink (ite_of ht.setLink ht)) (ite_of ht.setLink ht))

theorem Safe.execDiePowerGate {die : Nat} (h : Safe M A s) : SafeOut M A (execDiePowerGate die s) :=
  h.event (ite_of IfSome.none (IfSome.map h.drainDie (fun _ ht => ht.setDie.setLinks)))

theorem Safe.resetDie {d : Nat} (h : Safe M A s) : Safe M A (s.resetDie d) := by
  unfold State.resetDie
  dsimp only
  refine Safe.ofCores ?_ (fun _ hc => hc.filter (p := fun c => !(coreDie c == d))) fun _ hl => hl.filter
  exact h.foldl fun _ ht _ => ht.endLaunch

theorem Safe.execDieWarmReset {die : Nat} (h : Safe M A s) : SafeOut M A (execDieWarmReset die s) :=
  h.event (ite_of IfSome.none (IfSome.map h.drainDie (fun _ ht => ht.resetDie)))

theorem Safe.loseHeld {d : Nat} (h : Safe M A s) : Safe M A (s.loseHeld d) :=
  h.foldl (fun _ ht _ => ht.setSlice.foldl (fun _ hu _ => hu.poisonLine.hostDone))

theorem Safe.execDieFatalReset {die : Nat} (h : Safe M A s) : SafeOut M A (execDieFatalReset die s) := by
  unfold Machine.execDieFatalReset
  dsimp only
  refine h.event (ite_of IfSome.none ?_)
  exact IfSome.some (Safe.sweep (Safe.resetDie (Safe.foldl (Safe.foldl (Safe.upd h.loseHeld) (fun _ ht _ => ht.foldl
    (fun _ hu _ => hu.performed))) (fun _ ht _ => ht.foldl (fun _ hu _ => hu.lose)))))

theorem Safe.execLinkwakeMaxExpiry {link : Nat} (h : Safe M A s) : SafeOut M A (execLinkwakeMaxExpiry link s) := by
  unfold Machine.execLinkwakeMaxExpiry
  dsimp only
  refine h.event ?_
  split
  · exact ite_of IfSome.none (IfSome.some h.setLink.error)
  · exact IfSome.none

theorem Safe.poisonDie {d : Nat} (h : Safe M A s) : Safe M A (s.poisonDie d) :=
  Safe.upd (Safe.unmask (h.foldl (fun _ ht _ => ht.foldl (fun _ hu _ => ite_of hu.snoopPoison hu))))

theorem Safe.execDiedeadTmoExpiry {die : Nat} (h : Safe M A s) : SafeOut M A (execDiedeadTmoExpiry die s) :=
  h.event (ite_of IfSome.none (IfSome.some h.loseHeld.poisonDie.setDie))

theorem Safe.sendInvs {d : Nat} (h : Safe M A s) : Safe M A (s.sendInvs d) :=
  h.foldl (fun _ ht _ => ht.setSlice.foldl (fun _ hu _ => hu.releaseHeld))

theorem Safe.execDieLinkTrained {link : Nat} (h : Safe M A s) : SafeOut M A (execDieLinkTrained link s) := by
  unfold Machine.execDieLinkTrained
  dsimp only
  refine h.event ?_
  split
  · refine ite_of IfSome.none (IfSome.some (Safe.sendInvs (Safe.sendInvs (ite_of (Safe.setDie (ite_of (Safe.setDie ?_)
      ?_)) (ite_of (Safe.setDie ?_) ?_)))))
    · split
      · refine Safe.setLink ?_
        split
        · exact h.setLink
        · exact h
      · split
        · exact h.setLink
        · exact h
    · split
      · refine Safe.setLink ?_
        split
        · exact h.setLink
        · exact h
      · split
        · exact h.setLink
        · exact h
    · split
      · refine Safe.setLink ?_
        split
        · exact h.setLink
        · exact h
      · split
        · exact h.setLink
        · exact h
    · split
      · refine Safe.setLink ?_
        split
        · exact h.setLink
        · exact h
      · split
        · exact h.setLink
        · exact h
  · exact IfSome.none

end Sys2Proof.Machine
end

section
/-! Every step keeps memory canonical and AGE legal: events of tasks and traps. -/

namespace Sys2Proof.Machine

open Safety

variable {M A : Prop} {s : State}

theorem Safe.execEdge {slot : Nat} (h : Safe M A s) : SafeOut M A (execEdge slot s) := by
  unfold Machine.execEdge
  refine h.event ?_
  split
  · exact ite_of h.finishEdge IfSome.none
  · exact IfSome.none

theorem Safe.handed {a : Activation} (h : Safe M A s) : Safe M A (s.handed a) := by
  unfold State.handed
  split
  · exact h.onCtx
  · exact h

theorem Safe.execMessageArrival {i : Nat} (h : Safe M A s) : SafeOut M A (execMessageArrival i s) := by
  unfold Machine.execMessageArrival
  dsimp only
  refine h.event ?_
  split
  · exact IfSome.none
  · refine ite_of IfSome.none (ite_of (ite_of IfSome.none (IfSome.some h.wakeLinks)) (ite_of ?_ ?_))
    · exact IfSome.some (Safe.discardMsg (Safe.handed h.upd))
    · exact ite_of IfSome.none (IfSome.mapAny (fun _ => Safe.upd (Safe.updCore (Safe.handed h.upd))))

theorem Safe.startAct {k : Nat} {a : Activation} (h : Safe M A s) : IfSome (Safe M A) (s.startAct k a) := by
  unfold State.startAct
  extract_lets _ _ _ t _ u v
  have ht : Safe M A t := h.setCore h.core.worked.upd
  have hu : Safe M A u := ht.setStrand
  have hv : Safe M A v := hu.upd
  split
  · exact IfSome.bindAny fun _ => IfSome.map ht.resume fun _ hw => hw.invalidate
  · refine ite_of ?_ (ite_of (IfSome.some ht.discardMsg) (IfSome.some (ite_of hv hv.invalidate)))
    split
    · exact IfSome.some ht.moveBack
    · exact IfSome.some ht

theorem Safe.activate {k : Nat} (h : Safe M A s) : IfSome (Safe M A) (s.activate k) :=
  ite_of IfSome.none (IfSome.bindAny (fun _ => h.startAct))

theorem Safe.execActivation {slot : Nat} (h : Safe M A s) : SafeOut M A (execActivation slot s) := h.event h.activate

theorem Safe.execSeedActivation {slot launch : Nat} {wid : Word} (h : Safe M A s) :
    SafeOut M A (execSeedActivation slot launch wid s) := by
  unfold Machine.execSeedActivation
  dsimp only
  refine h.event ?_
  split
  · exact IfSome.none
  · exact ite_of IfSome.none (IfSome.some (Safe.upd (Safe.setCore h.setStrand (SafeCore.worked h.core))))

theorem Safe.takeReady {k : Nat} {ln : Option Nat} (h : Safe M A s) : IfSome (Safe M A) (s.takeReady k ln) :=
  IfSome.bindAny (fun _ => IfSome.bindAny (fun _ => IfSome.map h.setCluster.resume (fun _ ht =>
    ht.invalidate.placeWaiting)))

theorem Safe.pickWork {k : Nat} (h : Safe M A s) : IfSome (Safe M A) (s.pickWork k) := by
  unfold State.pickWork
  dsimp only
  refine ite_of IfSome.none ?_
  split
  · exact ite_of h.startAct IfSome.none
  · refine ite_of IfSome.none ?_
    split
    · exact Safe.resume (Safe.setCore h (SafeCore.upd (SafeCore.worked h.core)))
    · exact ite_of (IfSome.some h.updCore) IfSome.none
    · refine ite_of IfSome.none (ite_of ?_ ?_)
      · exact IfSome.map h.takeReady (fun _ ht => Safe.setCore ht (SafeCore.worked ht.core))
      · exact ite_of IfSome.none (IfSome.some h.updCore)
    · refine ite_of IfSome.none (ite_of ?_ ?_)
      · exact IfSome.map h.takeReady (fun _ ht => Safe.setCore ht (SafeCore.worked ht.core))
      · exact ite_of IfSome.none (IfSome.some h.updCore)

theorem Safe.execPickWork {slot : Nat} (h : Safe M A s) : SafeOut M A (execPickWork slot s) := h.event h.pickWork

theorem Safe.writeGroup {ln : Option Nat} {c n : Nat} {l : List (BitVec 128)} (h : Safe M A s) :
    IfSome (Safe M A) (s.writeGroup ln c n l) :=
  IfSome.foldl (IfSome.some h) (fun _ ho ⟨_, _⟩ => IfSome.bind ho (fun _ ht => IfSome.bindAny (fun _ => ht.sysPut)))

theorem Safe.spillDeque {c : Nat} (h : Safe M A s) : IfSome (Safe M A) (s.spillDeque c) :=
  IfSome.map h.writeGroup (fun _ ht => Safe.setCore ht (SafeCore.upd h.core))

theorem Safe.execDequeSpill {core : Nat} (h : Safe M A s) : SafeOut M A (execDequeSpill core s) :=
  h.event (ite_of h.spillDeque IfSome.none)

theorem Safe.afterRefill {k : Nat} (h : Safe M A s) : Safe M A (s.afterRefill k) := by
  unfold State.afterRefill
  dsimp only
  refine ite_of (ite_of (IfSome.getD h.popAt h) h) (ite_of h ?_)
  split
  · exact IfSome.getD (Safe.resume (Safe.setCore h (SafeCore.upd (SafeCore.worked h.core)))) h
  · exact h

theorem Safe.execDequeRefill {core : Nat} (h : Safe M A s) : SafeOut M A (execDequeRefill core s) :=
  h.event (IfSome.bindAny (fun _ => ite_of (IfSome.some h.updCore.afterRefill) (IfSome.mapAny (fun _ =>
    h.updCore.afterRefill))))

theorem Safe.stealRelease {core victim stag : Nat} (h : Safe M A s) : SafeFst M A (s.stealRelease core victim stag) :=
  ite_of h h.writeBack

theorem Safe.stealProbe {core : Nat} (h : Safe M A s) : IfSome (Safe M A) (s.stealProbe core) := by
  unfold State.stealProbe
  extract_lets
  refine ite_of IfSome.none (IfSome.bindAny fun _ => h.across (fun _ => ?_) fun _ => IfSome.some h.updCore)
  split
  · exact IfSome.some h.updCore
  · extract_lets _ _ _ _ t _ q
    have ht : Safe M A t := h.updCore
    have hq : SafeFst M A q := ite_of (P := SafeFst M A) ht.stealRelease ht
    split
    · extract_lets _ u
      have hu : Safe M A u := ite_of hq.fst hq.fst.takeRoom
      exact IfSome.some hu.updCore
    · exact IfSome.some h.updCore

theorem Safe.execStealProbe {core : Nat} (h : Safe M A s) : SafeOut M A (execStealProbe core s) := h.event h.stealProbe

theorem Safe.stealLost {core : Nat} {m : StealMove} (h : Safe M A s) : Safe M A (s.stealLost core m) :=
  Safe.updCore (Safe.updCore (ite_of h.setClusterOf h))

theorem Safe.stealMove {core : Nat} (h : Safe M A s) : IfSome (Safe M A) (s.stealMove core) := by
  unfold State.stealMove
  dsimp only
  split
  · exact IfSome.none
  · refine ite_of (ite_of IfSome.none (IfSome.some h.stealRelease.fst.updCore)) ?_
    split
    · exact IfSome.none
    · refine ite_of IfSome.none ?_
      exact h.across (fun _ => IfSome.bind (ite_of h.moveRec (IfSome.some h)) (fun _ ht => IfSome.map ht.updCore.resume
        (fun _ hu => hu.invalidate))) (fun _ => IfSome.some h.stealLost)

theorem Safe.execStealMove {core : Nat} (h : Safe M A s) : SafeOut M A (execStealMove core s) := h.event h.stealMove

theorem Safe.execStealBackoffExpiry {core : Nat} (h : Safe M A s) : SafeOut M A (execStealBackoffExpiry core s) :=
  h.event (ite_of (IfSome.some h.updCore) IfSome.none)

theorem Safe.execJoinDecrement {i : Nat} (h : Safe M A s) : SafeOut M A (execJoinDecrement i s) := by
  unfold Machine.execJoinDecrement
  dsimp only
  refine h.event ?_
  split
  · exact IfSome.none
  · refine ite_of IfSome.none (h.across (fun _ => ?_) (fun _ => IfSome.some h.upd))
    split
    · exact IfSome.some (Safe.decrement h.upd)
    · exact Safe.placeReady h.upd

theorem Safe.execParkMove {i : Nat} (h : Safe M A s) : SafeOut M A (execParkMove i s) :=
  h.event (IfSome.bindAny (fun _ => h.across (fun _ => h.parkAt) (fun _ => IfSome.some h.parkStays)))

theorem Safe.execBarrierArrival {i : Nat} (h : Safe M A s) : SafeOut M A (execBarrierArrival i s) :=
  h.event (IfSome.bindAny (fun _ => h.across (fun _ => Safe.arriveAt h.upd) (fun _ => IfSome.some h.upd)))

theorem Safe.refuse {task : BitVec 128} {reason : Nat} (h : Safe M A s) : Safe M A (s.refuse task reason) := h.upd

theorem Safe.donationNotice {n : Nat} {task : BitVec 128} (h : Safe M A s) : Safe M A (s.donationNotice n task) := by
  unfold State.donationNotice
  dsimp only
  split
  · exact h.sendAct
  · exact h

theorem Safe.takeDonation {sender : BitVec 3} {task : BitVec 128} {time : Word} {waited : Bool} (h : Safe M A s) :
    Safe M A (s.takeDonation sender task time waited) := by
  unfold State.takeDonation
  dsimp only
  split
  · exact h.refuse
  · split
    · exact h.upd
    · exact ite_of (Safe.upd h.wakeDie) (Safe.donationNotice (Safe.enqueueTask h.upd))

theorem Safe.execDonationIntake {sender : BitVec 3} {task : BitVec 128} (h : Safe M A s) :
    SafeOut M A (execDonationIntake sender task s) := by
  unfold Machine.execDonationIntake
  extract_lets t
  have ht : Safe M A t := Safe.foldl h.upd fun _ hu _ => hu.takeDonation
  exact h.event (IfSome.some (ite_of ht.refuse (ite_of ht.refuse (ite_of ht.refuse ht.takeDonation))))

theorem Safe.execDonationWaitExpiry {i : Nat} (h : Safe M A s) : SafeOut M A (execDonationWaitExpiry i s) := by
  unfold Machine.execDonationWaitExpiry
  dsimp only
  refine h.event ?_
  split
  · exact IfSome.none
  · exact ite_of (IfSome.some (Safe.refuse h.upd)) (ite_of (IfSome.some (Safe.refuse h.upd)) IfSome.none)

theorem Safe.popFrames {die n fuel : Nat} (h : Safe M A s) : SafeFst M A (s.popFrames die n fuel) := by
  induction fuel generalizing s n with
  | zero => exact h
  | succ fuel ih =>
    unfold State.popFrames
    refine ite_of (P := SafeFst M A) h (ite_of ?_ ?_)
    · exact ih h.setDie
    · exact ih h.setDie.error

theorem Safe.lowCheck {die : Nat} {before : Bool} (h : Safe M A s) : Safe M A (s.lowCheck die before) :=
  ite_of h.error h

theorem Safe.takeFrames {die n : Nat} (h : Safe M A s) : SafeFst M A (s.takeFrames die n) :=
  ite_of (P := SafeFst M A) h (ite_of h.popFrames.fst.lowCheck
    (Safe.lowCheck (Safe.foldr h.popFrames.fst fun _ ht _ => ht.pushFrame)))

theorem Safe.exhausted {die : Nat} (h : Safe M A s) : Safe M A (s.exhausted die) := h.error

theorem Safe.trapTake {k : Nat} (h : Safe M A s) : IfSome (Safe M A) (s.trapTake k) :=
  ite_of IfSome.none (IfSome.bindAny (fun _ => IfSome.or h.takeTrap h.askBank))

theorem Safe.execTrapTake {slot : Nat} (h : Safe M A s) : SafeOut M A (execTrapTake slot s) := h.event h.trapTake

theorem Safe.stagingFill {c : Nat} (h : Safe M A s) : IfSome (Safe M A) (s.stagingFill c) := by
  unfold State.stagingFill
  dsimp only
  split
  · exact IfSome.bindAny (fun _ => ite_of IfSome.none (IfSome.some (Safe.setCore h.dropSaved (SafeCore.upd
      h.dropSaved.core))))
  · exact IfSome.none

theorem Safe.execStagingFill {core : Nat} (h : Safe M A s) : SafeOut M A (execStagingFill core s) :=
  h.event h.stagingFill

theorem Safe.restoreMat {k : Nat} {v : MatSave} (h : Safe M A s) : Safe M A (s.restoreMat k v) := h.emit.setMat

theorem Safe.contextSwap {c : Nat} (h : Safe M A s) : IfSome (Safe M A) (s.contextSwap c) := by
  unfold State.contextSwap
  dsimp only
  split
  · exact IfSome.none
  · refine ite_of IfSome.none (IfSome.map (ite_of h.updCore.moveOut (IfSome.some h.updCore)) (fun _ ht => ?_))
    split
    · refine Safe.restoreMat ?_
      split
      · exact ht.setStrand.invalidate
      · exact ht.setStrand
    · split
      · exact ht.setStrand.invalidate
      · exact ht.setStrand

theorem Safe.execContextSwap {core : Nat} (h : Safe M A s) : SafeOut M A (execContextSwap core s) :=
  h.event h.contextSwap

theorem Safe.slotRequest {k ctx : Nat} (h : Safe M A s) : IfSome (Safe M A) (s.slotRequest k ctx) :=
  IfSome.bindAny (fun _ => ite_of IfSome.none (IfSome.some h.updCore.moveBack))

theorem Safe.contextSpill {c : Nat} (h : Safe M A s) : IfSome (Safe M A) (s.contextSpill c) := by
  unfold State.contextSpill
  dsimp only
  split
  · exact IfSome.none
  · refine ite_of IfSome.none ?_
    split
    · refine ite_of IfSome.none ?_
      exact IfSome.some (Safe.upd (Safe.setCore h.takeFrames.fst.writeImage (SafeCore.upd
        h.takeFrames.fst.writeImage.core)))
    · refine ite_of ?_ ?_
      · exact ite_of IfSome.none (IfSome.some (Safe.setCore h.takeFrames.fst (SafeCore.upd h.takeFrames.fst.core)))
      · exact IfSome.some (Safe.exhausted (Safe.setCore h.takeFrames.fst (SafeCore.upd h.takeFrames.fst.core)))

theorem Safe.execContextSpill {core : Nat} (h : Safe M A s) : SafeOut M A (execContextSpill core s) :=
  h.event h.contextSpill

theorem Safe.execSfladd {die : Nat} {value : Word} {who : BitVec 16} (h : Safe M A s) :
    SafeOut M A (execSfladd die value who s) :=
  h.event (ite_of IfSome.none (h.governed (IfSome.some h.pushFrame)))

theorem Safe.execSaveFrameStackEnable {die : Nat} {value : Word} {who : BitVec 16} (h : Safe M A s) :
    SafeOut M A (execSaveFrameStackEnable die value who s) :=
  h.event (ite_of IfSome.none (h.governed (IfSome.some h.setDie.lowCheck)))

end Sys2Proof.Machine
end

section
/-! Every step keeps memory canonical and AGE legal: the launch unit and clusters. -/

namespace Sys2Proof.Machine

open Safety

variable {M A : Prop} {s : State}

theorem Safe.readSys {f va n : Nat} (h : Safe M A s) : IfSome (SafeFst M A) (s.readSys f va n) := by
  induction n generalizing s va with
  | zero => exact IfSome.some (P := SafeFst M A) h
  | succ n ih =>
    unfold State.readSys
    split
    · exact IfSome.none
    · exact ite_of IfSome.none (IfSome.map (ih h.upToDate) fun _ hr => hr.fst)

theorem Safe.readNodes {va n : Nat} (h : Safe M A s) : IfSome (SafeFst M A) (s.readNodes va n) := by
  induction n generalizing s va with
  | zero => exact IfSome.some (P := SafeFst M A) h
  | succ n ih => exact IfSome.bind h.readSys fun _ hr => IfSome.map (ih hr.fst) fun _ hq => hq.fst

theorem Safe.template {l : Launch} (h : Safe M A s) : SafeFst M A (s.template l) := by
  unfold State.template
  dsimp only
  refine ite_of h ?_
  split
  · exact h
  next s1 d e =>
    have ht := h.readSys _ e
    refine ite_of ht ?_
    split
    · exact ht
    next s2 h1 e1 =>
      have hu := ht.readSys _ e1
      refine ite_of hu ?_
      split
      · exact hu
      next s3 ns e2 => exact hu.readNodes _ e2

theorem Safe.writeDeps {l : Launch} {n : Node} {i k : Nat} (h : Safe M A s) : IfSome (Safe M A) (s.writeDeps l n i k) := by
  induction k generalizing s i with
  | zero => exact IfSome.some h
  | succ k ih => exact IfSome.bindAny fun _ => ite_of (ih h.writeSys) IfSome.none

theorem Safe.placeTasks {l : Launch} (h : Safe M A s) : Safe M A (s.placeTasks l) :=
  h.foldl (fun _ ht ⟨_, _⟩ => ite_of ht (ht.foldl (fun _ hu _ => hu.enqueueTask)))

theorem Safe.makeReady {n : Nat} {l : Launch} {count : Nat} (h : Safe M A s) : Safe M A (s.makeReady n l count) := h.upd

theorem Safe.decideGraph {n : Nat} {l : Launch} (h : Safe M A s) : IfSome (Safe M A) (s.decideGraph n l) := by
  unfold State.decideGraph
  dsimp only
  split
  next fst e =>
    have hfst := h.template.of_eq e
    exact IfSome.none
  next s1 e => exact IfSome.some (h.template.of_eq e).upd
  next s1 ns e =>
    have ht := h.template.of_eq e
    refine ite_of (IfSome.some ht.upd) ?_
    exact IfSome.map (IfSome.foldl (IfSome.some ht) (fun _ ho _ => IfSome.bind ho (fun _ hu => hu.writeDeps))) (fun _
      hu => hu.makeReady.placeTasks)

theorem Safe.decide {n : Nat} {l : Launch} (h : Safe M A s) : IfSome (Safe M A) (s.decide n l) := by
  unfold State.decide
  dsimp only
  refine ite_of (IfSome.some h.upd) (ite_of (IfSome.some h.upd) ?_)
  exact ite_of h.decideGraph (ite_of (IfSome.some h.upd) (ite_of (IfSome.some h.upd) (IfSome.some h.makeReady)))

theorem Safe.overrun {f : Nat} (h : Safe M A s) : Safe M A (s.overrun f) := ite_of h.setFn.error h

theorem Safe.execQtailDoorbell {f : Nat} {tail : BitVec 32} (h : Safe M A s) :
    SafeOut M A (execQtailDoorbell f tail s) :=
  h.event (ite_of IfSome.none (ite_of (IfSome.some h) (IfSome.some h.setFn.overrun)))

theorem Safe.takeEntry {f : Nat} (h : Safe M A s) : IfSome (Safe M A) (s.takeEntry f) := by
  unfold State.takeEntry
  dsimp only
  refine ite_of IfSome.none (ite_of (IfSome.some h.overrun) (IfSome.bind h.readSys fun _ he => ?_))
  refine IfSome.bind he.fst.readSys fun _ hr => IfSome.some (ite_of (IfSome.getD (Safe.decide ?_) ?_) ?_)
  · exact Safe.upd hr.fst.setFn
  · exact Safe.upd hr.fst.setFn
  · exact Safe.upd hr.fst.setFn

theorem Safe.execLaunchEntryTake {f : Nat} (h : Safe M A s) : SafeOut M A (execLaunchEntryTake f s) :=
  h.event h.takeEntry

theorem Safe.flushCluster {k : Nat} (h : Safe M A s) : SafeFst M A (s.flushCluster k) := by
  unfold State.flushCluster
  dsimp only
  refine Safe.releaseCluster (Safe.foldl (Safe.writeBack ?_) fun _ ht _ => ite_of ht ht.evictLine)
  exact h.foldl fun _ ht _ => ht.emit

theorem Safe.dropLaunch {n : Nat} (h : Safe M A s) : Safe M A (s.dropLaunch n) := by
  unfold State.dropLaunch
  dsimp only
  refine Safe.ofCores ?_ (fun _ hc => hc.map (fun e => ?_) fun e he => ?_) fun _ hl => hl.filter
  · exact Safe.foldl (Safe.foldl (h.foldl fun _ ht _ => ht.dropSaved) fun _ ht _ => ht.foldl fun _ hu _ => hu.pushFrame)
      fun _ ht _ => ht.discardMsg
  · exact ite_of (P := fun f : Nat × Core => f.1 = e.1) rfl rfl
  · exact ite_of (P := fun f : Nat × Core => CoreLegal f.2) (coreLegal_same he rfl rfl) (coreLegal_same he rfl rfl)

theorem Safe.setHolder {k : Nat} {h1 : Option Nat} (h : Safe M A s) : Safe M A (s.setHolder k h1) :=
  Safe.upd h.setCluster

theorem Safe.writeCompletion {l : Launch} {status : Nat} (h : Safe M A s) :
    IfSome (Safe M A) (s.writeCompletion l status) :=
  ite_of (IfSome.some h) (IfSome.bindAny (fun _ => ite_of IfSome.none (IfSome.some h.writeSys.setFn)))

theorem Safe.releaseSuccessor {func status lid : Nat} (h : Safe M A s) :
    Safe M A (s.releaseSuccessor func status lid) := by
  unfold State.releaseSuccessor
  dsimp only
  split
  · exact h
  · exact ite_of (IfSome.getD (Safe.decide h.upd) h.upd) h.upd

theorem Safe.finishLaunch {n : Nat} {l : Launch} {status : Nat} (h : Safe M A s) :
    IfSome (Safe M A) (s.finishLaunch n l status) :=
  IfSome.map h.writeCompletion (fun _ ht => Safe.foldl (Safe.foldl (Safe.upd (ht.dropLaunch.foldl (fun _ hu _ =>
    hu.setCluster))) (fun _ hu _ => hu.setHolder)) (fun _ hu _ => hu.releaseSuccessor))

/-- The flush of all the clusters of a launch (R313). -/
theorem Safe.flushed {l : List Nat} (h : Safe M A s) :
    SafeFst M A (l.foldl (fun (a : State × List Nat) k =>
      let q := a.1.flushCluster k
      (q.1, a.2 ++ q.2)) (s, [])) := by
  refine SafeFst.foldl (p := (s, [])) h fun p hp k => ?_
  have hq := Safe.flushCluster (k := k) hp.fst
  generalize p.1.flushCluster k = q at hq
  exact hq

theorem Safe.completeLaunch {n : Nat} (h : Safe M A s) : IfSome (Safe M A) (s.completeLaunch n) := by
  unfold State.completeLaunch
  dsimp only
  cases s.launches.find n with
  | none => exact IfSome.none
  | some l =>
    dsimp only
    cases l.state with
    | waiting => exact ite_of h.decide IfSome.none
    | ready => exact IfSome.none
    | done => exact IfSome.none
    | ended st =>
      dsimp only
      cases l.flushing with
      | some w => exact ite_of h.finishLaunch IfSome.none
      | none =>
        refine ite_of IfSome.none ?_
        exact ite_of (IfSome.some (IfSome.getD (Safe.finishLaunch (Safe.upd h.flushed.fst)) (Safe.upd h.flushed.fst)))
          (IfSome.some (Safe.upd h.flushed.fst))

theorem Safe.execLaunchComplete {launch : Nat} (h : Safe M A s) : SafeOut M A (execLaunchComplete launch s) :=
  h.event h.completeLaunch

theorem Safe.execLaunchTimeout {launch : Nat} (h : Safe M A s) : SafeOut M A (execLaunchTimeout launch s) := by
  unfold Machine.execLaunchTimeout
  dsimp only
  refine h.event ?_
  split
  · exact IfSome.none
  · split
    · exact ite_of (IfSome.some h.endLaunch) IfSome.none
    · exact IfSome.none

theorem Safe.grant {k : Nat} (h : Safe M A s) : IfSome (Safe M A) (s.grant k) := by
  unfold State.grant
  dsimp only
  refine ite_of IfSome.none ?_
  exact IfSome.bindAny (fun ⟨_, _⟩ => ite_of (ite_of IfSome.none (IfSome.some h.wakeDie)) (IfSome.some (Safe.upd
    h.setHolder.setCluster)))

theorem Safe.execClusterGrant {clus : Nat} (h : Safe M A s) : SafeOut M A (execClusterGrant clus s) := h.event h.grant

theorem Safe.execAgeingStep {launch : Nat} (h : Safe M A s) : SafeOut M A (execAgeingStep launch s) := by
  unfold Machine.execAgeingStep
  dsimp only
  refine h.event ?_
  split
  · exact IfSome.none
  · exact ite_of (IfSome.some h.upd) IfSome.none

theorem Safe.beginSave {k n : Nat} (h : Safe M A s) : Safe M A (s.beginSave k n) := h.setCluster

theorem Safe.rotate {k : Nat} (h : Safe M A s) : IfSome (Safe M A) (s.rotate k) := by
  unfold State.rotate
  dsimp only
  split
  · exact IfSome.none
  · refine ite_of IfSome.none ?_
    split
    · exact IfSome.none
    · exact IfSome.some h.beginSave

theorem Safe.execQuantumExpiry {clus : Nat} (h : Safe M A s) : SafeOut M A (execQuantumExpiry clus s) :=
  h.event h.rotate

theorem Safe.preempt {n : Nat} (h : Safe M A s) : IfSome (Safe M A) (s.preempt n) := by
  unfold State.preempt
  dsimp only
  split
  · exact IfSome.none
  · split
    · exact IfSome.none
    · exact IfSome.some h.beginSave

theorem Safe.execPreempt {launch : Nat} (h : Safe M A s) : SafeOut M A (execPreempt launch s) := h.event h.preempt

theorem Safe.launchTable {l : Launch} {va : Word} {words : Nat} (h : Safe M A s) :
    IfSome (SafeFst M A) (s.launchTable l va words) :=
  h.readSys

theorem Safe.vectors {l : Launch} (h : Safe M A s) : IfSome (SafeFst M A) (s.vectors l) :=
  ite_of (IfSome.some h) (IfSome.map h.launchTable (fun _ hr => hr.fst))

theorem Safe.regionTable {l : Launch} {die : Nat} (h : Safe M A s) : IfSome (SafeFst M A) (s.regionTable l die) :=
  IfSome.map h.launchTable (fun _ hr => SafeFst.foldl hr.fst (fun _ ha _ => ite_of ha.fst.error (ite_of ha.fst ha)))

theorem Safe.startCluster {k : Nat} (h : Safe M A s) : IfSome (Safe M A) (s.startCluster k) := by
  unfold State.startCluster
  dsimp only
  split
  · exact IfSome.none
  · refine ite_of IfSome.none ?_
    exact IfSome.bind h.vectors (fun ⟨_, _⟩ hx => IfSome.map hx.regionTable (fun ⟨_, _⟩ hx1 => hx1.setCluster.foldl
      (fun _ hv _ => Safe.setCore hv (SafeCore.upd (SafeCore.cleared hv.core)))))

theorem Safe.execClusterLaunchStart {clus : Nat} (h : Safe M A s) : SafeOut M A (execClusterLaunchStart clus s) :=
  h.event h.startCluster

theorem Safe.saveDeque {k : Nat} (h : Safe M A s) : IfSome (Safe M A) (s.saveDeque k) :=
  IfSome.findSome (fun _ => ite_of h.spillDeque IfSome.none)

theorem Safe.saveSlot {k : Nat} (h : Safe M A s) : IfSome (Safe M A) (s.saveSlot k) :=
  IfSome.findSome (fun _ => h.swapOut)

theorem Safe.clearFrame {a : Nat} (h : Safe M A s) : Safe M A (s.clearFrame a) := h.filterMem.upd

theorem Safe.claimFrames {frames : List Nat} (h : Safe M A s) : Safe M A (s.claimFrames frames) :=
  h.foldl (fun _ ht _ => ht.pullHost)

theorem Safe.writeBanks {frames : List Nat} {sram : Tab Line} (h : Safe M A s) : Safe M A (s.writeBanks frames sram) :=
  Safe.foldl (h.foldl (fun _ ht _ => ht.clearFrame)) (fun _ ht _ => ht.mergeLine)

theorem Safe.writeRest {frames : List Nat} (h : Safe M A s) : Safe M A (s.writeRest frames) :=
  h.foldl (fun _ ht _ => ht.foldl (fun _ hu _ => hu.mergeLine))

theorem Safe.putAway {k n : Nat} {frames : List Nat} (h : Safe M A s) : Safe M A (s.putAway k n frames) := by
  unfold State.putAway
  dsimp only
  refine Safe.setHolder (Safe.foldl (Safe.setCluster ?_) fun _ ht _ => ite_of (ht.setCore ht.core.cleared) ht)
  refine Safe.setSaved ?_ fun a hl => hl.append ((h.cores a).filter (p := fun c => coreClus c == k))
  exact h.claimFrames.writeBanks.writeRest.fresh

theorem Safe.saveCluster {k : Nat} (h : Safe M A s) : IfSome (Safe M A) (s.saveCluster k) := by
  unfold State.saveCluster
  dsimp only
  split
  · split
    next s1 e => exact IfSome.some (h.saveDeque _ e)
    · split
      next s1 e => exact IfSome.some (h.saveSlot _ e)
      · exact ite_of IfSome.none (IfSome.some h.flushCluster.fst.setCluster)
  · refine ite_of IfSome.none ?_
    split
    · exact ite_of (IfSome.some h.takeFrames.fst.putAway) IfSome.none
    · refine ite_of ?_ ?_
      · exact ite_of IfSome.none (IfSome.some h.takeFrames.fst.setCluster)
      · exact IfSome.some h.takeFrames.fst.setCluster.exhausted
  · exact IfSome.none

theorem Safe.execClusterSave {clus : Nat} (h : Safe M A s) : SafeOut M A (execClusterSave clus s) :=
  h.event h.saveCluster

theorem Safe.restoreCluster {k : Nat} (h : Safe M A s) : IfSome (Safe M A) (s.restoreCluster k) := by
  unfold State.restoreCluster
  dsimp only
  split
  · exact IfSome.none
  · intro t ht
    obtain ⟨v, hv, ht⟩ := Option.bind_eq_some_iff.1 ht
    have hc : SafeCore A (Tab.get v.cores k .reset) := SafeCore.get fun a => h.saved a v (List.mem_of_find?_eq_some hv)
    refine ite_of (P := IfSome (Safe M A)) IfSome.none (IfSome.map h.vectors fun p hp => ?_) t ht
    refine Safe.foldl (Safe.foldl (Safe.setCluster (Safe.foldl (Safe.claimFrames (Safe.setSaved hp.fst fun _ hl => hl.filter))
      fun _ hu _ => hu.pushFrame)) fun _ hu i => hu.setCore ?_) fun _ hu _ => hu.updCore
    exact SafeCore.upd (SafeCore.get fun a => h.saved a v (List.mem_of_find?_eq_some hv))

theorem Safe.execClusterRestore {clus : Nat} (h : Safe M A s) : SafeOut M A (execClusterRestore clus s) :=
  h.event h.restoreCluster

theorem Safe.writeArgs {l : Launch} {k : Nat} {n : Node} {inst base a : Nat} (h : Safe M A s) :
    IfSome (Safe M A) (s.writeArgs l k n inst base a) := by
  induction a with
  | zero => exact IfSome.some h
  | succ a ih =>
    refine IfSome.bind ih fun _ ht => ?_
    dsimp only
    split
    · exact ite_of IfSome.none (IfSome.some ht.storeHome)
    · exact IfSome.none

theorem Safe.taskActivation {k : Nat} (h : Safe M A s) : IfSome (Safe M A) (s.taskActivation k) := by
  unfold State.taskActivation
  dsimp only
  split
  · exact IfSome.none
  · refine ite_of IfSome.none ?_
    exact IfSome.bindAny (fun _ => IfSome.bindAny (fun _ => IfSome.map (Safe.writeArgs (Safe.upd h.setStrand)) (fun _
      ht => Safe.invalidate (Safe.upd (Safe.setCore ht.setDie (SafeCore.worked ht.setDie.core))))))

theorem Safe.execTaskActivation {slot : Nat} (h : Safe M A s) : SafeOut M A (execTaskActivation slot s) :=
  h.event h.taskActivation

end Sys2Proof.Machine
end

section
/-! Every step keeps memory canonical and AGE legal: translation and the fleet. -/

namespace Sys2Proof.Machine

open Safety

variable {M A : Prop} {s : State}

theorem Safe.fillTlbs {core : Nat} {x : Xlat} {v : Victims} (h : Safe M A s) : Safe M A (s.fillTlbs core x v) :=
  h.updCore.setCluster.setDie

theorem Safe.walkFails {k : Nat} {e : Entry} {w : Walk} {reason : Nat} (h : Safe M A s) :
    Safe M A (s.walkFails k e w reason) := by
  unfold State.walkFails
  split
  · exact h.freeAt
  · exact h.freeAt
  · exact h.freeAt
  · exact h.setStrand

theorem Safe.entryWalk {k : Nat} {e : Entry} {w : Walk} {v : Victims} (h : Safe M A s) :
    IfSome (Safe M A) (s.entryWalk k e w v) := by
  unfold State.entryWalk
  dsimp only
  split
  · exact h.fillTlbs.retry
  · exact IfSome.none
  · exact ite_of IfSome.none (IfSome.some h.setStrand)
  · exact IfSome.some h.walkFails

theorem Safe.issueFails {k : Nat} {w : Walk} {reason : Nat} (h : Safe M A s) : Safe M A (s.issueFails k w reason) :=
  h.setStrand.trapAtIssue

theorem Safe.issueWalk {k : Nat} {w : Walk} {v : Victims} (h : Safe M A s) : IfSome (Safe M A) (s.issueWalk k w v) := by
  unfold State.issueWalk
  dsimp only
  split
  · exact IfSome.some h.fillTlbs.setStrand
  · exact IfSome.none
  · exact ite_of IfSome.none (IfSome.some h.setStrand)
  · exact IfSome.some h.issueFails

theorem Safe.endWalk {k : Nat} {f : Option Entry × Walk} {v : Victims} (h : Safe M A s) :
    IfSome (Safe M A) (s.endWalk k f v) := by
  unfold State.endWalk
  split
  · exact h.entryWalk
  · exact h.issueWalk

theorem Safe.execTranslationWalkDone {slot seq : Nat} {victim : Victims} (h : Safe M A s) :
    SafeOut M A (execTranslationWalkDone slot seq victim s) :=
  h.event (Safe.swept (IfSome.bindAny (fun _ => ite_of IfSome.none h.endWalk)))

theorem Safe.execMigWalkRetry {slot seq : Nat} (h : Safe M A s) : SafeOut M A (execMigWalkRetry slot seq s) := by
  unfold Machine.execMigWalkRetry
  refine h.event (Safe.swept (IfSome.bindAny (fun _ => ?_)))
  split
  · exact ite_of IfSome.none h.endWalk
  · exact IfSome.none

theorem Safe.execMigTimeout {slot seq : Nat} (h : Safe M A s) : SafeOut M A (execMigTimeout slot seq s) := by
  unfold Machine.execMigTimeout
  refine h.event (IfSome.bindAny (fun _ => ?_))
  split
  · refine ite_of IfSome.none ?_
    split
    · exact IfSome.some h.walkFails
    · exact IfSome.some h.issueFails
  · exact IfSome.none

theorem Safe.invWrite {f : Nat} {w : InvWrite} (h : Safe M A s) : Safe M A (s.invWrite f w) :=
  ite_of h.setFn.startShoot (ite_of h.error h.setFn)

theorem Safe.execTlbinv {f : Nat} {value : Word} (h : Safe M A s) : SafeOut M A (execTlbinv f value s) :=
  h.event (ite_of IfSome.none (IfSome.some h.invWrite))

theorem Safe.execRinv {f : Nat} {value : Word} (h : Safe M A s) : SafeOut M A (execRinv f value s) :=
  h.event (ite_of IfSome.none (IfSome.some h.invWrite))

theorem Safe.dropXlats {d : Nat} {sh : Shoot} (h : Safe M A s) : Safe M A (s.dropXlats sh d) := by
  refine h.ofCores (fun _ hc => hc.map (fun e => ?_) fun e he => ?_) fun _ => id
  · exact ite_of (P := fun f : Nat × Core => f.1 = e.1) rfl rfl
  · exact ite_of (P := fun f : Nat × Core => CoreLegal f.2) (coreLegal_same he rfl rfl) he

theorem Safe.emitNamed {h1 : Shoot} {d : Nat} (h : Safe M A s) : Safe M A (s.emitNamed h1 d) :=
  h.foldl (fun _ ht _ => ht.foldl (fun _ hu _ => ite_of hu.emit hu))

theorem Safe.reloadRegions {l : Launch} {die : Nat} {image : Word} {old : Tab (BitVec 128)} (h : Safe M A s) :
    IfSome (SafeFst M A) (s.reloadRegions l die image old) :=
  IfSome.foldl (IfSome.some h) (fun _ ho _ => IfSome.bind ho (fun _ ha => IfSome.map ha.fst.readSys (fun _ hr => ite_of
    hr.fst.error (ite_of hr.fst hr.fst))))

theorem Safe.reloadDie {d : Nat} {sh : Shoot} (h : Safe M A s) : IfSome (Safe M A) (s.reloadDie sh d) := by
  unfold State.reloadDie
  dsimp only
  refine IfSome.bind (IfSome.foldl (IfSome.some h) fun _ ho _ => IfSome.bind ho fun _ ht =>
    IfSome.map ht.reloadRegions fun _ hr => hr.fst.foldl fun _ hu _ => hu.updCore) fun _ ht => ?_
  refine IfSome.foldl (IfSome.some ht) fun _ ho _ => IfSome.bind ho fun _ hu => ?_
  split
  · refine ite_of (IfSome.some hu) (IfSome.map hu.reloadRegions fun _ hr => hr.fst.setSaved fun _ hl => hl.map fun _ hv => ?_)
    refine ite_of (P := fun v : SavedCluster => CoresLegal v.cores) (hv.map (fun _ => rfl) fun _ hc => ?_) hv
    exact coreLegal_same hc rfl rfl
  · exact IfSome.some hu

theorem Safe.endShoot {h1 : Shoot} (h : Safe M A s) : Safe M A (s.endShoot h1) := by
  unfold State.endShoot
  dsimp only
  refine ite_of ?_ ?_
  · split
    · exact Safe.onCtx h.upd
    · exact h.upd
  · split
    · refine Safe.setFn ?_
      split
      · exact Safe.onCtx h.upd
      · exact h.upd
    · refine Safe.startShoot (Safe.setFn ?_)
      split
      · exact Safe.onCtx h.upd
      · exact h.upd

theorem Safe.setShoot {h1 : Shoot} (h : Safe M A s) : Safe M A (s.setShoot h1) := h.upd

theorem Safe.ackShoot {h1 : Shoot} {d : Nat} (h : Safe M A s) : Safe M A (s.ackShoot h1 d) :=
  ite_of h.setShoot.endShoot h.setShoot

theorem Safe.shootAck {i d : Nat} (h : Safe M A s) : IfSome (Safe M A) (s.shootAck i d) := by
  unfold State.shootAck
  dsimp only
  split
  · exact IfSome.none
  · refine ite_of IfSome.none (ite_of (IfSome.map h.reloadDie (fun _ ht => ht.ackShoot)) ?_)
    split
    · refine ite_of IfSome.none ?_
      exact IfSome.some (ite_of h.dropXlats.emitNamed.setShoot.ackShoot h.dropXlats.emitNamed.setShoot)
    · exact ite_of (IfSome.some h.ackShoot) IfSome.none

theorem Safe.execShootdownAck {i die : Nat} (h : Safe M A s) : SafeOut M A (execShootdownAck i die s) :=
  h.event h.shootAck

theorem Safe.drainFrame {old size : Nat} (h : Safe M A s) : Safe M A (s.drainFrame old size) :=
  h.foldl (fun _ ht _ => ht.foldl (fun _ hu _ => hu.evictLine))

theorem Safe.invFrame {old size : Nat} (h : Safe M A s) : Safe M A (s.invFrame old size) := h.upd

theorem Safe.copyFrame {die old new n : Nat} (h : Safe M A s) : Safe M A (s.copyFrame die old new n) := by
  induction n with
  | zero => exact h
  | succ n ih => exact ite_of ih.upToDate.claimLine.mergeLine.poisonLine ih.upToDate.claimLine.mergeLine

theorem Safe.finishMigration {die : Nat} {m : Migration} (h : Safe M A s) :
    IfSome (Safe M A) (s.finishMigration die m) :=
  ite_of (IfSome.some h.writeSys.setDie) (ite_of IfSome.none (IfSome.some h.copyFrame.writeSys.putFault.setDie))

theorem Safe.migrate {die : Nat} (h : Safe M A s) : IfSome (Safe M A) (s.migrate die) := by
  unfold State.migrate
  dsimp only
  refine IfSome.findSome fun _ => ite_of IfSome.none ?_
  split
  · exact ite_of IfSome.none (IfSome.some h.drainFrame.invFrame.setDie)
  · exact ite_of h.finishMigration IfSome.none

theorem Safe.execMigrationComplete {die : Nat} (h : Safe M A s) : SafeOut M A (execMigrationComplete die s) :=
  h.event h.migrate

theorem Safe.migcmd {die : Nat} {value : Word} (h : Safe M A s) : Safe M A (s.migcmd die value) := by
  unfold State.migcmd
  dsimp only
  refine ite_of h ?_
  split
  · exact h.setDie
  next s1 e => exact (h.startMigration.of_eq e).setDie

theorem Safe.execMigcmd {die : Nat} {value : Word} {who : BitVec 16} (h : Safe M A s) :
    SafeOut M A (execMigcmd die value who s) :=
  h.event (ite_of IfSome.none (h.governed (IfSome.some h.migcmd)))

theorem Safe.takeFault {die : Nat} {f : PageFault} (h : Safe M A s) : IfSome (Safe M A) (s.takeFault die f) := by
  unfold State.takeFault
  dsimp only
  split
  · exact ite_of (IfSome.some h.setDie) IfSome.none
  · exact ite_of IfSome.none (ite_of (IfSome.some h.setDie) (ite_of IfSome.none (IfSome.some h.setDie)))

theorem Safe.recordFault {die : Nat} (h : Safe M A s) : IfSome (Safe M A) (s.recordFault die) := by
  unfold State.recordFault
  dsimp only
  split
  · exact IfSome.none
  · exact ite_of IfSome.none (IfSome.some h.putFault.setDie)

theorem Safe.pageFault {die : Nat} (h : Safe M A s) : IfSome (Safe M A) (s.pageFault die) := by
  unfold State.pageFault
  dsimp only
  refine ite_of IfSome.none ?_
  split
  next s1 e =>
    have ht := (IfSome.findSome (fun _ => h.takeFault)) _ e
    exact IfSome.some (IfSome.getD ht.recordFault ht)
  · exact h.recordFault

theorem Safe.execPageFault {die : Nat} (h : Safe M A s) : SafeOut M A (execPageFault die s) :=
  h.event (ite_of IfSome.none h.pageFault)

theorem Safe.endPending {die : Nat} {record : BitVec 12} (h : Safe M A s) : Safe M A (s.endPending die record) :=
  h.setDie

theorem Safe.resolved {ctx : Nat} (h : Safe M A s) : Safe M A (s.resolved ctx) := by
  unfold State.resolved
  split
  · exact h
  · exact h.sendAct

theorem Safe.execFresRetry {die : Nat} {record : BitVec 12} {who : BitVec 16} (h : Safe M A s) :
    SafeOut M A (execFresRetry die record who s) := by
  unfold Machine.execFresRetry
  refine h.event (ite_of IfSome.none (h.governed (IfSome.some ?_)))
  split
  · exact h
  · exact h.endPending.foldl fun _ ht _ => ht.resolved

theorem Safe.execFresKill {die : Nat} {record : BitVec 12} {who : BitVec 16} (h : Safe M A s) :
    SafeOut M A (execFresKill die record who s) := by
  unfold Machine.execFresKill
  refine h.event (ite_of IfSome.none (h.governed (IfSome.some ?_)))
  split
  · exact h
  · refine Safe.foldl h.endPending fun _ ht _ => ?_
    split
    · exact ht.endLaunch
    · exact ht

theorem Safe.execFaultRingHeadWrite {die : Nat} {value : Word} {who : BitVec 16} (h : Safe M A s) :
    SafeOut M A (execFaultRingHeadWrite die value who s) :=
  h.event (ite_of IfSome.none (h.governed (IfSome.some h.setDie)))

theorem Safe.execFaultUnitEnable {die : Nat} {value : Word} {who : BitVec 16} (h : Safe M A s) :
    SafeOut M A (execFaultUnitEnable die value who s) :=
  h.event (ite_of IfSome.none (h.governed (IfSome.some h.setDie)))

theorem Safe.execClaim {value : Word} {channel : Nat} (h : Safe M A s) : SafeOut M A (execClaim value channel s) := by
  unfold Machine.execClaim
  dsimp only
  refine h.event (ite_of IfSome.none ?_)
  split <;> exact IfSome.some (Safe.upd h.expireLease)

theorem Safe.execLeaseExpiry (h : Safe M A s) : SafeOut M A (execLeaseExpiry s) :=
  h.event (ite_of IfSome.none (IfSome.some h.expireLease))

theorem Safe.applyRecord {r : ConfigRecord} (h : Safe M A s) : Safe M A (s.applyRecord r) := h.upd

theorem Safe.execSecureBoot (h : Safe M A s) : SafeOut M A (execSecureBoot s) := by
  unfold Machine.execSecureBoot
  dsimp only
  refine h.event (ite_of IfSome.none ?_)
  split
  · exact IfSome.some h.upd
  · exact IfSome.some (Safe.applyRecord h.upd)

theorem Safe.execRecoveryImageWrite {slotB : Bool} {image : Image} (h : Safe M A s) :
    SafeOut M A (execRecoveryImageWrite slotB image s) :=
  h.event (ite_of IfSome.none (ite_of (IfSome.some h) (ite_of (IfSome.some h.upd) (IfSome.some h.upd))))

theorem Safe.execAttestationReport {nonce : BitVec 256} (h : Safe M A s) :
    SafeOut M A (execAttestationReport nonce s) := by
  unfold Machine.execAttestationReport
  dsimp only
  refine h.event ?_
  split
  · exact IfSome.none
  · exact ite_of IfSome.none (ite_of (IfSome.some h.upd) (IfSome.some h.upd))

theorem Safe.execConfigRecordReplace {record : ConfigRecord} {who : BitVec 16} (h : Safe M A s) :
    SafeOut M A (execConfigRecordReplace record who s) := by
  unfold Machine.execConfigRecordReplace
  dsimp only
  refine h.event ?_
  split
  · exact IfSome.none
  · refine ite_of IfSome.none (ite_of (IfSome.some h) ?_)
    split <;> exact IfSome.some h.upd

theorem Safe.execPartWrite {k : BitVec 6} {value : Word} {who : BitVec 16} (h : Safe M A s) :
    SafeOut M A (execPartWrite k value who s) :=
  h.event (h.governed (IfSome.some h.setPart))

theorem Safe.scrub {k : Nat} (h : Safe M A s) : Safe M A (s.scrub k) := h.filterMem.upd

theorem Safe.assign {k : Nat} {f : BitVec 10} {en : Bool} (h : Safe M A s) : Safe M A (s.assign k f en) := h.setPart

theorem Safe.partChange {k : Nat} (h : Safe M A s) : IfSome (Safe M A) (s.partChange k) := by
  unfold State.partChange
  dsimp only
  split
  · exact IfSome.none
  · refine ite_of IfSome.none (ite_of (IfSome.some h.assign) ?_)
    split
    · exact IfSome.some h.drainFrame.invFrame.setPart
    · exact ite_of (IfSome.some h.scrub.assign) IfSome.none

theorem Safe.execPartitionChange {k : BitVec 6} (h : Safe M A s) : SafeOut M A (execPartitionChange k s) :=
  h.event h.partChange

theorem Safe.dropLink {l : Nat} (h : Safe M A s) : Safe M A (s.dropLink l) := h.setLink.foldl (fun _ ht _ => ht.lose)

theorem Safe.dropTransit {l : Nat} (h : Safe M A s) : Safe M A (s.dropTransit l) :=
  Safe.foldl h.upd (fun _ ht _ => ht.loseMsg)

theorem Safe.losePort {l : Nat} (h : Safe M A s) : Safe M A (s.losePort l) :=
  h.foldl (fun _ ht _ => ite_of ht (IfSome.getD ht.linkFailure ht))

theorem Safe.loseLink {l : Nat} (h : Safe M A s) : Safe M A (s.loseLink l) := by
  unfold State.loseLink
  dsimp only
  refine ite_of ?_ ?_
  · exact h.error.dropLink.dropLink.dropTransit.dropTransit.sweep
  · exact ite_of h.error.setLink.declareDown h.error.setLink.losePort

theorem Safe.execLinkDown {link : Nat} (h : Safe M A s) : SafeOut M A (execLinkDown link s) :=
  h.event (ite_of IfSome.none (IfSome.some h.loseLink))

theorem Safe.loseLane {l : Nat} {last : Bool} (h : Safe M A s) : Safe M A (s.loseLane l last) := h.setLink

theorem Safe.laneRetire {l : Nat} (h : Safe M A s) : IfSome (Safe M A) (s.laneRetire l) := by
  unfold State.laneRetire
  split
  · exact IfSome.none
  · extract_lets _ t _ u
    have ht : Safe M A t := h.upd
    have hu : Safe M A u := ite_of ht.loseLane.loseLane ht.loseLane
    exact IfSome.some (ite_of hu.error.loseLink hu.error)

theorem Safe.execLaneRetire {link : Nat} (h : Safe M A s) : SafeOut M A (execLaneRetire link s) := h.event h.laneRetire

theorem Safe.retrain {l : Nat} (h : Safe M A s) : Safe M A (s.retrain l) :=
  ite_of (ite_of (Safe.setLink (ite_of h.setLink h)) (ite_of h.setLink h)) (ite_of h.setLink h)

theorem Safe.act {t : Tracked} (h : Safe M A s) : Safe M A (s.act t) := by
  unfold State.act
  dsimp only
  split
  · exact Safe.retrain h.upd
  · exact Safe.retrain h.upd
  · exact Safe.retrain h.upd
  · exact ite_of (ite_of (Safe.foldl (Safe.error h.upd) (fun _ ht _ => ht.error)) (Safe.error h.upd)) (Safe.upd h.upd)

theorem Safe.correctable {kind : Resource} {die address : Nat} (h : Safe M A s) :
    IfSome (Safe M A) (s.correctable kind die address) :=
  ite_of IfSome.none (ite_of (IfSome.some h) (ite_of (IfSome.some h.upd) (IfSome.some h.error.act)))

theorem Safe.execCorrectableError {kind : Resource} {die address : Nat} (h : Safe M A s) :
    SafeOut M A (execCorrectableError kind die address s) :=
  h.event h.correctable

theorem Safe.execRowRemap {i : Nat} (h : Safe M A s) : SafeOut M A (execRowRemap i s) :=
  h.event (IfSome.bindAny (fun _ => ite_of IfSome.none (IfSome.some (Safe.sweep (Safe.error h.upd)))))

theorem Safe.execGovernorTick {power : BitVec 12} {temp : BitVec 10} (h : Safe M A s) :
    SafeOut M A (execGovernorTick power temp s) := by
  unfold Machine.execGovernorTick
  dsimp only
  refine h.event (ite_of IfSome.none (IfSome.some ?_))
  split
  · exact Safe.error h.upd
  · exact h.upd

theorem Safe.writeReg {r : PlainReg} {v : Word} (h : Safe M A s) : Safe M A (s.writeReg r v) := by
  unfold State.writeReg
  dsimp only
  split
  · exact h.setFn
  · exact h.setFn.overrun
  · exact h.setFn
  · exact h.setFn
  · exact h.setFn
  · exact h.setFn
  · exact h.setFn
  · exact h.setFn
  · exact h.upd
  · exact h.upd
  · exact h.upd
  · exact h.upd
  · exact h.upd
  · exact h.setDie
  · exact h.setDie
  · exact h.setDie
  · exact h.setDie
  · exact h.setDie
  · exact h.setDie
  · exact h.setDie.lowCheck
  · exact h.setDie.lowCheck
  · exact h.upd
  · exact h.upd
  · exact h.upd
  · exact h.upd
  · exact h.upd
  · exact h.upd
  · exact h
  · exact h
  · exact h
  · exact h
  · exact h
  · exact h
  · exact h

theorem Safe.registerWrite {fn : Nat} {reg : PlainReg} {value : Word} {who : BitVec 16} (h : Safe M A s) :
    IfSome (Safe M A) (s.registerWrite fn reg value who) := by
  unfold State.registerWrite
  dsimp only
  split
  · exact h.governed (IfSome.some h.writeReg)
  · split
    · exact IfSome.some (ite_of h.writeReg h)
    · exact IfSome.some h.writeReg

theorem Safe.execRegisterWrite {reg : BarReg} {value : Word} {who : BitVec 16} (h : Safe M A s) :
    SafeOut M A (execRegisterWrite reg value who s) :=
  h.event (ite_of IfSome.none h.registerWrite)

end Sys2Proof.Machine
end

section
/-! Every step keeps memory canonical and AGE legal: the matrix unit and the system instructions. -/

namespace Sys2Proof.Machine

open Safety

variable {M A : Prop} {s : State}

theorem Safe.execMfmt {a b : Src} (h : Safe M A s) : SafeOut M A (execMfmt a b s) :=
  Safe.issue (fun _ => ite_of trivial (ite_of trivial (ite_of trivial h.emit.setMat.setMe))) h

theorem Safe.mmaIssue {i : Instr} {mmat : Bool} {fa fb : BitVec 5} {a b : Src} (h : Safe M A s) :
    SafeOut M A (mmaIssue i mmat fa fb a b s) := by
  unfold Machine.mmaIssue
  dsimp only
  refine Safe.issue (fun _ => ite_of trivial (ite_of trivial (ite_of trivial (ite_of trivial (ite_of trivial (ite_of
    trivial (ite_of trivial (ite_of trivial (ite_of trivial ?_))))))))) h
  split
  · exact trivial
  · exact trivial
  · exact ite_of trivial h.setMat.setMe

theorem Safe.execMma {fa fb : BitVec 5} {a b : Src} (h : Safe M A s) : SafeOut M A (execMma fa fb a b s) := h.mmaIssue

theorem Safe.execMmat {fa fb : BitVec 5} {a b : Src} (h : Safe M A s) : SafeOut M A (execMmat fa fb a b s) := h.mmaIssue

theorem Safe.serveCore {kn c : Nat} (h : Safe M A s) : IfSome (Safe M A) (s.serveCore kn c) := by
  unfold State.serveCore
  dsimp only
  split
  · exact IfSome.none
  · refine ite_of IfSome.none ?_
    split
    · exact IfSome.none
    · exact ite_of IfSome.none (IfSome.some h.setCluster)

theorem Safe.execMatrixRequestServe {clus : Nat} (h : Safe M A s) : SafeOut M A (execMatrixRequestServe clus s) :=
  h.event (IfSome.findSome (fun _ => h.serveCore))

theorem Safe.execCoalescingEmit {core : Nat} (h : Safe M A s) : SafeOut M A (execCoalescingEmit core s) := by
  unfold Machine.execCoalescingEmit
  dsimp only
  refine h.event ?_
  split
  · exact IfSome.none
  · exact ite_of IfSome.none (IfSome.some h.setMat.emitBuf.sweep)

theorem Safe.execAccz {a b : Src} (h : Safe M A s) : SafeOut M A (execAccz a b s) := Safe.issue (fun _ => h.issueMem) h

theorem Safe.execAccrd {d : RegNo} {a : Src} (h : Safe M A s) : SafeOut M A (execAccrd d a s) :=
  Safe.issue (fun _ => h.issueMem) h

theorem Safe.execAcccvt {src : AccTy} {dst : Elem} {sat : Bool} {rnd : Round} {a b : Src} (h : Safe M A s) :
    SafeOut M A (execAcccvt src dst sat rnd a b s) :=
  Safe.issue (fun _ => h.issueMem) h

theorem Safe.clearStat {core unit idx ctr : Nat} (h : Safe M A s) : Safe M A (s.clearStat core unit idx ctr) := by
  unfold State.clearStat
  dsimp only
  split
  · exact h.setMat
  · exact h.setCluster
  · exact h.setCluster
  · exact h.setSlice
  · exact h.setPort

theorem Safe.execMstat {d : RegNo} {a : Src} (h : Safe M A s) : SafeOut M A (execMstat d a s) :=
  Safe.issue (fun _ => ite_of trivial (ite_of trivial (Safe.setMe (ite_of h h.clearStat)))) h

theorem Safe.execTrap {e : BitVec 10} (h : Safe M A s) : SafeOut M A (execTrap e s) := Safe.issue (fun _ => trivial) h

theorem Safe.execBrk {e : BitVec 10} (h : Safe M A s) : SafeOut M A (execBrk e s) := Safe.issue (fun _ => trivial) h

theorem Safe.execHalt (h : Safe M A s) : SafeOut M A (execHalt s) :=
  Safe.issue (fun _ => ite_of trivial h.releaseThen) h

theorem Safe.execIllegalInstruction {w : BitVec 32} (h : Safe M A s) : SafeOut M A (execIllegalInstruction w s) :=
  Safe.issue (fun _ => trivial) h

theorem Safe.replay {i : Instr} {ops : List Opnd} {early : Option Nat} {f : Strand → Saved → Res}
    (hf : ∀ a b, SafeRes M A (f a b)) (h : Safe M A s) : SafeOut M A (replay i ops early f s) := by
  unfold Machine.replay
  refine Safe.issue (fun _ => ?_) h
  split
  · exact trivial
  · split
    · exact trivial
    · split
      · exact ite_of (hf _ _) trivial
      · exact trivial

theorem Safe.execRqrd {d : RegNo} {q : BitVec 4} {w : BitVec 6} (h : Safe M A s) : SafeOut M A (execRqrd d q w s) :=
  Safe.replay (fun _ _ => h.setMe) h

theorem Safe.execRqwr {a : Src} {q : BitVec 4} {w : BitVec 6} (h : Safe M A s) : SafeOut M A (execRqwr a q w s) :=
  Safe.replay (fun _ _ => ite_of trivial h.writeImage.setMe) h

theorem Safe.execRqdel {q : BitVec 4} (h : Safe M A s) : SafeOut M A (execRqdel q s) :=
  Safe.replay (fun _ _ => ite_of trivial h.writeImage.setMe) h

theorem Safe.execRte (h : Safe M A s) : SafeOut M A (execRte s) := by
  unfold Machine.execRte
  refine Safe.issue (fun _ => ite_of trivial (ite_of trivial ?_)) h
  split
  next s1 e => exact h.returnTrap _ e
  · exact trivial

theorem Safe.shootdown {i : Instr} {entry : Bool} {a : Src} {reserved : Word → Bool} (h : Safe M A s) :
    SafeOut M A (shootdown i entry a reserved s) :=
  Safe.issue (fun _ => ite_of trivial (ite_of trivial (ite_of trivial h.releaseThen))) h

theorem Safe.execTlbi {a : Src} (h : Safe M A s) : SafeOut M A (execTlbi a s) := h.shootdown

theorem Safe.execRegi {a : Src} (h : Safe M A s) : SafeOut M A (execRegi a s) := h.shootdown

end Sys2Proof.Machine
end

section
/-! Every step keeps memory canonical and AGE legal: registers, resets, and the step. -/

namespace Sys2Proof.Machine

open Safety

section

variable {M A : Prop} {s : State}

/-- The instruction or event that runs keeps both. -/
theorem Safe.exec {i : Instr} (h : Safe M A s) : SafeOut M A (exec i s) :=
  match i with
  | .add .. => h.execAdd
  | .adds .. => h.execAdds
  | .sub .. => h.execSub
  | .mul .. => h.execMul
  | .mulh .. => h.execMulh
  | .div .. => h.execDiv
  | .rem .. => h.execRem
  | .neg .. => h.execNeg
  | .and .. => h.execAnd
  | .andn .. => h.execAndn
  | .or .. => h.execOr
  | .xor .. => h.execXor
  | .shl .. => h.execShl
  | .shr .. => h.execShr
  | .rot .. => h.execRot
  | .clz .. => h.execClz
  | .ctz .. => h.execCtz
  | .popc .. => h.execPopc
  | .brev .. => h.execBrev
  | .min .. => h.execMin
  | .max .. => h.execMax
  | .sel .. => h.execSel
  | .mov .. => h.execMov
  | .cmpEq .. => h.execCmpEq
  | .cmpNe .. => h.execCmpNe
  | .cmpLt .. => h.execCmpLt
  | .cmpLe .. => h.execCmpLe
  | .cmpGt .. => h.execCmpGt
  | .cmpGe .. => h.execCmpGe
  | .addi .. => h.execAddi
  | .andi .. => h.execAndi
  | .ori .. => h.execOri
  | .xori .. => h.execXori
  | .shli .. => h.execShli
  | .shriN64 .. => h.execShriN64
  | .shriS64 .. => h.execShriS64
  | .cmpi .. => h.execCmpi
  | .extr .. => h.execExtr
  | .insr .. => h.execInsr
  | .widf .. => h.execWidf
  | .rds .. => h.execRds
  | .wrs .. => h.execWrs
  | .li .. => h.execLi
  | .lih .. => h.execLih
  | .lea .. => h.execLea
  | .fadd .. => h.execFadd
  | .fsub .. => h.execFsub
  | .fmul .. => h.execFmul
  | .fdiv .. => h.execFdiv
  | .fsqrt .. => h.execFsqrt
  | .ffma .. => h.execFfma
  | .fmin .. => h.execFmin
  | .fmax .. => h.execFmax
  | .fcmpEq .. => h.execFcmpEq
  | .fcmpLt .. => h.execFcmpLt
  | .fcmpLe .. => h.execFcmpLe
  | .fcmpUn .. => h.execFcmpUn
  | .fclass .. => h.execFclass
  | .fcvt .. => h.execFcvt
  | .br .. => h.execBr
  | .call .. => h.execCall
  | .brc .. => h.execBrc
  | .loopn .. => h.execLoopn
  | .bri .. => h.execBri
  | .calli .. => h.execCalli
  | .ret .. => h.execRet
  | .vif .. => h.execVif
  | .velse => h.execVelse
  | .vend => h.execVend
  | .nop => h.execNop
  | .ld .. => h.execLd
  | .st .. => h.execSt
  | .ldg .. => h.execLdg
  | .sts .. => h.execSts
  | .ldp .. => h.execLdp
  | .ldv .. => h.execLdv
  | .stv .. => h.execStv
  | .pf .. => h.execPf
  | .flush .. => h.execFlush
  | .invl .. => h.execInvl
  | .fenceAcq .. => h.execFenceAcq
  | .fenceRel .. => h.execFenceRel
  | .fenceFull .. => h.execFenceFull
  | .mode .. => h.execMode
  | .amo .. => h.execAmo
  | .cas .. => h.execCas
  | .famo .. => h.execFamo
  | .red .. => h.execRed
  | .fredAdd .. => h.execFredAdd
  | .fredMinmax .. => h.execFredMinmax
  | .vred .. => h.execVred
  | .get .. => h.execGet
  | .put .. => h.execPut
  | .putf .. => h.execPutf
  | .dlg .. => h.execDlg
  | .dlgn .. => h.execDlgn
  | .dret .. => h.execDret
  | .spawn .. => h.execSpawn
  | .sync .. => h.execSync
  | .retire => h.execRetire
  | .pubf .. => h.execPubf
  | .pubt .. => h.execPubt
  | .bind .. => h.execBind
  | .unbind .. => h.execUnbind
  | .jctr .. => h.execJctr
  | .bar .. => h.execBar
  | .bari .. => h.execBari
  | .barq .. => h.execBarq
  | .donate .. => h.execDonate
  | .trec .. => h.execTrec
  | .tenq .. => h.execTenq
  | .msg .. => h.execMsg
  | .msgv .. => h.execMsgv
  | .fpush .. => h.execFpush
  | .fpop .. => h.execFpop
  | .vadd .. => h.execVadd
  | .vsub .. => h.execVsub
  | .vmul .. => h.execVmul
  | .vdiv .. => h.execVdiv
  | .vmin .. => h.execVmin
  | .vmax .. => h.execVmax
  | .vabs .. => h.execVabs
  | .vneg .. => h.execVneg
  | .vsqrt .. => h.execVsqrt
  | .vrcp .. => h.execVrcp
  | .vrsq .. => h.execVrsq
  | .vexp2 .. => h.execVexp2
  | .vlog2 .. => h.execVlog2
  | .vsum .. => h.execVsum
  | .vrmax .. => h.execVrmax
  | .vrmin .. => h.execVrmin
  | .vaddInt .. => h.execVaddInt
  | .vsubInt .. => h.execVsubInt
  | .vmulInt .. => h.execVmulInt
  | .vminS .. => h.execVminS
  | .vminN .. => h.execVminN
  | .vmaxS .. => h.execVmaxS
  | .vmaxN .. => h.execVmaxN
  | .vnegInt .. => h.execVnegInt
  | .vshl .. => h.execVshl
  | .vshrS .. => h.execVshrS
  | .vshrN .. => h.execVshrN
  | .vsumInt .. => h.execVsumInt
  | .vimad .. => h.execVimad
  | .vcmpEqInt .. => h.execVcmpEqInt
  | .vcmpLtS .. => h.execVcmpLtS
  | .vcmpLtN .. => h.execVcmpLtN
  | .vand .. => h.execVand
  | .vor .. => h.execVor
  | .vxor .. => h.execVxor
  | .vnot .. => h.execVnot
  | .vsel .. => h.execVsel
  | .vmov .. => h.execVmov
  | .mand .. => h.execMand
  | .mor .. => h.execMor
  | .mxor .. => h.execMxor
  | .mnot .. => h.execMnot
  | .mpop .. => h.execMpop
  | .mfirst .. => h.execMfirst
  | .mset .. => h.execMset
  | .mmovx .. => h.execMmovx
  | .vcmp .. => h.execVcmp
  | .vperm .. => h.execVperm
  | .vshuf .. => h.execVshuf
  | .vbcast .. => h.execVbcast
  | .viota .. => h.execViota
  | .vcmpr .. => h.execVcmpr
  | .vexpd .. => h.execVexpd
  | .vins .. => h.execVins
  | .vext .. => h.execVext
  | .vcvt .. => h.execVcvt
  | .vscale .. => h.execVscale
  | .vqnt .. => h.execVqnt
  | .vdqnt .. => h.execVdqnt
  | .vfmaF32F64 .. => h.execVfmaF32F64
  | .vfmaBf16F16 .. => h.execVfmaBf16F16
  | .vfmsF32F64 .. => h.execVfmsF32F64
  | .vfmsBf16F16 .. => h.execVfmsBf16F16
  | .mma .. => h.execMma
  | .mmat .. => h.execMmat
  | .mfmt .. => h.execMfmt
  | .accz .. => h.execAccz
  | .accrd .. => h.execAccrd
  | .mstat .. => h.execMstat
  | .acccvt .. => h.execAcccvt
  | .cpy .. => h.execCpy
  | .cstg .. => h.execCstg
  | .cring .. => h.execCring
  | .nmg .. => h.execNmg
  | .nmr .. => h.execNmr
  | .nmc .. => h.execNmc
  | .dpost .. => h.execDpost
  | .xsend .. => h.execXsend
  | .xarm .. => h.execXarm
  | .xstat .. => h.execXstat
  | .route .. => h.execRoute
  | .icfg .. => h.execIcfg
  | .trap .. => h.execTrap
  | .rte => h.execRte
  | .halt => h.execHalt
  | .brk .. => h.execBrk
  | .rqrd .. => h.execRqrd
  | .rqwr .. => h.execRqwr
  | .rqdel .. => h.execRqdel
  | .tlbi .. => h.execTlbi
  | .regi .. => h.execRegi
  | .illegalInstruction .. => h.execIllegalInstruction
  | .messageArrival .. => h.execMessageArrival
  | .activation .. => h.execActivation
  | .seedActivation .. => h.execSeedActivation
  | .pickWork .. => h.execPickWork
  | .dequeSpill .. => h.execDequeSpill
  | .dequeRefill .. => h.execDequeRefill
  | .stealBackoffExpiry .. => h.execStealBackoffExpiry
  | .stealProbe .. => h.execStealProbe
  | .stealMove .. => h.execStealMove
  | .joinDecrement .. => h.execJoinDecrement
  | .parkMove .. => h.execParkMove
  | .barrierArrival .. => h.execBarrierArrival
  | .dlgReply .. => h.execDlgReply
  | .donationIntake .. => h.execDonationIntake
  | .donationWaitExpiry .. => h.execDonationWaitExpiry
  | .drain .. => h.execDrain
  | .fill .. => h.execFill
  | .evict .. => h.execEvict
  | .hop .. => h.execHop
  | .ingress .. => h.execIngress
  | .biack .. => h.execBiack
  | .hostw .. => h.execHostw
  | .host .. => h.execHost
  | .eng .. => h.execEng
  | .edge .. => h.execEdge
  | .modeComplete .. => h.execModeComplete
  | .translationWalkDone .. => h.execTranslationWalkDone
  | .scheduleEntryStart .. => h.execScheduleEntryStart
  | .nearMemoryExec .. => h.execNearMemoryExec
  | .matrixRequestServe .. => h.execMatrixRequestServe
  | .coalescingEmit .. => h.execCoalescingEmit
  | .centroidPost .. => h.execCentroidPost
  | .roundDeadlineExpiry => h.execRoundDeadlineExpiry
  | .calendarArrival .. => h.execCalendarArrival
  | .phaseStart .. => h.execPhaseStart
  | .phaseEnd .. => h.execPhaseEnd
  | .ingressRow .. => h.execIngressRow
  | .exchangeLinkFailure .. => h.execExchangeLinkFailure
  | .heartbeatTimer => h.execHeartbeatTimer
  | .centroidTakeover .. => h.execCentroidTakeover
  | .generationChange .. => h.execGenerationChange
  | .gnomonExchange .. => h.execGnomonExchange
  | .qtailDoorbell .. => h.execQtailDoorbell
  | .launchEntryTake .. => h.execLaunchEntryTake
  | .launchComplete .. => h.execLaunchComplete
  | .launchTimeout .. => h.execLaunchTimeout
  | .clusterGrant .. => h.execClusterGrant
  | .ageingStep .. => h.execAgeingStep
  | .quantumExpiry .. => h.execQuantumExpiry
  | .preempt .. => h.execPreempt
  | .clusterSave .. => h.execClusterSave
  | .clusterRestore .. => h.execClusterRestore
  | .clusterLaunchStart .. => h.execClusterLaunchStart
  | .taskActivation .. => h.execTaskActivation
  | .tlbinv .. => h.execTlbinv
  | .rinv .. => h.execRinv
  | .shootdownAck .. => h.execShootdownAck
  | .migWalkRetry .. => h.execMigWalkRetry
  | .migTimeout .. => h.execMigTimeout
  | .pageFault .. => h.execPageFault
  | .fresRetry .. => h.execFresRetry
  | .fresKill .. => h.execFresKill
  | .migcmd .. => h.execMigcmd
  | .migrationComplete .. => h.execMigrationComplete
  | .trapTake .. => h.execTrapTake
  | .stagingFill .. => h.execStagingFill
  | .contextSwap .. => h.execContextSwap
  | .contextSpill .. => h.execContextSpill
  | .sfladd .. => h.execSfladd
  | .hostSnoop .. => h.execHostSnoop
  | .bisnpTimeout .. => h.execBisnpTimeout
  | .hostLinkDown .. => h.execHostLinkDown
  | .diePowerGate .. => h.execDiePowerGate
  | .dieWarmReset .. => h.execDieWarmReset
  | .dieFatalReset .. => h.execDieFatalReset
  | .linkwakeMaxExpiry .. => h.execLinkwakeMaxExpiry
  | .diedeadTmoExpiry .. => h.execDiedeadTmoExpiry
  | .claim .. => h.execClaim
  | .leaseExpiry => h.execLeaseExpiry
  | .secureBoot => h.execSecureBoot
  | .recoveryImageWrite .. => h.execRecoveryImageWrite
  | .attestationReport .. => h.execAttestationReport
  | .configRecordReplace .. => h.execConfigRecordReplace
  | .cgConfigWrite .. => h.execCgConfigWrite
  | .partWrite .. => h.execPartWrite
  | .partitionChange .. => h.execPartitionChange
  | .correctableError .. => h.execCorrectableError
  | .rowRemap .. => h.execRowRemap
  | .laneRetire .. => h.execLaneRetire
  | .linkDown .. => h.execLinkDown
  | .uncorrectableError .. => h.execUncorrectableError
  | .governorTick .. => h.execGovernorTick
  | .registerWrite .. => h.execRegisterWrite
  | .fabricPortAtomic .. => h.execFabricPortAtomic
  | .dieLinkTrained .. => h.execDieLinkTrained
  | .hostLinkWarmReset .. => h.execHostLinkWarmReset
  | .faultRingHeadWrite .. => h.execFaultRingHeadWrite
  | .faultUnitEnable .. => h.execFaultUnitEnable
  | .saveFrameStackEnable .. => h.execSaveFrameStackEnable

theorem Safe.registerRead {fn : Nat} {r : PlainReg ⊕ OtherReg} (h : Safe M A s) :
    IfSome (Safe M A) (s.registerRead fn r) :=
  ite_of IfSome.none (IfSome.some h.upd)

theorem Safe.deviceReset (h : Safe M A s) : Safe M A s.deviceReset :=
  ⟨fun m => Memory.filter_wf (h.1 m) _, fun _ => ⟨CoresLegal.nil, nofun⟩⟩

theorem Safe.issueSlot {k : Nat} (h : Safe M A s) : SafeOut M A (s.issueSlot k) := by
  unfold State.issueSlot
  dsimp only
  split
  next s' i e => exact ite_of (SafeOut.next h.waits) (h.fetch.of_eq e).exec
  · exact SafeOut.next h.setStrand.waits
  · exact SafeOut.next h.trapAtIssue.ran
  · exact SafeOut.next h.waits

theorem Safe.attempt {k : Nat} (h : Safe M A s) : SafeOut M A (s.attempt k) := by
  unfold State.attempt
  dsimp only
  refine ite_of (SafeOut.next (Safe.waits h.upd)) (ite_of (SafeOut.next (Safe.endStrand h.upd)) ?_)
  split
  · refine ite_of (SafeOut.next (Safe.waits h.upd)) (Safe.event h.upd ?_)
    split
    · exact Safe.redelegate h.upd
    · exact Safe.retry h.upd
  · refine ite_of (SafeOut.next (Safe.waits h.upd)) ?_
    split
    · exact Safe.issueSlot (Safe.setStrand h.upd)
    · exact Safe.issueSlot h.upd

theorem Safe.runIssue {c : Nat} {held : List Nat} (h : Safe M A s) : SafeOut M A (s.runIssue c held) := by
  unfold State.runIssue
  dsimp only
  generalize ht : List.map (fun n => (⟨n, s.attempt (slotKey c n)⟩ : Tried)) _ = tried
  have tries : ∀ r ∈ tried, SafeOut M A r.out := by
    intro r hr
    rw [← ht] at hr
    obtain ⟨n, _, rfl⟩ := List.mem_map.1 hr
    exact h.attempt
  split
  next r e => exact tries r (List.mem_of_find?_eq_some e)
  · split
    · exact SafeOut.next h.waits
    · split
      next r e =>
        have hr := tries r (List.mem_of_find?_eq_some e)
        split
        next t e' => exact SafeOut.next (Safe.setCore (hr t e') (Safe.core (hr t e')).issued)
        · exact hr
      · exact SafeOut.next h.waits

theorem Safe.unproved (h : Safe M A s) : Safe M A s.unproved := h.foldl (fun _ ht _ => ht.setDie)

theorem Safe.elapse {ns : Nat} (h : Safe M A s) : Safe M A (s.elapse ns) :=
  Safe.expireLease (Safe.unproved (Safe.foldl h.upd (fun _ ht _ => ht.setDie)))

theorem Safe.turn {t : Turn} (h : Safe M A s) : SafeOut M A (s.turn t) := by
  unfold State.turn
  split
  · exact h.runIssue
  · exact h.exec
  · exact SafeOut.next h.elapse.ran
  · exact h.event h.slotRequest
  · exact h.event h.registerRead
  · exact SafeOut.next h.deviceReset.ran
  · exact h.event h.peer
  · exact h.event h.peer
  · exact h.event h.peer
  · exact h.event h.peer
  · exact h.event h.peer
  · exact h.event h.peer
  · exact h.event h.peer

theorem Safe.step (h : Safe M A s) : SafeOut M A (step s) := by
  unfold Machine.step
  split
  · exact h.runIssue
  · exact Safe.turn h.upd

end

/-- Settles O58: each operation of the model writes memory through writes and merges of lines, which keep the canonical form, or
leaves cells out of it; `Safe.step` carries that through the step. -/
theorem everyStepKeepsMemoryCanonical : Obligations.EveryStepKeepsMemoryCanonical := by
  intro s t h ht
  exact (Safe.step (M := True) (A := False) ⟨fun _ => h, False.elim⟩ t ht).1 trivial

/-- Settles O59: only a write of AGE and the counting at an issue touch AGE and the counters, and both keep to R14; cores move
whole between the clusters and those that are saved; `Safe.step` carries that through the step. -/
theorem everyStepKeepsAgeLegal : Obligations.EveryStepKeepsAgeLegal := by
  intro s t h ht
  exact (Safe.step (M := False) (A := True) ⟨False.elim, fun _ => h⟩ t ht).2 trivial


end Sys2Proof.Machine
end
